-- ==== Sys2Proof/Word.lean ====
section
/-! DEFINITION. The word of the adapter: 16 bits, bit 0 the least significant (00_scope.md 0.6). -/

namespace Sys2Proof

/-- A word is 16 bits (00_scope.md 0.6). -/
abbrev Word := BitVec 16

end Sys2Proof
end

