-- ==== Sys2Proof/Syntax.lean ====
section
/-! DEFINITION. The commands of the adapter: one constructor for each row of spec/opcode_table.json, in the
table's order. The table names no fields; the operands are what the spec says the event carries: the words of
an element or a record, the content words of a frame, the position of a record, the state of a pin. -/

namespace Sys2Proof

/-- The twelve command words 0..11 of an element as the fetch read them (R44, 11.3). -/
structure Element where
  w0 : Word
  w1 : Word
  w2 : Word
  w3 : Word
  w4 : Word
  w5 : Word
  w6 : Word
  w7 : Word
  w8 : Word
  w9 : Word
  w10 : Word
  w11 : Word
  deriving DecidableEq, Repr

/-- Header words 2 to 8 of a setup record, in record order (R179, 11.5). -/
structure SetupHeader where
  interleave : Word
  retryLimit : Word
  tenure : Word
  urgency : Word
  options : Word
  privSize : Word
  commSize : Word
  deriving DecidableEq, Repr

/-- A four-word descriptor image (R22, R40, 11.5). -/
structure Image where
  w0 : Word
  w1 : Word
  w2 : Word
  w3 : Word
  deriving DecidableEq, Repr

/-- The two device words the host may only read (R172). -/
inductive ReadOnlyWord where
  | state
  | attention
  deriving DecidableEq, Repr

/-- How a SEEK exchange of the peer ended (R132, R117). -/
inductive SeekAnswer where
  | accepted
  | busy
  | notReady
  /-- no valid answer -/
  | silent
  deriving DecidableEq, Repr

/-- The peer's order frames that the row PEER_ORDER_HEARD names (R121). -/
inductive PeerOrder where
  | read
  | write
  | writeData
  | sense
  deriving DecidableEq, Repr

/-- How long the line has been quiet at a moment, in quanta, as far as a start asks (R115, R116; log 5). -/
structure LineTime where
  /-- since the line came free: since its last word, or since the end of the last exchange where that came later -/
  free : Nat
  /-- since the last word of the last failed frame heard -/
  sinceFailed : Nat
  deriving DecidableEq, Repr

/-- What comes with a slot event that a pulse makes. -/
structure Pulse where
  /-- a first order falling due at this slot event is taken before its expiry, the line being quiet for the time given
  (R76, R115) -/
  orderFirst : Option LineTime
  /-- the frames of an order of this adapter are still going out (R116) -/
  sending : Bool
  deriving DecidableEq, Repr

/-- The commands: one constructor for each row of the table. -/
inductive Instr where
  /-- power is applied; the station strap and the READY line as they are read (R113, R162) -/
  | powerUpReset (strap ready : Bool)
  /-- the host bus reset line; `reached` is how many words a host-memory write under way has written (R177) -/
  | ioReset (reached : Nat)
  | addressWrite (value : Word)
  | ignoredWrite (target : ReadOnlyWord) (value : Word)
  | maskWrite (value : Word)
  | attentionRead
  /-- the ACTION word as written (11.2) -/
  | setup (action : Word)
  | startChain (action : Word)
  | abortChain (action : Word)
  | illegalAction (action : Word)
  | setupHeaderRead (header : SetupHeader)
  | setupImagesRead (images : List Image)
  | setupResultWritten
  | dmaTransferStart
  | read (e : Element)
  | write (e : Element)
  | append (e : Element)
  | compare (e : Element)
  | scan (e : Element)
  | holdShared (e : Element)
  | holdExclusive (e : Element)
  | unhold (e : Element)
  | select (e : Element)
  | inspectDescriptor (e : Element)
  | inspectLineRecord (e : Element)
  | inspectPositionRecord (e : Element)
  | setClock (e : Element)
  | maintainOn (e : Element)
  | maintainOff (e : Element)
  | directRead (e : Element)
  | directWrite (e : Element)
  | illegalElement (e : Element)
  | heldElementResume
  | completionWritten
  /-- the words read from host memory (R98) -/
  | bufferLoaded (words : List Word)
  | bufferUnloaded
  | indexPulse (pulse : Pulse)
  | sectorPulse (pulse : Pulse)
  /-- `orderFirst`: as for a pulse -/
  | syntheticSlot (orderFirst : Option LineTime)
  | lateWindowClose
  | spindleLoss
  /-- the place of the request in the queue -/
  | requestExpiry (position : Nat)
  | holdWaitExpiry (position : Nat)
  /-- the place of the entry, the Hold List first and then the pending line -/
  | holdBudgetExpiry (position : Nat)
  | seekTimeout
  | ownTenureExpiry
  | peerTenureExpiry
  /-- the place of the entry on the Hold List -/
  | reclaim (position : Nat)
  | recovery
  | readyFall
  | readyRise
  /-- `peerSeek`: a SEEK exchange of the peer is in progress (R132) -/
  | onCylinderFall (peerSeek : Bool)
  | onCylinderRise
  | todAdvance
  /-- `line`: how long the line has been quiet (R115) -/
  | exchangeStart (line : LineTime)
  | collision (line : LineTime)
  | frameAbandoned (line : LineTime)
  | releaseSent
  /-- `elapsed`: the quanta since the word or the pulse from which the window that closes counts (R116) -/
  | answerWindowClose (elapsed : Nat)
  | driveSilenceLimit (elapsed : Nat)
  /-- the words of the frame heard (R114) -/
  | frameCheckFailed (frame : List Word)
  | stationClash (frame : List Word)
  | accepted
  | busy
  | notReady
  | written
  | writeFault
  | missed
  | wrongCylinder (cylinder : Word)
  /-- the 128 data words and the status word (11.7) -/
  | data (words : List Word) (status : Word)
  /-- the ready and on-cylinder word and the cylinder word (11.7) -/
  | senseReply (flags cylinder : Word)
  /-- `lost`: the drive went DOWN while this exchange was in progress (R166) -/
  | peerSeek (cylinder : Word) (answer : SeekAnswer) (lost : Bool)
  | peerTenureHeard (cylinder revolutions : Word)
  | peerPreemptHeard (slack : Word)
  /-- start block; bit 15 mode, bits 6-0 count -/
  | peerClaimHeard (start range : Word)
  | peerReleaseHeard
  /-- start block; bit 15 written flag, bits 6-0 count -/
  | peerFreeHeard (start range : Word)
  | peerHelloHeard
  | ack
  | clash (revolutions : Word)
  | yield
  | keep
  | grant
  | refuse
  | peerOrderHeard (order : PeerOrder)
  deriving DecidableEq, Repr

end Sys2Proof
end

