-- ==== Sys2Proof/Machine/Bits.lean ====
section
/-! DEFINITION. Fields of a word (11.1: a field is given by its bit positions, bit 15 the most significant), a word
built from fields, and the host addresses of a transfer (R178). -/

namespace Sys2Proof.Machine

/-- The number in the `n` bits of `w` from bit `lo` upward. -/
def field (w : Word) (lo n : Nat) : Nat := w.toNat / 2 ^ lo % 2 ^ n

/-- Bit `i` of `w`. -/
def flag (w : Word) (i : Nat) : Bool := w.getLsbD i

/-- A number placed from bit `lo` upward; a word is the sum of its fields. -/
def put (lo n : Nat) : Nat := n * 2 ^ lo

/-- A flag placed at bit `i`. -/
def putFlag (i : Nat) (b : Bool) : Nat := if b then 2 ^ i else 0

/-- The word of a sum of fields. -/
def word (n : Nat) : Word := BitVec.ofNat 16 n

/-- The bits of `w` outside the positions of `used`: nonzero when a spare bit is 1 (R45, R186). -/
def spareBits (w used : Word) : Bool := w &&& ~~~used != 0

/-- The addresses of a transfer of `n` words: each lies at the address of the word before it plus one, wrapping from
65,535 to 0 (R178). -/
def addressesFrom (a : Word) : Nat → List Word
  | 0 => []
  | n + 1 => a :: addressesFrom (a + 1) n

/-- The words of a transfer, each with its address (R178). -/
def wordsAt (a : Word) : List Word → List (Word × Word)
  | [] => []
  | w :: rest => (a, w) :: wordsAt (a + 1) rest

end Sys2Proof.Machine
end

