-- ==== Sys2Proof/Config.lean ====
section
/-! DEFINITION. The fixed quantities of 00_scope.md 0.5 and of the rules named beside them. The spec
leaves no value open that a command computes, so there is no free value here. -/

namespace Sys2Proof.Config

/-- Cylinders, 0..399 (0.5). -/
abbrev cylinders : Nat := 400
/-- Surfaces, 0..3 (0.5). -/
abbrev heads : Nat := 4
/-- Sector slots per track, 0..19 (0.5). -/
abbrev slots : Nat := 20
/-- Words per sector (0.5). -/
abbrev sectorWords : Nat := 128
/-- Sectors per cylinder (0.5). -/
abbrev cylinderSectors : Nat := 80
/-- Blocks on the volume, 0..31,999 (0.5). -/
abbrev blocks : Nat := 32000
/-- Work Queue capacity (R66). -/
abbrev queuePlaces : Nat := 16
/-- Hold List capacity (R146). -/
abbrev holdPlaces : Nat := 8
/-- Descriptor positions per table (R19). -/
abbrev tablePositions : Nat := 32
/-- Greatest sector count of an element or of a range (R25, R146). -/
abbrev maxCount : Nat := 64

/-- One nominal slot, 1.25 ms, in tenths of a microsecond (R5). -/
abbrev slotTime : Nat := 12500
/-- The late window, a quarter of a nominal slot, in tenths of a microsecond (R8). -/
abbrev lateTime : Nat := 3125
/-- A quantum, 20 microseconds, in tenths of a microsecond (0.5). -/
abbrev quantumTime : Nat := 200
/-- The interval of the time-of-day clock, 100 ms, in tenths of a microsecond (R182). -/
abbrev todTime : Nat := 1000000

/-- The line gap before a start, in quanta (R115). -/
abbrev lineGap : Nat := 2
/-- Quanta the line is held busy after a failed frame (R115). -/
abbrev failedFrameHold : Nat := 5
/-- Answer window of notices, SEEK and SENSE, in quanta (R116). -/
abbrev shortWindow : Nat := 5
/-- Window for the answer of a READ after the start of the ordered slot (R116). -/
abbrev readWindow : Nat := 5
/-- Window for the answer of a WRITE after the start of the ordered slot (R116). -/
abbrev writeWindow : Nat := 48
/-- Window of a READ or WRITE when no pulse begins the ordered slot (R116). -/
abbrev noPulseWindow : Nat := 64

/-- Greatest synthetic-run count (R8). -/
abbrev spindleLimit : Nat := 20
/-- Slot events in SETTLE before the seek timeout (R96). -/
abbrev settleLimit : Nat := 64
/-- Greatest slip count; one more faults (R101). -/
abbrev slipLimit : Nat := 8
/-- Greatest displacement count; one more faults (R105). -/
abbrev displacementLimit : Nat := 3
/-- Collision count that abandons a frame (R123). -/
abbrev collisionLimit : Nat := 8
/-- Drive silences in a row that lose the drive (R126). -/
abbrev silenceLimit : Nat := 3
/-- Revolution events in DOWN before a fresh start (R168). -/
abbrev recoveryLimit : Nat := 4
/-- Revolution events before a REFUSED entry is claimed again (R153). -/
abbrev reclaimLimit : Nat := 4
/-- Where the collision count and the peer seek count are held (R124, R131). -/
abbrev recordLimit : Nat := 255

end Sys2Proof.Config
end

