-- ==== Sys2Proof/Machine/Vocabulary.lean ====
section
/-! DEFINITION. The kinds, states, modes and codes the spec names, and the records built from them that State
holds. Names follow the spec's names in capitals. -/

namespace Sys2Proof.Machine

/-- R174. -/
inductive AdapterState where
  | unconfigured | running | maintenance | silenced
  deriving DecidableEq, Repr

/-- Refusal codes 0..18 (R173, 11.2). -/
inductive RefusalCode where
  | none | notConfigured | silenced | slotBusy | notRunning | busy | illegalAction
  | interleave | retryLimit | tenure | urgencyMargin | privSize | commSize
  | logInCommon | beyondVolume | fillMark | wrapOnNonLog | wrappedEverOnNonLog | unassignedValue
  deriving DecidableEq, Repr

/-- The twelve event bits in their places 0..11 of ATTENTION (R175, 11.2); CHAIN n is bit n. -/
inductive Attention where
  | chain (n : Fin 4)
  | fault | changed | volume | peer | line | drive | refused | setup
  deriving DecidableEq, Repr

/-- R41. -/
inductive ChainState where
  | idle | running | stopping | ended
  deriving DecidableEq, Repr

/-- The six chain flags (R41, R52); the same shape holds an element's six outcome bits (R50). -/
structure ChainFlags where
  f : Bool
  m : Bool
  l : Bool
  c : Bool
  s : Bool
  p : Bool
  deriving DecidableEq, Repr

/-- The two descriptor tables (R19). -/
inductive Table where
  | priv | common
  deriving DecidableEq, Repr

/-- A selector: table, index 0..31, requested level 0..3 (R24). -/
structure Selector where
  table : Table
  index : Nat
  level : Nat
  deriving DecidableEq, Repr

/-- Hold modes (R146). -/
inductive Mode where
  | shared | exclusive
  deriving DecidableEq, Repr

/-- The kinds of request (R66). -/
inductive RequestKind where
  | read | write | append | compare | scan | directRead | directWrite
  deriving DecidableEq, Repr

/-- What an INSPECT names (R59). -/
inductive InspectTarget where
  | descriptor | lineRecord | positionRecord
  deriving DecidableEq, Repr

/-- Element kinds (11.3); `unassigned` stands for kind codes 0 and 15. -/
inductive ElementKind where
  | disk (k : RequestKind)
  | hold (m : Mode)
  | unhold
  | select
  | inspect (t : InspectTarget)
  | setClock
  | maintain
  | unassigned
  deriving DecidableEq, Repr

/-- The five statuses (R50). -/
inductive Status where
  | done | skipped | expired | aborted | fault
  deriving DecidableEq, Repr

/-- The sixteen fault kinds (11.4). -/
inductive ElementFault where
  | illegalElement | nullSelector | indexLimit | emptyDescriptor | level | kind | offsetLimit | extentLimit
  | noHold | dataCheck | writeFault | positionerLost | driveDown | line | hostOverrun | silenced
  deriving DecidableEq, Repr

/-- What the adapter keeps of a fetched element until its completion: its chain, its address and the options
that bear on chain progress (R44, R49, R53). -/
structure ElemInfo where
  chain : Fin 4
  addr : Word
  kind : ElementKind
  last : Bool
  stream : Bool
  carryPast : Bool
  deriving DecidableEq, Repr

/-- An element waiting for room in the Work Queue (R48). -/
structure HeldElement where
  info : ElemInfo
  words : Element
  deriving DecidableEq, Repr

/-- The fetch-wait reasons, each set and cleared on its own (R49). -/
structure FetchWait where
  queueFull : Bool
  holdWaiting : Bool
  unholdWaiting : Bool
  maintenance : Bool
  deriving DecidableEq, Repr

/-- A chain record (R41); `endNoted` is the END noted at a completion (R51, R55). -/
structure Chain where
  state : ChainState
  level : Nat
  next : Word
  selector : Selector
  flags : ChainFlags
  inFlight : Nat
  held : Option HeldElement
  wait : FetchWait
  fetchDue : Bool
  endNoted : Bool
  deriving DecidableEq, Repr

/-- Four like things numbered 0..3. -/
structure Four (α : Type) where
  n0 : α
  n1 : α
  n2 : α
  n3 : α
  deriving DecidableEq, Repr

/-- Descriptor kinds (R20). -/
inductive DescriptorKind where
  | empty | fixed | working | log
  deriving DecidableEq, Repr

/-- A descriptor (R19, R32). -/
structure Descriptor where
  kind : DescriptorKind
  level : Nat
  base : Nat
  limit : Nat
  wrap : Bool
  fill : Nat
  accessed : Bool
  written : Bool
  changed : Bool
  wrappedEver : Bool
  reserved : Nat
  owner : Option Nat
  deriving DecidableEq, Repr

/-- The Extent Check's state (R19). -/
structure Extents where
  privSize : Nat
  commSize : Nat
  priv : List Descriptor
  comm : List Descriptor
  deriving DecidableEq, Repr

/-- Request states (R67). -/
inductive RequestState where
  | holdWait | ready | blocked | active | ending
  deriving DecidableEq, Repr

/-- Where a sector lies: cylinder, head, physical slot (R1, R2). -/
structure Target where
  cylinder : Nat
  head : Nat
  slot : Nat
  deriving DecidableEq, Repr

/-- The late action of a disk element (11.3). -/
inductive LateAction where
  | drop | carryOn
  deriving DecidableEq, Repr

/-- A request record (R66). `id` is the model's name for the record. `firstBlock` is the block of sector 0; of an
APPEND not started it is not used, the fill mark giving the place (R34). `direct` is used by DIRECT kinds only. -/
structure Request where
  id : Nat
  elem : ElemInfo
  kind : RequestKind
  extent : Option (Table × Nat)
  firstBlock : Nat
  direct : Target
  count : Nat
  done : Nat
  buffer : Word
  key : List Word
  budget : Option Nat
  lateAction : LateAction
  started : Bool
  urgent : Bool
  late : Bool
  cost : Nat
  slack : Option Int
  retries : Nat
  displacements : Nat
  slips : Nat
  hold : Option Nat
  changedOut : Bool
  shortOut : Bool
  level : Nat
  state : RequestState
  deriving DecidableEq, Repr

/-- The Work Queue, in admission order (R66). -/
structure WorkQueue where
  records : List Request
  nextId : Nat
  deriving DecidableEq, Repr

/-- Engine phases (R91). -/
inductive Phase where
  | idle | tenureWait | seek | settle | sense | leadWait | exchange
  deriving DecidableEq, Repr

/-- Causes of a slip (R91, R101). -/
inductive SlipCause where
  | none | buffer | line
  deriving DecidableEq, Repr

/-- Buffer states (R98). -/
inductive BufferState where
  | empty | loading | loaded | receiving | unloading
  deriving DecidableEq, Repr

/-- A sector buffer (R98). `owner` is the request it serves; `discarded`: the read under way is not to be used. -/
structure SectorBuffer where
  state : BufferState
  sector : Nat
  words : List Word
  owner : Nat
  discarded : Bool
  deriving DecidableEq, Repr

/-- The Transfer Engine (R91). `leadOpen`: the lead slot of the sector in hand is under way (R100).
`suspendAfter`, `downAfter`: a suspension, the drive's loss, was taken while an exchange is in progress and is
acted on at its end (R97, R112). `maintenanceOver`: MAINTENANCE was left while the DIRECT request in hand was ACTIVE
(R65, R85). -/
structure Engine where
  phase : Phase
  request : Option Nat
  sector : Nat
  target : Target
  settle : Nat
  lastSlip : SlipCause
  leadOpen : Bool
  suspendAfter : Bool
  downAfter : Bool
  maintenanceOver : Bool
  bufA : SectorBuffer
  bufB : SectorBuffer
  deriving DecidableEq, Repr

/-- Entry states (R147). -/
inductive HoldState where
  | pending | claiming | refused | held
  deriving DecidableEq, Repr

/-- Entry origins (R146). -/
inductive Origin where
  | explicit | implicit
  deriving DecidableEq, Repr

/-- A hold entry (R146). `holdElem` is the HOLD element that waits for the entry to become HELD; `unholdElem` the
UNHOLD that waits for its references to end (unhold waiting is set while it is present). -/
structure HoldEntry where
  id : Nat
  start : Nat
  count : Nat
  mode : Mode
  chain : Fin 4
  origin : Origin
  state : HoldState
  claimed : Bool
  written : Bool
  silent : Bool
  refs : Nat
  budget : Option Nat
  refusalRevs : Nat
  holdElem : Option (ElemInfo × Table × Nat)
  unholdElem : Option (ElemInfo × Table × Nat)
  deriving DecidableEq, Repr

/-- The Hold List and the pending line, in creation order (R146). -/
structure HoldManager where
  list : List HoldEntry
  line : List HoldEntry
  nextId : Nat
  deriving DecidableEq, Repr

/-- The own tenure (R131). -/
inductive OwnTenure where
  | none
  | asking (cylinder : Nat)
  | holding (cylinder revolutions : Nat)
  | ending (cylinder revolutions : Nat)
  deriving DecidableEq, Repr

/-- A peer tenure record that is HOLDING (R131); no cylinder is UNKNOWN. -/
structure PeerTenure where
  cylinder : Option Nat
  revolutions : Nat
  deriving DecidableEq, Repr

/-- Peer presence (R127). -/
inductive Presence where
  | unknown | present | absent
  deriving DecidableEq, Repr

/-- The Tenure Manager (R131). -/
structure TenureManager where
  own : OwnTenure
  peer : Option PeerTenure
  cylinder : Option Nat
  moving : Bool
  presence : Presence
  courtesy : Bool
  preemptMark : Bool
  peerSeeks : Nat
  deriving DecidableEq, Repr

/-- The frames an adapter offers to its Line Unit (R120). A TENURE's revolutions are formed when it starts (R134);
a WRITE's data is the LOADED buffer's when it starts (R100). -/
inductive FrameBody where
  | seek (cylinder : Nat)
  | read (t : Target)
  | write (t : Target)
  | sense
  | tenure (cylinder : Nat)
  | preempt (slack : Int)
  | claim (entry start count : Nat) (mode : Mode)
  | release
  | free (start count : Nat) (written : Bool)
  | hello
  deriving DecidableEq, Repr

/-- A pending frame with its counts (R120, R122, R125); `reset` marks a reset notice (R129). -/
structure Frame where
  body : FrameBody
  collisions : Nat
  silences : Nat
  reset : Bool
  deriving DecidableEq, Repr

/-- The adapter's own exchange in progress (R115). `request` is the engine's request at the start of an order.
`slotBegun`: the ordered slot has begun; `earlyOver`: the window of the early answers has closed (R116).
`cylinderFell`: ON CYLINDER fell meanwhile (R132). `lost`: the drive went DOWN meanwhile (R166). `discarded`: its
answer is not taken (R128, R129). -/
structure Exchange where
  frame : Frame
  request : Option Nat
  slotBegun : Bool
  earlyOver : Bool
  cylinderFell : Bool
  lost : Bool
  discarded : Bool
  deriving DecidableEq, Repr

/-- An exchange of the peer in progress (R115, R121): of an order, or (none) of a notice that this adapter leaves
unanswered (R129). -/
structure PeerExchange where
  order : Option PeerOrder
  slotBegun : Bool
  earlyOver : Bool
  deriving DecidableEq, Repr

/-- The Line Unit. `failedHeard`: a failed frame has been heard since this adapter's last start (R115). `lastCollided`
is a kind code of 11.7, 0 for none (R124). -/
structure LineUnit where
  station : Bool
  frames : List Frame
  exchange : Option Exchange
  peerExchange : Option PeerExchange
  peerSeekFell : Bool
  backoff : Nat
  failedHeard : Bool
  collisionCount : Nat
  lastCollided : Nat
  armed : Bool
  deriving DecidableEq, Repr

/-- Drive states (R162). -/
inductive DriveState where
  | up | down | resync
  deriving DecidableEq, Repr

/-- Resync stages (R162). -/
inductive ResyncStage where
  | awaitingIndex | counting
  deriving DecidableEq, Repr

/-- The Rotation and Drive Monitor (R5, R162). The slot counter is none when UNSYNCED. `timer` and `lateLeft` are
in tenths of a microsecond; the late window is open while `lateLeft` is above 0. `lateSubstitute`: the synthetic
slot that opened the window was a substitute revolution event (R9). `slotSynthetic`: the mark that went with the latest
slot event, saying whether it was a synthetic slot (R11). -/
structure Monitor where
  counter : Option Nat
  timer : Nat
  synthRun : Nat
  revCount : Nat
  lateLeft : Nat
  lateSubstitute : Bool
  ready : Bool
  onCylinder : Bool
  drive : DriveState
  recovery : Nat
  resync : ResyncStage
  silence : Nat
  slotSynthetic : Bool
  deriving DecidableEq, Repr

/-- What has come to the clock since the last slot event: no load and no advance, a load and no advance since, or an
advance. The model's own, to know an advance due at the moment of a load (R182; log 49). -/
inductive TodMoment where
  | past | loaded | advanced
  deriving DecidableEq, Repr

/-- The time-of-day clock (R182); `left` is the time to the next advance in tenths of a microsecond. -/
structure Tod where
  running : Bool
  hours : Nat
  minutes : Nat
  seconds : Nat
  tenths : Nat
  left : Nat
  moment : TodMoment
  deriving DecidableEq, Repr

/-- A TOD stamp (R183). -/
structure Stamp where
  unset : Bool
  hours : Nat
  minutes : Nat
  seconds : Nat
  tenths : Nat
  deriving DecidableEq, Repr

/-- The setup in force (R180). -/
structure Setup where
  interleave : Nat
  retryLimit : Nat
  tenure : Nat
  urgency : Nat
  maintenance : Bool
  deriving DecidableEq, Repr

/-- A setup in progress (R179, R181): its address, the header once read, and what was decided. -/
structure SetupProgress where
  address : Word
  header : Option SetupHeader
  code : RefusalCode
  place : Option (Table × Nat)
  deriving DecidableEq, Repr

/-- How a FAULT changes the chain's flags: by the table of R52, or F alone (R45, R57). -/
inductive FlagEffect where
  | byKind | onlyF
  deriving DecidableEq, Repr

/-- A completion on its way to host memory (R50, R51). `asksNext`: the next fetch is asked at its completion (R49).
`newDefault`: the selector a SELECT sets (R58). `endsHoldWait`, `endsUnholdWait`: it ends that fetch-wait reason. -/
structure Completion where
  info : ElemInfo
  status : Status
  fault : Option ElementFault
  bits : ChainFlags
  done : Nat
  place : Option (Table × Nat)
  stamp : Stamp
  effect : FlagEffect
  asksNext : Bool
  newDefault : Option Selector
  endsHoldWait : Bool
  endsUnholdWait : Bool
  deriving DecidableEq, Repr

/-- The two sector buffers. -/
inductive BufferName where
  | a | b
  deriving DecidableEq, Repr

/-- A DMA transfer (R177). -/
inductive Transfer where
  | load (buf : BufferName) (addr : Word)
  | unload (buf : BufferName) (addr : Word)
  | completion (c : Completion)
  | image (addr : Word) (words : List Word)
  | setupResult
  | fetch (n : Fin 4)
  | setupHeader
  | setupImages
  deriving DecidableEq, Repr

/-- The Host Port (10.6). SUMMARY and the interrupt line are formed from `events` and `mask` (R175).
`heldBack` are completion writes that wait for the sector writes of the request named beside them (R99). -/
structure HostPort where
  address : Word
  adapter : AdapterState
  maintaining : Option (Fin 4)
  refusal : RefusalCode
  events : BitVec 12
  mask : BitVec 12
  progress : Option SetupProgress
  setup : Option Setup
  waiting : List Transfer
  current : Option Transfer
  heldBack : List (Nat × Completion)
  tod : Tod
  deriving DecidableEq, Repr

/-- What a command puts out: a word the host reads, a frame on the line, words written to host memory, each at its
address, a read of host memory begun, with the address of each of its words (R178). -/
inductive Output where
  | hostRead (w : Word)
  | frame (words : List Word)
  | hostWrite (cells : List (Word × Word))
  | hostFetch (addresses : List Word)
  deriving DecidableEq, Repr

end Sys2Proof.Machine
end

