-- ==== Sys2Proof/Machine/State.lean ====
section
/-! DEFINITION. The state of the adapter, block by block (00_scope.md 0.3), the queue of commands that wait, what
the last command put out, and the state after power-up reset. -/

namespace Sys2Proof.Machine

open Sys2Proof

/-- Why the machine stops. Nothing in the spec stops the adapter: there is no case. -/
inductive Fault where
  deriving DecidableEq, Repr

/-- Why a command is refused a meaning. -/
inductive Refusal where
  /-- Answered by exec for a row that has no meaning yet; no row is left without one. Safe. -/
  | notModelled (mnemonic : String)
  deriving DecidableEq, Repr

/-- The whole adapter. -/
structure State where
  hp : HostPort
  chains : Four Chain
  ec : Extents
  wq : WorkQueue
  te : Engine
  hm : HoldManager
  tm : TenureManager
  lu : LineUnit
  rdm : Monitor
  out : List Output
  pending : List Instr
  deriving DecidableEq, Repr

/-- The null selector: table COMMON, index 0 (R21). The requested level 0 that it has as a default selector after reset
and START, which R21 and R41 leave open, is the model's (DESIGN CHOICE: log 50). -/
def nullSelector : Selector := ⟨.common, 0, 0⟩

/-- Every flag clear. -/
def clearFlags : ChainFlags := ⟨false, false, false, false, false, false⟩

/-- No fetch-wait reason. -/
def noWait : FetchWait := ⟨false, false, false, false⟩

/-- A chain record after a reset (R41). -/
def Chain.reset : Chain :=
  ⟨.idle, 0, 0, nullSelector, clearFlags, 0, none, noWait, false, false⟩

/-- An EMPTY descriptor (R19). -/
def Descriptor.empty : Descriptor :=
  ⟨.empty, 0, 0, 0, false, 0, false, false, false, false, 0, none⟩

/-- The tables after a reset (R23). -/
def Extents.reset : Extents :=
  ⟨0, 0, List.replicate Config.tablePositions .empty, List.replicate Config.tablePositions .empty⟩

/-- An EMPTY sector buffer (R98). -/
def SectorBuffer.empty : SectorBuffer := ⟨.empty, 0, [], 0, false⟩

/-- The engine after a reset (R91). -/
def Engine.reset : Engine :=
  ⟨.idle, none, 0, ⟨0, 0, 0⟩, 0, .none, false, false, false, false, .empty, .empty⟩

/-- The Tenure Manager after a reset (R131). -/
def TenureManager.reset : TenureManager :=
  ⟨.none, none, none, false, .unknown, false, false, 0⟩

/-- The Line Unit after power-up reset (R113, R124, R129). -/
def LineUnit.powerUp (station : Bool) : LineUnit :=
  ⟨station, [], none, none, false, 0, false, 0, 0, true⟩

/-- The monitor after a reset: time-source state by R5, drive state from the READY line by R162. -/
def Monitor.reset (ready onCylinder : Bool) : Monitor :=
  ⟨none, Config.slotTime, 0, 0, 0, false, ready, onCylinder,
    if ready then .resync else .down, 0, .awaitingIndex, 0, false⟩

/-- The clock after power-up reset: STOPPED and UNSET at 00:00:00.0 (R182). -/
def Tod.powerUp : Tod := ⟨false, 0, 0, 0, 0, Config.todTime, .past⟩

/-- The Host Port after a reset (10.6); the clock is given, since I/O reset keeps it. -/
def HostPort.reset (tod : Tod) : HostPort :=
  ⟨0, .unconfigured, none, .none, 0, 0, none, none, [], none, [], tod⟩

/-- The adapter after power-up reset with the strap and the READY line as given, and commands `q` waiting. -/
def State.powerUp (strap ready : Bool) (q : List Instr) : State where
  hp := .reset .powerUp
  chains := ⟨.reset, .reset, .reset, .reset⟩
  ec := .reset
  wq := ⟨[], 0⟩
  te := .reset
  hm := ⟨[], [], 0⟩
  tm := .reset
  lu := .powerUp strap
  rdm := .reset ready false
  out := []
  pending := q

/-- The machine right after power-up reset. DESIGN CHOICE (log 1): the strap is open (station 0) and READY is low. -/
def State.reset : State := .powerUp false false []

end Sys2Proof.Machine
end

