-- ==== Sys2Proof/Machine/Geometry.lean ====
section
/-! DEFINITION. Block arithmetic, interleave, seek estimate, rotational wait, cost, span and budget (Section 1),
as plain functions of numbers. -/

namespace Sys2Proof.Machine

open Sys2Proof

/-- Cylinder of a block (R1). -/
def cylinderOf (b : Nat) : Nat := b / 80

/-- Head of a block (R1). -/
def headOf (b : Nat) : Nat := b % 80 / 20

/-- Logical sector of a block (R1). -/
def logicalOf (b : Nat) : Nat := b % 20

/-- Physical slot of logical sector `l` under interleave `i` (R2). -/
def slotOfLogical (i l : Nat) : Nat := l * i % 20

/-- Where a block lies (R1, R2). -/
def targetOf (i b : Nat) : Target := ⟨cylinderOf b, headOf b, slotOfLogical i (logicalOf b)⟩

/-- The interleave factors a setup may name (R2, R179). -/
def interleaveAllowed (i : Nat) : Bool := [1, 3, 7, 9, 11, 13, 17, 19].contains i

/-- The distance of R12; an UNKNOWN positioner counts as 399. -/
def seekDistance (positioner : Option Nat) (c : Nat) : Nat :=
  match positioner with
  | none => 399
  | some p => (c - p) + (p - c)

/-- The seek estimate k of R12. -/
def seekEstimate (positioner : Option Nat) (c : Nat) : Nat :=
  let d := seekDistance positioner c
  if d = 0 then 0 else 6 + (d + 9) / 10

/-- The lead slot of slot `p` (R13). -/
def leadSlot (p : Nat) : Nat := (p + 19) % 20

/-- The rotational wait w of R14 for slot `p`, with seek estimate `k`; 20 while the counter is UNSYNCED. -/
def rotationalWait (counter : Option Nat) (k p : Nat) : Nat :=
  match counter with
  | none => 20
  | some s => (p + 39 - (s + k) % 20) % 20 + 1

/-- The cost of R15 for a sector at `t`. -/
def costAt (positioner counter : Option Nat) (t : Target) : Nat :=
  let k := seekEstimate positioner t.cylinder
  k + rotationalWait counter k t.slot

/-- The span of R16 for `m` sectors still to transfer. -/
def span (i m : Nat) : Nat := (m - 1) * i + 1

/-- The budget in slots of a budget field of `m` milliseconds (R17). -/
def budgetOf (m : Nat) : Option Nat :=
  if m = 0 then none else some (max 1 (m * 4 / 5))

/-- Slacks compare as numbers, and NONE comes after every number (R18). -/
def slackLt : Option Int → Option Int → Bool
  | some a, some b => a < b
  | some _, none => true
  | none, _ => false

/-- The lesser of two slacks, the first on a tie (R18). -/
def slackMin (a b : Option Int) : Option Int := if slackLt b a then b else a

/-- The lesser of an optional number and a number, for "the least" over a list. -/
def leastOf (l : List (Option Int)) : Option Int := l.foldr slackMin none

/-- The next slot of a synchronized counter (R6). -/
def nextSlot (s : Nat) : Nat := (s + 1) % 20

/-- Two ranges share at least one block (R147). -/
def overlap (s₁ n₁ s₂ n₂ : Nat) : Bool := s₁ < s₂ + n₂ && s₂ < s₁ + n₁

/-- Range 1 holds every block of range 2 (R147). -/
def covers (s₁ n₁ s₂ n₂ : Nat) : Bool := s₁ ≤ s₂ && s₂ + n₂ ≤ s₁ + n₁

/-- The mode is enough for the request kind (R147). -/
def modeEnough (m : Mode) (k : RequestKind) : Bool :=
  match m, k with
  | .exclusive, _ => true
  | .shared, .read => true
  | .shared, .compare => true
  | .shared, .scan => true
  | .shared, _ => false

end Sys2Proof.Machine
end

