-- ==== Sys2Proof/Machine/Ops.lean ====
section
/-! DEFINITION. The named operations the blocks' rules are built from: one updater for each block of State, and the
small acts that one block asks of another (raise an attention, ask a DMA transfer, offer a frame, look a record
up). Every block's own rules stand in the file of that block and use only these. -/

namespace Sys2Proof.Machine

open Sys2Proof

/-! Updaters, one for each block. -/

def State.onHp (s : State) (f : HostPort → HostPort) : State := { s with hp := f s.hp }
def State.onChains (s : State) (f : Four Chain → Four Chain) : State := { s with chains := f s.chains }
def State.onEc (s : State) (f : Extents → Extents) : State := { s with ec := f s.ec }
def State.onWq (s : State) (f : WorkQueue → WorkQueue) : State := { s with wq := f s.wq }
def State.onTe (s : State) (f : Engine → Engine) : State := { s with te := f s.te }
def State.onHm (s : State) (f : HoldManager → HoldManager) : State := { s with hm := f s.hm }
def State.onTm (s : State) (f : TenureManager → TenureManager) : State := { s with tm := f s.tm }
def State.onLu (s : State) (f : LineUnit → LineUnit) : State := { s with lu := f s.lu }
def State.onRdm (s : State) (f : Monitor → Monitor) : State := { s with rdm := f s.rdm }

/-- Puts one thing out. -/
def State.emit (s : State) (o : Output) : State := { s with out := s.out ++ [o] }

/-- Puts several things out. -/
def State.appendOut (s : State) (l : List Output) : State := { s with out := s.out ++ l }

/-- A command begins: what the command before it put out is gone (log 17). -/
def State.begin (s : State) : State := { s with out := [] }

/-! Four like things. -/

/-- The `n`-th of four. -/
def Four.get {α : Type} (x : Four α) (n : Fin 4) : α :=
  match n with
  | 0 => x.n0
  | 1 => x.n1
  | 2 => x.n2
  | 3 => x.n3

/-- The `n`-th of four replaced. -/
def Four.set {α : Type} (x : Four α) (n : Fin 4) (a : α) : Four α :=
  match n with
  | 0 => { x with n0 := a }
  | 1 => { x with n1 := a }
  | 2 => { x with n2 := a }
  | 3 => { x with n3 := a }

/-- The chain record of slot `n` (R41). -/
def State.chain (s : State) (n : Fin 4) : Chain := s.chains.get n

/-- Changes the chain record of slot `n`. -/
def State.onChain (s : State) (n : Fin 4) (f : Chain → Chain) : State :=
  s.onChains fun x => x.set n (f (x.get n))

/-! Host Port. -/

/-- The place of an event bit in ATTENTION (11.2). -/
def Attention.bit : Attention → Nat
  | .chain n => n.val
  | .fault => 4
  | .changed => 5
  | .volume => 6
  | .peer => 7
  | .line => 8
  | .drive => 9
  | .refused => 10
  | .setup => 11

/-- An attention is raised: its event bit is set whatever the mask holds (R175). -/
def State.raise (s : State) (a : Attention) : State :=
  s.onHp fun h => { h with events := h.events ||| BitVec.twoPow 12 a.bit }

/-- SUMMARY, and with it the interrupt line: some event bit is set whose mask bit is set (R175). -/
def HostPort.summary (h : HostPort) : Bool := h.events &&& h.mask != 0

/-- The last refusal code takes a code (R173). -/
def State.refuse (s : State) (c : RefusalCode) : State := s.onHp fun h => { h with refusal := c }

/-- A DMA transfer is asked: it joins the waiting ones behind those asked before (R177). -/
def State.askTransfer (s : State) (t : Transfer) : State :=
  s.onHp fun h => { h with waiting := h.waiting ++ [t] }

/-- A waiting transfer is withdrawn (R177). -/
def State.withdrawTransfer (s : State) (t : Transfer) : State :=
  s.onHp fun h => { h with waiting := h.waiting.filter (· != t) }

/-- The transfer under way has ended (R177). -/
def State.endTransfer (s : State) : State := s.onHp fun h => { h with current := none }

/-- The settings in force (R180); before any setup nothing is translated, queued or announced (R3), and the least
settings stand in (log 29). -/
def State.cfg (s : State) : Setup := s.hp.setup.getD ⟨1, 0, 1, 0, false⟩

/-- The TOD stamp of this moment (R183). -/
def Tod.stamp (t : Tod) : Stamp := ⟨!t.running, t.hours, t.minutes, t.seconds, t.tenths⟩

/-- One tenth of a second passes on a running clock (R182). -/
def Tod.advance (t : Tod) : Tod :=
  if !t.running then t
  else
    let t := { t with left := Config.todTime, moment := .advanced }
    if t.tenths + 1 < 10 then { t with tenths := t.tenths + 1 }
    else if t.seconds + 1 < 60 then { t with tenths := 0, seconds := t.seconds + 1 }
    else if t.minutes + 1 < 60 then { t with tenths := 0, seconds := 0, minutes := t.minutes + 1 }
    else if t.hours + 1 < 24 then { t with tenths := 0, seconds := 0, minutes := 0, hours := t.hours + 1 }
    else { t with tenths := 0, seconds := 0, minutes := 0, hours := 0 }

/-- An advance falls (R182). With no slot event since a load it is the advance that was due with the load, which has
replaced the fields and restarted the interval: the fields stay (log 49). -/
def Tod.due (t : Tod) : Tod :=
  if t.running && t.moment = .loaded then { t with moment := .advanced } else t.advance

/-- A SET CLOCK loads the four fields, starts the clock and restarts the interval (R60, R182). An advance taken since
the last slot event leaves none due with the load (log 49). -/
def Tod.load (t : Tod) (hours minutes seconds tenths : Nat) : Tod :=
  ⟨true, hours, minutes, seconds, tenths, Config.todTime, if t.moment = .advanced then .advanced else .loaded⟩

/-- Time has passed: what came to the clock before does not fall together with what comes next (log 49). -/
def Tod.pass (t : Tod) : Tod := { t with moment := .past }

/-! Extent Check. -/

/-- The size of a table (R19). -/
def Extents.size (x : Extents) : Table → Nat
  | .priv => x.privSize
  | .common => x.commSize

/-- The descriptor at a place; outside the 32 positions there is none, as at an EMPTY one. -/
def Extents.get (x : Extents) (t : Table) (i : Nat) : Descriptor :=
  match t with
  | .priv => x.priv.getD i .empty
  | .common => x.comm.getD i .empty

/-- Changes the descriptor at a place. -/
def Extents.modify (x : Extents) (t : Table) (i : Nat) (f : Descriptor → Descriptor) : Extents :=
  match t with
  | .priv => { x with priv := x.priv.modify i f }
  | .common => { x with comm := x.comm.modify i f }

/-- Changes the descriptor at a place. -/
def State.onDescriptor (s : State) (t : Table) (i : Nat) (f : Descriptor → Descriptor) : State :=
  s.onEc fun x => x.modify t i f

/-! Work Queue. -/

/-- The record of a name, if it stands in the queue. -/
def WorkQueue.find (q : WorkQueue) (id : Nat) : Option Request := q.records.find? fun r => r.id == id

/-- Changes the record of a name at its place (R66). -/
def WorkQueue.modify (q : WorkQueue) (id : Nat) (f : Request → Request) : WorkQueue :=
  { q with records := q.records.map fun r => if r.id == id then f r else r }

/-- Changes the record of a name at its place. -/
def State.onRequest (s : State) (id : Nat) (f : Request → Request) : State :=
  s.onWq fun q => q.modify id f

/-- The record leaves the queue; those behind it keep their order (R71). -/
def State.dropRequest (s : State) (id : Nat) : State :=
  s.onWq fun q => { q with records := q.records.filter fun r => r.id != id }

/-- The ACTIVE or ENDING record the engine works on (R91). -/
def State.activeRequest (s : State) : Option Request :=
  match s.te.request with
  | none => none
  | some id => s.wq.find id

/-- Changes the record the engine works on. -/
def State.onActive (s : State) (f : Request → Request) : State :=
  match s.te.request with
  | none => s
  | some id => s.onRequest id f

/-- Queued: HOLD-WAIT, READY or BLOCKED (R67). -/
def Request.queued (r : Request) : Bool := r.state == .holdWait || r.state == .ready || r.state == .blocked

/-- A DIRECT request (R64). -/
def Request.isDirect (r : Request) : Bool := r.kind == .directRead || r.kind == .directWrite

/-! Hold Manager. -/

/-- The entry of a name, wherever it stands (R146). -/
def HoldManager.find (h : HoldManager) (id : Nat) : Option HoldEntry :=
  (h.list ++ h.line).find? fun e => e.id == id

/-- Changes the entry of a name where it stands. -/
def HoldManager.modify (h : HoldManager) (id : Nat) (f : HoldEntry → HoldEntry) : HoldManager :=
  { h with
    list := h.list.map fun e => if e.id == id then f e else e
    line := h.line.map fun e => if e.id == id then f e else e }

/-- Changes the entry of a name where it stands. -/
def State.onEntry (s : State) (id : Nat) (f : HoldEntry → HoldEntry) : State :=
  s.onHm fun h => h.modify id f

/-! Line Unit. -/

/-- A frame is offered, behind those offered before (R120); a SILENCED adapter offers none (R128). -/
def State.offer (s : State) (b : FrameBody) : State :=
  if s.hp.adapter = .silenced then s
  else s.onLu fun l => { l with frames := l.frames ++ [⟨b, 0, 0, false⟩] }

/-- The pending frames that `p` picks are withdrawn with their counts (R120). -/
def State.withdraw (s : State) (p : FrameBody → Bool) : State :=
  s.onLu fun l => { l with frames := l.frames.filter fun f => !(p f.body) }

/-- A pending frame that `p` picks. -/
def LineUnit.isPending (l : LineUnit) (p : FrameBody → Bool) : Bool := l.frames.any fun f => p f.body

/-- The own exchange in progress is of a frame that `p` picks, and its answer is to be taken. -/
def LineUnit.inExchange (l : LineUnit) (p : FrameBody → Bool) : Bool :=
  match l.exchange with
  | none => false
  | some x => !x.discarded && p x.frame.body

/-- An order to the drive (6.2). -/
def FrameBody.isOrder : FrameBody → Bool
  | .seek _ => true
  | .read _ => true
  | .write _ => true
  | .sense => true
  | _ => false

/-- A READ or WRITE order. -/
def FrameBody.isTransfer : FrameBody → Bool
  | .read _ => true
  | .write _ => true
  | _ => false

/-- A SEEK order. -/
def FrameBody.isSeek : FrameBody → Bool
  | .seek _ => true
  | _ => false

/-- A SENSE order. -/
def FrameBody.isSense : FrameBody → Bool
  | .sense => true
  | _ => false

/-- A TENURE notice. -/
def FrameBody.isTenure : FrameBody → Bool
  | .tenure _ => true
  | _ => false

/-- A PREEMPT notice. -/
def FrameBody.isPreempt : FrameBody → Bool
  | .preempt _ => true
  | _ => false

/-- A RELEASE notice. -/
def FrameBody.isRelease : FrameBody → Bool
  | .release => true
  | _ => false

/-- A HELLO notice. -/
def FrameBody.isHello : FrameBody → Bool
  | .hello => true
  | _ => false

/-- The CLAIM of an entry. -/
def FrameBody.isClaimOf (id : Nat) : FrameBody → Bool
  | .claim e _ _ _ => e == id
  | _ => false

end Sys2Proof.Machine
end

