-- ==== Sys2Proof/Machine/Flags.lean ====
section
/-! DEFINITION. Run conditions (R46), outcome bits (R50) and the update of a chain's flags (R52). -/

namespace Sys2Proof.Machine

/-- A run condition by its code, on the chain's flags; codes 14 and 15 have no condition (R46, 11.3). -/
def runCondition (code : Nat) (g : ChainFlags) : Bool :=
  match code with
  | 0 => true
  | 1 => false
  | 2 => !g.f
  | 3 => g.f
  | 4 => g.m
  | 5 => !g.m
  | 6 => !g.l
  | 7 => g.l
  | 8 => !g.c
  | 9 => g.c
  | 10 => !g.s
  | 11 => g.s
  | 12 => !g.p
  | 13 => g.p
  | _ => false

/-- The flags a kind affects, the flags marked with a triangle in the table of R52. -/
def affected : ElementKind → ChainFlags
  | .disk .read => ⟨true, false, true, true, true, true⟩
  | .disk .write => ⟨true, false, true, true, false, true⟩
  | .disk .append => ⟨true, false, true, false, true, false⟩
  | .disk .compare => ⟨true, true, true, true, true, true⟩
  | .disk .scan => ⟨true, true, true, true, true, true⟩
  | .disk .directRead => ⟨true, false, true, false, false, false⟩
  | .disk .directWrite => ⟨true, false, true, false, false, false⟩
  | .hold _ => ⟨true, false, true, false, false, true⟩
  | .unhold => ⟨true, false, false, false, false, false⟩
  | .select => ⟨true, false, false, false, false, false⟩
  | .setClock => ⟨true, false, false, false, false, false⟩
  | .maintain => ⟨true, false, false, false, false, false⟩
  | .inspect _ => ⟨true, false, false, true, false, false⟩
  | .unassigned => ⟨true, false, false, false, false, false⟩

/-- Each affected flag takes its outcome bit; the others stay (R52). -/
def takeBits (g a b : ChainFlags) : ChainFlags where
  f := if a.f then b.f else g.f
  m := if a.m then b.m else g.m
  l := if a.l then b.l else g.l
  c := if a.c then b.c else g.c
  s := if a.s then b.s else g.s
  p := if a.p then b.p else g.p

/-- The chain's flags after a completion (R52): SKIPPED and ABORTED change none; EXPIRED sets L and clears F through
its outcome bits, whatever the kind; the fetch under way at SILENCED and an unassigned kind set F alone. -/
def flagsAfter (g : ChainFlags) (c : Completion) : ChainFlags :=
  match c.status with
  | .skipped => g
  | .aborted => g
  | _ =>
    match c.effect with
    | .onlyF => { g with f := c.bits.f }
    | .byKind => takeBits g (affected c.info.kind) c.bits

/-- The outcome bits of an element (R50): F for FAULT, L for EXPIRED or the LATE mark, and the others as given. -/
def outcomeBits (st : Status) (m late c s p : Bool) : ChainFlags :=
  ⟨st == .fault, m && st == .done, late || st == .expired, c, s, p⟩

/-- The faults whose cause lies in the drive or the line carry the outside bit (R51). -/
def ElementFault.outside : ElementFault → Bool
  | .dataCheck => true
  | .writeFault => true
  | .positionerLost => true
  | .driveDown => true
  | .line => true
  | .silenced => true
  | _ => false

end Sys2Proof.Machine
end

