-- ==== Sys2Proof/Machine/Operands.lean ====
section
/-! DEFINITION. What the operands of the commands say and what the adapter's words say: the fields of an element and
its legal-field check (R45, R186), the setup record (R22, R179, R187), the completion area (R51), the images of
INSPECT (R40, R124, R145), the device words (R174, R175) and the frames of the line (R114, R188, 11.7). -/

namespace Sys2Proof

open Machine

/-! The command element (11.3). -/

/-- Kind code of an element. -/
def Element.kindCode (e : Element) : Nat := field e.w0 12 4
/-- Run condition code. -/
def Element.condition (e : Element) : Nat := field e.w0 8 4
/-- END. -/
def Element.last (e : Element) : Bool := flag e.w0 7
/-- STREAM. -/
def Element.stream (e : Element) : Bool := flag e.w0 6
/-- CARRY PAST FAULT. -/
def Element.carryPast (e : Element) : Bool := flag e.w0 5
/-- The late action. -/
def Element.lateAction (e : Element) : LateAction := if flag e.w0 4 then .carryOn else .drop
/-- USE DEFAULT SELECTOR. -/
def Element.useDefault (e : Element) : Bool := flag e.w0 3
/-- The element's own selector field. -/
def Element.selector (e : Element) : Selector :=
  ⟨if flag e.w1 15 then .common else .priv, field e.w1 8 5, field e.w1 13 2⟩
/-- The offset. -/
def Element.offset (e : Element) : Nat := e.w2.toNat
/-- The count n. -/
def Element.count (e : Element) : Nat := field e.w3 0 7
/-- The key length k. -/
def Element.keyLength (e : Element) : Nat := field e.w3 8 3
/-- The key words 1..k. -/
def Element.key (e : Element) : List Word := [e.w6, e.w7, e.w8, e.w9, e.w10, e.w11].take e.keyLength
/-- The budget field in milliseconds. -/
def Element.budget (e : Element) : Nat := e.w4.toNat
/-- The buffer address. -/
def Element.buffer (e : Element) : Word := e.w5
/-- The cylinder, head and slot of a DIRECT element. -/
def Element.direct (e : Element) : Target := ⟨e.w2.toNat, field e.w3 0 3, field e.w3 8 5⟩
/-- The inspect target's code. -/
def Element.targetCode (e : Element) : Nat := field e.w2 0 2
/-- The clear option of an INSPECT. -/
def Element.clear (e : Element) : Bool := flag e.w2 15
/-- The value of a MAINTAIN: 1 on, 2 off. -/
def Element.maintainValue (e : Element) : Nat := field e.w2 0 2

end Sys2Proof

namespace Sys2Proof.Machine

open Sys2Proof

/-- The bits of words 0..5 that the layout gives content for the kind, or that are not examined (11.3, R59, R186). -/
def usedBits : ElementKind → List Word
  | .disk .read => [0xFFF8, 0xFF00, 0xFFFF, 0x007F, 0xFFFF, 0xFFFF]
  | .disk .write => [0xFFF8, 0xFF00, 0xFFFF, 0x007F, 0xFFFF, 0xFFFF]
  | .disk .append => [0xFFF8, 0xFF00, 0xFFFF, 0x007F, 0xFFFF, 0xFFFF]
  | .disk .compare => [0xFFF8, 0xFF00, 0xFFFF, 0x007F, 0xFFFF, 0xFFFF]
  | .disk .scan => [0xFFF8, 0xFF00, 0xFFFF, 0x077F, 0xFFFF, 0]
  | .disk .directRead => [0xFFF0, 0, 0xFFFF, 0x1F07, 0xFFFF, 0xFFFF]
  | .disk .directWrite => [0xFFF0, 0, 0xFFFF, 0x1F07, 0xFFFF, 0xFFFF]
  | .hold _ => [0xFFE8, 0xFF00, 0xFFFF, 0x007F, 0xFFFF, 0]
  | .unhold => [0xFFE8, 0xFF00, 0xFFFF, 0x007F, 0, 0]
  | .select => [0xFFE8, 0xFF00, 0, 0, 0, 0]
  | .inspect .descriptor => [0xFFE8, 0xFF00, 0x8003, 0, 0, 0xFFFF]
  | .inspect _ => [0xFFE8, 0, 0x8003, 0, 0, 0xFFFF]
  | .setClock => [0xFFE0, 0, 0x1F3F, 0x3F0F, 0, 0]
  | .maintain => [0xFFE0, 0, 0x0003, 0, 0, 0]
  | .unassigned => [0, 0, 0, 0, 0, 0]

/-- No spare bit of words 0..11 is 1 for the kind (R45); words 6..11 have content for SCAN alone. -/
def noSpareBits (k : ElementKind) (e : Element) : Bool :=
  ((usedBits k).zip [e.w0, e.w1, e.w2, e.w3, e.w4, e.w5]).all (fun x => !spareBits x.2 x.1) &&
    (k == .disk .scan || [e.w6, e.w7, e.w8, e.w9, e.w10, e.w11].all (· == 0))

/-- The count is 1..64 where the kind carries one (R45). -/
def countLegal (k : ElementKind) (e : Element) : Bool :=
  match k with
  | .disk .directRead => true
  | .disk .directWrite => true
  | .disk _ => 1 ≤ e.count && e.count ≤ 64
  | .hold _ => 1 ≤ e.count && e.count ≤ 64
  | .unhold => 1 ≤ e.count && e.count ≤ 64
  | _ => true

/-- The remaining checks of R45, kind by kind. -/
def fieldsInRange (k : ElementKind) (e : Element) : Bool :=
  match k with
  | .disk .scan => 1 ≤ e.keyLength && e.keyLength ≤ 6
  | .disk .directRead => e.direct.cylinder ≤ 399 && e.direct.head ≤ 3 && e.direct.slot ≤ 19
  | .disk .directWrite => e.direct.cylinder ≤ 399 && e.direct.head ≤ 3 && e.direct.slot ≤ 19
  | .maintain => e.maintainValue == 1 || e.maintainValue == 2
  | .inspect _ => e.targetCode != 3
  | .unassigned => false
  | _ => true

/-- The legal-field check of R45. -/
def legalFields (k : ElementKind) (e : Element) : Bool :=
  e.condition ≤ 13 && noSpareBits k e && countLegal k e && fieldsInRange k e

/-- The kinds that carry a selector (3.3). -/
def ElementKind.hasSelector : ElementKind → Bool
  | .disk .directRead => false
  | .disk .directWrite => false
  | .disk _ => true
  | .hold _ => true
  | .unhold => true
  | .select => true
  | .inspect .descriptor => true
  | _ => false

/-- The selector an element uses, with the chain's default as it stands (R24); a SELECT's is its own field (R58). -/
def resolveSelector (c : Chain) (k : ElementKind) (e : Element) : Selector :=
  if e.useDefault && k != .select then c.selector else e.selector

/-- The table and index a completion names when its cause names none of its own (R51). -/
def selectorPlace (c : Chain) (k : ElementKind) (e : Element) : Option (Table × Nat) :=
  if k.hasSelector then
    let x := resolveSelector c k e
    some (x.table, x.index)
  else none

/-! The completion area (11.4). -/

/-- Status codes. -/
def Status.code : Status → Nat
  | .done => 0
  | .skipped => 1
  | .expired => 2
  | .aborted => 3
  | .fault => 4

/-- Fault codes. -/
def ElementFault.code : ElementFault → Nat
  | .illegalElement => 1
  | .nullSelector => 2
  | .indexLimit => 3
  | .emptyDescriptor => 4
  | .level => 5
  | .kind => 6
  | .offsetLimit => 7
  | .extentLimit => 8
  | .noHold => 9
  | .dataCheck => 10
  | .writeFault => 11
  | .positionerLost => 12
  | .driveDown => 13
  | .line => 14
  | .hostOverrun => 15
  | .silenced => 16

/-- Table codes. -/
def Table.code : Table → Nat
  | .priv => 0
  | .common => 1

/-- "Table and index present" with the table and the index, as words 13 and the setup result hold them. -/
def placeField : Option (Table × Nat) → Nat
  | none => 0
  | some (t, i) => put 9 1 + put 8 t.code + i % 32

/-- Words 12..15 of the completed element (R51, 11.4). -/
def Completion.words (c : Completion) : List Word :=
  [ word (put 13 c.status.code + put 8 ((c.fault.map (·.code)).getD 0) +
      putFlag 7 ((c.fault.map (·.outside)).getD false) + c.done % 128),
    word (putFlag 15 c.bits.f + putFlag 14 c.bits.m + putFlag 13 c.bits.l + putFlag 12 c.bits.c +
      putFlag 11 c.bits.s + putFlag 10 c.bits.p + placeField c.place),
    word (putFlag 15 c.stamp.unset + put 8 (c.stamp.hours % 32) + c.stamp.minutes % 64),
    word (put 8 (c.stamp.seconds % 64) + c.stamp.tenths % 16) ]

/-! The setup record and descriptor images (11.5). -/

/-- Refusal codes (11.2). -/
def RefusalCode.code : RefusalCode → Nat
  | .none => 0
  | .notConfigured => 1
  | .silenced => 2
  | .slotBusy => 3
  | .notRunning => 4
  | .busy => 5
  | .illegalAction => 6
  | .interleave => 7
  | .retryLimit => 8
  | .tenure => 9
  | .urgencyMargin => 10
  | .privSize => 11
  | .commSize => 12
  | .logInCommon => 13
  | .beyondVolume => 14
  | .fillMark => 15
  | .wrapOnNonLog => 16
  | .wrappedEverOnNonLog => 17
  | .unassignedValue => 18

end Sys2Proof.Machine

namespace Sys2Proof

open Machine

/-- The first header content out of range, in record order (R179, R187). -/
def SetupHeader.check (h : SetupHeader) : Option RefusalCode :=
  if !interleaveAllowed h.interleave.toNat then some .interleave
  else if 7 < h.retryLimit.toNat then some .retryLimit
  else if h.tenure.toNat < 1 || 15 < h.tenure.toNat then some .tenure
  else if 400 < h.urgency.toNat then some .urgencyMargin
  else if spareBits h.options 1 then some .unassignedValue
  else if 32 < h.privSize.toNat then some .privSize
  else if h.commSize.toNat < 1 || 32 < h.commSize.toNat then some .commSize
  else none

/-- The settings a header gives (R180). -/
def SetupHeader.setup (h : SetupHeader) : Setup :=
  ⟨h.interleave.toNat, h.retryLimit.toNat, h.tenure.toNat, h.urgency.toNat, flag h.options 0⟩

/-- P + Q − 1 images follow the header (R22). -/
def SetupHeader.imageCount (h : SetupHeader) : Nat := h.privSize.toNat + h.commSize.toNat - 1

/-- Kind field of an image. -/
def Image.kindCode (i : Image) : Nat := field i.w0 13 3

/-- The condition an image breaks, first in the order of R187 and R22; `t` is the table it stands in. -/
def Image.check (i : Image) (t : Table) : Option RefusalCode :=
  let k := i.kindCode
  let wrap := flag i.w0 10
  let ever := flag i.w0 9
  let base := i.w1.toNat
  let limit := i.w2.toNat
  let fill := i.w3.toNat
  if 4 ≤ k then some .unassignedValue
  else if k ≠ 0 && field i.w0 0 6 ≠ 0 then some .unassignedValue
  else if k = 3 && t == .common then some .logInCommon
  else if k ≠ 0 && 31999 < base + limit then some .beyondVolume
  else if k = 3 && !wrap && limit + 1 < fill then some .fillMark
  else if k = 3 && wrap && limit < fill then some .fillMark
  else if k ≠ 3 && wrap then some .wrapOnNonLog
  else if k ≠ 3 && ever then some .wrappedEverOnNonLog
  else none

/-- The descriptor an image loads (R22, R23). -/
def Image.descriptor (i : Image) : Descriptor :=
  let level := field i.w0 11 2
  match i.kindCode with
  | 1 => ⟨.fixed, level, i.w1.toNat, i.w2.toNat, false, 0, false, false, false, false, 0, none⟩
  | 2 => ⟨.working, level, i.w1.toNat, i.w2.toNat, false, 0, false, false, false, false, 0, none⟩
  | 3 => ⟨.log, level, i.w1.toNat, i.w2.toNat, flag i.w0 10, i.w3.toNat, false, false, false,
      flag i.w0 9, 0, none⟩
  | _ => .empty

end Sys2Proof

namespace Sys2Proof.Machine

open Sys2Proof

/-- Where the images stand in record order: Private 0..P−1, then Common 1..Q−1 (R22). -/
def imagePlaces (p q : Nat) : List (Table × Nat) :=
  (List.range p).map (fun i => (Table.priv, i)) ++ (List.range (q - 1)).map (fun i => (Table.common, i + 1))

/-- The first image at fault in record order, with its place and the condition broken (R22). -/
def firstImageFault : List ((Table × Nat) × Image) → Option (RefusalCode × (Table × Nat))
  | [] => none
  | (p, i) :: rest =>
    match i.check p.1 with
    | some c => some (c, p)
    | none => firstImageFault rest

end Sys2Proof.Machine

namespace Sys2Proof

open Machine

/-- An image of zeros, for an operand that is short (log 26). -/
def Image.zero : Image := ⟨0, 0, 0, 0⟩

end Sys2Proof

namespace Sys2Proof.Machine

open Sys2Proof

/-- The images a record of header `h` holds, each at its place. -/
def placedImages (h : SetupHeader) (images : List Image) : List ((Table × Nat) × Image) :=
  let places := imagePlaces h.privSize.toNat h.commSize.toNat
  places.zip (images ++ List.replicate places.length Image.zero)

/-- A table of 32 positions with the given descriptors at the front and EMPTY behind (R23). -/
def fillTable (l : List Descriptor) : List Descriptor :=
  (l ++ List.replicate Config.tablePositions Descriptor.empty).take Config.tablePositions

/-- The tables an accepted record loads (R23); Common index 0 is the null descriptor (R21). -/
def loadTables (h : SetupHeader) (placed : List ((Table × Nat) × Image)) : Extents where
  privSize := h.privSize.toNat
  commSize := h.commSize.toNat
  priv := fillTable ((placed.filter fun x => x.1.1 == .priv).map fun x => x.2.descriptor)
  comm := fillTable (Descriptor.empty :: (placed.filter fun x => x.1.1 == .common).map fun x => x.2.descriptor)

/-- The setup result word (R181, 11.5). -/
def SetupProgress.resultWord (p : SetupProgress) : Word := word (put 11 p.code.code + placeField p.place)

/-- Kind codes of a descriptor image. -/
def DescriptorKind.code : DescriptorKind → Nat
  | .empty => 0
  | .fixed => 1
  | .working => 2
  | .log => 3

/-- The image INSPECT returns of a descriptor (R40, 11.5). -/
def Descriptor.image (d : Descriptor) : List Word :=
  [ word (put 13 d.kind.code + put 11 d.level + putFlag 10 d.wrap + putFlag 9 d.wrappedEver +
      putFlag 8 d.accessed + putFlag 7 d.written + putFlag 6 d.changed),
    word d.base, word d.limit, word d.fill ]

/-! Line record, position record and device words (11.2, 11.6). -/

/-- Presence codes. -/
def Presence.code : Presence → Nat
  | .unknown => 0
  | .present => 1
  | .absent => 2

/-- Drive state codes. -/
def DriveState.code : DriveState → Nat
  | .up => 0
  | .down => 1
  | .resync => 2

/-- The line record (R124, 11.6). The layout gives three words; the fourth of the four-word image is 0. -/
def lineRecord (s : State) : List Word :=
  [ word s.lu.collisionCount, word s.lu.lastCollided,
    word (putFlag 3 s.lu.station + put 1 s.tm.presence.code + putFlag 0 s.lu.armed), 0 ]

/-- Own tenure state, revolutions left and cylinder as the position record shows them (R145). -/
def OwnTenure.fields : OwnTenure → Nat × Nat × Nat
  | .none => (0, 0, 0)
  | .asking c => (1, 0, c)
  | .holding c r => (2, r, c)
  | .ending c r => (3, r, c)

/-- The peer record's HOLDING bit, revolutions left and cylinder, 511 for UNKNOWN (R145, 11.6). -/
def peerFields : Option PeerTenure → Nat × Nat × Nat
  | none => (0, 0, 0)
  | some p => (1, p.revolutions, p.cylinder.getD 511)

/-- The position record (R145, 11.6). -/
def positionRecord (s : State) : List Word :=
  let o := s.tm.own.fields
  let p := peerFields s.tm.peer
  [ word (put 14 o.1 + put 10 o.2.1 + putFlag 9 s.tm.courtesy + o.2.2),
    word (put 15 p.1 + put 11 p.2.1 + putFlag 10 s.tm.preemptMark + putFlag 9 s.tm.moving + p.2.2),
    word (put 7 (s.tm.cylinder.getD 511) + put 2 (s.rdm.counter.getD 31) + s.rdm.drive.code),
    word (put 8 s.tm.peerSeeks + put 3 s.rdm.synthRun + put 1 s.rdm.silence) ]

/-- Adapter state codes. -/
def AdapterState.code : AdapterState → Nat
  | .unconfigured => 0
  | .running => 1
  | .maintenance => 2
  | .silenced => 3

/-- A chain's running-chain bit in STATE (R41). -/
def Chain.runs (c : Chain) : Bool := c.state == .running || c.state == .stopping

/-- What a read of STATE returns (R174, 11.2). A read changes nothing and has no row in the table (log 27). -/
def stateWord (s : State) : Word :=
  word (put 14 s.hp.adapter.code + putFlag 13 s.lu.station + put 8 s.hp.refusal.code +
    putFlag 7 (s.chain 3).runs + putFlag 6 (s.chain 2).runs + putFlag 5 (s.chain 1).runs +
    putFlag 4 (s.chain 0).runs + putFlag 3 (s.rdm.drive == .up) + put 1 s.tm.presence.code)

/-- What a read of ATTENTION returns: the twelve event bits and SUMMARY (R175, 11.2). -/
def attentionWord (h : HostPort) : Word := word (h.events.toNat + putFlag 15 h.summary)

/-- What a read of ADDRESS, ACTION or MASK returns (R172, R185). -/
def writeOnlyRead : Word := 0

/-- The chain slot an ACTION word names (11.2). -/
def actionSlot (w : Word) : Fin 4 := ⟨w.toNat / 16 % 4, Nat.mod_lt _ (by decide)⟩

/-- The level a START CHAIN names (11.2). -/
def actionLevel (w : Word) : Nat := field w 0 2

/-- The action code of an ACTION word (11.2). -/
def actionCode (w : Word) : Nat := field w 12 4

/-! Frames (R114, R188, 11.7). -/

/-- The 16-bit sum of words, carries discarded (R114). -/
def wordSum (l : List Word) : Word := l.foldl (· + ·) 0

/-- A frame with its check word: the sum of all its words is zero (R114). -/
def withCheck (l : List Word) : List Word := l ++ [0 - wordSum l]

/-- Kind codes (11.7). -/
def FrameBody.code : FrameBody → Nat
  | .seek _ => 1
  | .read _ => 2
  | .write _ => 3
  | .sense => 5
  | .tenure _ => 16
  | .preempt _ => 19
  | .claim _ _ _ _ => 22
  | .release => 25
  | .free _ _ _ => 26
  | .hello => 27

/-- A frame of this adapter: header, content, check word; every spare bit is 0 (R185, R188). -/
def frameWords (station : Bool) (code : Nat) (content : List Word) : List Word :=
  withCheck (word (putFlag 14 station + code) :: content)

/-- The range word of a CLAIM or FREE: a flag in bit 15 and the count (11.7). -/
def rangeWord (b : Bool) (count : Nat) : Word := word (putFlag 15 b + count % 128)

/-- Content words of an offered frame; a TENURE carries the revolutions given (11.7, R134). -/
def FrameBody.content (revolutions : Nat) : FrameBody → List Word
  | .seek c => [word c]
  | .read t => [word t.cylinder, word (put 8 t.slot + t.head)]
  | .write t => [word t.cylinder, word (put 8 t.slot + t.head)]
  | .sense => []
  | .tenure c => [word c, word revolutions]
  | .preempt k => [BitVec.ofInt 16 k]
  | .claim _ b n m => [word b, rangeWord (m == .exclusive) n]
  | .release => []
  | .free b n w => [word b, rangeWord w n]
  | .hello => []

/-- Kind codes of the answers an adapter gives (11.7). -/
inductive AdapterAnswer where
  | ack | clash (revolutions : Nat) | yield | keep | grant | refuse
  deriving DecidableEq, Repr

/-- The words of an answer (11.7). -/
def AdapterAnswer.words (station : Bool) : AdapterAnswer → List Word
  | .ack => frameWords station 17 []
  | .clash r => frameWords station 18 [word r]
  | .yield => frameWords station 20 []
  | .keep => frameWords station 21 []
  | .grant => frameWords station 23 []
  | .refuse => frameWords station 24 []

/-- A cylinder word in range (R114). -/
def cylinderOk (c : Word) : Bool := c.toNat ≤ 399

/-- The range of a CLAIM or FREE: no spare bit, a count of 1..64, not past block 31,999 (R114, R188). -/
def rangeOk (b r : Word) : Bool :=
  !spareBits r 0x807F && 1 ≤ field r 0 7 && field r 0 7 ≤ 64 && b.toNat + field r 0 7 ≤ 32000

/-- A PREEMPT slack in range (R114). -/
def slackOk (k : Word) : Bool := -1264 ≤ k.toInt && k.toInt ≤ -1

/-- The content words of a kind, in number, range and spare bits (R114, R188, 11.7). A kind with no encoding fails. -/
def contentOk (code : Nat) (content : List Word) : Bool :=
  match code, content with
  | 1, [c] => cylinderOk c
  | 2, [c, p] => cylinderOk c && !spareBits p 0x1F07 && field p 8 5 ≤ 19 && field p 0 3 ≤ 3
  | 3, [c, p] => cylinderOk c && !spareBits p 0x1F07 && field p 8 5 ≤ 19 && field p 0 3 ≤ 3
  | 4, l => l.length == 128
  | 5, [] => true
  | 6, [] => true
  | 7, [] => true
  | 8, [] => true
  | 10, [] => true
  | 11, [] => true
  | 12, [] => true
  | 13, [c] => cylinderOk c
  | 14, l => l.length == 129 && (l.getD 128 0).toNat ≤ 1
  | 15, [f, c] => !spareBits f 3 && cylinderOk c
  | 16, [c, r] => cylinderOk c && 1 ≤ r.toNat && r.toNat ≤ 15
  | 17, [] => true
  | 18, [r] => r.toNat ≤ 15
  | 19, [k] => slackOk k
  | 20, [] => true
  | 21, [] => true
  | 22, [b, r] => rangeOk b r
  | 23, [] => true
  | 24, [] => true
  | 25, [] => true
  | 26, [b, r] => rangeOk b r
  | 27, [] => true
  | _, _ => false

/-- The source of a frame: 0 and 1 the adapters, 2 the drive, 3 unassigned (11.7). -/
def frameSource (l : List Word) : Nat := field (l.headD 0) 14 2

/-- The kind code of a frame (11.7). -/
def frameKind (l : List Word) : Nat := field (l.headD 0) 0 5

/-- A frame passes its check, its range tests and its encoding tests (R114, R188). -/
def frameValid (l : List Word) : Bool :=
  2 ≤ l.length && wordSum l == 0 && frameSource l != 3 && !spareBits (l.headD 0) 0xC01F &&
    contentOk (frameKind l) l.tail.dropLast

/-- The kinds adapters send: orders, WRITE DATA, notices and their answers (R114, R188). -/
def adapterKind (code : Nat) : Bool :=
  (1 ≤ code && code ≤ 5) || (16 ≤ code && code ≤ 27)

/-- The kinds only the drive sends: answers to orders (R114, R188). -/
def driveKind (code : Nat) : Bool := 6 ≤ code && code ≤ 15

/-- A frame that passes the tests but is of a kind its source does not send (R188). -/
def mismatched (l : List Word) : Bool :=
  frameValid l && (if frameSource l = 2 then adapterKind (frameKind l) else driveKind (frameKind l))

end Sys2Proof.Machine
end

