-- ==== Sys2Proof/Machine/ExtentCheck.lean ====
section
/-! DEFINITION. The Extent Check (Section 2): the six checks of R25, admission (R31), the LOG fill mark (R32 to R35)
and the marks (R36 to R40). -/

namespace Sys2Proof.Machine

open Sys2Proof

/-- The effective level of an element: the greater of its chain's level and its selector's requested level (R26). -/
def effectiveLevel (c : Chain) (x : Selector) : Nat := max c.level x.level

/-- The kind check of R27; the kinds that do not pass through the Extent Check are allowed nowhere. -/
def kindAllowed (k : ElementKind) (t : Table) (d : DescriptorKind) : Bool :=
  match k with
  | .disk .read => d != .empty
  | .disk .compare => d != .empty
  | .disk .scan => d != .empty
  | .disk .write => d == .working
  | .disk .append => d == .log
  | .hold .shared => t == .common && (d == .fixed || d == .working)
  | .hold .exclusive => t == .common && d == .working
  | .unhold => t == .common && (d == .fixed || d == .working)
  | .inspect .descriptor => d != .empty
  | _ => false

/-- How many leading blocks of the extent may be read: the readable limit of R28 plus one. -/
def Descriptor.readable (d : Descriptor) : Nat :=
  if d.kind == .log && !d.wrappedEver then d.fill else d.limit + 1

/-- The room of an unwrapped log (R33). -/
def Descriptor.room (d : Descriptor) : Nat := d.limit + 1 - d.fill - d.reserved

/-- The answer of the sixth check: a fault, or the first block, the transfer count n′ and the S outcome; `full` is the
APPEND on a log without room (R33). -/
inductive RangeAnswer where
  | faults (f : ElementFault)
  | fits (first count : Nat) (short : Bool)
  | full
  deriving DecidableEq, Repr

/-- The sixth check for a kind that reads (R28). -/
def Descriptor.readRange (d : Descriptor) (o n : Nat) : RangeAnswer :=
  if d.readable ≤ o then .faults .offsetLimit
  else if o + n ≤ d.readable then .fits (d.base + o) n false
  else .fits (d.base + o) (d.readable - o) true

/-- The sixth check for WRITE (R29). -/
def Descriptor.writeRange (d : Descriptor) (o n : Nat) : RangeAnswer :=
  if d.limit < o then .faults .offsetLimit
  else if d.limit + 1 < o + n then .faults .extentLimit
  else .fits (d.base + o) n false

/-- The sixth check for the hold kinds: the cut is silent (R30). -/
def Descriptor.holdRange (d : Descriptor) (o n : Nat) : RangeAnswer :=
  if d.limit < o then .faults .offsetLimit
  else .fits (d.base + o) (min n (d.limit + 1 - o)) false

/-- The transfer count of an APPEND (R33); its first block is the one at the fill mark (R34). -/
def Descriptor.appendRange (d : Descriptor) (n : Nat) : RangeAnswer :=
  if d.wrap then
    if n ≤ d.limit + 1 then .fits (d.base + d.fill) n false else .fits (d.base + d.fill) (d.limit + 1) true
  else if d.room = 0 then .full
  else if n ≤ d.room then .fits (d.base + d.fill) n false
  else .fits (d.base + d.fill) d.room true

/-- The sixth check by kind (R28, R29, R30, R33); INSPECT carries no range. -/
def Descriptor.range (d : Descriptor) (k : ElementKind) (o n : Nat) : RangeAnswer :=
  match k with
  | .disk .write => d.writeRange o n
  | .disk .append => d.appendRange n
  | .disk _ => d.readRange o n
  | .hold _ => d.holdRange o n
  | .unhold => d.holdRange o n
  | _ => .fits 0 0 false

/-- What the Extent Check finds of an element that passes: its place, its effective level, its range, and the C outcome
(R31, R39). -/
structure Admission where
  table : Table
  index : Nat
  level : Nat
  first : Nat
  count : Nat
  short : Bool
  full : Bool
  changed : Bool
  deriving DecidableEq, Repr

/-- The place of the resolved descriptor. -/
def Admission.place (a : Admission) : Option (Table × Nat) := some (a.table, a.index)

/-- The outcome of the six checks. -/
inductive Examined where
  | faulted (f : ElementFault)
  | passed (a : Admission)
  deriving DecidableEq, Repr

/-- The kinds whose C outcome follows the changed mark (R39, R52). -/
def ElementKind.notesChanged (k : ElementKind) : Bool := (affected k).c

/-- The six checks of R25 in their order, for an element of chain record `c` with its selector resolved. -/
def Extents.examine (x : Extents) (c : Chain) (k : ElementKind) (e : Element) : Examined :=
  let sel := resolveSelector c k e
  let d := x.get sel.table sel.index
  let level := effectiveLevel c sel
  if sel.table = .common ∧ sel.index = 0 then .faulted .nullSelector
  else if x.size sel.table ≤ sel.index then .faulted .indexLimit
  else if d.kind = .empty then .faulted .emptyDescriptor
  else if d.level < level then .faulted .level
  else if !kindAllowed k sel.table d.kind then .faulted .kind
  else
    let changed := k.notesChanged && d.changed
    match d.range k e.offset e.count with
    | .faults f => .faulted f
    | .full => .passed ⟨sel.table, sel.index, level, 0, 0, true, true, changed⟩
    | .fits b n s => .passed ⟨sel.table, sel.index, level, b, n, s, false, changed⟩

/-- Admission sets the accessed mark (R31, R36) and, for an APPEND, reserves its count (R32, R33). -/
def Descriptor.admitted (d : Descriptor) (reserve : Nat) : Descriptor :=
  { d with accessed := true, reserved := d.reserved + reserve }

/-- An INSPECT with the clear option clears the written and changed marks (R40). -/
def Descriptor.clearMarks (d : Descriptor) : Descriptor := { d with written := false, changed := false }

/-- The fill mark advances by one sector, and a wrapping log wraps after offset L (R34). -/
def Descriptor.advanceFill (d : Descriptor) : Descriptor :=
  if d.wrap && d.limit ≤ d.fill then { d with fill := 0, wrappedEver := true }
  else { d with fill := d.fill + 1 }

/-- An APPEND sector written: written mark, reservation, fill mark, in that order (R34). -/
def Descriptor.appended (d : Descriptor) : Descriptor :=
  Descriptor.advanceFill { d with written := true, reserved := d.reserved - 1 }

/-- An APPEND request leaves: its remaining reservation returns, and it is the owner no more (R35). -/
def Descriptor.returned (d : Descriptor) (id rest : Nat) : Descriptor :=
  { d with reserved := d.reserved - rest, owner := if d.owner = some id then none else d.owner }

/-- The blocks of a descriptor share one with a range (R38). -/
def Descriptor.meets (d : Descriptor) (start count : Nat) : Bool :=
  d.kind != .empty && overlap d.base (d.limit + 1) start count

/-- A FREE with the written flag: the changed mark of every Common descriptor that overlaps the range (R38). -/
def Extents.markRange (x : Extents) (start count : Nat) : Extents :=
  { x with comm := x.comm.map fun d => if d.meets start count then { d with changed := true } else d }

/-- A descriptor that is not EMPTY gets its changed mark. -/
def Descriptor.markChanged (d : Descriptor) : Descriptor :=
  if d.kind = .empty then d else { d with changed := true }

/-- The drive's return to UP: the changed mark of every descriptor that is not EMPTY, in both tables (R38, R170). -/
def Extents.markAll (x : Extents) : Extents :=
  { x with priv := x.priv.map Descriptor.markChanged, comm := x.comm.map Descriptor.markChanged }

end Sys2Proof.Machine
end

