-- ==== Sys2Proof/Machine/Completions.lean ====
section
/-! DEFINITION. Completions as they are asked (R50, R51, R71): a completion's outcome is decided, stamped and asked of
the Host Port; the chain takes it when its record has been written. -/

namespace Sys2Proof.Machine

open Sys2Proof

/-- A completion decided at this moment, with the flag effect of its kind. It asks the next fetch unless the element
carries END (R49, R51). -/
def State.outcome (s : State) (i : ElemInfo) (st : Status) (f : Option ElementFault) (bits : ChainFlags)
    (done : Nat) (place : Option (Table × Nat)) : Completion where
  info := i
  status := st
  fault := f
  bits := bits
  done := done
  place := place
  stamp := s.hp.tod.stamp
  effect := .byKind
  asksNext := !i.last
  newDefault := none
  endsHoldWait := false
  endsUnholdWait := false

/-- The completion write is asked (R51). -/
def State.complete (s : State) (c : Completion) : State := s.askTransfer (.completion c)

/-- An element completes that has no transfer count or did nothing: SKIPPED, ABORTED, a FAULT of a check, or a SELECT,
SET CLOCK or MAINTAIN carried out. Its outcome bits are F by the status alone, its done count is 0 (R50; a DONE element
without a transfer count: log 38). -/
def State.completePlain (s : State) (i : ElemInfo) (st : Status) (f : Option ElementFault)
    (place : Option (Table × Nat)) : State :=
  s.complete (s.outcome i st f (outcomeBits st false false false false false) 0 place)

/-- A FAULT SILENCED or other fault that sets F and changes no other flag (R45, R57). -/
def State.completeOnlyF (s : State) (i : ElemInfo) (f : ElementFault) (p : Bool)
    (place : Option (Table × Nat)) : State :=
  s.complete { s.outcome i .fault (some f) (outcomeBits .fault false false false false p) 0 place with
    effect := .onlyF }

/-- A buffer still carries a received sector of the request to host memory (R99). -/
def Engine.unloadingFor (t : Engine) (id : Nat) : Bool :=
  (t.bufA.state == .unloading && t.bufA.owner == id) || (t.bufB.state == .unloading && t.bufB.owner == id)

/-- A request's completion write is asked, or held back until its last sector write has ended (R99, R177). -/
def State.completeAfterData (s : State) (id : Nat) (c : Completion) : State :=
  if s.te.unloadingFor id then s.onHp fun h => { h with heldBack := h.heldBack ++ [(id, c)] }
  else s.complete c

/-- A sector write has ended: the completion writes that waited for it are asked (R99, R177). -/
def State.askHeldBack (s : State) (id : Nat) : State :=
  if s.te.unloadingFor id then s
  else s.onHp fun h => { h with
    waiting := h.waiting ++ (h.heldBack.filter fun x => x.1 == id).map fun x => Transfer.completion x.2
    heldBack := h.heldBack.filter fun x => x.1 != id }

end Sys2Proof.Machine
end

