-- ==== Sys2Proof/Machine/Holds.lean ====
section
/-! DEFINITION. The Hold Manager (Section 8): placing (R150), re-checks (R151), claims (R152 to R154), references
(R149, R155), removal (R156), hold budgets (R160) and FREE notices heard (R159). -/

namespace Sys2Proof.Machine

open Sys2Proof

/-- The local check of R150 fails: the list is full, or an entry on it overlaps with either side EXCLUSIVE. -/
def HoldManager.conflicts (h : HoldManager) (e : HoldEntry) : Bool :=
  Config.holdPlaces ≤ h.list.length ||
    h.list.any fun x => overlap x.start x.count e.start e.count && (x.mode == .exclusive || e.mode == .exclusive)

/-- An entry on the list that is HELD and SHARED. -/
def HoldEntry.sharedHeld (e : HoldEntry) : Bool := e.state == .held && e.mode == .shared

/-- The whole range of a SHARED entry is covered by the union of HELD SHARED entries on the list (R150). -/
def HoldManager.coveredShared (h : HoldManager) (e : HoldEntry) : Bool :=
  e.mode == .shared && (List.range e.count).all fun i =>
    h.list.any fun x => x.sharedHeld && x.start ≤ e.start + i && e.start + i < x.start + x.count

/-- One of the covering entries has its peer-silent flag set (R150). -/
def HoldManager.coverSilent (h : HoldManager) (e : HoldEntry) : Bool :=
  h.list.any fun x => x.sharedHeld && x.silent && overlap x.start x.count e.start e.count

/-- Every HOLD-WAIT request that relies on the entry becomes READY (R70). -/
def State.wakeRequests (s : State) (id : Nat) : State :=
  s.onWq fun q => { q with records := q.records.map fun r =>
    if r.state == .holdWait && r.hold == some id then { r with state := .ready } else r }

/-- The done count of a hold element: its range's count n′ when DONE, else no sector was transferred (R30, R50). -/
def holdDone (st : Status) (count : Nat) : Nat := if st = .done then count else 0

/-- The HOLD element that waits for an entry completes (R61); its P outcome is as given. -/
def State.completeHold (s : State) (e : HoldEntry) (st : Status) (f : Option ElementFault) (p : Bool) : State :=
  match e.holdElem with
  | none => s
  | some (i, t, n) =>
    s.complete { s.outcome i st f (outcomeBits st false false false false p) (holdDone st e.count) (some (t, n)) with
      endsHoldWait := true }

/-- An entry becomes HELD: its requests become READY and its HOLD completes DONE (R70, R148, R152). -/
def State.becomeHeld (s : State) (id : Nat) (silent : Bool) : State :=
  match s.hm.find id with
  | none => s
  | some e =>
    ((s.onEntry id fun e => { e with state := .held, silent := silent, holdElem := none }).wakeRequests id).completeHold
      e .done none silent

/-- The CLAIM of an entry (R152). -/
def HoldEntry.claim (e : HoldEntry) : FrameBody := .claim e.id e.start e.count e.mode

/-- An entry that passed the local check joins the end of the Hold List, HELD at once or CLAIMING with its CLAIM offered
(R150, R151). Hold List order is the order of joining (log 39). -/
def State.joinList (s : State) (e : HoldEntry) : State :=
  let held := s.hm.coveredShared e
  let silent := s.hm.coverSilent e
  let s := s.onHm fun h => { h with list := h.list ++ [{ e with state := .claiming }] }
  if held then s.becomeHeld e.id silent else s.offer e.claim

/-- A new entry is placed (R150). -/
def State.placeEntry (s : State) (e : HoldEntry) : State :=
  if s.hm.conflicts e then s.onHm fun h => { h with line := h.line ++ [{ e with state := .pending }] }
  else s.joinList e

/-- One PENDING entry is checked again (R150, R151). -/
def State.recheckEntry (s : State) (e : HoldEntry) : State :=
  if s.hm.conflicts e then s
  else (s.onHm fun h => { h with line := h.line.filter fun x => x.id != e.id }).joinList e

/-- The pending line is checked again in creation order (R151). -/
def State.recheckLine (s : State) : State := s.hm.line.foldl State.recheckEntry s

/-- The CLAIM of a removed entry: withdrawn if it has not started. In its exchange it runs on: its answer finds no entry
and so is discarded (R156), and its silence is counted as any notice's (R125; log 31). -/
def State.settleClaim (s : State) (id : Nat) : State := s.withdraw (FrameBody.isClaimOf id)

/-- The FREE of an entry (R156). -/
def HoldEntry.free (e : HoldEntry) : FrameBody := .free e.start e.count e.written

/-- An entry is removed (R156). -/
def State.removeEntry (s : State) (e : HoldEntry) : State :=
  let listed := s.hm.list.any fun x => x.id == e.id
  let s := s.onHm fun h => { h with
    list := h.list.filter fun x => x.id != e.id
    line := h.line.filter fun x => x.id != e.id }
  let s := s.settleClaim e.id
  let s := if e.claimed then s.offer e.free else s
  if listed then s.recheckLine else s

/-- The entry of a name is removed, if it stands (R156). -/
def State.removeEntryId (s : State) (id : Nat) : State :=
  match s.hm.find id with
  | none => s
  | some e => s.removeEntry e

/-- The UNHOLD that waits for an entry's references completes DONE (R157), its done count the count n′ of its
range (R30, R50), which is the entry's. -/
def State.completeUnhold (s : State) (e : HoldEntry) : State :=
  match e.unholdElem with
  | none => s
  | some (i, t, n) =>
    s.complete { s.outcome i .done none clearFlags e.count (some (t, n)) with endsUnholdWait := true }

/-- A reference to an entry ends (R155). -/
def State.endReference (s : State) (id : Nat) : State :=
  match s.hm.find id with
  | none => s
  | some e =>
    let s := s.onEntry id fun x => { x with refs := x.refs - 1 }
    if e.refs ≤ 1 then
      if e.origin == .implicit || e.unholdElem.isSome then (s.removeEntry e).completeUnhold e else s
    else s

/-- The lesser of two entries by creation. -/
def earlier (a : Option HoldEntry) (b : HoldEntry) : Option HoldEntry :=
  match a with
  | none => some b
  | some x => if x.id ≤ b.id then some x else some b

/-- The earliest-created entry that `p` picks, on the list or in the line. -/
def HoldManager.earliest (h : HoldManager) (p : HoldEntry → Bool) : Option HoldEntry :=
  ((h.list ++ h.line).filter p).foldl earlier none

/-- The mode of an implicit entry for a kind of request (R149). -/
def RequestKind.holdMode : RequestKind → Mode
  | .read => .shared
  | .compare => .shared
  | .scan => .shared
  | _ => .exclusive

/-- An implicit entry's budget adjusted for another request that relies on it (R160). -/
def adjustBudget (a b : Option Nat) : Option Nat :=
  match a, b with
  | some x, some y => some (max x y)
  | _, _ => none

/-- A new entry with the next name; its flags are clear (R148, R149). -/
def HoldManager.newEntry (h : HoldManager) (start count : Nat) (m : Mode) (chain : Fin 4) (o : Origin) (refs : Nat)
    (budget : Option Nat) (elem : Option (ElemInfo × Table × Nat)) : HoldEntry :=
  ⟨h.nextId, start, count, m, chain, o, .pending, false, false, false, refs, budget, 0, elem, none⟩

/-- A new entry is made and placed (R148, R149, R150). -/
def State.makeEntry (s : State) (e : HoldEntry) : State :=
  (s.onHm fun h => { h with nextId := h.nextId + 1 }).placeEntry e

/-- The entry that covers a request: of its chain, its range and mode sufficient, the earliest created (R149). -/
def HoldManager.covering (h : HoldManager) (chain : Fin 4) (k : RequestKind) (start count : Nat) : Option HoldEntry :=
  h.earliest fun e => e.chain == chain && covers e.start e.count start count && modeEnough e.mode k

/-- The entry a request relies on, by name, with the state after the reference is taken or the entry made (R149). -/
def State.relyOn (s : State) (chain : Fin 4) (k : RequestKind) (start count : Nat) (budget : Option Nat) :
    Nat × State :=
  match s.hm.covering chain k start count with
  | some e => (e.id, s.onEntry e.id fun x => { x with
      refs := x.refs + 1
      budget := if x.origin == .implicit then adjustBudget x.budget budget else x.budget })
  | none =>
    let e := s.hm.newEntry start count k.holdMode chain .implicit 1 budget none
    (e.id, s.makeEntry e)

/-- The entry of a name stands and is HELD. -/
def HoldManager.isHeld (h : HoldManager) (id : Nat) : Bool :=
  match h.find id with
  | none => false
  | some e => e.state == .held

/-- The P outcome of an element that relies on an entry: HELD with its peer-silent flag set (R50). -/
def HoldManager.peerSilent (h : HoldManager) (id : Option Nat) : Bool :=
  match id with
  | none => false
  | some i => match h.find i with
    | none => false
    | some e => e.state == .held && e.silent

/-- The explicit entry an UNHOLD names (R157). -/
def HoldManager.explicitMatch (h : HoldManager) (chain : Fin 4) (start count : Nat) : Option HoldEntry :=
  h.earliest fun e => e.origin == .explicit && e.chain == chain && e.start == start && e.count == count

/-- A REFUSED entry is claimed again (R153). -/
def State.reclaimEntry (s : State) (e : HoldEntry) : State :=
  (s.onEntry e.id fun x => { x with state := .claiming, refusalRevs := 0 }).offer e.claim

/-- An entry is removed and the HOLD that waits for it completes EXPIRED (R160). -/
def State.expireEntry (s : State) (e : HoldEntry) : State := (s.removeEntry e).completeHold e .expired none false

/-- The peer refused an entry's CLAIM (R152); an EXPLICIT entry whose budget is 0 is removed at once (R160). -/
def State.refuseEntry (s : State) (id : Nat) : State :=
  match s.hm.find id with
  | none => s
  | some e =>
    if e.origin == .explicit && e.budget == some 0 then s.expireEntry e
    else s.onEntry id fun x => { x with state := .refused, refusalRevs := 0 }

/-- A CLAIM was decided unanswered: HELD by silence, and claimed (R152). -/
def State.silentEntry (s : State) (id : Nat) : State :=
  (s.onEntry id fun x => { x with claimed := true }).becomeHeld id true

/-- The answer to a CLAIM of the peer is REFUSE (R154). -/
def HoldManager.refusesClaim (h : HoldManager) (start count : Nat) (m : Mode) : Bool :=
  h.list.any fun e => e.state == .held && overlap e.start e.count start count &&
    (e.mode == .exclusive || m == .exclusive)

/-- A FREE heard claims the overlapping REFUSED entries again, in list order (R159). -/
def State.reclaimRange (s : State) (start count : Nat) : State :=
  (s.hm.list.filter fun e => e.state == .refused && overlap e.start e.count start count).foldl State.reclaimEntry s

/-- The entry's budget has run out where it may expire: EXPLICIT, PENDING or REFUSED (R160). -/
def HoldEntry.mayExpire (e : HoldEntry) : Bool :=
  e.origin == .explicit && e.budget == some 0 && (e.state == .pending || e.state == .refused)

/-- The entry of a name expires, if it may by now (R160). -/
def State.expireIfDue (s : State) (id : Nat) : State :=
  match s.hm.find id with
  | none => s
  | some e => if e.mayExpire then s.expireEntry e else s

/-- One slot off the budget of an entry that is not HELD (R160). -/
def HoldEntry.countDown (e : HoldEntry) : HoldEntry :=
  if e.state == .held then e else { e with budget := e.budget.map (· - 1) }

/-- The slot event of the Hold Manager (R160). Where several budgets reach 0 on it, the entries are taken list first,
then line, each against the state the earlier ones left (log 40). -/
def State.holdSlot (s : State) : State :=
  let s := s.onHm fun h => { h with list := h.list.map HoldEntry.countDown, line := h.line.map HoldEntry.countDown }
  ((s.hm.list ++ s.hm.line).map HoldEntry.id).foldl State.expireIfDue s

/-- One revolution event at a REFUSED entry (R153). -/
def HoldEntry.countRevolution (e : HoldEntry) : HoldEntry :=
  if e.state == .refused then { e with refusalRevs := e.refusalRevs + 1 } else e

/-- The revolution event of the Hold Manager: entries refused four revolutions ago are claimed again, in list order
(R153). -/
def State.holdRevolution (s : State) : State :=
  let s := s.onHm fun h => { h with list := h.list.map HoldEntry.countRevolution }
  (s.hm.list.filter fun e => e.state == .refused && Config.reclaimLimit ≤ e.refusalRevs).foldl State.reclaimEntry s

/-- The entries that a HOLD element waits for. -/
def HoldManager.awaited (h : HoldManager) : List HoldEntry := (h.list ++ h.line).filter fun e => e.holdElem.isSome

/-- The waiting HOLD elements of a chain, as they stand at its entry to STOPPING, are taken from their entries: no
re-check makes one of them DONE from then on (R50, R54). -/
def State.detachHolds (s : State) (l : List HoldEntry) : State :=
  l.foldl (fun s e => s.onEntry e.id fun x => { x with holdElem := none }) s

/-- A HOLD element whose entry was not HELD when its chain went STOPPING completes, and its entry is removed (R54, R57,
R156). -/
def State.stopHold (st : Status) (f : Option ElementFault) (s : State) (e : HoldEntry) : State :=
  (s.completeHold e st f false).removeEntryId e.id

/-- Every waiting HOLD element completes FAULT SILENCED (R57); its entry still stands. -/
def State.silenceHolds (s : State) : State :=
  s.hm.awaited.foldl (fun s e =>
    (s.completeHold e .fault (some .silenced) false).onEntry e.id fun x => { x with holdElem := none }) s

/-- Every EXPLICIT entry of an ended chain is removed, list first (R56). -/
def State.removeExplicit (s : State) (n : Fin 4) : State :=
  (((s.hm.list ++ s.hm.line).filter fun e => e.chain == n && e.origin == .explicit).map HoldEntry.id).foldl
    State.removeEntryId s

end Sys2Proof.Machine
end

