-- ==== Sys2Proof/Machine/Queue.lean ====
section
/-! DEFINITION. The Work Queue (Section 4): cost and slack of a record (R15, R18), positioner access and review (R78,
R79), eligibility and choice (R81, R83), what the queue reports (R80), and how a record leaves (R71). -/

namespace Sys2Proof.Machine

open Sys2Proof

/-- The descriptor of a request's resolved extent. -/
def State.descriptorOf (s : State) (r : Request) : Descriptor :=
  match r.extent with
  | none => .empty
  | some (t, n) => s.ec.get t n

/-- The block at offset `o + i` of a descriptor, stepping back to offset 0 past offset L where it wraps (R4). -/
def Descriptor.blockAt (d : Descriptor) (o i : Nat) : Nat :=
  if d.wrap && d.limit < o + i then d.base + (o + i - (d.limit + 1)) else d.base + (o + i)

/-- The block of sector `i` of an extent request (R4, R34): an APPEND not started begins at the fill mark, a started
one at its fixed first offset. -/
def State.blockOf (s : State) (r : Request) (i : Nat) : Nat :=
  if r.kind = .append then
    let d := s.descriptorOf r
    if r.started then d.blockAt (r.firstBlock - d.base) i else d.blockAt d.fill i
  else r.firstBlock + i

/-- Where sector `i` of a request lies (R1, R2, R3). -/
def State.sectorTarget (s : State) (r : Request) (i : Nat) : Target :=
  if r.isDirect then r.direct else targetOf s.cfg.interleave (s.blockOf r i)

/-- Where the next sector of a request lies: the one at its done count (R78). -/
def State.nextTarget (s : State) (r : Request) : Target := s.sectorTarget r r.done

/-- The cost of a request formed now (R15). -/
def State.costOf (s : State) (r : Request) : Nat := costAt s.tm.cylinder s.rdm.counter (s.nextTarget r)

/-- The slack of a request from its budget, its cost as it stands, and its span (R16, R18). -/
def State.slackOf (s : State) (r : Request) : Option Int :=
  r.budget.map fun b =>
    let left := span s.cfg.interleave (r.count - r.done)
    if r.started then (b : Int) - left else (b : Int) - (r.cost + left : Nat)

/-- A slack below 0 (R74); NONE is not. -/
def negative (k : Option Int) : Bool := slackLt k (some 0)

/-- Slack and URGENT are formed from the cost as it stands (R74). -/
def State.withSlack (s : State) (r : Request) : Request :=
  { r with slack := s.slackOf r, urgent := negative (s.slackOf r) }

/-- Cost, slack and URGENT are formed afresh (R69, R82). -/
def State.withCost (s : State) (r : Request) : Request := s.withSlack { r with cost := s.costOf r }

/-- What a slot event forms for a record: a fresh cost only for a queued request not started (R74). -/
def State.formed (s : State) (r : Request) : Request :=
  if r.queued && !r.started then s.withCost r else s.withSlack r

/-- The next sector needs a seek (R78). -/
def State.needsSeek (s : State) (t : Target) : Bool := s.tm.cylinder != some t.cylinder

/-- Positioner access for a request whose next sector lies at `t` (R78). -/
def State.hasAccess (s : State) (t : Target) : Bool :=
  match s.tm.own with
  | .holding _ _ => true
  | .none =>
    match s.tm.peer with
    | none => !s.tm.courtesy
    | some _ => !s.tm.moving && !s.needsSeek t
  | _ => false

/-- The review of one record (R79). -/
def State.reviewed (s : State) (r : Request) : Request :=
  let seek := s.needsSeek (s.nextTarget r)
  match r.state with
  | .ready => if s.tm.peer.isSome && seek then { r with state := .blocked } else r
  | .blocked => if s.tm.peer.isNone || !seek then { r with state := .ready } else r
  | _ => r

/-- The review (R79). -/
def State.review (s : State) : State :=
  s.onWq fun q => { q with records := q.records.map fun r => s.reviewed r }

/-- An APPEND whose log has another owner (R32, R81). -/
def State.ownedByOther (s : State) (r : Request) : Bool :=
  r.kind == .append && (match (s.descriptorOf r).owner with
    | none => false
    | some id => id != r.id)

/-- The adapter state lets the request be selected (R81). -/
def State.adapterSelects (s : State) (r : Request) : Bool :=
  match s.hp.adapter with
  | .running => true
  | .maintenance => r.isDirect && s.hp.maintaining == some r.elem.chain
  | _ => false

/-- A request may be selected (R81). -/
def State.eligible (s : State) (r : Request) : Bool :=
  r.state == .ready && s.rdm.drive == .up && s.rdm.counter.isSome && s.adapterSelects r &&
    s.hasAccess (s.nextTarget r) && !s.ownedByOther r

/-- The first record that no other comes strictly before (R83: a tie goes to the record earlier in the queue). -/
def firstLeast (lt : Request → Request → Bool) : List Request → Option Request
  | [] => none
  | r :: rest =>
    match firstLeast lt rest with
    | none => some r
    | some b => if lt b r then some b else some r

/-- By slack. -/
def bySlack (a b : Request) : Bool := slackLt a.slack b.slack

/-- By cost. -/
def byCost (a b : Request) : Bool := a.cost < b.cost

/-- The second tier: a slack of at least 0 and below the urgency margin (R83). -/
def withinMargin (u : Nat) (r : Request) : Bool :=
  match r.slack with
  | none => false
  | some k => 0 ≤ k && k < u

/-- The choice among eligible records by three tiers (R83). -/
def choose (u : Nat) (l : List Request) : Option Request :=
  match firstLeast bySlack (l.filter Request.urgent) with
  | some r => some r
  | none =>
    match firstLeast bySlack (l.filter (withinMargin u)) with
    | some r => some r
    | none => firstLeast byCost l

/-- A request needs the positioner (R80). -/
def WorkQueue.needsPositioner (q : WorkQueue) : Bool :=
  q.records.any fun r => r.state == .ready || r.state == .blocked

/-- The least URGENT BLOCKED slack (R80). -/
def WorkQueue.leastUrgentBlocked (q : WorkQueue) : Option Int :=
  leastOf ((q.records.filter fun r => r.state == .blocked && r.urgent).map Request.slack)

/-- The least slack at a cylinder: the ACTIVE request and the queued ones whose next sector lies there (R80). -/
def State.leastSlackAt (s : State) (c : Nat) : Option Int :=
  leastOf ((s.wq.records.filter fun r =>
    r.state == .active || (r.queued && (s.nextTarget r).cylinder == c)).map s.slackOf)

/-- A request's outcome is decided and it leaves the queue: completion asked, reference ended, reservation returned,
record removed (R71, R110). `m` and `p` are the M and P outcomes. -/
def State.leaveQueue (s : State) (r : Request) (st : Status) (f : Option ElementFault) (m p : Bool) : State :=
  let bits := outcomeBits st m r.late r.changedOut r.shortOut p
  let c := { s.outcome r.elem st f bits r.done r.extent with asksNext := !r.elem.last && !r.elem.stream }
  let s := s.completeAfterData r.id c
  let s := match r.hold with
    | none => s
    | some id => s.endReference id
  let s := match r.kind, r.extent with
    | .append, some (t, n) => s.onDescriptor t n fun d => d.returned r.id (r.count - r.done)
    | _, _ => s
  s.dropRequest r.id

/-- A request leaves the queue with P as its entry stands now (R50, R110); `m` is the M outcome (R106, R107). -/
def State.completeRequest (s : State) (r : Request) (st : Status) (f : Option ElementFault) (m : Bool) : State :=
  s.leaveQueue r st f m (s.hm.peerSilent r.hold)

/-- Queued requests that `p` picks complete without the engine (R54, R65, R87), in admission order (DESIGN CHOICE: logs
41 and 52). -/
def State.completeQueued (s : State) (p : Request → Bool) (st : Status) (f : Option ElementFault) : State :=
  (s.wq.records.filter fun r => r.queued && p r).foldl (fun s r => s.completeRequest r st f false) s

/-- One slot off every budget; 0 stays 0 (R73). -/
def State.countBudgets (s : State) : State :=
  s.onWq fun q => { q with records := q.records.map fun r => { r with budget := r.budget.map (· - 1) } }

/-- The records whose budget the next slot event brings to 0, as they stand when it counts (R72). -/
def WorkQueue.expiring (q : WorkQueue) : List Request := q.records.filter fun r => r.budget == some 1

/-- A slot event forms cost, slack and URGENT of every record (R74). -/
def State.formSlacks (s : State) : State :=
  s.onWq fun q => { q with records := q.records.map fun r => s.formed r }

/-- Selection first forms cost and slack of the eligible records (R82). -/
def State.formEligible (s : State) : State :=
  s.onWq fun q => { q with records := q.records.map fun r => if s.eligible r then s.withCost r else r }

/-- The record selection takes at this moment, if any (R82, R83). -/
def State.choice (s : State) : Option Request :=
  choose s.cfg.urgency (s.wq.records.filter fun r => s.eligible r)

end Sys2Proof.Machine
end

