-- ==== Sys2Proof/Machine/Tenure.lean ====
section
/-! DEFINITION. The Tenure Manager's own records (Section 7): the positioner record (R132), presence (R127), the
courtesy wait (R138), asking (R133, R134), the peer record (R135, R139, R140), PREEMPT (R141) and RELEASE (R137). -/

namespace Sys2Proof.Machine

open Sys2Proof

/-- The positioner record changes, and the Work Queue reviews (R79, R132). -/
def State.setPositioner (s : State) (c : Option Nat) (moving : Bool) : State :=
  (s.onTm fun t => { t with cylinder := c, moving := moving }).review

/-- The moving flag changes, the cylinder stays (R132). -/
def State.setMoving (s : State) (b : Bool) : State := s.setPositioner s.tm.cylinder b

/-- A TENURE stands pending or in its exchange. -/
def LineUnit.tenureStands (l : LineUnit) : Bool :=
  l.isPending FrameBody.isTenure || l.inExchange FrameBody.isTenure

/-- The courtesy wait ends, and an ask held back by it is offered (R133, R138). -/
def State.endCourtesy (s : State) : State :=
  if s.tm.courtesy then
    let s := s.onTm fun t => { t with courtesy := false }
    match s.tm.own with
    | .asking c => if s.lu.tenureStands then s else s.offer (.tenure c)
    | _ => s
  else s

/-- The courtesy wait begins, unless the peer is ABSENT (R138). -/
def State.beginCourtesy (s : State) : State :=
  if s.tm.presence = .absent then s else s.onTm fun t => { t with courtesy := true }

/-- The peer is reported silent: presence ABSENT, PEER on the change, and no courtesy wait (R127, R138). -/
def State.peerAbsent (s : State) : State :=
  let s := if s.tm.presence = .absent then s else s.raise .peer
  (s.onTm fun t => { t with presence := .absent }).endCourtesy

/-- A valid peer frame was heard: presence PRESENT, PEER on the change from ABSENT, and the courtesy wait ends (R127,
R138). -/
def State.peerPresent (s : State) : State :=
  let s := if s.tm.presence = .absent then s.raise .peer else s
  (s.onTm fun t => { t with presence := .present }).endCourtesy

/-- The cylinder of a pending TENURE is changed in its place (R134). -/
def LineUnit.retarget (l : LineUnit) (c : Nat) : LineUnit :=
  { l with frames := l.frames.map fun f => if f.body.isTenure then { f with body := .tenure c } else f }

/-- A held tenure is announced again at a cylinder: one own TENURE at most pending or in its exchange (R134). -/
def State.reannounce (s : State) (c : Nat) : State :=
  if s.lu.isPending FrameBody.isTenure then s.onLu fun l => l.retarget c
  else if s.lu.inExchange FrameBody.isTenure then s
  else s.offer (.tenure c)

/-- The engine asks tenure at a cylinder (R133). A refused ask and an ENDING tenure do not come here: positioning
suspends the request in those cases (R93). -/
def State.askTenure (s : State) (c : Nat) : State :=
  match s.tm.own with
  | .none =>
    if s.tm.peer.isSome then s
    else
      let s := s.onTm fun t => { t with own := .asking c }
      if s.tm.courtesy || s.lu.tenureStands then s else s.offer (.tenure c)
  | .asking _ => s
  | .holding _ _ => s.reannounce c
  | .ending _ _ => s

/-- The peer record becomes NONE: the preempt mark clears, a pending PREEMPT is withdrawn, the queue reviews (R135). -/
def State.peerGone (s : State) : State :=
  if s.tm.peer.isNone then s
  else ((s.onTm fun t => { t with peer := none, preemptMark := false }).withdraw FrameBody.isPreempt).review

/-- The peer record becomes HOLDING, with the preempt mark cleared where a new peer tenure begins (R139), and the queue
reviews. -/
def State.peerHolds (s : State) (c : Option Nat) (revolutions : Nat) : State :=
  (s.onTm fun t => { t with
    peer := some ⟨c, revolutions⟩
    preemptMark := if t.peer.isNone then false else t.preemptMark }).review

/-- The own tenure record changes. -/
def State.setOwn (s : State) (o : OwnTenure) : State := s.onTm fun t => { t with own := o }

/-- The own tenure is ENDING. -/
def OwnTenure.isEnding : OwnTenure → Bool
  | .ending _ _ => true
  | _ => false

/-- The own tenure is HOLDING. -/
def OwnTenure.isHolding : OwnTenure → Bool
  | .holding _ _ => true
  | _ => false

/-- A RELEASE is offered, unless one is pending or in its exchange (R137). -/
def State.offerReleaseOnce (s : State) : State :=
  if s.lu.isPending FrameBody.isRelease || s.lu.inExchange FrameBody.isRelease then s else s.offer .release

/-- With the own tenure ENDING, the engine IDLE and no re-announcement to settle, a RELEASE is offered (R137). -/
def State.offerRelease (s : State) : State :=
  if s.tm.own.isEnding && s.te.phase == .idle && !s.lu.tenureStands then s.offerReleaseOnce else s

/-- The slack a PREEMPT carries, formed again while it is pending (R141). -/
def LineUnit.reslack (l : LineUnit) (k : Int) : LineUnit :=
  { l with frames := l.frames.map fun f => if f.body.isPreempt then { f with body := .preempt k } else f }

/-- The slot event of the Tenure Manager offers, refreshes or withdraws a PREEMPT (R141). -/
def State.preemptSlot (s : State) : State :=
  match s.wq.leastUrgentBlocked with
  | none => s.withdraw FrameBody.isPreempt
  | some k =>
    if s.lu.isPending FrameBody.isPreempt then s.onLu fun l => l.reslack k
    else if s.tm.peer.isSome && !s.tm.preemptMark && !s.lu.inExchange FrameBody.isPreempt then s.offer (.preempt k)
    else s

/-- A SEEK of the peer heard ACCEPTED is counted, held at 255 (R131, R132). -/
def State.countPeerSeek (s : State) : State :=
  s.onTm fun t => { t with peerSeeks := min Config.recordLimit (t.peerSeeks + 1) }

end Sys2Proof.Machine
end

