-- ==== Sys2Proof/Machine/Engine.lean ====
section
/-! DEFINITION. The Transfer Engine (Section 5) and what it shares with the Tenure Manager: buffers (R98, R99),
positioning (R93), the lead slot (R100), slips (R101), displacements (R105), the end of a request (R110), suspension
(R85, R97), return without start (R86), selection (R82), and the own tenure's entry to ENDING (R136). -/

namespace Sys2Proof.Machine

open Sys2Proof

/-! Sector buffers. -/

/-- The buffer of a name. -/
def Engine.buf (t : Engine) : BufferName → SectorBuffer
  | .a => t.bufA
  | .b => t.bufB

/-- The buffer of a name replaced. -/
def Engine.setBuf (t : Engine) (n : BufferName) (b : SectorBuffer) : Engine :=
  match n with
  | .a => { t with bufA := b }
  | .b => { t with bufB := b }

/-- A buffer is replaced. -/
def State.setBuf (s : State) (n : BufferName) (b : SectorBuffer) : State := s.onTe fun t => t.setBuf n b

/-- The first buffer that `p` picks. -/
def Engine.findBuf (t : Engine) (p : SectorBuffer → Bool) : Option BufferName :=
  if p t.bufA then some .a else if p t.bufB then some .b else none

/-- The kinds whose sectors come from host memory (R98). -/
def RequestKind.outbound : RequestKind → Bool
  | .write => true
  | .append => true
  | .directWrite => true
  | .compare => true
  | _ => false

/-- The kinds whose order is a WRITE (R100). -/
def RequestKind.writes : RequestKind → Bool
  | .write => true
  | .append => true
  | .directWrite => true
  | _ => false

/-- A buffer holds, or is to hold, the host data of sector `i` of a request. -/
def SectorBuffer.serves (b : SectorBuffer) (id i : Nat) : Bool :=
  (b.state == .loading || b.state == .loaded) && !b.discarded && b.owner == id && b.sector == i

/-- The LOADED buffer of sector `i` of a request. -/
def SectorBuffer.loadedFor (id i : Nat) (b : SectorBuffer) : Bool :=
  b.state == .loaded && b.owner == id && b.sector == i

/-- An EMPTY buffer. -/
def SectorBuffer.isEmpty (b : SectorBuffer) : Bool := b.state == .empty

/-- The address of sector `i` of a request in host memory (R98, R178). -/
def Request.sectorAddress (r : Request) (i : Nat) : Word := r.buffer + BitVec.ofNat 16 (i * Config.sectorWords)

/-- The lowest sector of the request, at or after the one in hand, that has no buffer (R98); with two buffers it is the
sector in hand or the one after it. -/
def Engine.wanted (t : Engine) (r : Request) : Option Nat :=
  ([t.sector, t.sector + 1].filter fun i =>
    i < r.count && !(t.bufA.serves r.id i) && !(t.bufB.serves r.id i)).head?

/-- One buffer is put to loading, where one is EMPTY and a sector wants it (R98). -/
def State.loadOne (s : State) (r : Request) : State :=
  match s.te.findBuf SectorBuffer.isEmpty, s.te.wanted r with
  | some n, some i =>
    (s.setBuf n ⟨.loading, i, [], r.id, false⟩).askTransfer (.load n (r.sectorAddress i))
  | _, _ => s

/-- The engine loads ahead for the request it works on (R98). -/
def State.loadAhead (s : State) : State :=
  match s.activeRequest with
  | none => s
  | some r => if r.kind.outbound then (s.loadOne r).loadOne r else s

/-- The transfer is a load of the buffer. -/
def Transfer.loads (n : BufferName) : Transfer → Bool
  | .load m _ => m == n
  | _ => false

/-- The host data of one buffer is discarded (R98): a read under way ends unused, one that waits is withdrawn, and a
received sector's write runs on. -/
def State.discardBuf (s : State) (n : BufferName) : State :=
  match (s.te.buf n).state with
  | .empty => s
  | .unloading => s
  | .loaded => s.setBuf n .empty
  | .receiving => s.setBuf n .empty
  | .loading =>
    if s.hp.current.any (Transfer.loads n) then s.setBuf n { s.te.buf n with discarded := true }
    else (s.onHp fun h => { h with waiting := h.waiting.filter fun t => !t.loads n }).setBuf n .empty

/-- The host data the engine holds is discarded (R98). -/
def State.discardData (s : State) : State := (s.discardBuf .a).discardBuf .b

/-! The end of the engine's work on a request. -/

/-- The engine goes IDLE: its pending order is withdrawn and its host data discarded (R97, R110, R111). -/
def State.idleEngine (s : State) : State :=
  ((s.withdraw FrameBody.isOrder).discardData).onTe fun t => { t with
    phase := .idle
    request := none
    leadOpen := false
    suspendAfter := false
    downAfter := false
    maintenanceOver := false }

/-- The engine's request ends with an outcome, and the engine goes IDLE (R110). What follows an idle engine is
`engineIdled`. -/
def State.finish (s : State) (st : Status) (f : Option ElementFault) (m : Bool) : State :=
  match s.activeRequest with
  | none => s.idleEngine
  | some r => (s.completeRequest r st f m).idleEngine

/-- The engine's request, going back, completes ABORTED instead: its chain is STOPPING, or it is DIRECT and the adapter
has left MAINTENANCE, be it that another chain has entered it since (R65, R85, R87; log 36). -/
def State.mayNotReturn (s : State) (r : Request) : Bool :=
  (s.chain r.elem.chain).state == .stopping ||
    (r.isDirect && (s.hp.adapter != .maintenance || s.te.maintenanceOver))

/-- The engine's request goes back to the queue in a state, or completes ABORTED, and the engine goes IDLE (R85, R86).
-/
def State.handBack (s : State) (q : Request → RequestState) : State :=
  match s.activeRequest with
  | none => s.idleEngine
  | some r =>
    if s.mayNotReturn r then s.finish .aborted none false
    else (s.onRequest r.id fun x => { x with state := q x }).idleEngine

/-- The request is suspended: READY (R85). -/
def State.suspend (s : State) : State := s.handBack fun _ => .ready

/-- The request's ask was refused: BLOCKED if not started, READY if started (R86, R94). -/
def State.giveBack (s : State) : State := s.handBack fun r => if r.started then .ready else .blocked

/-! Positioning and the lead slot. -/

/-- The buffer condition of R100 for the sector in hand. -/
def Engine.bufferReady (t : Engine) (r : Request) : Bool :=
  if r.kind.outbound then (t.findBuf (SectorBuffer.loadedFor r.id t.sector)).isSome
  else (t.findBuf SectorBuffer.isEmpty).isSome

/-- The order of the sector in hand: WRITE for the kinds that write, READ for the others (R100). -/
def Engine.order (t : Engine) (r : Request) : FrameBody := if r.kind.writes then .write t.target else .read t.target

/-- Within the lead slot, the order is offered as soon as the buffer condition holds (R100). -/
def State.tryOrder (s : State) : State :=
  match s.activeRequest with
  | none => s
  | some r =>
    if s.te.phase == .leadWait && s.te.leadOpen && !s.lu.isPending FrameBody.isTransfer && s.te.bufferReady r then
      s.offer (s.te.order r)
    else s

/-- The counter shows the lead slot of the sector in hand (R13, R100). -/
def State.inLeadSlot (s : State) : Bool := s.rdm.counter == some (leadSlot s.te.target.slot)

/-- The engine enters LEAD WAIT; a lead slot already under way counts (R100). -/
def State.enterLead (s : State) : State :=
  (s.onTe fun t => { t with phase := .leadWait, leadOpen := s.inLeadSlot }).tryOrder

/-- The engine enters a phase that waits. -/
def State.setPhase (s : State) (p : Phase) : State := s.onTe fun t => { t with phase := p, leadOpen := false }

/-- The engine enters SETTLE with the settle count at 0 (R91, R96). -/
def State.enterSettle (s : State) : State :=
  s.onTe fun t => { t with phase := .settle, settle := 0, leadOpen := false }

/-- The engine offers a SEEK to its target and goes to SEEK (R94, R95). -/
def State.offerSeek (s : State) : State := (s.setPhase .seek).offer (.seek s.te.target.cylinder)

/-- The engine offers a SENSE and goes to SENSE (R96). -/
def State.offerSense (s : State) : State := (s.setPhase .sense).offer .sense

/-- The engine waits for tenure at its target cylinder (R93, R94). -/
def State.waitTenure (s : State) : State := (s.setPhase .tenureWait).askTenure s.te.target.cylinder

/-- The table of R93. -/
def State.positionAt (s : State) : State :=
  let seek := s.needsSeek s.te.target
  match s.tm.own with
  | .holding _ _ =>
    if seek then s.waitTenure
    else if s.tm.moving then s.enterSettle
    else s.enterLead
  | .none =>
    match s.tm.peer with
    | some _ => if seek || s.tm.moving then s.suspend else s.enterLead
    | none =>
      if seek then s.waitTenure
      else if s.tm.moving then s.suspend
      else s.enterLead
  | .asking _ => s.setPhase .tenureWait
  | .ending _ _ => s.suspend

/-- The engine positions the sector in hand: its index is the done count and its target is formed afresh (R92, R93). -/
def State.position (s : State) : State :=
  match s.activeRequest with
  | none => s
  | some r => (s.onTe fun t => { t with sector := r.done, target := s.nextTarget r }).positionAt

/-! Selection and what follows an idle engine. -/

/-- The engine takes a chosen record (R84, R92). -/
def State.takeRequest (s : State) (r : Request) : State :=
  let s := s.onRequest r.id fun x => { x with state := .active }
  let s := s.onTe fun t => { t with
    request := some r.id
    sector := r.done
    target := s.nextTarget r
    lastSlip := .none
    maintenanceOver := false }
  s.loadAhead.position

/-- Selection, while the engine is idle (R82). A record whose positioning suspends it at once waits for the next run
(log 8). -/
def State.select (s : State) : State :=
  if s.te.phase == .idle then
    let s := s.formEligible
    match s.choice with
    | none => s
    | some r => s.takeRequest r
  else s

/-- An exchange of the engine's request is in progress (R91). -/
def State.exchangeInProgress (s : State) : Bool :=
  match s.lu.exchange with
  | none => false
  | some x => !x.discarded && x.frame.body.isOrder && x.request.isSome && x.request == s.te.request

/-- The request is suspended after its current exchange; an ENDING request is not (R88, R97). -/
def State.suspendAfterExchange (s : State) : State :=
  match s.activeRequest with
  | none => s
  | some r =>
    if r.state == .ending then s
    else if s.exchangeInProgress then s.onTe fun t => { t with suspendAfter := true }
    else s.suspend

/-- The own tenure goes from HOLDING to ENDING: a TENURE not started is withdrawn, the engine is told, and the RELEASE
is offered once the engine is IDLE (R134, R136, R137). With the own tenure ENDING selection finds nothing (R78). -/
def State.endTenure (s : State) : State :=
  match s.tm.own with
  | .holding c n =>
    (((s.setOwn (.ending c n)).withdraw FrameBody.isTenure).suspendAfterExchange).offerRelease
  | _ => s

/-- With the engine IDLE and no request that needs the positioner, the own tenure ends (R136). -/
def State.idleTenureTest (s : State) : State :=
  if s.te.phase == .idle && s.tm.own.isHolding && !s.wq.needsPositioner then s.endTenure else s

/-- What follows when the engine has gone IDLE: selection, the test of R136, a RELEASE that waited (R82, R136, R137). -/
def State.engineIdled (s : State) : State := s.select.idleTenureTest.offerRelease

/-- The engine's request ends and the engine's idleness is acted on (R110). -/
def State.endRequest (s : State) (st : Status) (f : Option ElementFault) (m : Bool) : State :=
  (s.finish st f m).engineIdled

/-- An act that may end or suspend the engine's request: an engine that has gone IDLE in it is followed up; one that was
IDLE before it is not, since it selects at slot events alone (R82). -/
def State.following (s : State) (act : State → State) : State :=
  let t := act s
  if s.te.phase != .idle && t.te.phase == .idle then t.engineIdled else t

/-- Positioning, and what follows where it suspended the request (R93, R97). -/
def State.reposition (s : State) : State := s.following State.position

/-- The request goes on by `k`, unless a suspension taken during the exchange takes effect now (R97). -/
def State.goOn (s : State) (k : State → State) : State :=
  if s.te.suspendAfter then s.suspend.engineIdled else k s

/-! Slips and displacements. -/

/-- The fault of a ninth slip (R101). -/
def SlipCause.fault : SlipCause → ElementFault
  | .buffer => .hostOverrun
  | _ => .line

/-- A sector slips: the ninth slip ends the request, others wait a revolution (R101). -/
def State.slip (s : State) (cause : SlipCause) : State :=
  match s.activeRequest with
  | none => s
  | some r =>
    let s := s.withdraw FrameBody.isTransfer
    if Config.slipLimit ≤ r.slips then s.endRequest .fault (some cause.fault) false
    else
      ((s.onRequest r.id fun x => { x with slips := x.slips + 1 }).onTe fun t => { t with
        lastSlip := cause }).goOn fun s => s.setPhase .leadWait

/-- A displacement: the fourth ends the request; otherwise the request goes on by `k` under own tenure, and is
suspended without it (R105). -/
def State.displace (s : State) (k : State → State) : State :=
  match s.activeRequest with
  | none => s
  | some r =>
    if Config.displacementLimit ≤ r.displacements then s.endRequest .fault (some .positionerLost) false
    else
      let s := s.onRequest r.id fun x => { x with displacements := x.displacements + 1 }
      if s.tm.own.isHolding then s.goOn k else s.suspend.engineIdled

/-! The answers of the Tenure Manager to the engine. -/

/-- The own tenure has come to HOLDING, or taken a new cylinder: an engine that waits seeks there, or positions afresh
where its target lies on another cylinder (R94, R133). -/
def State.tenureGranted (s : State) (c : Nat) : State :=
  if s.te.phase == .tenureWait then
    if s.te.target.cylinder = c then s.offerSeek else s.reposition
  else s

/-- The exchange of a re-announcement has ended with the TENURE pending again: an engine that asked for another cylinder
meanwhile positions afresh, and its ask changes the cylinder of that TENURE (R133, R134). -/
def State.settleAsk (s : State) (b : FrameBody) : State :=
  match b with
  | .tenure c =>
    if s.tm.own.isHolding && s.te.phase == .tenureWait && s.te.target.cylinder != c then s.reposition else s
  | _ => s

/-- The ask is refused: an engine that waits gives its request back (R94). -/
def State.tenureRefused (s : State) : State :=
  if s.te.phase == .tenureWait then s.giveBack.engineIdled else s

/-- The own tenure becomes HOLDING; while the drive is not UP it goes ENDING at once (R133, R136). -/
def State.holdTenure (s : State) (c n : Nat) : State :=
  let s := s.setOwn (.holding c n)
  if s.rdm.drive = .up then s.tenureGranted c else s.endTenure

/-- An own TENURE for a cylinder is settled by ACK or undecided silence (R133, R134). -/
def State.tenureSettled (s : State) (c : Nat) : State :=
  match s.tm.own with
  | .asking a => s.holdTenure a s.cfg.tenure
  | .holding _ n => (s.setOwn (.holding c n)).tenureGranted c
  | .ending _ n => (s.setOwn (.ending c n)).offerRelease
  | .none => s

/-- An own TENURE is answered CLASH: own tenure NONE, then the peer record HOLDING at UNKNOWN, and the ask refused
(R133, R134). An engine in SEEK whose order has not begun positions afresh (log 23). -/
def State.tenureClashed (s : State) (n : Nat) : State :=
  let s := ((s.setOwn .none).withdraw FrameBody.isTenure).peerHolds none n
  if s.te.phase == .seek && !s.exchangeInProgress then (s.withdraw FrameBody.isOrder).reposition
  else s.tenureRefused

/-- The own ask is withdrawn because of a peer notice (R139, R142). -/
def State.withdrawAsk (s : State) : State :=
  ((s.setOwn .none).withdraw FrameBody.isTenure).tenureRefused

end Sys2Proof.Machine
end

