-- ==== Sys2Proof/Machine/Replies.lean ====
section
/-! DEFINITION. The end of an exchange with the drive (Sections 5, 6, 9): a sector done (R102, R106, R107), the other
replies (R103 to R105), the loss of the drive (R112, R164 to R166) and silence (R104, R126). -/

namespace Sys2Proof.Machine

open Sys2Proof

/-! The loss of the drive. -/

/-- The monitor's own records at the entry to DOWN (R164). -/
def Monitor.enterDown (m : Monitor) : Monitor :=
  { m with drive := .down, counter := none, silence := 0, recovery := 0, resync := .awaitingIndex }

/-- The engine at the entry to DOWN: an exchange in progress finishes first, otherwise the request ends (R112, R165). -/
def State.engineDown (s : State) : State :=
  match s.activeRequest with
  | none => s
  | some r =>
    if s.exchangeInProgress then s.onTe fun t => { t with downAfter := true }
    else if r.state == .ending then s.finish .aborted none false
    else s.finish .fault (some .driveDown) false

/-- The Tenure Manager at the entry to DOWN (R166). -/
def State.tenureDown (s : State) : State := ((s.setPositioner none false).endTenure).offerRelease

/-- An own SEEK exchange in progress sees the loss (R166). -/
def LineUnit.markLost (l : LineUnit) : LineUnit :=
  { l with exchange := l.exchange.map fun x => { x with lost := true } }

/-- The drive goes DOWN from UP or RESYNC; in DOWN it stays DOWN without effect (R163, R164). -/
def State.driveDown (s : State) : State :=
  if s.rdm.drive = .down then s
  else (((s.onRdm Monitor.enterDown).raise .drive).onLu LineUnit.markLost).engineDown.tenureDown

/-! The end of the engine's own exchange. -/

/-- The own exchange has ended (R115). -/
def State.endExchange (s : State) : State := s.onLu fun l => { l with exchange := none }

/-- The exchange was of the order of the engine's request (R111: after an expiry the engine takes no action on it). -/
def State.ownsExchange (s : State) (x : Exchange) : Bool := x.request.isSome && x.request == s.te.request

/-- A buffer made RECEIVING for the order becomes EMPTY, its words not used (R99). -/
def State.releaseReceiving (s : State) : State :=
  s.onTe fun t => { t with
    bufA := if t.bufA.state = .receiving then .empty else t.bufA
    bufB := if t.bufB.state = .receiving then .empty else t.bufB }

/-- The sector in hand is not done: an ENDING request completes ABORTED (R111), a request whose drive went DOWN
meanwhile ends DRIVE DOWN (R112), any other goes by `k`. -/
def State.notDone (s : State) (k : State → State) : State :=
  match s.activeRequest with
  | none => s
  | some r =>
    let s := s.releaseReceiving
    if r.state = .ending then s.endRequest .aborted none false
    else if s.te.downAfter then s.endRequest .fault (some .driveDown) false
    else k s

/-- The drive lost by a reply or by silence: the engine's request has ended first (R104, R112), the drive goes DOWN, and
the idle engine is followed up. -/
def State.loseDrive (s : State) (owned : Bool) : State :=
  s.following fun s =>
    let s :=
      if owned then
        match s.activeRequest with
        | none => s
        | some r =>
          if r.state = .ending then s.releaseReceiving.finish .aborted none false
          else s.releaseReceiving.finish .fault (some .driveDown) false
      else s
    s.driveDown

/-! A sector done. -/

/-- The done count and the sector index rise by one, and the per-sector counts return to 0 (R102, acts 1 and 2). -/
def State.countSector (s : State) (r : Request) : State :=
  (s.onRequest r.id fun x => { x with done := x.done + 1, retries := 0, displacements := 0, slips := 0 }).onTe fun t =>
    { t with sector := t.sector + 1, lastSlip := .none }

/-- The sector of a WRITE or APPEND is reported to the Extent Check and the Hold Manager (R102 acts 4 and 5, R34, R37,
R158). A DIRECT WRITE reports nothing. -/
def State.reportWritten (s : State) (r : Request) : State :=
  match r.kind, r.extent with
  | .write, some (t, n) =>
    let s := s.onDescriptor t n fun d => { d with written := true }
    match r.hold with
    | none => s
    | some id => s.onEntry id fun e => { e with written := true }
  | .append, some (t, n) => s.onDescriptor t n Descriptor.appended
  | _, _ => s

/-- The LOADED buffer of the sector in hand becomes EMPTY (R98, R102, R106). -/
def State.emptyLoaded (s : State) (r : Request) : State :=
  match s.te.findBuf (SectorBuffer.loadedFor r.id r.done) with
  | none => s
  | some n => s.setBuf n .empty

/-- The words of the LOADED buffer of the sector in hand. -/
def Engine.loadedWords (t : Engine) (r : Request) : List Word :=
  match t.findBuf (SectorBuffer.loadedFor r.id r.done) with
  | none => []
  | some n => (t.buf n).words

/-- The RECEIVING buffer turns to carrying its sector to host memory (R99). -/
def State.unloadSector (s : State) (r : Request) (words : List Word) : State :=
  match s.te.findBuf fun b => b.state == .receiving with
  | none => s
  | some n => (s.setBuf n ⟨.unloading, r.done, words, r.id, false⟩).askTransfer (.unload n (r.sectorAddress r.done))

/-- A sector's data is handled by kind (R102 act 3, R99, R106, R107). -/
def State.handleData (s : State) (r : Request) (words : List Word) : State :=
  match r.kind with
  | .read => s.unloadSector r words
  | .directRead => s.unloadSector r words
  | .compare => s.emptyLoaded r
  | .scan => s.releaseReceiving
  | _ => s

/-- Whether the sector just done ends the request DONE, and with which M (R102, R106, R107). `same` is the outcome of
the COMPARE's or SCAN's test of this sector. -/
def Request.stops (r : Request) (same : Bool) : Option Bool :=
  let finished := r.count ≤ r.done + 1
  match r.kind with
  | .compare => if !same then some false else if finished then some true else none
  | .scan => if same then some true else if finished then some false else none
  | _ => if finished then some false else none

/-- After a sector done: ABORTED for an ENDING request (R111), DRIVE DOWN after a loss (R112), DONE where it stops, else
the next sector is loaded ahead and positioned (R102). -/
def State.afterSector (s : State) (r : Request) (same : Bool) : State :=
  if r.state = .ending then s.endRequest .aborted none false
  else if s.te.downAfter then s.endRequest .fault (some .driveDown) false
  else
    match r.stops same with
    | some m => s.endRequest .done none m
    | none => s.goOn fun s => s.loadAhead.reposition

/-- The test of a clean sector: all 128 words for a COMPARE (R106), the first k words for a SCAN (R107). -/
def State.sectorTest (s : State) (r : Request) (words : List Word) : Bool :=
  match r.kind with
  | .compare => s.te.loadedWords r == words
  | .scan => words.take r.key.length == r.key
  | _ => true

/-- DATA clean to the engine's READ order (R102). -/
def State.dataClean (s : State) (words : List Word) : State :=
  match s.activeRequest with
  | none => s
  | some r => (((s.handleData r words).countSector r).afterSector r (s.sectorTest r words))

/-- WRITTEN to the engine's WRITE order (R102). -/
def State.sectorWritten (s : State) : State :=
  match s.activeRequest with
  | none => s
  | some r => (((s.emptyLoaded r).countSector r).reportWritten r).afterSector r true

/-- DATA with DATA CHECK (R103). -/
def State.dataCheck (s : State) : State :=
  match s.activeRequest with
  | none => s
  | some r =>
    if s.cfg.retryLimit ≤ r.retries then s.endRequest .fault (some .dataCheck) false
    else (s.onRequest r.id fun x => { x with retries := x.retries + 1 }).goOn fun s => s.setPhase .leadWait

/-! Silence of the drive (R104, R119, R126). -/

/-- What the end of a SEEK exchange with no valid answer does to the positioner record (R132, R166). -/
def State.seekUnanswered (s : State) (x : Exchange) : State :=
  if x.frame.body.isSeek && x.lost then s.setPositioner none false
  else if x.frame.body.isSeek && x.cylinderFell then s.setPositioner none true
  else s

/-- The owner of an order that went unanswered: a SEEK or SENSE is offered again at the next slot event (R95, R96), a
transfer order slips (R101, R104). -/
def State.orderUnanswered (s : State) (b : FrameBody) : State :=
  s.notDone fun s => if b.isTransfer then s.slip .line else s.goOn id

/-- An exchange of an own order ends as a silence (R119, R126). -/
def State.orderSilent (s : State) (x : Exchange) : State :=
  let s := s.endExchange.seekUnanswered x
  if x.discarded then s
  else if x.lost then (if s.ownsExchange x then s.notDone id else s)
  else
    let owned := s.ownsExchange x
    if Config.silenceLimit ≤ s.rdm.silence + 1 then s.loseDrive owned
    else
      let s := s.onRdm fun m => { m with silence := m.silence + 1 }
      if owned then s.orderUnanswered x.frame.body else s

/-- A drive frame was taken as an answer: the drive-silence count returns to 0 (R126). -/
def State.driveHeard (s : State) : State := s.onRdm fun m => { m with silence := 0 }

/-- What a BUSY leaves of the positioner record at the end of the own exchange (R132, R166). -/
def State.busyRecord (s : State) (x : Exchange) : State :=
  if x.frame.body.isSeek && x.lost then s.setPositioner none false else s.setMoving true

/-- The seek timeout (R96). -/
def State.seekTimedOut (s : State) : State := s.displace State.offerSense

end Sys2Proof.Machine
end

