-- ==== Sys2Proof/Machine/Chains.lean ====
section
/-! DEFINITION. The Chain Unit's progress (Section 3): fetches (R44, R49), stopping (R54, R87), ending (R55, R56),
maintenance (R63, R65), completion (R51) and the entry to SILENCED (R57, R89, R128, R144). -/

namespace Sys2Proof.Machine

open Sys2Proof

/-! Fetches. -/

/-- Some fetch-wait reason stands (R49). -/
def FetchWait.any (w : FetchWait) : Bool := w.queueFull || w.holdWaiting || w.unholdWaiting || w.maintenance

/-- A fetch is called for: asked now, or due once no reason stands (R44, R49). One fetch is asked at a time. -/
def State.callFetch (s : State) (n : Fin 4) : State :=
  let c := s.chain n
  if c.state = .running then
    if c.wait.any then s.onChain n fun c => { c with fetchDue := true }
    else if s.hp.waiting.contains (.fetch n) || s.hp.current == some (.fetch n) then s
    else s.askTransfer (.fetch n)
  else s

/-- Fetch-wait reasons change; when the last leaves the set and a fetch is due, it is asked (R49). -/
def State.clearReason (s : State) (n : Fin 4) (f : FetchWait → FetchWait) : State :=
  let s := s.onChain n fun c => { c with wait := f c.wait }
  let c := s.chain n
  if c.fetchDue && !c.wait.any then (s.onChain n fun c => { c with fetchDue := false }).callFetch n
  else s

/-- A fetch-wait reason is set (R49). -/
def State.setReason (s : State) (n : Fin 4) (f : FetchWait → FetchWait) : State :=
  s.onChain n fun c => { c with wait := f c.wait }

/-- A fetch asked and not begun is withdrawn (R44). -/
def State.withdrawFetch (s : State) (n : Fin 4) : State := s.withdrawTransfer (.fetch n)

/-- A fetch of the chain has begun. -/
def State.fetching (s : State) (n : Fin 4) : Bool := s.hp.current == some (.fetch n)

/-! The end of a chain and of maintenance. -/

/-- A DIRECT request in hand finishes its sector, and does not return to the queue (R65, R85). -/
def State.markDirectOver (s : State) : State :=
  if s.activeRequest.any Request.isDirect then s.onTe fun t => { t with maintenanceOver := true } else s

/-- The adapter leaves MAINTENANCE; a SILENCED one stays SILENCED (R65, R174). DESIGN CHOICE: several queued DIRECT
requests complete in admission order (log 52). -/
def State.leaveMaintenance (s : State) : State :=
  let s := s.onHp fun h => { h with
    maintaining := none
    adapter := if h.adapter = .maintenance then .running else h.adapter }
  let s := s.markDirectOver
  let s := s.completeQueued Request.isDirect .aborted none
  [0, 1, 2, 3].foldl (fun s n => s.clearReason n fun w => { w with maintenance := false }) s

/-- A chain becomes ENDED (R56). -/
def State.endChain (s : State) (n : Fin 4) : State :=
  let s := s.onChain n fun c => { c with state := .ended, held := none, wait := noWait, fetchDue := false }
  let s := s.removeExplicit n
  let s := if s.hp.maintaining = some n then s.leaveMaintenance else s
  s.raise (.chain n)

/-- The conditions of R55; a fetch under way still brings an element (log 11). -/
def State.chainOver (s : State) (n : Fin 4) : Bool :=
  let c := s.chain n
  c.inFlight == 0 && !s.fetching n && (c.state == .stopping || (c.state == .running && c.endNoted))

/-- A chain ends when its conditions are met (R55). -/
def State.endIfOver (s : State) (n : Fin 4) : State := if s.chainOver n then s.endChain n else s

/-! Stopping. -/

/-- The held element of a chain that stops completes (R48, R54, R57). -/
def State.dropHeld (s : State) (n : Fin 4) (st : Status) (f : Option ElementFault) : State :=
  match (s.chain n).held with
  | none => s
  | some h =>
    (s.onChain n fun c => { c with held := none }).completePlain h.info st f
      (selectorPlace (s.chain n) h.info.kind h.words)

/-- What a chain leaves on entry to STOPPING, whatever the outcome given to it (R54): its fetch, its held element, its
queued requests, its waiting HOLD, in this order (log 41). The HOLD that waits is settled as the chain found it: an end
of the chain's requests that would make its entry HELD makes it DONE no more (R50). -/
def State.shedWork (s : State) (n : Fin 4) (st : Status) (f : Option ElementFault) : State :=
  let s := s.withdrawFetch n
  let s := s.dropHeld n st f
  let holds := s.hm.awaited.filter fun e => e.chain == n
  let s := (s.detachHolds holds).completeQueued (fun r => r.elem.chain == n) st f
  holds.foldl (State.stopHold st f) s

/-- A chain becomes STOPPING: no reason stands and no fetch is due (R54). -/
def State.markStopping (s : State) (n : Fin 4) : State :=
  s.onChain n fun c => { c with state := .stopping, wait := noWait, fetchDue := false }

/-- A RUNNING chain enters STOPPING (R54, R87), and ends at once when nothing is in flight (R55). -/
def State.stopChain (s : State) (n : Fin 4) : State :=
  if (s.chain n).state = .running then
    ((s.markStopping n).shedWork n .aborted none).endIfOver n
  else s

/-- The ACTIVE request of an aborted chain turns ENDING; with no exchange in progress it ends at once (R43, R88). -/
def State.abortActive (s : State) (n : Fin 4) : State :=
  match s.activeRequest with
  | none => s
  | some r =>
    if r.elem.chain = n ∧ r.state = .active then
      let s := s.onRequest r.id fun x => { x with state := .ending }
      if s.exchangeInProgress then s else s.endRequest .aborted none false
    else s

/-! Completion (R51). -/

/-- The flags and the in-flight count take a completion, and END is noted (R51 acts 1, 2 and 4, R52). -/
def Chain.take (c : Chain) (x : Completion) : Chain :=
  { c with
    flags := flagsAfter c.flags x
    inFlight := c.inFlight - 1
    selector := x.newDefault.getD c.selector
    endNoted := c.endNoted || x.info.last }

/-- A FAULT without CARRY PAST FAULT raises FAULT and stops the chain (R53, R54). -/
def State.faultStop (s : State) (x : Completion) : State :=
  if x.status = .fault ∧ x.info.carryPast = false then (s.raise .fault).stopChain x.info.chain else s

/-- The fetch-wait reasons that end with a completion (R49, R61; log 10). -/
def Completion.endsReasons (x : Completion) (w : FetchWait) : FetchWait :=
  { w with
    holdWaiting := w.holdWaiting && !x.endsHoldWait
    unholdWaiting := w.unholdWaiting && !x.endsUnholdWait }

/-- The Chain Unit takes a completion whose record has been written (R51). -/
def State.takeCompletion (s : State) (x : Completion) : State :=
  let n := x.info.chain
  let s := s.onChain n fun c => c.take x
  let s := s.faultStop x
  let s := if x.asksNext then s.callFetch n else s
  let s := s.clearReason n x.endsReasons
  s.endIfOver n

/-! The entry to SILENCED (R57, R89, R112, R128, R144, R161). -/

/-- The Line Unit at the entry: every pending frame is withdrawn, and an own exchange's answer is not taken (R128). -/
def LineUnit.silence (l : LineUnit) : LineUnit :=
  { l with frames := [], exchange := l.exchange.map fun x => { x with discarded := true } }

/-- The Tenure Manager gives up its tenure, without RELEASE (R144). -/
def TenureManager.silence (t : TenureManager) : TenureManager :=
  { t with own := .none, peer := none, preemptMark := false, courtesy := false }

/-- A chain that is RUNNING or STOPPING at the entry: its waiting work completes FAULT SILENCED (R57). -/
def State.silenceChain (s : State) (n : Fin 4) : State :=
  if (s.chain n).runs then (s.markStopping n).shedWork n .fault (some .silenced) else s

/-- The engine's request ends at once (R112). -/
def State.silenceEngine (s : State) : State :=
  match s.activeRequest with
  | none => s
  | some _ => s.releaseReceiving.finish .fault (some .silenced) false

/-- The adapter becomes SILENCED (R128; the order of the acts: log 24). The waiting HOLDs complete first, so that no
removal makes one DONE; their entries are removed when the requests have gone (R57, R161). -/
def State.becomeSilenced (s : State) : State :=
  let s := s.onLu LineUnit.silence
  let s := s.onHp fun h => { h with adapter := .silenced, maintaining := none }
  let awaited := s.hm.awaited.map HoldEntry.id
  let s := s.silenceHolds.silenceEngine
  let s := [0, 1, 2, 3].foldl State.silenceChain s
  let s := awaited.foldl State.removeEntryId s
  let s := (s.onTm TenureManager.silence).review
  let s := [0, 1, 2, 3].foldl State.endIfOver s
  s.raise .line

end Sys2Proof.Machine
end

