-- ==== Sys2Proof/Machine/Elements.lean ====
section
/-! DEFINITION. A fetched element: taken, checked and evaluated (R44 to R46), routed by kind (R47), held for a queue
place (R48), admitted to the Work Queue (R31, R33, R69, R70), or carried out at once (R58 to R64). -/

namespace Sys2Proof.Machine

open Sys2Proof

/-! Admission of disk elements. -/

/-- The options and place of an element that the adapter keeps (R44). -/
def elemInfo (n : Fin 4) (addr : Word) (k : ElementKind) (e : Element) : ElemInfo :=
  ⟨n, addr, k, e.last, e.stream, e.carryPast⟩

/-- A STREAM element is admitted: the next fetch is called for (R47, R49). -/
def State.admittedFetch (s : State) (i : ElemInfo) : State :=
  if i.stream && !i.last then s.callFetch i.chain else s

/-- The record of a request as it enters the queue (R66); cost, slack and URGENT are formed after. -/
def newRequest (id : Nat) (i : ElemInfo) (k : RequestKind) (e : Element) (extent : Option (Table × Nat))
    (first count level : Nat) (changed short : Bool) (hold : Option Nat) (st : RequestState) : Request where
  id := id
  elem := i
  kind := k
  extent := extent
  firstBlock := first
  direct := e.direct
  count := count
  done := 0
  buffer := e.buffer
  key := e.key
  budget := budgetOf e.budget
  lateAction := e.lateAction
  started := false
  urgent := false
  late := false
  cost := 0
  slack := none
  retries := 0
  displacements := 0
  slips := 0
  hold := hold
  changedOut := changed
  shortOut := short
  level := level
  state := st

/-- A request enters the queue behind every record, with cost, slack and URGENT formed at once (R66, R69). -/
def State.enqueue (s : State) (r : Request) : State :=
  s.onWq fun q => { records := q.records ++ [s.withCost r], nextId := q.nextId + 1 }

/-- A DIRECT element enters the queue (R64, R70). -/
def State.admitDirect (s : State) (i : ElemInfo) (k : RequestKind) (e : Element) : State :=
  (s.enqueue (newRequest s.wq.nextId i k e none 0 1 (s.chain i.chain).level false false none .ready)).admittedFetch i

/-- An admitted extent request takes its hold reference, on a Common extent, and enters the queue (R31, R70). -/
def State.admitExtent (s : State) (i : ElemInfo) (k : RequestKind) (e : Element) (a : Admission) : State :=
  let rec' := fun (hold : Option Nat) (st : RequestState) (q : State) =>
    q.enqueue (newRequest q.wq.nextId i k e a.place a.first a.count a.level a.changed a.short hold st)
  let s :=
    match a.table with
    | .priv => rec' none .ready s
    | .common =>
      let x := s.relyOn i.chain k a.first a.count (budgetOf e.budget)
      rec' (some x.1) (if x.2.hm.isHeld x.1 then .ready else .holdWait) x.2
  s.admittedFetch i

/-- An APPEND admitted on a full log completes at once: DONE with S and no sector (R33). -/
def State.completeFull (s : State) (i : ElemInfo) (a : Admission) : State :=
  (s.complete { s.outcome i .done none (outcomeBits .done false false a.changed true false) 0 a.place with
    asksNext := !i.last && !i.stream }).admittedFetch i

/-- A disk element with a queue place goes on: through the Extent Check, or straight in for DIRECT (R47, R48). -/
def State.admitDisk (s : State) (i : ElemInfo) (k : RequestKind) (e : Element) : State :=
  if k = .directRead ∨ k = .directWrite then s.admitDirect i k e
  else
    let c := s.chain i.chain
    match s.ec.examine c i.kind e with
    | .faulted f => s.completePlain i .fault (some f) (selectorPlace c i.kind e)
    | .passed a =>
      let s := s.onDescriptor a.table a.index fun d => d.admitted (if k = .append then a.count else 0)
      if a.full then s.completeFull i a else s.admitExtent i k e a

/-- An element becomes its chain's held element (R48). -/
def State.holdBack (s : State) (i : ElemInfo) (e : Element) : State :=
  (s.onChain i.chain fun c => { c with held := some ⟨i, e⟩ }).setReason i.chain fun w => { w with queueFull := true }

/-- A disk element whose condition is true (R47, R48, R64). DESIGN CHOICE: with a place free it goes on although another
chain has a held element that has not been handed on yet (log 51). -/
def State.routeDisk (k : RequestKind) (e : Element) (i : ElemInfo) (s : State) : State :=
  if (k = .directRead ∨ k = .directWrite) ∧ s.hp.maintaining ≠ some i.chain then
    s.completePlain i .fault (some .illegalElement) none
  else if Config.queuePlaces ≤ s.wq.records.length then s.holdBack i e
  else s.admitDisk i k e

/-- The held element of a chain goes on while a place is free (R48). -/
def State.resumeHeld (s : State) (n : Fin 4) : State :=
  match (s.chain n).held with
  | none => s
  | some h =>
    if Config.queuePlaces ≤ s.wq.records.length then s
    else
      let s := (s.onChain n fun c => { c with held := none }).clearReason n fun w => { w with queueFull := false }
      match h.info.kind with
      | .disk k => s.admitDisk h.info k h.words
      | _ => s

/-- Held elements go on, the lower slot first (R48). DESIGN CHOICE: at a command of its own, not in the event that frees
the place (log 51). -/
def State.resumeAll (s : State) : State := [0, 1, 2, 3].foldl State.resumeHeld s

/-! Hold elements (R61, R148, R157). -/

/-- A HOLD whose condition is true. -/
def State.routeHold (m : Mode) (e : Element) (i : ElemInfo) (s : State) : State :=
  let c := s.chain i.chain
  match s.ec.examine c i.kind e with
  | .faulted f => s.completePlain i .fault (some f) (selectorPlace c i.kind e)
  | .passed a =>
    let s := s.onDescriptor a.table a.index fun d => d.admitted 0
    let h := s.hm.newEntry a.first a.count m i.chain .explicit 0 (budgetOf e.budget) (some (i, a.table, a.index))
    let s := s.makeEntry h
    if s.hm.isHeld h.id then s else s.setReason i.chain fun w => { w with holdWaiting := true }

/-- An UNHOLD whose condition is true. -/
def State.routeUnhold (e : Element) (i : ElemInfo) (s : State) : State :=
  let c := s.chain i.chain
  match s.ec.examine c i.kind e with
  | .faulted f => s.completePlain i .fault (some f) (selectorPlace c i.kind e)
  | .passed a =>
    let s := s.onDescriptor a.table a.index fun d => d.admitted 0
    match s.hm.explicitMatch i.chain a.first a.count with
    | none => s.completePlain i .fault (some .noHold) a.place
    | some h =>
      if h.refs = 0 then
        let s := s.removeEntry h
        s.complete (s.outcome i .done none clearFlags a.count a.place)
      else (s.onEntry h.id fun x => { x with unholdElem := some (i, a.table, a.index) }).setReason i.chain fun w =>
        { w with unholdWaiting := true }

/-! INSPECT (R40, R59, R124, R145). -/

/-- The image write is asked and the completion write after it (R51, R59). -/
def State.answerInspect (s : State) (i : ElemInfo) (e : Element) (image : List Word) (changed : Bool)
    (place : Option (Table × Nat)) : State :=
  let s := s.askTransfer (.image e.buffer image)
  s.complete (s.outcome i .done none (outcomeBits .done false false changed false false) 0 place)

/-- INSPECT of a descriptor (R40). -/
def State.inspectDescriptor (e : Element) (i : ElemInfo) (s : State) : State :=
  let c := s.chain i.chain
  match s.ec.examine c i.kind e with
  | .faulted f => s.completePlain i .fault (some f) (selectorPlace c i.kind e)
  | .passed a =>
    let image := (s.ec.get a.table a.index).image
    let s := s.onDescriptor a.table a.index fun d =>
      if e.clear then (d.admitted 0).clearMarks else d.admitted 0
    s.answerInspect i e image a.changed a.place

/-- INSPECT of the line record (R59, R124). -/
def State.inspectLine (e : Element) (i : ElemInfo) (s : State) : State :=
  let image := lineRecord s
  let s := if e.clear then s.onLu fun l => { l with collisionCount := 0, armed := true } else s
  s.answerInspect i e image false none

/-- INSPECT of the position record (R59, R145). -/
def State.inspectPosition (e : Element) (i : ElemInfo) (s : State) : State :=
  let image := positionRecord s
  let s := if e.clear then s.onTm fun t => { t with peerSeeks := 0 } else s
  s.answerInspect i e image false none

/-! SELECT, SET CLOCK, MAINTAIN (R58, R60, R62). -/

/-- SELECT: the selector as written becomes the default at its completion (R58; log 9). -/
def State.routeSelect (e : Element) (i : ElemInfo) (s : State) : State :=
  s.complete { s.outcome i .done none clearFlags 0 (some (e.selector.table, e.selector.index)) with
    newDefault := some e.selector }

/-- Hours of a SET CLOCK. -/
def clockHours (e : Element) : Nat := field e.w2 8 5
/-- Minutes of a SET CLOCK. -/
def clockMinutes (e : Element) : Nat := field e.w2 0 6
/-- Seconds of a SET CLOCK. -/
def clockSeconds (e : Element) : Nat := field e.w3 8 6
/-- Tenths of a SET CLOCK. -/
def clockTenths (e : Element) : Nat := field e.w3 0 4

/-- The four fields are in range (R60). -/
def clockLegal (e : Element) : Bool :=
  clockHours e ≤ 23 && clockMinutes e ≤ 59 && clockSeconds e ≤ 59 && clockTenths e ≤ 9

/-- SET CLOCK: load, start, and complete with the time just set (R60, R182). -/
def State.routeClock (e : Element) (i : ElemInfo) (s : State) : State :=
  if clockLegal e then
    let s := s.onHp fun h => { h with
      tod := h.tod.load (clockHours e) (clockMinutes e) (clockSeconds e) (clockTenths e) }
    s.completePlain i .done none none
  else s.completePlain i .fault (some .illegalElement) none

/-- A chain that does not maintain waits: its fetch not begun is withdrawn and due (R63). A chain that is not RUNNING
fetches nothing and gets no reason (log 20). -/
def State.waitMaintenance (n : Fin 4) (s : State) (m : Fin 4) : State :=
  if m = n ∨ (s.chain m).state ≠ .running then s
  else
    let asked := s.hp.waiting.contains (.fetch m)
    (s.withdrawFetch m).onChain m fun c => { c with
      wait := { c.wait with maintenance := true }
      fetchDue := c.fetchDue || asked }

/-- The adapter enters MAINTENANCE (R62, R63). -/
def State.enterMaintenance (s : State) (n : Fin 4) : State :=
  let s := s.onHp fun h => { h with adapter := .maintenance, maintaining := some n }
  [0, 1, 2, 3].foldl (State.waitMaintenance n) s

/-- MAINTAIN on (R62). -/
def State.routeMaintainOn (i : ElemInfo) (s : State) : State :=
  if s.hp.maintaining = some i.chain then s.completePlain i .done none none
  else if s.cfg.maintenance = true ∧ (s.chain i.chain).level = 0 ∧ s.hp.maintaining = none then
    (s.enterMaintenance i.chain).completePlain i .done none none
  else s.completePlain i .fault (some .illegalElement) none

/-- MAINTAIN off (R62, R65); its own completion is asked before those of the requests it aborts (log 52). -/
def State.routeMaintainOff (i : ElemInfo) (s : State) : State :=
  let s := s.completePlain i .done none none
  if s.hp.maintaining = some i.chain then s.leaveMaintenance else s

/-! Taking a fetched element. -/

/-- A fetched element of a chain that is no longer RUNNING completes without being examined (R44, R57). Its record names
no table and index, since its selector is not looked at (log 37). -/
def State.takeUnexamined (s : State) (i : ElemInfo) : State :=
  if s.hp.adapter = .silenced then s.completeOnlyF i .silenced false none
  else s.completePlain i .aborted none none

/-- An element with an illegal field (R45). -/
def State.takeIllegal (s : State) (i : ElemInfo) : State :=
  if i.kind = .unassigned then s.completeOnlyF i .illegalElement false none
  else s.completePlain i .fault (some .illegalElement) none

/-- The DMA read of an element has ended: the fetch of the chain under way brings the element, which is taken through
R45 and R46 and routed by `run` (R44). With no fetch under way there is nothing to end (log 2). -/
def State.takeElement (s : State) (k : ElementKind) (e : Element) (run : ElemInfo → State → State) : State :=
  match s.hp.current with
  | some (.fetch n) =>
    let c := s.chain n
    let i := elemInfo n c.next k e
    let s := s.endTransfer.onChain n fun c => { c with inFlight := c.inFlight + 1, next := c.next + 16 }
    if c.state ≠ .running then s.takeUnexamined i
    else if !legalFields k e then s.takeIllegal i
    else if !runCondition e.condition c.flags then s.completePlain i .skipped none (selectorPlace c k e)
    else run i s
  | _ => s

end Sys2Proof.Machine
end

