-- ==== Sys2Proof/Machine/Line.lean ====
section
/-! DEFINITION. The Line Unit (Section 6): starting a frame (R100, R115, R120), collisions (R122 to R124), answer windows
and silence (R116, R119, R125), frames heard (R114, R118, R121, R127) and the station clash (R128). -/

namespace Sys2Proof.Machine

open Sys2Proof

/-! The arbiter (R120). -/

/-- The rank of a frame (R120). -/
def FrameBody.rank : FrameBody → Nat
  | .read _ => 1
  | .write _ => 1
  | .seek _ => 2
  | .sense => 2
  | .release => 3
  | .free _ _ _ => 3
  | .tenure _ => 4
  | .preempt _ => 4
  | .claim _ _ _ _ => 5
  | .hello => 6

/-- A pending frame may start; a TENURE is held back while the courtesy wait stands (R138). -/
def State.mayStart (s : State) (f : Frame) : Bool := !(s.tm.courtesy && f.body.isTenure)

/-- The place of the frame of least rank among those that may start; within a rank, the first offered (R120). -/
def chosenAt (ok : Frame → Bool) : List Frame → Option (Nat × Frame)
  | [] => none
  | f :: rest =>
    match chosenAt ok rest with
    | none => if ok f then some (0, f) else none
    | some (i, g) => if ok f && f.body.rank ≤ g.body.rank then some (0, f) else some (i + 1, g)

/-- The arbiter's choice, with its place among the pending frames (R120). -/
def State.chosen (s : State) : Option (Nat × Frame) := chosenAt s.mayStart s.lu.frames

/-- No exchange is in progress, and the line has been free for the gap lengthened by the backoff that stands; after a
failed frame it counts from 5 quanta after that frame (R115, R122; log 5). -/
def State.lineFree (s : State) (line : LineTime) : Bool :=
  s.lu.exchange.isNone && s.lu.peerExchange.isNone && Config.lineGap + s.lu.backoff ≤ line.free &&
    (!s.lu.failedHeard || Config.failedFrameHold + Config.lineGap + s.lu.backoff ≤ line.sinceFailed)

/-! Starting a frame. -/

/-- The revolutions a TENURE carries: T for an ask, the revolutions left for a re-announcement, 0 included where a
tenure gone ENDING sends its re-announcement again (R133, R134; log 42). -/
def State.tenureRevolutions (s : State) : Nat :=
  match s.tm.own with
  | .holding _ n => n
  | .ending _ n => n
  | _ => s.cfg.tenure

/-- The words of a frame as it goes out (R114, 11.7). -/
def State.frameOut (s : State) (b : FrameBody) : List Word :=
  frameWords s.lu.station b.code (b.content s.tenureRevolutions)

/-- The data frame that follows a WRITE in the same exchange (R100, R116). -/
def State.emitData (s : State) (b : FrameBody) : State :=
  match b, s.activeRequest with
  | .write _, some r => s.emit (.frame (frameWords s.lu.station 4 (s.te.loadedWords r)))
  | _, _ => s

/-- A request's first READ or WRITE order begins: it is started, and an APPEND becomes the append owner with its first
offset fixed at the fill mark (R34, R76, R100). -/
def State.startRequest (s : State) (r : Request) : State :=
  if r.started then s
  else
    match r.kind, r.extent with
    | .append, some (t, n) =>
      let d := s.ec.get t n
      (s.onRequest r.id fun x => { x with started := true, firstBlock := d.base + d.fill }).onDescriptor t n fun d =>
        { d with owner := some r.id }
    | _, _ => s.onRequest r.id fun x => { x with started := true }

/-- The buffer of an inbound sector becomes RECEIVING (R99). -/
def State.reserveBuffer (s : State) (r : Request) : State :=
  if r.kind.outbound then s
  else
    match s.te.findBuf SectorBuffer.isEmpty with
    | none => s
    | some n => s.setBuf n ⟨.receiving, r.done, [], r.id, false⟩

/-- A transfer order has begun (R100). -/
def State.orderBegins (s : State) : State :=
  match s.activeRequest with
  | none => s
  | some r => ((s.startRequest r).reserveBuffer r).setPhase .exchange

/-- What the owner of a frame does when it starts on the line without collision (R100, R141, R152). -/
def State.frameStarted (s : State) (b : FrameBody) : State :=
  match b with
  | .read _ => s.orderBegins
  | .write _ => s.orderBegins
  | .preempt _ => s.onTm fun t => { t with preemptMark := t.peer.isSome }
  | .claim id _ _ _ => s.onEntry id fun e => { e with claimed := true }
  | _ => s

/-- The frames that make an exchange of one frame and are sent whole at their start (log 13). -/
def FrameBody.sentWhole : FrameBody → Bool
  | .free _ _ _ => true
  | .hello => true
  | _ => false

/-- The exchange a started frame opens; the frame went out clean, and its collision count is gone (R122). -/
def State.openExchange (s : State) (f : Frame) : Exchange :=
  ⟨{ f with collisions := 0 }, if f.body.isOrder then s.te.request else none, false, false, false, false, false⟩

/-- The frame at a place starts: it leaves the pending frames, the backoff is spent, its words go out (R115, R120,
R122). -/
def State.startFrame (s : State) (i : Nat) (f : Frame) : State :=
  let s := s.onLu fun l => { l with
    frames := l.frames.eraseIdx i
    backoff := 0
    failedHeard := false
    exchange := if f.body.sentWhole then none else some (s.openExchange f) }
  let s := (s.emit (.frame (s.frameOut f.body))).emitData f.body
  s.frameStarted f.body

/-- The arbiter's choice starts, if there is one (R115, R120). -/
def State.startChosen (s : State) : State :=
  match s.chosen with
  | none => s
  | some (i, f) => s.startFrame i f

/-! Notices decided unanswered, and abandonment. -/

/-- A notice is decided unanswered: the peer is reported silent, and the owner acts (R125, R133, R134, R141, R152). -/
def State.noticeUnanswered (s : State) (b : FrameBody) : State :=
  let s := s.peerAbsent
  match b with
  | .tenure c => s.tenureSettled c
  | .claim id _ _ _ => s.silentEntry id
  | _ => s

/-- The notices that take an answer (R116). -/
def FrameBody.isAnswered : FrameBody → Bool
  | .tenure _ => true
  | .preempt _ => true
  | .claim _ _ _ _ => true
  | _ => false

/-- A silence of a notice: sent again at its place among those of its rank with a new collision count, or decided
unanswered (R122, R123, R125). A re-announcement sent again settles the ask that the engine made for another cylinder
meanwhile (R134). -/
def State.noticeSilence (s : State) (f : Frame) : State :=
  if f.silences = 0 ∧ s.tm.presence ≠ .absent then
    (s.onLu fun l => { l with frames := { f with silences := 1, collisions := 0 } :: l.frames }).settleAsk f.body
  else s.noticeUnanswered f.body

/-- The last word of the own RELEASE, or its abandonment (R123, R137, R138; log 16). -/
def State.releaseGone (s : State) (reset : Bool) : State :=
  let s := if s.tm.own.isEnding then s.setOwn .none else s
  if reset then s else s.beginCourtesy

/-- The owner of an abandoned frame acts by kind (R123). -/
def State.abandonFrame (s : State) (f : Frame) : State :=
  if f.body.isOrder then s.endRequest .fault (some .line) false
  else if f.body.isAnswered then s.noticeSilence f
  else if f.body.isRelease then s.releaseGone f.reset
  else s

/-- The backoff of a station after the `k`-th collision (R122). -/
def backoffOf (station : Bool) (k : Nat) : Nat :=
  if (k % 2 == 1) == station then 2 * k else k

/-- The collision record takes a collision of a frame of kind `code` (R124). -/
def LineUnit.record (l : LineUnit) (code : Nat) : LineUnit :=
  { l with
    collisionCount := min Config.recordLimit (l.collisionCount + 1)
    lastCollided := code
    armed := false }

/-- The frame at a place collides (R122, R123, R124). -/
def State.collide (s : State) (i : Nat) (f : Frame) : State :=
  let g : Frame := { f with collisions := f.collisions + 1 }
  let s := if s.lu.armed then s.raise .line else s
  let s := s.onLu fun l => { (l.record f.body.code) with
    backoff := backoffOf l.station g.collisions
    failedHeard := false }
  if Config.collisionLimit ≤ g.collisions then
    ((s.onLu fun l => { l with frames := l.frames.eraseIdx i }).raise .line).abandonFrame g
  else s.onLu fun l => { l with frames := l.frames.set i g }

/-! Windows (R116). -/

/-- A transfer order of the peer. -/
def peerTransfers : PeerOrder → Bool
  | .sense => false
  | _ => true

/-- How many quanta must have run before an own exchange's window closes (R116; log 5). -/
def Exchange.window (x : Exchange) : Nat :=
  match x.frame.body with
  | .read _ => if x.slotBegun then Config.readWindow else Config.noPulseWindow
  | .write _ => if x.slotBegun then Config.writeWindow else Config.noPulseWindow
  | _ => Config.shortWindow

/-- How many quanta must have run before the window of the peer's exchange closes (R116). -/
def PeerExchange.window (x : PeerExchange) : Nat :=
  match x.order with
  | none => Config.shortWindow
  | some .read => if x.slotBegun then Config.readWindow else Config.noPulseWindow
  | some .sense => Config.shortWindow
  | some _ => if x.slotBegun then Config.writeWindow else Config.noPulseWindow

/-- An own exchange ends as a silence with this close of a window. A READ or WRITE whose ordered slot has begun has its
early window behind it first (R116; log 43). -/
def Exchange.ends (x : Exchange) (elapsed : Nat) : Bool :=
  x.window ≤ elapsed && (!x.frame.body.isTransfer || x.earlyOver || !x.slotBegun)

/-- The peer's exchange ends with this close of a window (R116). -/
def PeerExchange.ends (x : PeerExchange) (elapsed : Nat) : Bool :=
  x.window ≤ elapsed && (!x.order.any peerTransfers || x.earlyOver || !x.slotBegun)

/-- The window of the early answers closes: 5 quanta after the last word of a READ or WRITE (R116). -/
def earlyCloses (transfer past : Bool) (elapsed : Nat) : Bool := transfer && !past && Config.shortWindow ≤ elapsed

/-- An early answer to the transfer order in exchange, this adapter's or the peer's, would come after its window (R116,
R119). -/
def LineUnit.pastEarly (l : LineUnit) : Bool :=
  match l.exchange with
  | some x => x.frame.body.isTransfer && x.earlyOver
  | none => l.peerExchange.any fun p => p.order.any peerTransfers && p.earlyOver

/-- An own notice's exchange ends as a silence (R119, R125); one cut by a reset or the entry to SILENCED counts none (R128;
log 31). -/
def State.noticeSilent (s : State) (x : Exchange) : State :=
  let s := s.endExchange
  if x.discarded then s else s.noticeSilence x.frame

/-- An own exchange ends as a silence (R119). A RELEASE takes no answer. -/
def State.exchangeSilent (s : State) (x : Exchange) : State :=
  if x.frame.body.isOrder then s.orderSilent x
  else if x.frame.body.isRelease then s
  else s.noticeSilent x

/-! Frames heard. -/

/-- The Line Unit hands frames on: not while UNCONFIGURED or SILENCED (R129). -/
def State.listens (s : State) : Bool := s.hp.adapter != .unconfigured && s.hp.adapter != .silenced

/-- The peer begins an exchange: a standing backoff is spent (R122). -/
def State.peerBegins (s : State) : State := s.onLu fun l => { l with backoff := 0 }

/-- The peer's exchange stands until its answer or the close of its window (R115). -/
def State.peerStands (s : State) (o : Option PeerOrder) : State :=
  s.onLu fun l => { l with peerExchange := if l.exchange.isNone then some ⟨o, false, false⟩ else l.peerExchange }

/-- The presence rule for a valid frame of the peer, where the Line Unit hands frames on (R121, R127, R129). -/
def State.peerHeard (s : State) : State := if s.listens then s.peerPresent else s

/-- A frame of the peer that does not answer the own notice in exchange makes it a silence (R119; log 21). Where the
Line Unit hands nothing on, the exchange ends and no silence is counted (R129; log 31). -/
def State.spoilNotice (s : State) : State :=
  match s.lu.exchange with
  | none => s
  | some x => if x.frame.body.isAnswered then (if s.listens then s.noticeSilent x else s.endExchange) else s

/-- A notice of the peer is heard: backoff, presence, the own notice spoiled, then `act`, where the Line Unit hands
notices on (R118, R121, R129). Elsewhere one that takes an answer gets none, and its exchange stands (R115, R129). -/
def State.peerNotice (s : State) (takesAnswer : Bool) (act : State → State) : State :=
  let s := s.peerBegins.peerHeard.spoilNotice
  if s.listens then act s else if takesAnswer then s.peerStands none else s

/-- An answer goes out (R118). -/
def State.answer (s : State) (a : AdapterAnswer) : State := s.emit (.frame (a.words s.lu.station))

/-- The peer's answer to an own notice: presence first; then, where it answers the notice in exchange, `act` on that
notice's body; where it does not answer it, a silence (R119, R121, R127). Where the Line Unit hands nothing on, the own
notice's exchange ends and its answer is not taken (R129). -/
def State.peerAnswer (s : State) (fits : FrameBody → Bool) (act : FrameBody → State → State) : State :=
  let s := s.peerHeard
  match s.lu.exchange with
  | none => s
  | some x =>
    if x.frame.body.isAnswered then
      if x.discarded || !s.listens then s.endExchange
      else if fits x.frame.body then act x.frame.body s.endExchange
      else s.noticeSilent x
    else s

/-- A frame of the drive: taken as the answer of the order in exchange, this adapter's or the peer's (R119, R121).
`fits`, `fitsPeer` say which orders the frame answers; `own` acts for an own order, `peer` for the peer's. -/
def State.driveAnswer (s : State) (fits : FrameBody → Bool) (fitsPeer : PeerOrder → Bool)
    (own : Exchange → State → State) (peer : State → State) : State :=
  match s.lu.exchange with
  | some x =>
    if x.frame.body.isOrder then
      if fits x.frame.body && !x.discarded then own x s.endExchange.driveHeard
      else s.orderSilent x
    else s
  | none =>
    match s.lu.peerExchange with
    | some ⟨some o, _, _⟩ =>
      let s := s.onLu fun l => { l with peerExchange := none }
      if fitsPeer o then peer s.driveHeard else s
    | _ => s

/-- An early answer of the drive: BUSY, NOT READY, WRONG CYLINDER or MISSED. One that begins after its window is no
answer and is ignored (R116, R119; log 43). -/
def State.earlyAnswer (s : State) (fits : FrameBody → Bool) (fitsPeer : PeerOrder → Bool)
    (own : Exchange → State → State) (peer : State → State) : State :=
  if s.lu.pastEarly then s else s.driveAnswer fits fitsPeer own peer

end Sys2Proof.Machine
end

