-- ==== Sys2Proof/Machine/Rotation.lean ====
section
/-! DEFINITION. The Rotation and Drive Monitor (Sections 1.2, 9) and what the blocks do with its events: pulses and
synthetic slots (R6 to R10), the slot event (R11, R72, R101, R141, R160), the revolution event (R135, R138, R153,
R168), resynchronization (R169, R170), and the time that passes while no command waits. -/

namespace Sys2Proof.Machine

open Sys2Proof

/-! Expiry (R75 to R77). -/

/-- The budget of the record of a name has reached 0 (R75, R76, R77). `waited`: it was in HOLD-WAIT when the count
brought it there; then it ends EXPIRED with P clear, be it that its entry has become HELD since in the same event
(R77, R160). An ACTIVE request dropped before its start leaves the engine idle; what follows that is the caller's. -/
def State.expire (s : State) (waited : Bool) (id : Nat) : State :=
  match s.wq.find id with
  | none => s
  | some r =>
    if waited then s.leaveQueue r .expired none false false
    else if r.started ∨ r.state = .ending ∨ r.lateAction = .carryOn then
      s.onRequest id fun x => { x with late := true }
    else if r.state = .active then
      (s.completeRequest r .expired none false).idleEngine
    else s.completeRequest r .expired none false

/-! The slot event. -/

/-- The engine's part before the queue's: a lead slot that has ended slips its sector, a SETTLE counts, and a SEEK or
SENSE that was silent is offered again (R95, R96, R101). -/
def State.engineSlot (s : State) : State :=
  match s.te.phase with
  | .leadWait =>
    if s.te.leadOpen then s.slip (if s.lu.isPending FrameBody.isTransfer then .line else .buffer) else s
  | .settle =>
    let s := s.onTe fun t => { t with settle := t.settle + 1 }
    if Config.settleLimit ≤ s.te.settle then s.seekTimedOut else s
  | .seek =>
    if s.exchangeInProgress || s.lu.isPending FrameBody.isSeek then s
    else
      match s.tm.own with
      | .holding c _ => if c = s.te.target.cylinder then s.offerSeek else s.reposition
      | _ => s.reposition
  | .sense => if s.exchangeInProgress || s.lu.isPending FrameBody.isSense then s else s.offerSense
  | _ => s

/-- The lead slot of the sector in hand begins with this slot event (R100). -/
def State.leadSlotBegins (s : State) : State :=
  if s.te.phase == .leadWait && s.inLeadSlot then (s.onTe fun t => { t with leadOpen := true }).tryOrder else s

/-- The first order of the ACTIVE request, due at this slot event, is taken before its expiry, where the line lets it
start (R76, R115). -/
def State.orderBeforeExpiry (s : State) (line : LineTime) : State :=
  match s.activeRequest with
  | none => s
  | some r =>
    if r.started then s
    else
      let s := s.leadSlotBegins
      match s.chosen with
      | none => s
      | some (i, f) =>
        if f.body.isTransfer && s.lineFree line then s.startFrame i f else s

/-- The Work Queue's five steps (R72). Where several budgets reach 0 on one slot event, R72 gives no order among them;
they are decided in admission order (DESIGN CHOICE: log 45). -/
def State.queueSlot (s : State) : State :=
  let due := s.wq.expiring
  let s := due.foldl (fun s r => s.expire (r.state == .holdWait) r.id) s.countBudgets
  s.formSlacks.review.select

/-- A slot event goes to the blocks, with the mark saying whether it was a synthetic slot (R11; their order: log 6). An
advance that comes after it is not the one due with a load before it (log 49). -/
def State.slotEvent (s : State) (synthetic : Bool) (orderFirst : Option LineTime) : State :=
  let s := s.onHp fun h => { h with tod := h.tod.pass }
  let s := (s.onRdm fun m => { m with slotSynthetic := synthetic }).engineSlot
  let s := match orderFirst with
    | none => s
    | some line => s.orderBeforeExpiry line
  let s := s.queueSlot.holdSlot.leadSlotBegins
  s.idleTenureTest.offerRelease.preemptSlot

/-! The revolution event. -/

/-- The own tenure counts (R135). -/
def State.ownRevolution (s : State) : State :=
  match s.tm.own with
  | .holding c n =>
    if n ≤ 1 then (s.setOwn (.holding c 0)).endTenure else s.setOwn (.holding c (n - 1))
  | .ending c n => s.setOwn (.ending c (n - 1))
  | _ => s

/-- The peer record counts, and the queue reviews the change (R79, R135, R143). -/
def State.peerRevolution (s : State) : State :=
  match s.tm.peer with
  | none => s
  | some p =>
    if 2 ≤ p.revolutions then
      (s.onTm fun t => { t with peer := some { p with revolutions := p.revolutions - 1 } }).review
    else s.peerGone

/-- The drive leaves DOWN for RESYNC (R168). -/
def Monitor.enterResync (m : Monitor) : Monitor :=
  { m with drive := .resync, resync := .awaitingIndex, recovery := 0 }

/-- The recovery count (R168). -/
def Monitor.recover (m : Monitor) : Monitor :=
  if m.drive = .down then
    if m.ready then
      if Config.recoveryLimit ≤ m.recovery + 1 then m.enterResync else { m with recovery := m.recovery + 1 }
    else { m with recovery := 0 }
  else m

/-- A revolution event goes to the blocks (R11; their order: log 7). -/
def State.revolutionEvent (s : State) : State :=
  (s.ownRevolution.peerRevolution.endCourtesy.holdRevolution).onRdm Monitor.recover

/-! Pulses and synthetic slots. -/

/-- The slot counter at a SECTOR or synthetic slot event (R6). -/
def Monitor.advance (m : Monitor) : Monitor :=
  if m.drive = .down then m else { m with counter := m.counter.map nextSlot }

/-- A pulse reloads the timer, clears the synthetic-run count and closes the late window (R7, R9). -/
def Monitor.pulse (m : Monitor) : Monitor :=
  { m with timer := Config.slotTime, synthRun := 0, lateLeft := 0, lateSubstitute := false }

/-- An INDEX sets the counter to 0 in UP and RESYNC, and a RESYNC that awaited it begins to count (R6, R9, R169). -/
def Monitor.index (m : Monitor) : Monitor :=
  if m.drive = .down then m
  else { m with counter := some 0, resync := if m.drive = .resync then .counting else m.resync }

/-- The INDEX that completes RESYNC: in COUNTING, it finds the counter at 19 (R169). -/
def Monitor.completes (m : Monitor) : Bool :=
  m.drive == .resync && m.resync == .counting && m.counter == some 19

/-- The drive becomes UP: changed marks first, then VOLUME and DRIVE (R170). -/
def State.driveUp (s : State) : State :=
  (((s.onRdm fun m => { m with drive := .up, resync := .awaitingIndex }).onEc Extents.markAll).raise .volume).raise .drive

/-- A pulse begins the ordered slot of the exchange in progress, unless the order's frames are still going out (R116).
-/
def LineUnit.pulse (l : LineUnit) (sending : Bool) : LineUnit :=
  { l with
    exchange := l.exchange.map fun x => { x with slotBegun := x.slotBegun || !sending }
    peerExchange := l.peerExchange.map fun x => { x with slotBegun := true } }

/-- One slot event without INDEX counts toward a substitute revolution event (R10). -/
def Monitor.countSlot (m : Monitor) : Monitor :=
  { m with revCount := if m.revCount + 1 < Config.slots then m.revCount + 1 else 0 }

/-- The slot event that is about to be counted is a substitute revolution event (R10). -/
def Monitor.substitutes (m : Monitor) : Bool := Config.slots ≤ m.revCount + 1

/-- A late INDEX (R9, R169). -/
def State.lateIndex (s : State) : State :=
  let stood := s.rdm.lateSubstitute
  let s := s.onRdm fun m => { m.pulse.index with revCount := 0 }
  if stood then s else s.revolutionEvent

/-- An INDEX in time (R6, R7, R10, R169). -/
def State.timelyIndex (s : State) (orderFirst : Option LineTime) : State :=
  let up := s.rdm.completes
  let s := s.onRdm fun m => { m.pulse.index with revCount := 0 }
  let s := if up then s.driveUp else s
  (s.slotEvent false orderFirst).revolutionEvent

/-- A SECTOR pulse in time (R6, R7, R10). -/
def State.timelySector (s : State) (orderFirst : Option LineTime) : State :=
  let sub := s.rdm.substitutes
  let s := (s.onRdm fun m => m.pulse.advance.countSlot).slotEvent false orderFirst
  if sub then s.revolutionEvent else s

/-- The monitor at a synthetic slot (R8, R10, R169). -/
def Monitor.synthetic (m : Monitor) : Monitor :=
  { m.advance.countSlot with
    timer := Config.slotTime
    synthRun := min Config.spindleLimit (m.synthRun + 1)
    lateLeft := Config.lateTime
    lateSubstitute := m.substitutes
    resync := .awaitingIndex }

/-- The spindle is lost with the next synthetic slot (R8). -/
def Monitor.losesSpindle (m : Monitor) : Bool := m.synthRun + 1 == Config.spindleLimit && m.drive != .down

/-- A synthetic slot (R8): the loss of the spindle is taken before the slot event is handed on (log 7). -/
def State.syntheticSlot (s : State) (orderFirst : Option LineTime) : State :=
  let sub := s.rdm.substitutes
  let lost := s.rdm.losesSpindle
  let s := s.onRdm Monitor.synthetic
  let s := if lost then s.driveDown else s
  let s := s.slotEvent true orderFirst
  if sub then s.revolutionEvent else s

/-! Time with no command waiting (log 3). -/

/-- One quantum on the TOD interval (R182). -/
def Tod.quantum (t : Tod) : Tod :=
  if !t.running then t
  else if t.left ≤ Config.quantumTime then t.advance
  else { t.pass with left := t.left - Config.quantumTime }

/-- One quantum on the late window (R8, R9). -/
def Monitor.lateQuantum (m : Monitor) : Monitor :=
  if m.lateLeft ≤ Config.quantumTime then { m with lateLeft := 0, lateSubstitute := false }
  else { m with lateLeft := m.lateLeft - Config.quantumTime }

/-- One quantum passes on the adapter's own clocks; the slot timer's underflow makes a synthetic slot (R5, R8, R182).
On that slot an expiry is taken before a first order, which R76 leaves open (DESIGN CHOICE: log 3). Where the quantum
ends the TOD interval too, the clock advances before the outcomes of that slot are stamped, which R183 leaves open
(DESIGN CHOICE: log 46). -/
def State.quantum (s : State) : State :=
  let s := s.onHp fun h => { h with tod := h.tod.quantum }
  let s := s.onRdm Monitor.lateQuantum
  let past := Config.quantumTime - s.rdm.timer
  if s.rdm.timer ≤ Config.quantumTime then
    (s.syntheticSlot none).onRdm fun m => { m with timer := m.timer - past, lateLeft := m.lateLeft - past }
  else s.onRdm fun m => { m with timer := m.timer - Config.quantumTime }

end Sys2Proof.Machine
end

