-- ==== Sys2Proof/Machine/HostCommands.lean ====
section
/-! DEFINITION. The commands of the host and the resets: device words (R172 to R176), ACTIONs (R42, R43, R173, R179),
setup (R22, R179 to R181), and power-up and I/O reset (R184). -/

namespace Sys2Proof.Machine

open Sys2Proof

/-! Resets. -/

/-- POWER_UP_RESET (R184): every block takes its power-up values, the strap and READY are read. The commands that wait
are not the adapter's and stay. -/
def execPowerUpReset (strap ready : Bool) (s : State) : Host.Outcome State Fault Refusal :=
  .next (.powerUp strap ready s.pending)

/-- Where a write of host memory under way puts its words, and which (R178). -/
def State.writeOf (s : State) : Transfer → Option (Word × List Word)
  | .unload n a => some (a, (s.te.buf n).words)
  | .completion c => some (c.info.addr + 12, c.words)
  | .image a w => some (a, w)
  | .setupResult => s.hp.progress.map fun p => (p.address, [p.resultWord])
  | _ => none

/-- The words a cut-short write has put into host memory: not all of them, so that no setup result and no whole
completion record is written (R177, R181, R184; log 18). -/
def State.cutShort (s : State) (reached : Nat) : List Output :=
  match s.hp.current.bind s.writeOf with
  | none => []
  | some (a, w) =>
    let n := min reached (w.length - 1)
    if n = 0 then [] else [.hostWrite (wordsAt a (w.take n))]

/-- The own tenure calls for a reset RELEASE (R129). -/
def OwnTenure.released : OwnTenure → Bool
  | .holding _ _ => true
  | .ending _ _ => true
  | _ => false

/-- The reset notices (R129, R161). -/
def State.resetNotices (s : State) : List Frame :=
  if s.hp.adapter = .silenced then []
  else
    (if s.tm.own.released then [⟨.release, 0, 0, true⟩] else []) ++
      (s.hm.list.filter HoldEntry.claimed).map fun e => ⟨e.free, 0, 0, true⟩

/-- The Line Unit after an I/O reset: the strap is not read again, a frame on the line finishes, its answer is not taken
(R113, R124, R129). -/
def LineUnit.ioReset (l : LineUnit) (notices : List Frame) : LineUnit :=
  { l with
    frames := notices
    exchange := l.exchange.map fun x => { x with discarded := true }
    backoff := 0
    collisionCount := 0
    lastCollided := 0
    armed := true }

/-- IO_RESET (R184). The names of records and entries go on, so that none is given twice (log 17). -/
def execIoReset (reached : Nat) (s : State) : Host.Outcome State Fault Refusal :=
  .next { s with
    hp := .reset s.hp.tod
    chains := ⟨.reset, .reset, .reset, .reset⟩
    ec := .reset
    wq := ⟨[], s.wq.nextId⟩
    te := .reset
    hm := ⟨[], [], s.hm.nextId⟩
    tm := .reset
    lu := s.lu.ioReset s.resetNotices
    rdm := .reset s.rdm.ready s.rdm.onCylinder
    out := s.cutShort reached }

/-! Device words. -/

/-- ADDRESS_WRITE (R172). -/
def execAddressWrite (value : Word) (s : State) : Host.Outcome State Fault Refusal :=
  .next (s.begin.onHp fun h => { h with address := value })

/-- IGNORED_WRITE: a write to STATE or ATTENTION changes nothing (R172). -/
def execIgnoredWrite (_target : ReadOnlyWord) (_value : Word) (s : State) : Host.Outcome State Fault Refusal :=
  .next s.begin

/-- The mask after a MASK write: the named bits set or cleared by the top bit (R176). -/
def maskAfter (mask : BitVec 12) (value : Word) : BitVec 12 :=
  if flag value 15 then mask ||| value.truncate 12 else mask &&& ~~~(value.truncate 12)

/-- MASK_WRITE (R176). -/
def execMaskWrite (value : Word) (s : State) : Host.Outcome State Fault Refusal :=
  .next (s.begin.onHp fun h => { h with mask := maskAfter h.mask value })

/-- ATTENTION_READ: the word is returned and every event bit cleared in the same act (R175). -/
def execAttentionRead (s : State) : Host.Outcome State Fault Refusal :=
  .next ((s.begin.emit (.hostRead (attentionWord s.hp))).onHp fun h => { h with events := 0 })

/-! ACTIONs. -/

/-- A refused ACTION: the code, and the attention by which the host hears (R173). -/
def State.refuseAction (s : State) (c : RefusalCode) (a : Attention) : State := (s.refuse c).raise a

/-- The adapter is quiet (R179). -/
def State.quiet (s : State) : Bool :=
  !(s.chains.n0.runs || s.chains.n1.runs || s.chains.n2.runs || s.chains.n3.runs) &&
    s.wq.records.isEmpty && s.hm.list.isEmpty && s.tm.own == .none

/-- A setup may begin (R179). -/
def State.mayBeginSetup (s : State) : Bool :=
  s.hp.adapter == .unconfigured || (s.hp.adapter == .running && s.quiet)

/-- A setup is begun: the record read is asked at the address in ADDRESS (R179). -/
def State.beginSetup (s : State) : State :=
  (s.onHp fun h => { h with progress := some ⟨h.address, none, .none, none⟩ }).askTransfer .setupHeader

/-- SETUP (R173, R179). -/
def execSetup (_action : Word) (s : State) : Host.Outcome State Fault Refusal :=
  let s := s.begin
  .next (
    if s.hp.progress.isSome || !s.mayBeginSetup then s.refuseAction .busy .setup else s.beginSetup)

/-- The record of a chain just started (R42); in MAINTENANCE its fetch waits (R63). -/
def startedChain (level : Nat) (address : Word) (waits : Bool) : Chain :=
  ⟨.running, level, address, nullSelector, clearFlags, 0, none, ⟨false, false, false, waits⟩, false, false⟩

/-- An accepted START (R42). -/
def State.startChain (s : State) (n : Fin 4) (level : Nat) : State :=
  let waits := s.hp.adapter == .maintenance && s.hp.maintaining != some n
  (s.onChain n fun _ => startedChain level s.hp.address waits).callFetch n

/-- START_CHAIN (R42, R173). -/
def execStartChain (action : Word) (s : State) : Host.Outcome State Fault Refusal :=
  let s := s.begin
  let n := actionSlot action
  .next (
    if s.hp.progress.isSome then s.refuseAction .busy .refused
    else if s.hp.adapter = .unconfigured then s.refuseAction .notConfigured .refused
    else if s.hp.adapter = .silenced then s.refuseAction .silenced .refused
    else if (s.chain n).runs then s.refuseAction .slotBusy .refused
    else s.startChain n (actionLevel action))

/-- ABORT_CHAIN (R43, R88, R173). -/
def execAbortChain (action : Word) (s : State) : Host.Outcome State Fault Refusal :=
  let s := s.begin
  let n := actionSlot action
  .next (
    if s.hp.progress.isSome then s.refuseAction .busy .refused
    else if !(s.chain n).runs then s.refuseAction .notRunning .refused
    else (s.stopChain n).abortActive n)

/-- ILLEGAL_ACTION: whether or not a setup is in progress (R186). -/
def execIllegalAction (_action : Word) (s : State) : Host.Outcome State Fault Refusal :=
  .next (s.begin.refuseAction .illegalAction .refused)

/-! Setup (R22, R23, R179 to R181). -/

/-- A setup is decided: its code and place are noted and the result write is asked (R181). -/
def State.decideSetup (s : State) (c : RefusalCode) (place : Option (Table × Nat)) : State :=
  ((s.refuse c).onHp fun h => { h with
    progress := h.progress.map fun p => { p with code := c, place := place } }).askTransfer .setupResult

/-- The Tenure Manager at an accepted setup: presence UNKNOWN, the courtesy wait ended (R127, R138, R180). -/
def State.setupTenure (s : State) : State :=
  (s.onTm fun t => { t with presence := .unknown }).endCourtesy

/-- A HELLO is offered, one at most pending (R140, R180). -/
def State.offerHello (s : State) : State :=
  if s.lu.isPending FrameBody.isHello then s else s.offer .hello

/-- A record found without fault is accepted (R180); a SILENCED adapter stays SILENCED (R181). -/
def State.acceptSetup (s : State) (h : SetupHeader) (placed : List ((Table × Nat) × Image)) : State :=
  let s := s.onEc fun _ => loadTables h placed
  let s := s.onHp fun p => { p with
    setup := some h.setup
    adapter := if p.adapter = .silenced then .silenced else .running }
  (s.setupTenure.offerHello).decideSetup .none none

/-- The images of a record are examined, and the record accepted or refused (R22, R180). -/
def State.examineImages (s : State) (h : SetupHeader) (images : List Image) : State :=
  let placed := placedImages h images
  match firstImageFault placed with
  | some (c, p) => s.decideSetup c (some p)
  | none => s.acceptSetup h placed

/-- The header is examined: refused, or the images are read; a record of no images is decided at once (R179; log 14). -/
def State.examineHeader (s : State) (h : SetupHeader) : State :=
  match h.check with
  | some c => s.decideSetup c none
  | none =>
    let s := s.onHp fun p => { p with progress := p.progress.map fun x => { x with header := some h } }
    if h.imageCount = 0 then s.examineImages h [] else s.askTransfer .setupImages

/-- SETUP_HEADER_READ (R179). -/
def execSetupHeaderRead (header : SetupHeader) (s : State) : Host.Outcome State Fault Refusal :=
  let s := s.begin
  .next (if s.hp.current = some .setupHeader then s.endTransfer.examineHeader header else s)

/-- SETUP_IMAGES_READ (R22, R180). -/
def execSetupImagesRead (images : List Image) (s : State) : Host.Outcome State Fault Refusal :=
  let s := s.begin
  .next (
    if s.hp.current = some .setupImages then
      match s.hp.progress.bind SetupProgress.header with
      | none => s.endTransfer
      | some h => s.endTransfer.examineImages h images
    else s)

/-- The result write has ended: the code is set again, SETUP is raised, the setup is over (R181). -/
def State.finishSetup (s : State) (p : SetupProgress) : State :=
  ((((s.endTransfer.emit (.hostWrite (wordsAt p.address [p.resultWord]))).refuse p.code).onHp fun h => { h with
    progress := none }).raise .setup)

/-- SETUP_RESULT_WRITTEN (R181). -/
def execSetupResultWritten (s : State) : Host.Outcome State Fault Refusal :=
  let s := s.begin
  .next (
    if s.hp.current = some .setupResult then
      match s.hp.progress with
      | none => s.endTransfer
      | some p => s.finishSetup p
    else s)

/-! The DMA engine (R177, R178). -/

/-- The place of a transfer in the order of service: sector data, then completion, image and result writes, then fetches
by slot, then the setup record (R177). -/
def Transfer.order : Transfer → Nat
  | .load _ _ => 0
  | .unload _ _ => 0
  | .completion _ => 1
  | .image _ _ => 1
  | .setupResult => 1
  | .fetch n => 2 + n.val
  | .setupHeader => 6
  | .setupImages => 6

/-- The waiting transfer of highest rank, with its place; within a rank the first asked (R177). -/
def nextTransfer : List Transfer → Option (Nat × Transfer)
  | [] => none
  | t :: rest =>
    match nextTransfer rest with
    | none => some (0, t)
    | some (i, u) => if t.order ≤ u.order then some (0, t) else some (i + 1, u)

/-- The read of host memory a transfer begins (R178). -/
def State.readOf (s : State) : Transfer → List Output
  | .load _ a => [.hostFetch (addressesFrom a Config.sectorWords)]
  | .fetch n => [.hostFetch (addressesFrom (s.chain n).next 12)]
  | .setupHeader => (s.hp.progress.map fun p => Output.hostFetch (addressesFrom (p.address + 1) 7)).toList
  | .setupImages =>
    match s.hp.progress with
    | some ⟨a, some h, _, _⟩ => [.hostFetch (addressesFrom (a + 8) (4 * h.imageCount))]
    | _ => []
  | _ => []

/-- A waiting transfer begins (R177). -/
def State.beginTransfer (s : State) (i : Nat) (t : Transfer) : State :=
  let reads := s.readOf t
  (s.onHp fun h => { h with waiting := h.waiting.eraseIdx i, current := some t }).appendOut reads

/-- An INSPECT image write under way has run to its last word. No row of the table says so: it has ended when the next
transfer may begin (log 12). -/
def State.endImage (s : State) : State :=
  match s.hp.current with
  | some (.image a w) => s.endTransfer.emit (.hostWrite (wordsAt a w))
  | _ => s

/-- The waiting transfer of highest rank begins, if the engine is free and one waits (R177). -/
def State.startTransfer (s : State) : State :=
  match s.hp.current with
  | some _ => s
  | none =>
    match nextTransfer s.hp.waiting with
    | none => s
    | some (i, t) => s.beginTransfer i t

/-- DMA_TRANSFER_START (R177). -/
def execDmaTransferStart (s : State) : Host.Outcome State Fault Refusal := .next s.begin.endImage.startTransfer

/-- COMPLETION_WRITTEN (R51). -/
def execCompletionWritten (s : State) : Host.Outcome State Fault Refusal :=
  let s := s.begin
  .next (
    match s.hp.current with
    | some (.completion c) => (s.endTransfer.emit (.hostWrite (wordsAt (c.info.addr + 12) c.words))).takeCompletion c
    | _ => s)

/-- A sector of 128 words from an operand that may be short (log 26). -/
def sectorOf (words : List Word) : List Word :=
  (words ++ List.replicate Config.sectorWords 0).take Config.sectorWords

/-- BUFFER_LOADED (R98). -/
def execBufferLoaded (words : List Word) (s : State) : Host.Outcome State Fault Refusal :=
  let s := s.begin
  .next (
    match s.hp.current with
    | some (.load n _) =>
      let b := s.te.buf n
      let s := s.endTransfer.setBuf n
        (if b.discarded then .empty else { b with state := .loaded, words := sectorOf words })
      s.loadAhead.tryOrder
    | _ => s)

/-- BUFFER_UNLOADED (R99). -/
def execBufferUnloaded (s : State) : Host.Outcome State Fault Refusal :=
  let s := s.begin
  .next (
    match s.hp.current with
    | some (.unload n a) =>
      let b := s.te.buf n
      let s := (s.endTransfer.emit (.hostWrite (wordsAt a b.words))).setBuf n .empty
      (s.askHeldBack b.owner).loadAhead.tryOrder
    | _ => s)

/-- TOD_ADVANCE (R182): the advance falls with the command, whatever the model's count of the interval says (DEDUCED:
log 49). -/
def execTodAdvance (s : State) : Host.Outcome State Fault Refusal :=
  .next (s.begin.onHp fun h => { h with tod := h.tod.due })

end Sys2Proof.Machine
end

