-- ==== Sys2Proof/Machine/ElementCommands.lean ====
section
/-! DEFINITION. The commands that bring a fetched element (R44), one for each kind, and HELD_ELEMENT_RESUME (R48). The
kind is the command's; its words are the operand. -/

namespace Sys2Proof.Machine

open Sys2Proof

/-- READ (R28). -/
def execRead (e : Element) (s : State) : Host.Outcome State Fault Refusal :=
  .next (s.begin.takeElement (.disk .read) e (State.routeDisk .read e))

/-- WRITE (R29). -/
def execWrite (e : Element) (s : State) : Host.Outcome State Fault Refusal :=
  .next (s.begin.takeElement (.disk .write) e (State.routeDisk .write e))

/-- APPEND (R33). -/
def execAppend (e : Element) (s : State) : Host.Outcome State Fault Refusal :=
  .next (s.begin.takeElement (.disk .append) e (State.routeDisk .append e))

/-- COMPARE (R106). -/
def execCompare (e : Element) (s : State) : Host.Outcome State Fault Refusal :=
  .next (s.begin.takeElement (.disk .compare) e (State.routeDisk .compare e))

/-- SCAN (R107). -/
def execScan (e : Element) (s : State) : Host.Outcome State Fault Refusal :=
  .next (s.begin.takeElement (.disk .scan) e (State.routeDisk .scan e))

/-- HOLD_SHARED (R148). -/
def execHoldShared (e : Element) (s : State) : Host.Outcome State Fault Refusal :=
  .next (s.begin.takeElement (.hold .shared) e (State.routeHold .shared e))

/-- HOLD_EXCLUSIVE (R148). -/
def execHoldExclusive (e : Element) (s : State) : Host.Outcome State Fault Refusal :=
  .next (s.begin.takeElement (.hold .exclusive) e (State.routeHold .exclusive e))

/-- UNHOLD (R157). -/
def execUnhold (e : Element) (s : State) : Host.Outcome State Fault Refusal :=
  .next (s.begin.takeElement .unhold e (State.routeUnhold e))

/-- SELECT (R58). -/
def execSelect (e : Element) (s : State) : Host.Outcome State Fault Refusal :=
  .next (s.begin.takeElement .select e (State.routeSelect e))

/-- INSPECT_DESCRIPTOR (R40). -/
def execInspectDescriptor (e : Element) (s : State) : Host.Outcome State Fault Refusal :=
  .next (s.begin.takeElement (.inspect .descriptor) e (State.inspectDescriptor e))

/-- INSPECT_LINE_RECORD (R124). -/
def execInspectLineRecord (e : Element) (s : State) : Host.Outcome State Fault Refusal :=
  .next (s.begin.takeElement (.inspect .lineRecord) e (State.inspectLine e))

/-- INSPECT_POSITION_RECORD (R145). -/
def execInspectPositionRecord (e : Element) (s : State) : Host.Outcome State Fault Refusal :=
  .next (s.begin.takeElement (.inspect .positionRecord) e (State.inspectPosition e))

/-- SET_CLOCK (R60). -/
def execSetClock (e : Element) (s : State) : Host.Outcome State Fault Refusal :=
  .next (s.begin.takeElement .setClock e (State.routeClock e))

/-- MAINTAIN_ON (R62). -/
def execMaintainOn (e : Element) (s : State) : Host.Outcome State Fault Refusal :=
  .next (s.begin.takeElement .maintain e State.routeMaintainOn)

/-- MAINTAIN_OFF (R62). -/
def execMaintainOff (e : Element) (s : State) : Host.Outcome State Fault Refusal :=
  .next (s.begin.takeElement .maintain e State.routeMaintainOff)

/-- DIRECT_READ (R64). -/
def execDirectRead (e : Element) (s : State) : Host.Outcome State Fault Refusal :=
  .next (s.begin.takeElement (.disk .directRead) e (State.routeDisk .directRead e))

/-- DIRECT_WRITE (R64). -/
def execDirectWrite (e : Element) (s : State) : Host.Outcome State Fault Refusal :=
  .next (s.begin.takeElement (.disk .directWrite) e (State.routeDisk .directWrite e))

/-- ILLEGAL_ELEMENT (R45): an unassigned kind never passes the legal-field check. -/
def execIllegalElement (e : Element) (s : State) : Host.Outcome State Fault Refusal :=
  .next (s.begin.takeElement .unassigned e (fun _ s => s))

/-- HELD_ELEMENT_RESUME (R48). -/
def execHeldElementResume (s : State) : Host.Outcome State Fault Refusal := .next s.begin.resumeAll

end Sys2Proof.Machine
end

