-- ==== Sys2Proof/Machine/RotationCommands.lean ====
section
/-! DEFINITION. The commands of the broadcast lines and of the adapter's own timers: pulses (R7, R9), synthetic slots
(R8), READY and ON CYLINDER (R132, R163, R168), and the thresholds that a count reaches, each taken alone (log 4). -/

namespace Sys2Proof.Machine

open Sys2Proof

/-! Pulses and the slot timer. -/

/-- INDEX_PULSE (R7, R9). -/
def execIndexPulse (pulse : Pulse) (s : State) : Host.Outcome State Fault Refusal :=
  let s := s.begin.onLu fun l => l.pulse pulse.sending
  .next (if 0 < s.rdm.lateLeft then s.lateIndex else s.timelyIndex pulse.orderFirst)

/-- SECTOR_PULSE (R7, R9): a late one makes no slot event and leaves the counter. -/
def execSectorPulse (pulse : Pulse) (s : State) : Host.Outcome State Fault Refusal :=
  let s := s.begin.onLu fun l => l.pulse pulse.sending
  .next (if 0 < s.rdm.lateLeft then s.onRdm Monitor.pulse else s.timelySector pulse.orderFirst)

/-- SYNTHETIC_SLOT (R8). -/
def execSyntheticSlot (orderFirst : Option LineTime) (s : State) : Host.Outcome State Fault Refusal :=
  .next (s.begin.syntheticSlot orderFirst)

/-- LATE_WINDOW_CLOSE (R9). -/
def execLateWindowClose (s : State) : Host.Outcome State Fault Refusal :=
  .next (s.begin.onRdm fun m => { m with lateLeft := 0, lateSubstitute := false })

/-- SPINDLE_LOSS (R8): the twentieth count alone. -/
def execSpindleLoss (s : State) : Host.Outcome State Fault Refusal :=
  let s := s.begin
  .next (
    if s.rdm.losesSpindle then
      (s.onRdm fun m => { m with synthRun := Config.spindleLimit }).following State.driveDown
    else s)

/-! READY and ON CYLINDER. -/

/-- READY_FALL (R163, R168). -/
def execReadyFall (s : State) : Host.Outcome State Fault Refusal :=
  .next ((s.begin.onRdm fun m => { m with ready := false, recovery := 0 }).following State.driveDown)

/-- READY_RISE (R168). -/
def execReadyRise (s : State) : Host.Outcome State Fault Refusal :=
  .next (s.begin.onRdm fun m =>
    let m := { m with ready := true }
    if m.drive = .down then m.enterResync else m)

/-- ON CYLINDER falls, for the positioner record: decided at the end of a SEEK exchange in progress, else UNKNOWN
(R132). An own SEEK whose answer is not to be taken, after the entry to SILENCED or an I/O reset, counts here as no SEEK
exchange: the cylinder is UNKNOWN at once (DESIGN CHOICE: log 47). -/
def State.cylinderFalls (s : State) (peerSeek : Bool) : State :=
  if s.lu.inExchange FrameBody.isSeek then s.setMoving true
  else if peerSeek then (s.onLu fun l => { l with peerSeekFell := true }).setMoving true
  else s.setPositioner none true

/-- The own SEEK exchange in progress sees the fall (R132). -/
def LineUnit.markFell (l : LineUnit) : LineUnit :=
  { l with exchange := l.exchange.map fun x => { x with cylinderFell := true } }

/-- ON_CYLINDER_FALL (R132). -/
def execOnCylinderFall (peerSeek : Bool) (s : State) : Host.Outcome State Fault Refusal :=
  .next (((s.begin.onRdm fun m => { m with onCylinder := false }).cylinderFalls peerSeek).onLu LineUnit.markFell)

/-- An engine in SETTLE positions its sector afresh (R96). -/
def State.settled (s : State) : State := if s.te.phase == .settle then s.reposition else s

/-- ON_CYLINDER_RISE (R96, R132). -/
def execOnCylinderRise (s : State) : Host.Outcome State Fault Refusal :=
  .next (((s.begin.onRdm fun m => { m with onCylinder := true }).setMoving false).settled)

/-! Thresholds. -/

/-- The budget of a queued or ACTIVE record at a place has one slot left, and its state is as asked. -/
def State.expiringAt (s : State) (position : Nat) (p : Request → Bool) : Option Request :=
  match s.wq.records[position]? with
  | none => none
  | some r => if r.budget = some 1 ∧ p r then some r else none

/-- The last slot is counted off a record's budget and its expiry decided (R73, R75 to R77). -/
def State.lastSlot (s : State) (r : Request) : State :=
  (s.onRequest r.id fun x => { x with budget := some 0 }).following fun s => s.expire (r.state == .holdWait) r.id

/-- REQUEST_EXPIRY (R75, R76). -/
def execRequestExpiry (position : Nat) (s : State) : Host.Outcome State Fault Refusal :=
  let s := s.begin
  .next (
    match s.expiringAt position fun r => r.state != .holdWait with
    | none => s
    | some r => s.lastSlot r)

/-- HOLD_WAIT_EXPIRY (R77). -/
def execHoldWaitExpiry (position : Nat) (s : State) : Host.Outcome State Fault Refusal :=
  let s := s.begin
  .next (
    match s.expiringAt position fun r => r.state == .holdWait with
    | none => s
    | some r => s.lastSlot r)

/-- HOLD_BUDGET_EXPIRY (R160). -/
def execHoldBudgetExpiry (position : Nat) (s : State) : Host.Outcome State Fault Refusal :=
  let s := s.begin
  .next (
    match (s.hm.list ++ s.hm.line)[position]? with
    | none => s
    | some e =>
      if e.state ≠ .held ∧ e.budget = some 1 then
        (s.onEntry e.id fun x => { x with budget := some 0 }).expireIfDue e.id
      else s)

/-- SEEK_TIMEOUT (R96). -/
def execSeekTimeout (s : State) : Host.Outcome State Fault Refusal :=
  let s := s.begin
  .next (
    if s.te.phase = .settle ∧ s.te.settle + 1 = Config.settleLimit then
      (s.onTe fun t => { t with settle := Config.settleLimit }).seekTimedOut
    else s)

/-- OWN_TENURE_EXPIRY (R135). -/
def execOwnTenureExpiry (s : State) : Host.Outcome State Fault Refusal :=
  let s := s.begin
  .next (
    match s.tm.own with
    | .holding _ 1 => s.ownRevolution
    | _ => s)

/-- PEER_TENURE_EXPIRY (R135). -/
def execPeerTenureExpiry (s : State) : Host.Outcome State Fault Refusal :=
  let s := s.begin
  .next (
    match s.tm.peer with
    | some p => if p.revolutions ≤ 1 then s.peerGone else s
    | none => s)

/-- RECLAIM (R153). -/
def execReclaim (position : Nat) (s : State) : Host.Outcome State Fault Refusal :=
  let s := s.begin
  .next (
    match s.hm.list[position]? with
    | none => s
    | some e =>
      if e.state = .refused ∧ e.refusalRevs + 1 = Config.reclaimLimit then s.reclaimEntry e else s)

/-- RECOVERY (R168). -/
def execRecovery (s : State) : Host.Outcome State Fault Refusal :=
  .next (s.begin.onRdm fun m => if m.recovery + 1 = Config.recoveryLimit then m.recover else m)

end Sys2Proof.Machine
end

