-- ==== Sys2Proof/Machine/LineCommands.lean ====
section
/-! DEFINITION. The commands of this adapter's own frames on the line: starts and collisions (R115, R122, R123), the end
of a RELEASE (R137), windows that close (R119, R126), frames that fail (R114, R188) and the station clash (R128). -/

namespace Sys2Proof.Machine

open Sys2Proof

/-- EXCHANGE_START (R115, R120). -/
def execExchangeStart (line : LineTime) (s : State) : Host.Outcome State Fault Refusal :=
  let s := s.begin
  .next (if s.lineFree line then s.startChosen else s)

/-- The arbiter's choice collides, where it meets `p` (R122). -/
def State.collideChosen (s : State) (p : Frame → Bool) : State :=
  match s.chosen with
  | none => s
  | some (i, f) => if p f then s.collide i f else s

/-- COLLISION (R122, R124). -/
def execCollision (line : LineTime) (s : State) : Host.Outcome State Fault Refusal :=
  let s := s.begin
  .next (if s.lineFree line then s.collideChosen fun _ => true else s)

/-- FRAME_ABANDONED: the collision that brings the count to 8 (R123). -/
def execFrameAbandoned (line : LineTime) (s : State) : Host.Outcome State Fault Refusal :=
  let s := s.begin
  .next (
    if s.lineFree line then s.collideChosen fun f => f.collisions + 1 == Config.collisionLimit else s)

/-- RELEASE_SENT (R137, R138). -/
def execReleaseSent (s : State) : Host.Outcome State Fault Refusal :=
  let s := s.begin
  .next (
    match s.lu.exchange with
    | none => s
    | some x =>
      if x.frame.body.isRelease then s.endExchange.releaseGone (x.frame.reset || x.discarded) else s)

/-- A window of the exchange in progress, own or the peer's, closes: the last one ends the exchange, the early one of a
READ or WRITE is over (R115, R116, R119). -/
def State.closeWindow (s : State) (elapsed : Nat) : State :=
  match s.lu.exchange with
  | some x =>
    if x.ends elapsed then s.exchangeSilent x
    else if earlyCloses x.frame.body.isTransfer x.earlyOver elapsed then
      s.onLu fun l => { l with exchange := some { x with earlyOver := true } }
    else s
  | none =>
    match s.lu.peerExchange with
    | none => s
    | some p =>
      if p.ends elapsed then s.onLu fun l => { l with peerExchange := none }
      else if earlyCloses (p.order.any peerTransfers) p.earlyOver elapsed then
        s.onLu fun l => { l with peerExchange := some { p with earlyOver := true } }
      else s

/-- ANSWER_WINDOW_CLOSE (R116, R119). -/
def execAnswerWindowClose (elapsed : Nat) (s : State) : Host.Outcome State Fault Refusal :=
  .next (s.begin.closeWindow elapsed)

/-- The next silence of an own order brings the count to 3 (R126). -/
def State.silenceDue (s : State) (x : Exchange) (elapsed : Nat) : Bool :=
  x.frame.body.isOrder && !x.discarded && !x.lost && s.rdm.silence + 1 == Config.silenceLimit && x.ends elapsed

/-- DRIVE_SILENCE_LIMIT (R126). -/
def execDriveSilenceLimit (elapsed : Nat) (s : State) : Host.Outcome State Fault Refusal :=
  let s := s.begin
  .next (
    match s.lu.exchange with
    | none => s
    | some x => if s.silenceDue x elapsed then s.orderSilent x else s)

/-- A frame that fails holds the line busy for 5 quanta after its last word (R115, R188). -/
def State.failedFrame (s : State) : State := s.onLu fun l => { l with failedHeard := true }

/-- A frame that passes the tests but is of a kind its source does not send is taken as one that does not answer: from
the drive it ends an order's exchange as a silence, from the peer it is heard and ends an own notice's (R119, R127,
R188). One under this station's own number is neither party's answer. -/
def State.strayFrame (s : State) (frame : List Word) : State :=
  if frameSource frame = 2 then s.driveAnswer (fun _ => false) (fun _ => false) (fun _ s => s) id
  else if frameSource frame = (if s.lu.station then 1 else 0) then s
  else s.peerAnswer (fun _ => false) fun _ s => s

/-- FRAME_CHECK_FAILED (R114, R188). A frame that passes the tests, of a kind its source does not send, comes here for
want of a row of its own (log 44); of any other frame that passes, nothing. -/
def execFrameCheckFailed (frame : List Word) (s : State) : Host.Outcome State Fault Refusal :=
  let s := s.begin
  .next (
    if mismatched frame then s.strayFrame frame
    else if frameValid frame then s
    else s.failedFrame)

/-- This adapter is sending its own frame: a RELEASE is on the line until RELEASE_SENT (R128). -/
def State.sending (s : State) : Bool :=
  match s.lu.exchange with
  | none => false
  | some x => x.frame.body.isRelease

/-- The frame is a station clash (R128). -/
def State.clashes (s : State) (frame : List Word) : Bool :=
  frameValid frame && adapterKind (frameKind frame) &&
    frameSource frame == (if s.lu.station then 1 else 0) && !s.sending

/-- STATION_CLASH (R128). -/
def execStationClash (frame : List Word) (s : State) : Host.Outcome State Fault Refusal :=
  let s := s.begin
  .next (if s.clashes frame && s.hp.adapter != .silenced then s.becomeSilenced else s)

end Sys2Proof.Machine
end

