-- ==== Sys2Proof/Machine/DriveCommands.lean ====
section
/-! DEFINITION. The drive's answers, to an order of this adapter or of the peer (R95, R96, R102 to R105, R117, R121,
R132). -/

namespace Sys2Proof.Machine

open Sys2Proof

/-- No order of the peer. -/
def noPeerOrder (_ : PeerOrder) : Bool := false

/-- The peer's WRITE order, or the data frame that belongs to it. -/
def peerWrites : PeerOrder → Bool
  | .write => true
  | .writeData => true
  | _ => false

/-- The peer's READ order. -/
def peerReads : PeerOrder → Bool
  | .read => true
  | _ => false

/-- The peer's SENSE order. -/
def peerSenses : PeerOrder → Bool
  | .sense => true
  | _ => false

/-- A READ order of this adapter. -/
def FrameBody.isRead : FrameBody → Bool
  | .read _ => true
  | _ => false

/-- A WRITE order of this adapter. -/
def FrameBody.isWrite : FrameBody → Bool
  | .write _ => true
  | _ => false

/-- The cylinder a SEEK names. -/
def FrameBody.seekCylinder : FrameBody → Nat
  | .seek c => c
  | _ => 0

/-- The engine acts on the end of its own order's exchange (R111: no action where the request has gone). -/
def State.forOwner (s : State) (x : Exchange) (k : State → State) : State := if s.ownsExchange x then k s else s

/-- The own SEEK was ACCEPTED (R95, R132, R166). -/
def State.seekAccepted (x : Exchange) (s : State) : State :=
  let s := s.setPositioner (some x.frame.body.seekCylinder) true
  let s := if x.lost then s.setPositioner none false else s
  s.forOwner x fun s => s.notDone fun s => s.goOn State.enterSettle

/-- ACCEPTED (R95). -/
def execAccepted (s : State) : Host.Outcome State Fault Refusal :=
  .next (s.begin.driveAnswer FrameBody.isSeek noPeerOrder State.seekAccepted id)

/-- The own SEEK or transfer order was answered BUSY (R95, R105, R132). -/
def State.ownBusy (x : Exchange) (s : State) : State :=
  (s.busyRecord x).forOwner x fun s => s.notDone fun s => s.displace State.enterSettle

/-- BUSY (R105). A BUSY to the peer's transfer order changes nothing here (R132). -/
def execBusy (s : State) : Host.Outcome State Fault Refusal :=
  .next (s.begin.earlyAnswer (fun b => b.isSeek || b.isTransfer) peerTransfers State.ownBusy id)

/-- An own order was answered NOT READY (R95, R104). -/
def State.ownNotReady (x : Exchange) (s : State) : State := (s.seekUnanswered x).loseDrive (s.ownsExchange x)

/-- The drive told the peer that it is not ready (R163). -/
def State.peerNotReady (s : State) : State := s.loseDrive false

/-- NOT_READY (R104, R163). -/
def execNotReady (s : State) : Host.Outcome State Fault Refusal :=
  .next (s.begin.earlyAnswer (fun b => b.isSeek || b.isTransfer) peerTransfers State.ownNotReady State.peerNotReady)

/-- WRITTEN (R102). -/
def execWritten (s : State) : Host.Outcome State Fault Refusal :=
  .next (s.begin.driveAnswer FrameBody.isWrite peerWrites (fun x s => s.forOwner x State.sectorWritten) id)

/-- WRITE_FAULT (R104). -/
def execWriteFault (s : State) : Host.Outcome State Fault Refusal :=
  .next (s.begin.driveAnswer FrameBody.isWrite peerWrites
    (fun x s => s.forOwner x fun s => s.notDone fun s => s.endRequest .fault (some .writeFault) false) id)

/-- MISSED (R101, R104). -/
def execMissed (s : State) : Host.Outcome State Fault Refusal :=
  .next (s.begin.earlyAnswer FrameBody.isTransfer peerTransfers
    (fun x s => s.forOwner x fun s => s.notDone fun s => s.slip .line) id)

/-- The actual cylinder enters the positioner record (R132). -/
def State.actualCylinder (c : Word) (s : State) : State := s.setPositioner (some c.toNat) false

/-- WRONG_CYLINDER (R105, R132). A cylinder out of range makes a failed frame (R114; log 26). -/
def execWrongCylinder (cylinder : Word) (s : State) : Host.Outcome State Fault Refusal :=
  let s := s.begin
  .next (
    if cylinderOk cylinder then
      s.earlyAnswer FrameBody.isTransfer peerTransfers
        (fun x s => (s.actualCylinder cylinder).forOwner x fun s => s.notDone fun s => s.displace State.reposition)
        (State.actualCylinder cylinder)
    else s.failedFrame)

/-- DATA to the own READ order, clean or DATA CHECK (R102, R103). -/
def State.ownData (words : List Word) (clean : Bool) (s : State) : State :=
  if clean then s.dataClean words else s.notDone State.dataCheck

/-- DATA (R102, R103). -/
def execData (words : List Word) (status : Word) (s : State) : Host.Outcome State Fault Refusal :=
  let s := s.begin
  .next (
    if contentOk 14 (words ++ [status]) then
      s.driveAnswer FrameBody.isRead peerReads
        (fun x s => s.forOwner x (State.ownData words (status == 0))) id
    else s.failedFrame)

/-- A SENSE REPLY saying ready gives the positioner record (R96, R132). -/
def State.sensed (flags cylinder : Word) (s : State) : State := s.setPositioner (some cylinder.toNat) (!flag flags 0)

/-- The own SENSE was answered (R96). -/
def State.ownSense (flags cylinder : Word) (x : Exchange) (s : State) : State :=
  if flag flags 1 then
    (s.sensed flags cylinder).forOwner x fun s => s.notDone fun s => s.goOn State.reposition
  else s.loseDrive (s.ownsExchange x)

/-- The peer's SENSE was answered (R132, R163). -/
def State.peerSense (flags cylinder : Word) (s : State) : State :=
  if flag flags 1 then s.sensed flags cylinder else s.peerNotReady

/-- SENSE_REPLY (R96, R132, R163). -/
def execSenseReply (flags cylinder : Word) (s : State) : Host.Outcome State Fault Refusal :=
  let s := s.begin
  .next (
    if contentOk 15 [flags, cylinder] then
      s.driveAnswer FrameBody.isSense peerSenses (State.ownSense flags cylinder) (State.peerSense flags cylinder)
    else s.failedFrame)

end Sys2Proof.Machine
end

