-- ==== Sys2Proof/Machine/PeerCommands.lean ====
section
/-! DEFINITION. The peer's frames: its orders (R121, R132), its notices (R118, R139, R140, R142, R154, R159) and its
answers to this adapter's notices (R133, R134, R141, R152). A frame whose content is out of range is a failed frame
(R114; log 26). -/

namespace Sys2Proof.Machine

open Sys2Proof

/-! Orders of the peer. -/

/-- The peer's SEEK was ACCEPTED: the record, the count, and the suspension of a request without own tenure (R97,
R132). -/
def State.peerSeekAccepted (s : State) (c : Nat) : State :=
  let s := ((s.setPositioner (some c) true).countPeerSeek).driveHeard
  if s.tm.own.isHolding then s else s.following State.suspendAfterExchange

/-- The end of a peer SEEK exchange by its answer (R132, R163). NOT READY loses the drive, whose record is then R166's;
with the drive DOWN already no row of R132 covers it, and the record stays as it is, be it that ON CYLINDER fell during
the exchange (DESIGN CHOICE: log 48). -/
def State.peerSeekEnds (s : State) (c : Nat) (a : SeekAnswer) : State :=
  match a with
  | .accepted => s.peerSeekAccepted c
  | .busy => (s.setMoving true).driveHeard
  | .notReady => s.driveHeard.loseDrive false
  | .silent => if s.lu.peerSeekFell then s.setPositioner none true else s

/-- The drive was lost while the exchange was in progress (R166). -/
def State.seekAfterLoss (s : State) (lost : Bool) : State := if lost then s.setPositioner none false else s

/-- PEER_SEEK (R121, R132, R166). -/
def execPeerSeek (cylinder : Word) (answer : SeekAnswer) (lost : Bool) (s : State) :
    Host.Outcome State Fault Refusal :=
  let s := s.begin
  .next (
    if cylinderOk cylinder then
      let s := s.peerBegins.peerHeard.spoilNotice
      ((s.peerSeekEnds cylinder.toNat answer).seekAfterLoss lost).onLu fun l => { l with peerSeekFell := false }
    else s.failedFrame)

/-- PEER_ORDER_HEARD (R121, R122, R127). -/
def execPeerOrderHeard (order : PeerOrder) (s : State) : Host.Outcome State Fault Refusal :=
  .next (s.begin.peerBegins.peerHeard.spoilNotice.peerStands (some order))

/-! Notices of the peer. -/

/-- The peer's TENURE is accepted: the record, and the suspension of a request on another cylinder (R97, R139). -/
def State.peerTenure (s : State) (c n : Nat) : State :=
  let s := s.peerHolds (some c) n
  if s.te.target.cylinder = c then s else s.following State.suspendAfterExchange

/-- A TENURE heard, by the own tenure (R139). -/
def State.hearTenure (c n : Nat) (s : State) : State :=
  match s.tm.own with
  | .holding _ r => s.answer (.clash r)
  | .ending _ r => s.answer (.clash r)
  | .none => (s.answer .ack).peerTenure c n
  | .asking _ =>
    ((((s.answer .ack).setOwn .none).withdraw FrameBody.isTenure).peerHolds (some c) n).tenureRefused

/-- PEER_TENURE_HEARD (R139). -/
def execPeerTenureHeard (cylinder revolutions : Word) (s : State) : Host.Outcome State Fault Refusal :=
  let s := s.begin
  .next (
    if contentOk 16 [cylinder, revolutions] then
      s.peerNotice true (State.hearTenure cylinder.toNat revolutions.toNat)
    else s.failedFrame)

/-- The own work at the tenure's cylinder is at least as pressed as the peer's (R142). -/
def State.keeps (s : State) (c : Nat) (k : Int) : Bool := !slackLt (some k) (s.leastSlackAt c)

/-- A PREEMPT heard, by the own tenure (R142). -/
def State.hearPreempt (k : Int) (s : State) : State :=
  match s.tm.own with
  | .holding c _ => if s.keeps c k then s.answer .keep else (s.answer .yield).endTenure
  | .ending _ _ => s.answer .yield
  | .none => (s.answer .yield).offerReleaseOnce
  | .asking _ => ((s.answer .yield).withdrawAsk).offerReleaseOnce

/-- PEER_PREEMPT_HEARD (R142). -/
def execPeerPreemptHeard (slack : Word) (s : State) : Host.Outcome State Fault Refusal :=
  let s := s.begin
  .next (if contentOk 19 [slack] then s.peerNotice true (State.hearPreempt slack.toInt) else s.failedFrame)

/-- The mode of a CLAIM's range word (11.7). -/
def rangeMode (r : Word) : Mode := if flag r 15 then .exclusive else .shared

/-- The count of a range word (11.7). -/
def rangeCount (r : Word) : Nat := field r 0 7

/-- A CLAIM heard (R154). -/
def State.hearClaim (start count : Nat) (m : Mode) (s : State) : State :=
  s.answer (if s.hm.refusesClaim start count m then .refuse else .grant)

/-- PEER_CLAIM_HEARD (R154). -/
def execPeerClaimHeard (start range : Word) (s : State) : Host.Outcome State Fault Refusal :=
  let s := s.begin
  .next (
    if contentOk 22 [start, range] then
      s.peerNotice true (State.hearClaim start.toNat (rangeCount range) (rangeMode range))
    else s.failedFrame)

/-- PEER_RELEASE_HEARD (R140). -/
def execPeerReleaseHeard (s : State) : Host.Outcome State Fault Refusal :=
  .next (s.begin.peerNotice false State.peerGone)

/-- A FREE heard (R38, R159). -/
def State.hearFree (start count : Nat) (written : Bool) (s : State) : State :=
  let s := s.reclaimRange start count
  if written then (s.onEc fun x => x.markRange start count).raise .changed else s

/-- PEER_FREE_HEARD (R159). -/
def execPeerFreeHeard (start range : Word) (s : State) : Host.Outcome State Fault Refusal :=
  let s := s.begin
  .next (
    if contentOk 26 [start, range] then
      s.peerNotice false (State.hearFree start.toNat (rangeCount range) (flag range 15))
    else s.failedFrame)

/-- A HELLO heard (R140). -/
def State.hearHello (s : State) : State :=
  let s := s.peerGone
  match s.tm.own with
  | .holding c _ => if s.lu.tenureStands then s else s.offer (.tenure c)
  | _ => s

/-- PEER_HELLO_HEARD (R140). -/
def execPeerHelloHeard (s : State) : Host.Outcome State Fault Refusal :=
  .next (s.begin.peerNotice false State.hearHello)

/-! Answers of the peer. -/

/-- The cylinder a TENURE names. -/
def FrameBody.tenureCylinder : FrameBody → Nat
  | .tenure c => c
  | _ => 0

/-- ACK (R133, R134). -/
def execAck (s : State) : Host.Outcome State Fault Refusal :=
  .next (s.begin.peerAnswer FrameBody.isTenure fun b s => s.tenureSettled b.tenureCylinder)

/-- CLASH (R133, R134). -/
def execClash (revolutions : Word) (s : State) : Host.Outcome State Fault Refusal :=
  let s := s.begin
  .next (
    if contentOk 18 [revolutions] then
      s.peerAnswer FrameBody.isTenure fun _ s => s.tenureClashed revolutions.toNat
    else s.failedFrame)

/-- YIELD: no record of the asker changes (R141). -/
def execYield (s : State) : Host.Outcome State Fault Refusal :=
  .next (s.begin.peerAnswer FrameBody.isPreempt fun _ s => s)

/-- KEEP: no record of the asker changes (R141). -/
def execKeep (s : State) : Host.Outcome State Fault Refusal :=
  .next (s.begin.peerAnswer FrameBody.isPreempt fun _ s => s)

/-- A CLAIM notice. -/
def FrameBody.isClaim : FrameBody → Bool
  | .claim _ _ _ _ => true
  | _ => false

/-- The entry a CLAIM is for. -/
def FrameBody.claimEntry : FrameBody → Nat
  | .claim id _ _ _ => id
  | _ => 0

/-- GRANT (R152). -/
def execGrant (s : State) : Host.Outcome State Fault Refusal :=
  .next (s.begin.peerAnswer FrameBody.isClaim fun b s => s.becomeHeld b.claimEntry false)

/-- REFUSE (R152). -/
def execRefuse (s : State) : Host.Outcome State Fault Refusal :=
  .next (s.begin.peerAnswer FrameBody.isClaim fun b s => s.refuseEntry b.claimEntry)

end Sys2Proof.Machine
end

