-- ==== Sys2Proof/Machine/Dispatch.lean ====
section
/-! DEFINITION. The dispatch: one arm for each command, in the table's order, each a direct call of its meaning. -/

namespace Sys2Proof.Machine

open Sys2Proof

/-- The effect of a command on everything but the queue. -/
def exec (i : Instr) (s : State) : Host.Outcome State Fault Refusal :=
  match i with
  | .powerUpReset strap ready => Sys2Proof.Machine.execPowerUpReset strap ready s
  | .ioReset reached => Sys2Proof.Machine.execIoReset reached s
  | .addressWrite value => Sys2Proof.Machine.execAddressWrite value s
  | .ignoredWrite target value => Sys2Proof.Machine.execIgnoredWrite target value s
  | .maskWrite value => Sys2Proof.Machine.execMaskWrite value s
  | .attentionRead => Sys2Proof.Machine.execAttentionRead s
  | .setup action => Sys2Proof.Machine.execSetup action s
  | .startChain action => Sys2Proof.Machine.execStartChain action s
  | .abortChain action => Sys2Proof.Machine.execAbortChain action s
  | .illegalAction action => Sys2Proof.Machine.execIllegalAction action s
  | .setupHeaderRead header => Sys2Proof.Machine.execSetupHeaderRead header s
  | .setupImagesRead images => Sys2Proof.Machine.execSetupImagesRead images s
  | .setupResultWritten => Sys2Proof.Machine.execSetupResultWritten s
  | .dmaTransferStart => Sys2Proof.Machine.execDmaTransferStart s
  | .read e => Sys2Proof.Machine.execRead e s
  | .write e => Sys2Proof.Machine.execWrite e s
  | .append e => Sys2Proof.Machine.execAppend e s
  | .compare e => Sys2Proof.Machine.execCompare e s
  | .scan e => Sys2Proof.Machine.execScan e s
  | .holdShared e => Sys2Proof.Machine.execHoldShared e s
  | .holdExclusive e => Sys2Proof.Machine.execHoldExclusive e s
  | .unhold e => Sys2Proof.Machine.execUnhold e s
  | .select e => Sys2Proof.Machine.execSelect e s
  | .inspectDescriptor e => Sys2Proof.Machine.execInspectDescriptor e s
  | .inspectLineRecord e => Sys2Proof.Machine.execInspectLineRecord e s
  | .inspectPositionRecord e => Sys2Proof.Machine.execInspectPositionRecord e s
  | .setClock e => Sys2Proof.Machine.execSetClock e s
  | .maintainOn e => Sys2Proof.Machine.execMaintainOn e s
  | .maintainOff e => Sys2Proof.Machine.execMaintainOff e s
  | .directRead e => Sys2Proof.Machine.execDirectRead e s
  | .directWrite e => Sys2Proof.Machine.execDirectWrite e s
  | .illegalElement e => Sys2Proof.Machine.execIllegalElement e s
  | .heldElementResume => Sys2Proof.Machine.execHeldElementResume s
  | .completionWritten => Sys2Proof.Machine.execCompletionWritten s
  | .bufferLoaded words => Sys2Proof.Machine.execBufferLoaded words s
  | .bufferUnloaded => Sys2Proof.Machine.execBufferUnloaded s
  | .indexPulse pulse => Sys2Proof.Machine.execIndexPulse pulse s
  | .sectorPulse pulse => Sys2Proof.Machine.execSectorPulse pulse s
  | .syntheticSlot orderFirst => Sys2Proof.Machine.execSyntheticSlot orderFirst s
  | .lateWindowClose => Sys2Proof.Machine.execLateWindowClose s
  | .spindleLoss => Sys2Proof.Machine.execSpindleLoss s
  | .requestExpiry position => Sys2Proof.Machine.execRequestExpiry position s
  | .holdWaitExpiry position => Sys2Proof.Machine.execHoldWaitExpiry position s
  | .holdBudgetExpiry position => Sys2Proof.Machine.execHoldBudgetExpiry position s
  | .seekTimeout => Sys2Proof.Machine.execSeekTimeout s
  | .ownTenureExpiry => Sys2Proof.Machine.execOwnTenureExpiry s
  | .peerTenureExpiry => Sys2Proof.Machine.execPeerTenureExpiry s
  | .reclaim position => Sys2Proof.Machine.execReclaim position s
  | .recovery => Sys2Proof.Machine.execRecovery s
  | .readyFall => Sys2Proof.Machine.execReadyFall s
  | .readyRise => Sys2Proof.Machine.execReadyRise s
  | .onCylinderFall peerSeek => Sys2Proof.Machine.execOnCylinderFall peerSeek s
  | .onCylinderRise => Sys2Proof.Machine.execOnCylinderRise s
  | .todAdvance => Sys2Proof.Machine.execTodAdvance s
  | .exchangeStart line => Sys2Proof.Machine.execExchangeStart line s
  | .collision line => Sys2Proof.Machine.execCollision line s
  | .frameAbandoned line => Sys2Proof.Machine.execFrameAbandoned line s
  | .releaseSent => Sys2Proof.Machine.execReleaseSent s
  | .answerWindowClose elapsed => Sys2Proof.Machine.execAnswerWindowClose elapsed s
  | .driveSilenceLimit elapsed => Sys2Proof.Machine.execDriveSilenceLimit elapsed s
  | .frameCheckFailed frame => Sys2Proof.Machine.execFrameCheckFailed frame s
  | .stationClash frame => Sys2Proof.Machine.execStationClash frame s
  | .accepted => Sys2Proof.Machine.execAccepted s
  | .busy => Sys2Proof.Machine.execBusy s
  | .notReady => Sys2Proof.Machine.execNotReady s
  | .written => Sys2Proof.Machine.execWritten s
  | .writeFault => Sys2Proof.Machine.execWriteFault s
  | .missed => Sys2Proof.Machine.execMissed s
  | .wrongCylinder cylinder => Sys2Proof.Machine.execWrongCylinder cylinder s
  | .data words status => Sys2Proof.Machine.execData words status s
  | .senseReply flags cylinder => Sys2Proof.Machine.execSenseReply flags cylinder s
  | .peerSeek cylinder answer lost => Sys2Proof.Machine.execPeerSeek cylinder answer lost s
  | .peerTenureHeard cylinder revolutions => Sys2Proof.Machine.execPeerTenureHeard cylinder revolutions s
  | .peerPreemptHeard slack => Sys2Proof.Machine.execPeerPreemptHeard slack s
  | .peerClaimHeard start range => Sys2Proof.Machine.execPeerClaimHeard start range s
  | .peerReleaseHeard => Sys2Proof.Machine.execPeerReleaseHeard s
  | .peerFreeHeard start range => Sys2Proof.Machine.execPeerFreeHeard start range s
  | .peerHelloHeard => Sys2Proof.Machine.execPeerHelloHeard s
  | .ack => Sys2Proof.Machine.execAck s
  | .clash revolutions => Sys2Proof.Machine.execClash revolutions s
  | .yield => Sys2Proof.Machine.execYield s
  | .keep => Sys2Proof.Machine.execKeep s
  | .grant => Sys2Proof.Machine.execGrant s
  | .refuse => Sys2Proof.Machine.execRefuse s
  | .peerOrderHeard order => Sys2Proof.Machine.execPeerOrderHeard order s

end Sys2Proof.Machine
end

