-- ==== Sys2Proof/Machine/Idle.lean ====
section
/-! DEFINITION. What the adapter does while no command waits: its own work, or one quantum of time (log 3). -/

namespace Sys2Proof.Machine

open Sys2Proof

/-- Some chain has a held element. -/
def State.anyHeld (s : State) : Bool :=
  s.chains.n0.held.isSome || s.chains.n1.held.isSome || s.chains.n2.held.isSome || s.chains.n3.held.isSome

/-- A held element may go on (R48). -/
def State.resumeDue (s : State) : Bool := s.anyHeld && s.wq.records.length < Config.queuePlaces

/-- An INSPECT image write. -/
def Transfer.isImage : Transfer → Bool
  | .image _ _ => true
  | _ => false

/-- A DMA transfer may begin, or an INSPECT image write under way may end (R177; log 12). -/
def State.transferDue (s : State) : Bool :=
  match s.hp.current with
  | none => !s.hp.waiting.isEmpty
  | some t => t.isImage

/-- What the adapter does while no command waits (log 3). -/
def State.idle (s : State) : State :=
  let s := s.begin
  if s.resumeDue then s.resumeAll
  else if s.transferDue then s.endImage.startTransfer
  else s.quantum

end Sys2Proof.Machine
end

