-- ==== Sys2Proof/WellFormed.lean ====
section
/-! DEFINITION. Well-formed commands: the operands carry what the command's name says. A command that is not well-formed
still has a meaning (log 26). -/

namespace Sys2Proof

open Machine

/-- Well-formedness. An INSPECT of an unassigned target and a MAINTAIN of neither on nor off have their kind (R45, R52):
they stand under INSPECT_DESCRIPTOR and MAINTAIN_ON. -/
def Instr.wellFormed : Instr → Bool
  | .powerUpReset _ _ => true
  | .ioReset _ => true
  | .addressWrite _ => true
  | .ignoredWrite _ _ => true
  | .maskWrite _ => true
  | .attentionRead => true
  | .setup a => actionCode a == 1
  | .startChain a => actionCode a == 2
  | .abortChain a => actionCode a == 3
  | .illegalAction a => actionCode a != 1 && actionCode a != 2 && actionCode a != 3
  | .setupHeaderRead _ => true
  | .setupImagesRead images => images.length ≤ 63
  | .setupResultWritten => true
  | .dmaTransferStart => true
  | .read e => e.kindCode == 1
  | .write e => e.kindCode == 2
  | .append e => e.kindCode == 3
  | .compare e => e.kindCode == 4
  | .scan e => e.kindCode == 5
  | .holdShared e => e.kindCode == 6
  | .holdExclusive e => e.kindCode == 7
  | .unhold e => e.kindCode == 8
  | .select e => e.kindCode == 9
  | .inspectDescriptor e => e.kindCode == 10 && (e.targetCode == 0 || e.targetCode == 3)
  | .inspectLineRecord e => e.kindCode == 10 && e.targetCode == 1
  | .inspectPositionRecord e => e.kindCode == 10 && e.targetCode == 2
  | .setClock e => e.kindCode == 11
  | .maintainOn e => e.kindCode == 12 && e.maintainValue != 2
  | .maintainOff e => e.kindCode == 12 && e.maintainValue == 2
  | .directRead e => e.kindCode == 13
  | .directWrite e => e.kindCode == 14
  | .illegalElement e => e.kindCode == 0 || e.kindCode == 15
  | .heldElementResume => true
  | .completionWritten => true
  | .bufferLoaded words => words.length == 128
  | .bufferUnloaded => true
  | .indexPulse _ => true
  | .sectorPulse _ => true
  | .syntheticSlot _ => true
  | .lateWindowClose => true
  | .spindleLoss => true
  | .requestExpiry position => position < 16
  | .holdWaitExpiry position => position < 16
  | .holdBudgetExpiry position => position < 28
  | .seekTimeout => true
  | .ownTenureExpiry => true
  | .peerTenureExpiry => true
  | .reclaim position => position < 8
  | .recovery => true
  | .readyFall => true
  | .readyRise => true
  | .onCylinderFall _ => true
  | .onCylinderRise => true
  | .todAdvance => true
  | .exchangeStart _ => true
  | .collision _ => true
  | .frameAbandoned _ => true
  | .releaseSent => true
  | .answerWindowClose _ => true
  | .driveSilenceLimit _ => true
  | .frameCheckFailed frame => !frameValid frame || mismatched frame
  | .stationClash frame => frameValid frame && adapterKind (frameKind frame)
  | .accepted => true
  | .busy => true
  | .notReady => true
  | .written => true
  | .writeFault => true
  | .missed => true
  | .wrongCylinder cylinder => contentOk 13 [cylinder]
  | .data words status => contentOk 14 (words ++ [status])
  | .senseReply flags cylinder => contentOk 15 [flags, cylinder]
  | .peerSeek cylinder _ _ => contentOk 1 [cylinder]
  | .peerTenureHeard cylinder revolutions => contentOk 16 [cylinder, revolutions]
  | .peerPreemptHeard slack => contentOk 19 [slack]
  | .peerClaimHeard start range => contentOk 22 [start, range]
  | .peerReleaseHeard => true
  | .peerFreeHeard start range => contentOk 26 [start, range]
  | .peerHelloHeard => true
  | .ack => true
  | .clash revolutions => contentOk 18 [revolutions]
  | .yield => true
  | .keep => true
  | .grant => true
  | .refuse => true
  | .peerOrderHeard _ => true

end Sys2Proof
end

