-- ==== Sys2Proof/Safety.lean ====
section
/-! DEFINITION. The terms the claims are stated in: the laws of the device the spec names, as decidable properties of a
state; what a safe step is; and the spec's own words for a fetched element (Sections 2 and 3). -/

namespace Sys2Proof.Machine

open Sys2Proof

/-! Laws of the device. -/

/-- The own tenure and the record of the peer's tenure never stand together (R131, R133, R139). -/
abbrev TenureExclusive (s : State) : Prop := s.tm.peer.isSome → s.tm.own = .none

/-- The queue never holds more than 16 requests (R66). -/
abbrev QueueBounded (s : State) : Prop := s.wq.records.length ≤ 16

/-- Two entries may stand on the Hold List together: they share no block, or both are SHARED (R147). -/
abbrev Compatible (a b : HoldEntry) : Prop :=
  overlap a.start a.count b.start b.count = true → a.mode = .shared ∧ b.mode = .shared

/-- The Hold List holds at most 8 entries, and two of its entries overlap only if both are SHARED (R147). -/
abbrev HoldListSound (s : State) : Prop := s.hm.list.length ≤ 8 ∧ s.hm.list.Pairwise Compatible

/-- The counts a frame carries while it is pending or in its exchange (R122, R125). -/
abbrev Frame.CountsInRange (f : Frame) : Prop := f.collisions ≤ 7 ∧ f.silences ≤ 1

/-- Every frame's counts are in range, and so is the collision record's (R122, R124, R125). -/
abbrev LineCountsInRange (s : State) : Prop :=
  (∀ f ∈ s.lu.frames, f.CountsInRange) ∧ (∀ x ∈ s.lu.exchange, x.frame.CountsInRange) ∧ s.lu.collisionCount ≤ 255

/-- The monitor's counts are in range; the counter is UNSYNCED in DOWN and synchronized in UP (R5, R6, R126, R162). -/
abbrev MonitorInRange (m : Monitor) : Prop :=
  (∀ c ∈ m.counter, c ≤ 19) ∧ m.synthRun ≤ 20 ∧ m.revCount ≤ 19 ∧ m.silence ≤ 2 ∧ m.recovery ≤ 3 ∧
    (m.drive = .down → m.counter = none) ∧ (m.drive = .up → m.counter ≠ none)

/-- Names of records and of hold entries are given once, and each stands below the next to be given (log 17). -/
abbrev NamesFresh (s : State) : Prop :=
  ((s.wq.records.map Request.id).Nodup ∧ ∀ r ∈ s.wq.records, r.id < s.wq.nextId) ∧
    (((s.hm.list ++ s.hm.line).map HoldEntry.id).Nodup ∧ ∀ e ∈ s.hm.list ++ s.hm.line, e.id < s.hm.nextId) ∧
    ∀ r ∈ s.wq.records, ∀ id ∈ r.hold, id < s.hm.nextId

/-- The sectors promised to the APPEND requests of a descriptor and not yet written (R32). -/
def promised (s : State) (x : Table) (i : Nat) : Nat :=
  ((s.wq.records.filter fun r => r.kind = .append ∧ r.extent = some (x, i)).map fun r => r.count - r.done).sum

/-- R32 at one place of a table: no less is reserved than is promised; the fill mark of a LOG lies within 0..L + 1,
within 0..L with WRAP, and without WRAP the fill mark and the reserved count together lie within 0..L + 1. -/
abbrev LogSound (s : State) (x : Table) (i : Nat) : Prop :=
  let d := s.ec.get x i
  promised s x i ≤ d.reserved ∧
    (d.kind = .log → d.fill ≤ d.limit + 1 ∧ (d.wrap = true → d.fill ≤ d.limit) ∧
      (d.wrap = false → d.fill + d.reserved ≤ d.limit + 1))

/-- R32 holds at every place. With it goes what the tables depend on: an APPEND in the queue has a sector left to write
(R102), a held element passed its field check and its chain is RUNNING (R45, R48, R54), and while no setup is in force
or one is in progress the queue is empty and no chain is RUNNING (R42, R179). -/
abbrev LogsSound (s : State) : Prop :=
  (∀ i < 32, LogSound s .priv i ∧ LogSound s .common i) ∧
    (∀ r ∈ s.wq.records, r.kind = .append → r.done < r.count) ∧
    (∀ n, ∀ h ∈ (s.chain n).held, (s.chain n).state = .running ∧ legalFields h.info.kind h.words = true) ∧
    (s.hp.adapter = .unconfigured ∨ s.hp.progress ≠ none →
      s.wq.records = [] ∧ ∀ n, (s.chain n).state ≠ .running)

/-- A safe outcome is a next state; the adapter never stops. -/
def SafeOutcome (o : Host.Outcome State Fault Refusal) : Prop := ∃ t, o = .next t

/-! Resets. -/

/-- What both resets leave (10.6, R5, R23, R41, R91, R131, R146, R162), with the station, the clock, the READY line and
the pending frames as given. -/
structure AfterReset (t : State) (station : Bool) (tod : Tod) (ready : Bool) (frames : List Frame) :
    Prop where
  hostPort : t.hp = ⟨0, .unconfigured, none, .none, 0, 0, none, none, [], none, [], tod⟩
  chains : ∀ n, t.chain n = ⟨.idle, 0, 0, ⟨.common, 0, 0⟩, ⟨false, false, false, false, false, false⟩, 0, none,
    ⟨false, false, false, false⟩, false, false⟩
  sizes : t.ec.privSize = 0 ∧ t.ec.commSize = 0
  tables : ∀ x i, t.ec.get x i = ⟨.empty, 0, 0, 0, false, 0, false, false, false, false, 0, none⟩
  queue : t.wq.records = []
  engine : t.te.phase = .idle ∧ t.te.request = none ∧ t.te.settle = 0 ∧ t.te.lastSlip = .none ∧
    t.te.bufA.state = .empty ∧ t.te.bufB.state = .empty
  holds : t.hm.list = [] ∧ t.hm.line = []
  tenure : t.tm = ⟨.none, none, none, false, .unknown, false, false, 0⟩
  line : t.lu.station = station ∧ t.lu.frames = frames ∧ t.lu.backoff = 0
  collisions : t.lu.collisionCount = 0 ∧ t.lu.lastCollided = 0 ∧ t.lu.armed = true
  rotation : t.rdm.counter = none ∧ t.rdm.timer = 12500 ∧ t.rdm.synthRun = 0 ∧ t.rdm.revCount = 0 ∧ t.rdm.lateLeft = 0
  drive : t.rdm.drive = (if ready then .resync else .down) ∧ t.rdm.recovery = 0 ∧ t.rdm.resync = .awaitingIndex ∧
    t.rdm.silence = 0

/-! A fetched element (R44 to R47). -/

/-- The kind and the words of the element a command brings. -/
def elementOf : Instr → Option (ElementKind × Element)
  | .read e => some (.disk .read, e)
  | .write e => some (.disk .write, e)
  | .append e => some (.disk .append, e)
  | .compare e => some (.disk .compare, e)
  | .scan e => some (.disk .scan, e)
  | .holdShared e => some (.hold .shared, e)
  | .holdExclusive e => some (.hold .exclusive, e)
  | .unhold e => some (.unhold, e)
  | .select e => some (.select, e)
  | .inspectDescriptor e => some (.inspect .descriptor, e)
  | .inspectLineRecord e => some (.inspect .lineRecord, e)
  | .inspectPositionRecord e => some (.inspect .positionRecord, e)
  | .setClock e => some (.setClock, e)
  | .maintainOn e => some (.maintain, e)
  | .maintainOff e => some (.maintain, e)
  | .directRead e => some (.disk .directRead, e)
  | .directWrite e => some (.disk .directWrite, e)
  | .illegalElement e => some (.unassigned, e)
  | _ => none

/-- The command is one of those that bring a disk element of a kind. -/
def diskCommand (k : RequestKind) (e : Element) : Instr :=
  match k with
  | .read => .read e
  | .write => .write e
  | .append => .append e
  | .compare => .compare e
  | .scan => .scan e
  | .directRead => .directRead e
  | .directWrite => .directWrite e

/-- The command that brings a HOLD of a mode. -/
def holdCommand (m : Mode) (e : Element) : Instr :=
  match m with
  | .shared => .holdShared e
  | .exclusive => .holdExclusive e

/-- The state right after the fetch of chain `n` has brought its element: the transfer is over, one more element is in
flight, the next element address is 16 further (R44). -/
def fetched (s : State) (n : Fin 4) : State :=
  { s with
    out := []
    hp := { s.hp with current := none }
    chains := s.chains.set n { s.chain n with
      inFlight := (s.chain n).inFlight + 1
      next := (s.chain n).next + 16 } }

/-- A completion write is asked behind the transfers that wait (R51, R177). -/
def completing (s : State) (c : Completion) : State :=
  { s with hp := { s.hp with waiting := s.hp.waiting ++ [.completion c] } }

/-- What the adapter keeps of the element that chain `n` has fetched (R44). -/
def infoOf (s : State) (n : Fin 4) (k : ElementKind) (e : Element) : ElemInfo :=
  ⟨n, (s.chain n).next, k, e.last, e.stream, e.carryPast⟩

/-- The completion of an element on which no work was done: its F outcome says FAULT, every other outcome bit is clear,
the stamp is the time now, and the next fetch is asked at it unless the element carries END (R49 to R51). -/
def plainCompletion (s : State) (n : Fin 4) (k : ElementKind) (e : Element) (st : Status) (f : Option ElementFault)
    (place : Option (Table × Nat)) : Completion :=
  ⟨infoOf s n k e, st, f, ⟨st == .fault, false, false, false, false, false⟩, 0, place,
    ⟨!s.hp.tod.running, s.hp.tod.hours, s.hp.tod.minutes, s.hp.tod.seconds, s.hp.tod.tenths⟩, .byKind, !e.last,
    none, false, false⟩

/-- The element that chain `n` fetches is carried out: the fetch is under way, the chain RUNNING, the fields legal and
the run condition true (R44 to R47). -/
abbrev Runs (s : State) (n : Fin 4) (k : ElementKind) (e : Element) : Prop :=
  s.hp.current = some (.fetch n) ∧ (s.chain n).state = .running ∧ legalFields k e = true ∧
    runCondition e.condition (s.chain n).flags = true

/-- The selector the element uses (R24). -/
def selectorOf (s : State) (n : Fin 4) (k : ElementKind) (e : Element) : Selector :=
  if e.useDefault = true ∧ k ≠ .select then (s.chain n).selector else e.selector

/-- The descriptor the element's selector resolves to. -/
def descriptorFor (s : State) (n : Fin 4) (k : ElementKind) (e : Element) : Descriptor :=
  s.ec.get (selectorOf s n k e).table (selectorOf s n k e).index

/-- The table of R27: the descriptor kinds marked "yes" for an element kind, the hold kinds on Common extents alone. -/
def kindYes (k : ElementKind) (x : Table) : List DescriptorKind :=
  match k with
  | .disk .read => [.fixed, .working, .log]
  | .disk .compare => [.fixed, .working, .log]
  | .disk .scan => [.fixed, .working, .log]
  | .disk .write => [.working]
  | .disk .append => [.log]
  | .hold .shared => if x = .common then [.fixed, .working] else []
  | .hold .exclusive => if x = .common then [.working] else []
  | .unhold => if x = .common then [.fixed, .working] else []
  | .inspect .descriptor => [.fixed, .working, .log]
  | _ => []

/-- The first of the checks 1 to 5 of R25 that fails, in the order of R25. -/
def firstCheckFailed (s : State) (n : Fin 4) (k : ElementKind) (e : Element) : Option ElementFault :=
  let x := selectorOf s n k e
  let d := descriptorFor s n k e
  if x.table = .common ∧ x.index = 0 then some .nullSelector
  else if s.ec.size x.table ≤ x.index then some .indexLimit
  else if d.kind = .empty then some .emptyDescriptor
  else if d.level < max (s.chain n).level x.level then some .level
  else if d.kind ∉ kindYes k x.table then some .kind
  else none

/-- The readable limit of R28 plus one. -/
def readableBlocks (d : Descriptor) : Nat := if d.kind = .log ∧ d.wrappedEver = false then d.fill else d.limit + 1

/-- The sixth check for a disk kind that passes the first five: first block, transfer count n′ and S outcome; none where
the range faults or an unwrapped log is full (R28, R29, R33, R34). -/
def admission (d : Descriptor) (k : RequestKind) (o n : Nat) : Option (Nat × Nat × Bool) :=
  match k with
  | .write => if o + n ≤ d.limit + 1 then some (d.base + o, n, false) else none
  | .append =>
    let room := if d.wrap then d.limit + 1 else d.limit + 1 - d.fill - d.reserved
    if 0 < room then some (d.base + d.fill, min n room, decide (room < n)) else none
  | _ =>
    if o < readableBlocks d then
      some (d.base + o, min n (readableBlocks d - o), decide (readableBlocks d < o + n))
    else none

/-- The record an admitted disk element makes (R66, R69): its element, its extent, first block `b`, count `m`, level,
C and S outcomes, hold reference, state, and the place `t` of its first sector. -/
def recordFor (s : State) (i : ElemInfo) (k : RequestKind) (e : Element) (extent : Option (Table × Nat))
    (b m level : Nat) (changed short : Bool) (hold : Option Nat) (st : RequestState) (t : Target) : Request :=
  let cost := costAt s.tm.cylinder s.rdm.counter t
  let slack := (budgetOf e.budget).map fun x => (x : Int) - (cost + span s.cfg.interleave m : Nat)
  { id := s.wq.nextId, elem := i, kind := k, extent := extent, firstBlock := b, direct := e.direct, count := m, done := 0,
    buffer := e.buffer, key := e.key, budget := budgetOf e.budget, lateAction := e.lateAction, started := false,
    urgent := slack.any (· < 0), late := false, cost := cost, slack := slack, retries := 0, displacements := 0, slips := 0,
    hold := hold, changedOut := changed, shortOut := short, level := level, state := st }

/-- The C outcome of a disk kind: the changed mark at its admission, where the table of R52 gives the kind a C. -/
def changedOutcome (k : RequestKind) (d : Descriptor) : Bool :=
  (k = .read ∨ k = .write ∨ k = .compare ∨ k = .scan) && d.changed

/-- The accessed mark set and, for an APPEND, `m` sectors reserved (R31, R33). -/
def accessedWith (s : State) (x : Selector) (m : Nat) : Extents :=
  s.ec.modify x.table x.index fun d => { d with accessed := true, reserved := d.reserved + m }

/-- A STREAM element without END has been admitted: the next fetch is asked, or due while a fetch-wait reason stands
(R47, R49). -/
def streamed (t : State) (n : Fin 4) (e : Element) : State :=
  if e.stream = true ∧ e.last = false then
    if (t.chain n).wait ≠ ⟨false, false, false, false⟩ then
      { t with chains := t.chains.set n { t.chain n with fetchDue := true } }
    else if .fetch n ∈ t.hp.waiting then t
    else { t with hp := { t.hp with waiting := t.hp.waiting ++ [.fetch n] } }
  else t

/-- The disk element goes through the Extent Check and passes the first five checks with room in the queue. -/
abbrev Admissible (s : State) (n : Fin 4) (k : RequestKind) (e : Element) : Prop :=
  Runs s n (.disk k) e ∧ k ≠ .directRead ∧ k ≠ .directWrite ∧ s.wq.records.length < 16 ∧
    firstCheckFailed s n (.disk k) e = none

/-- The completion writes asked, or held back until the sector writes of their request have ended (R51, R99). -/
def asked (s : State) : List Completion :=
  (s.hp.waiting.filterMap fun x => match x with | .completion c => some c | _ => none) ++
    s.hp.heldBack.map fun x => x.2

/-- A completion of a request is asked, with the record's done count and the status and fault given; its F and L outcome
bits are as R50 says. -/
def CompletionAsked (s : State) (r : Request) (st : Status) (f : Option ElementFault) : Prop :=
  ∃ c ∈ asked s, c.info = r.elem ∧ c.status = st ∧ c.fault = f ∧ c.done = r.done ∧ c.place = r.extent ∧
    c.bits.f = (st == .fault) ∧ c.bits.l = (r.late || st == .expired)

/-- No record of the name stands in the queue. -/
abbrev Left (s : State) (id : Nat) : Prop := ∀ r ∈ s.wq.records, r.id ≠ id

/-! The engine gives its request up (R85, R97). -/

/-- The request stands in the queue again and the records left keep their order (R66, R85): READY, the engine no longer
working on it, or ACTIVE where the selection that follows has chosen it again (R82). Of its record only what selection
forms afresh may differ. An engine with no request is IDLE and has no order pending (R97). -/
def Returned (s t : State) (r : Request) : Prop :=
  (∃ u ∈ t.wq.records,
    (u.state = .ready ∧ t.te.request ≠ some r.id ∨ u.state = .active ∧ t.te.request = some r.id) ∧
      u = { r with state := u.state, cost := u.cost, slack := u.slack, urgent := u.urgent }) ∧
    (t.wq.records.map Request.id).Sublist (s.wq.records.map Request.id) ∧
    (t.te.request = none → t.te.phase = .idle ∧ ∀ f ∈ t.lu.frames, f.body.isOrder = false)

/-- The request `r` of the engine, its record now `u`, is suspended: it has left with ABORTED asked where it may not
return (R65, R85, R87), else it stands in the queue again. -/
def SuspendedAs (s t : State) (r u : Request) : Prop :=
  if s.mayNotReturn r then CompletionAsked t u .aborted none ∧ Left t r.id else Returned s t u

/-- A cause of suspension has been taken while the engine works on `r` (R97): the request is suspended at once, or at
the end of its exchange in progress; an ENDING one is left to that end (R88). -/
def SuspensionTaken (s t : State) (r : Request) : Prop :=
  (r.state = .active → s.exchangeInProgress = false → SuspendedAs s t r r) ∧
    (r.state = .active → s.exchangeInProgress = true → t.te = { s.te with suspendAfter := true } ∧ r ∈ t.wq.records) ∧
    (r.state = .ending → t.te = s.te ∧ r ∈ t.wq.records)

/-! The stop and the end of a chain (R54 to R57, R65, R87). -/

/-- What the entry to STOPPING has left of the work of chain `n` (R44, R48, R54, R87): no fetch of it waits, nothing is
held, no reason stands and no fetch is due. Each queued request has left with the status and fault given, and so has
the held element, its record naming its selector's place unless its kind has none. -/
def WorkShed (s t : State) (n : Fin 4) (st : Status) (f : Option ElementFault) : Prop :=
  (t.chain n).held = none ∧ (t.chain n).wait = ⟨false, false, false, false⟩ ∧ (t.chain n).fetchDue = false ∧
    .fetch n ∉ t.hp.waiting ∧ (∀ r ∈ t.wq.records, r.elem.chain = n → r.queued = false) ∧
    (∀ r ∈ s.wq.records, r.elem.chain = n → r.queued = true → CompletionAsked t r st f) ∧
    ∀ h k, (s.chain n).held = some h → h.info.kind = .disk k →
      ∃ c ∈ asked t, c.info = h.info ∧ c.status = st ∧ c.fault = f ∧ c.done = 0 ∧
        c.place = if k = .directRead ∨ k = .directWrite then none
          else some ((selectorOf t n h.info.kind h.words).table, (selectorOf t n h.info.kind h.words).index)

/-- The entry has left list and line; the FREE with its range and written flag is offered if it was claimed, unless the
adapter is SILENCED (R56, R156). -/
def Released (s t : State) (y : HoldEntry) : Prop :=
  (∀ z ∈ t.hm.list ++ t.hm.line, z.id ≠ y.id) ∧
    (y.claimed = true → s.hp.adapter ≠ .silenced → ∃ f ∈ t.lu.frames, f.body = .free y.start y.count y.written)

/-- Each HOLD of chain `n` that waits ends with the status and fault given, and its entry is removed (R54, R57). -/
def HoldsStopped (s t : State) (n : Fin 4) (st : Status) (f : Option ElementFault) : Prop :=
  ∀ y ∈ s.hm.list ++ s.hm.line, y.chain = n → ∀ h, y.holdElem = some h →
    (∃ c ∈ asked t, c.info = h.1 ∧ c.status = st ∧ c.fault = f ∧ c.done = 0 ∧ c.place = some (h.2.1, h.2.2)) ∧
      Released s t y

/-- The adapter has left MAINTENANCE (R65): it has no maintaining chain and is RUNNING again; each queued DIRECT request
has left with ABORTED asked; the reason maintenance is gone, and a fetch that was due for it alone is asked. -/
def MaintenanceLeft (s t : State) : Prop :=
  t.hp.maintaining = none ∧ t.hp.adapter = (if s.hp.adapter = .maintenance then .running else s.hp.adapter) ∧
    (∀ r ∈ s.wq.records, r.isDirect = true → r.queued = true → CompletionAsked t r .aborted none ∧ Left t r.id) ∧
    ∀ m, (t.chain m).wait.maintenance = false ∧
      ((s.chain m).state = .running → (s.chain m).fetchDue = true → (s.chain m).wait = ⟨false, false, false, true⟩ →
        s.hp.current ≠ some (.fetch m) → (t.chain m).state = .running → .fetch m ∈ t.hp.waiting)

/-- Chain `n` has become ENDED (R56): CHAIN n is raised, nothing is held, no reason stands, each of its explicit entries
is released, and MAINTENANCE is left if it was the maintaining chain. Where nothing else of the chain was left to end,
the FREEs go in Hold List order, then in pending-line order, and every other entry stands. -/
def ChainEnded (s t : State) (n : Fin 4) : Prop :=
  let ends : HoldEntry → Prop := fun y => y.chain = n ∧ y.origin = .explicit
  (t.chain n).state = .ended ∧ t.hp.events.getLsbD n.val = true ∧ (t.chain n).held = none ∧
    (t.chain n).wait = ⟨false, false, false, false⟩ ∧ (t.chain n).fetchDue = false ∧
    (∀ y ∈ s.hm.list ++ s.hm.line, ends y → Released s t y) ∧
    (s.hp.adapter = .silenced → ∀ f ∈ t.lu.frames, f ∈ s.lu.frames) ∧
    (s.hp.maintaining = some n → MaintenanceLeft s t) ∧
    (s.hp.maintaining ≠ some n → t.hp.maintaining = s.hp.maintaining ∧ t.hp.adapter = s.hp.adapter) ∧
    ((∀ r ∈ s.wq.records, r.elem.chain ≠ n) → (∀ y ∈ s.hm.list ++ s.hm.line, y.chain = n → y.holdElem = none) →
      (s.hp.adapter ≠ .silenced →
        (((s.hm.list ++ s.hm.line).filter fun y => decide (ends y) && y.claimed).map fun y =>
          FrameBody.free y.start y.count y.written).Sublist (t.lu.frames.map Frame.body)) ∧
      (s.hp.maintaining ≠ some n → ∀ y ∈ s.hm.list ++ s.hm.line, ¬ ends y →
        ∃ z ∈ t.hm.list ++ t.hm.line, z.id = y.id ∧ z.start = y.start ∧ z.count = y.count ∧ z.mode = y.mode ∧
          z.chain = y.chain ∧ z.origin = y.origin ∧ z.claimed = y.claimed ∧ z.written = y.written ∧ z.refs = y.refs))

/-! Holds (Section 8). -/

/-- The entry fits on the Hold List: a place is free and no entry on it conflicts (R147, R150). -/
abbrev Fits (s : State) (y : HoldEntry) : Prop := s.hm.list.length < 8 ∧ ∀ x ∈ s.hm.list, Compatible x y

/-- The whole range of a SHARED entry is covered by HELD SHARED entries on the list (R150). -/
abbrev CoveredShared (s : State) (y : HoldEntry) : Prop :=
  y.mode = .shared ∧ ∀ i < y.count, ∃ x ∈ s.hm.list, x.state = .held ∧ x.mode = .shared ∧ x.start ≤ y.start + i ∧
    y.start + i < x.start + x.count

/-- The state a new entry takes when it is placed (R150). -/
def placedState (s : State) (y : HoldEntry) : HoldState :=
  if Fits s y then (if CoveredShared s y then .held else .claiming) else .pending

/-- The Hold Manager after a new entry is placed (R150): HELD with peer-silent if a covering entry has it, CLAIMING, or
PENDING in the line. A HOLD waits on the entry unless it is HELD. -/
def withEntry (s : State) (y : HoldEntry) : HoldManager :=
  match placedState s y with
  | .held => { s.hm with
      list := s.hm.list ++ [{ y with
        state := .held
        holdElem := none
        silent := s.hm.list.any fun x => x.state = .held && x.mode = .shared && x.silent &&
          overlap x.start x.count y.start y.count }]
      nextId := s.hm.nextId + 1 }
  | .claiming => { s.hm with list := s.hm.list ++ [{ y with state := .claiming }], nextId := s.hm.nextId + 1 }
  | _ => { s.hm with line := s.hm.line ++ [{ y with state := .pending }], nextId := s.hm.nextId + 1 }

/-- The frames pending after a new entry is placed: its CLAIM is offered when it is CLAIMING (R150, R152). -/
def withClaim (s : State) (y : HoldEntry) : LineUnit :=
  if placedState s y = .claiming then
    { s.lu with frames := s.lu.frames ++ [⟨.claim y.id y.start y.count y.mode, 0, 0, false⟩] }
  else s.lu

/-- The entry covers a request of the chain: same chain, range, and mode enough for the kind (R147, R149). -/
abbrev CoversRequest (x : HoldEntry) (n : Fin 4) (k : RequestKind) (b m : Nat) : Prop :=
  x.chain = n ∧ x.start ≤ b ∧ b + m ≤ x.start + x.count ∧
    (x.mode = .exclusive ∨ k = .read ∨ k = .compare ∨ k = .scan)

/-- A new implicit entry for a request (R149). -/
def implicitEntry (s : State) (n : Fin 4) (k : RequestKind) (b m : Nat) (budget : Option Nat) : HoldEntry :=
  { id := s.hm.nextId, start := b, count := m,
    mode := if k = .read ∨ k = .compare ∨ k = .scan then .shared else .exclusive,
    chain := n, origin := .implicit, state := .pending, claimed := false, written := false, silent := false, refs := 1,
    budget := budget, refusalRevs := 0, holdElem := none, unholdElem := none }

/-- A new explicit entry for a HOLD, on which the element waits (R148). -/
def explicitEntry (s : State) (n : Fin 4) (m : Mode) (e : Element) (b count : Nat) (x : Selector) : HoldEntry :=
  { id := s.hm.nextId, start := b, count := count, mode := m, chain := n, origin := .explicit, state := .pending,
    claimed := false, written := false, silent := false, refs := 0, budget := budgetOf e.budget, refusalRevs := 0,
    holdElem := some (infoOf s n (.hold m) e, x.table, x.index), unholdElem := none }

/-- The pending line checked again after a removal (R151): each PENDING entry in its order by R150, against the list as
the earlier ones have left it. One that passes joins the end of the list, HELD if HELD SHARED entries cover it and else
CLAIMING; one that fails keeps its place in the line. The new list and the new line. -/
def rechecked (list : List HoldEntry) : List HoldEntry → List HoldEntry × List HoldEntry
  | [] => (list, [])
  | y :: rest =>
    let covering := list.filter fun x => x.state = .held && x.mode = .shared
    if list.length < 8 ∧ ∀ x ∈ list, Compatible x y then
      if y.mode = .shared ∧ ∀ i < y.count, ∃ x ∈ covering, x.start ≤ y.start + i ∧ y.start + i < x.start + x.count then
        rechecked (list ++ [{ y with
          state := .held
          holdElem := none
          silent := covering.any fun x => x.silent && overlap x.start x.count y.start y.count }]) rest
      else rechecked (list ++ [{ y with state := .claiming }]) rest
    else
      let r := rechecked list rest
      (r.1, y :: r.2)

/-! The host's commands. -/

/-- The adapter is quiet (R179). -/
abbrev Quiet (s : State) : Prop :=
  (∀ n, (s.chain n).state ≠ .running ∧ (s.chain n).state ≠ .stopping) ∧ s.wq.records = [] ∧ s.hm.list = [] ∧
    s.tm.own = .none

/-- A refused ACTION: the code, and the attention whose place in ATTENTION is `bit` (R173). -/
def refusedAction (s : State) (c : RefusalCode) (bit : Nat) : State :=
  { s with out := [], hp := { s.hp with refusal := c, events := s.hp.events ||| BitVec.twoPow 12 bit } }

/-- The ranks of transfers (R177). -/
def transferRank : Transfer → Nat
  | .load _ _ => 1
  | .unload _ _ => 1
  | .completion _ => 2
  | .image _ _ => 2
  | .setupResult => 2
  | .fetch _ => 3
  | .setupHeader => 4
  | .setupImages => 4

/-- One transfer is served before another whatever the order in which they were asked: by rank, and among fetches the
lower slot first (R177). -/
def servedBefore (t u : Transfer) : Bool :=
  transferRank t < transferRank u ||
    match t, u with
    | .fetch n, .fetch m => n < m
    | _, _ => false

/-- The time of day in tenths of a second. -/
def Tod.total (t : Tod) : Nat := ((t.hours * 60 + t.minutes) * 60 + t.seconds) * 10 + t.tenths

/-- The four fields are in range (R182). -/
abbrev Tod.InRange (t : Tod) : Prop := t.hours ≤ 23 ∧ t.minutes ≤ 59 ∧ t.seconds ≤ 59 ∧ t.tenths ≤ 9

/-! The drive and the line. -/

/-- The drive has been lost (R164 to R166): DOWN, the counter UNSYNCED, DRIVE raised, the positioner UNKNOWN and not
moving, no tenure HOLDING; the engine's request, with no exchange of it in progress, has ended FAULT DRIVE DOWN. -/
def LostDrive (s t : State) : Prop :=
  t.rdm.drive = .down ∧ t.rdm.counter = none ∧ t.rdm.silence = 0 ∧ t.rdm.recovery = 0 ∧
    t.hp.events.getLsbD 9 = true ∧ t.tm.cylinder = none ∧ t.tm.moving = false ∧ t.tm.own.isHolding = false ∧
    ∀ r, s.activeRequest = some r → r.state = .active → s.exchangeInProgress = false →
      t.te.phase = .idle ∧ CompletionAsked t r .fault (some .driveDown) ∧ Left t r.id

/-- The exchange in progress is of an order of the ACTIVE request `r` (R115, R91), and neither a suspension nor the loss
of the drive waits for its end. -/
abbrev Serving (s : State) (x : Exchange) (r : Request) : Prop :=
  s.lu.exchange = some x ∧ x.frame.body.isOrder = true ∧ x.discarded = false ∧ x.lost = false ∧
    x.request = some r.id ∧ s.te.request = some r.id ∧ s.wq.find r.id = some r ∧ r.state = .active ∧
    s.te.suspendAfter = false ∧ s.te.downAfter = false

/-- The exchange in progress is of an order of the engine's request `r`, which will not go on after it: it is ENDING, or
the drive was lost meanwhile (R111, R112). -/
abbrev Finishing (s : State) (x : Exchange) (r : Request) : Prop :=
  s.lu.exchange = some x ∧ x.frame.body.isOrder = true ∧ x.discarded = false ∧ x.request = some r.id ∧
    s.te.request = some r.id ∧ s.wq.find r.id = some r ∧
    (r.state = .ending ∨ r.state = .active ∧ s.te.downAfter = true)

/-- The exchange in progress is of an order of the ACTIVE request `r`, and a suspension taken during it waits for its
end (R97). -/
abbrev Suspending (s : State) (x : Exchange) (r : Request) : Prop :=
  s.lu.exchange = some x ∧ x.frame.body.isOrder = true ∧ x.discarded = false ∧ x.lost = false ∧
    x.request = some r.id ∧ s.te.request = some r.id ∧ s.wq.find r.id = some r ∧ r.state = .active ∧
    s.te.suspendAfter = true ∧ s.te.downAfter = false

/-- The window of the early answers to the order in exchange is open (R116; log 43). -/
abbrev EarlyOpen (x : Exchange) : Prop := x.frame.body.isTransfer = true → x.earlyOver = false

/-- The exchange in progress is of a notice of this adapter that takes an answer, and the answer is to be taken. -/
abbrev Noticing (s : State) (x : Exchange) : Prop :=
  s.lu.exchange = some x ∧ x.frame.body.isAnswered = true ∧ x.discarded = false ∧ s.listens = true

/-- R134: the frame is a TENURE, the own tenure is HOLDING, and the engine waits with an ask for another cylinder. -/
def askedElsewhere (s : State) (b : FrameBody) : Bool :=
  s.tm.own.isHolding && s.te.phase == .tenureWait &&
    match b with
    | .tenure c => s.te.target.cylinder != c
    | _ => false

/-- What any valid frame of the peer leaves, where the Line Unit hands frames on: the peer PRESENT, PEER raised if it
was ABSENT, the courtesy wait ended (R121, R127, R138). A tenure asked behind the courtesy wait is offered now (R133).
-/
def present (s : State) : State :=
  { s with
    hp := if s.tm.presence = .absent then { s.hp with events := s.hp.events ||| BitVec.twoPow 12 7 } else s.hp
    tm := { s.tm with presence := .present, courtesy := false }
    lu := match s.tm.own with
      | .asking c =>
        if s.tm.courtesy = true ∧ s.lu.tenureStands = false then
          { s.lu with frames := s.lu.frames ++ [⟨.tenure c, 0, 0, false⟩] }
        else s.lu
      | _ => s.lu }

/-- A notice or an order of the peer begins: a standing backoff is spent (R122), and the peer is heard. -/
def peerBegan (s : State) : State :=
  present { s with out := [], lu := { s.lu with backoff := 0 } }

/-- The end of the own notice's exchange by a frame of the peer that answers it. -/
def answered (s : State) : State :=
  let t := present { s with out := [] }
  { t with lu := { t.lu with exchange := none } }

/-- What a notice decided unanswered leaves of the presence (R127, R138): the peer ABSENT, PEER raised on the change,
the courtesy wait ended. A tenure asked behind it is offered now (R133). -/
def absent (s : State) : State :=
  { s with
    hp := if s.tm.presence = .absent then s.hp else { s.hp with events := s.hp.events ||| BitVec.twoPow 12 7 }
    tm := { s.tm with presence := .absent, courtesy := false }
    lu := match s.tm.own with
      | .asking c =>
        if s.tm.courtesy = true ∧ s.lu.tenureStands = false then
          { s.lu with frames := s.lu.frames ++ [⟨.tenure c, 0, 0, false⟩] }
        else s.lu
      | _ => s.lu }

/-- What the eighth collision of the frame at place `i` leaves before its owner acts (R122 to R124): the frame is no
longer pending, LINE is raised, the eighth backoff stands, and the collision record has taken it. -/
def abandoned (s : State) (i : Nat) (f : Frame) : State :=
  { s with
    out := []
    hp := { s.hp with events := s.hp.events ||| BitVec.twoPow 12 8 }
    lu := { s.lu with
      frames := s.lu.frames.eraseIdx i
      backoff := if s.lu.station then 8 else 16
      failedHeard := false
      collisionCount := min 255 (s.lu.collisionCount + 1)
      lastCollided := f.body.code
      armed := false } }

/-- The Line Unit hands a notice of the peer on, with no notice of this adapter in its exchange (R118, R129). -/
abbrev Hears (s : State) : Prop :=
  s.listens = true ∧ ∀ x ∈ s.lu.exchange, x.frame.body.isAnswered = false

/-! A slot event (R72, R78, R81 to R84). -/

/-- The command is a slot event in time that brings the slot counter to `p`, the drive being UP (R6, R8). No record's
budget runs out at it, and the revolution event it may make does not end the own tenure (R10, R135). -/
abbrev SlotTo (s : State) (c : Instr) (p : Nat) : Prop :=
  s.rdm.drive = .up ∧ (∀ r ∈ s.wq.records, r.budget ≠ some 1) ∧
    (s.tm.own.isHolding = true → 2 ≤ s.tm.own.fields.2.1) ∧
    ((∃ b, c = .indexPulse ⟨none, b⟩) ∧ s.rdm.lateLeft = 0 ∧ p = 0 ∨
      ((∃ b, c = .sectorPulse ⟨none, b⟩) ∧ s.rdm.lateLeft = 0 ∨ c = .syntheticSlot none ∧ s.rdm.synthRun ≠ 19) ∧
        s.rdm.counter.map (fun a => (a + 1) % 20) = some p)

/-- The next sector needs a seek (R78). -/
abbrev NeedsSeek (s : State) (r : Request) : Prop := s.tm.cylinder ≠ some (s.nextTarget r).cylinder

/-- A queued record as selection reads it at a slot event that brings the counter to `p`: its budget counted, its cost,
slack and URGENT mark formed, and READY or BLOCKED by the review (R73, R74, R79, R82). -/
def slotRecord (s : State) (p : Nat) (r : Request) : Request :=
  let budget : Option Nat := r.budget.map fun b => b - 1
  let cost := costAt s.tm.cylinder (some p) (s.nextTarget r)
  let left := span s.cfg.interleave (r.count - r.done)
  let slack : Option Int := budget.map fun b =>
    if r.started then (b : Int) - (left : Nat) else (b : Int) - (cost + left : Nat)
  { r with
    budget := budget
    cost := cost
    slack := slack
    urgent := slack.any (· < 0)
    state :=
      if r.state = .ready ∧ s.tm.peer.isSome ∧ NeedsSeek s r then .blocked
      else if r.state = .blocked ∧ (s.tm.peer = none ∨ ¬ NeedsSeek s r) then .ready
      else r.state }

/-- The request may be selected, the drive being UP and the counter synchronized (R78, R81). -/
abbrev MaySelect (s : State) (r : Request) : Prop :=
  r.state = .ready ∧
    (s.hp.adapter = .running ∨ s.hp.adapter = .maintenance ∧ r.isDirect = true ∧ s.hp.maintaining = some r.elem.chain) ∧
    (s.tm.own.isHolding = true ∨
      s.tm.own = .none ∧ if s.tm.peer = none then s.tm.courtesy = false else s.tm.moving = false ∧ ¬ NeedsSeek s r) ∧
    (r.kind = .append → ∀ x ∈ r.extent, ∀ id ∈ (s.ec.get x.1 x.2).owner, id = r.id)

/-- The first of a list with the least key. -/
def firstOfLeast (key : Request → Int) (l : List Request) : Option Request :=
  l.find? fun r => l.all fun q => key r ≤ key q

/-- The choice among eligible records, in queue order, by the three tiers of R83; `u` is the urgency margin. -/
def tierChoice (u : Nat) (l : List Request) : Option Request :=
  let slack := fun r : Request => r.slack.getD 0
  let pressed := l.filter Request.urgent
  let near := l.filter fun r => r.slack.any fun k => decide (0 ≤ k ∧ k < (u : Int))
  if pressed ≠ [] then firstOfLeast slack pressed
  else if near ≠ [] then firstOfLeast slack near
  else firstOfLeast (fun r => r.cost) l

/-- The kinds whose sectors come from host memory (R98). -/
abbrev Outbound (k : RequestKind) : Prop := k = .write ∨ k = .append ∨ k = .directWrite ∨ k = .compare

/-- The sector a free buffer is to load for a request (R98): the lowest at or after the one in hand, of those within the
count, that the other buffer does not hold; with two buffers it is the one in hand or the next. -/
def sectorDue (t : Engine) (r : Request) (other : SectorBuffer) : Option Nat :=
  [t.sector, t.sector + 1].find? fun i => decide (i < r.count ∧
    ¬ ((other.state = .loading ∨ other.state = .loaded) ∧ other.discarded = false ∧ other.owner = r.id ∧
      other.sector = i))

/-- R80: some request needs the positioner. -/
abbrev SomeNeeds (s : State) : Prop := ∃ r ∈ s.wq.records, r.state = .ready ∨ r.state = .blocked

/-- R137: with the own tenure ENDING, the engine IDLE and no re-announcement to settle, a RELEASE stands pending or in
its exchange. -/
abbrev ReleaseStands (t : State) : Prop :=
  t.tm.own.isEnding = true → t.te.phase = .idle → t.lu.tenureStands = false → t.hp.adapter ≠ .silenced →
    (∃ f ∈ t.lu.frames, f.body = .release) ∨ t.lu.inExchange FrameBody.isRelease = true

/-- R136, R137, where the Tenure Manager has made its tests since `s`: an own tenure that was HOLDING is ENDING, its
cylinder and revolutions kept, if the engine is IDLE and no request needs the positioner; and the RELEASE stands. -/
abbrev TenureTested (s t : State) : Prop :=
  (∀ a k, s.tm.own = .holding a k → t.te.phase = .idle → ¬ SomeNeeds t → t.tm.own = .ending a k) ∧ ReleaseStands t

/-- The order of the sector in hand: WRITE for the kinds that write, READ for the others (R100). -/
def orderDue (r : Request) (t : Target) : FrameBody :=
  match r.kind with
  | .write => .write t
  | .append => .write t
  | .directWrite => .write t
  | _ => .read t

/-- The buffer condition of R100 for sector `i`: its LOADED buffer, or an EMPTY one for READ, DIRECT READ and SCAN. -/
def bufferMet (t : Engine) (r : Request) (i : Nat) : Bool :=
  if r.kind = .read ∨ r.kind = .directRead ∨ r.kind = .scan then t.bufA.state = .empty || t.bufB.state = .empty
  else [t.bufA, t.bufB].any fun b => b.state = .loaded && b.owner == r.id && b.sector == i

end Sys2Proof.Machine
end

