-- ==== Sys2Proof/Certificates/Slice0/Obligations.lean ====
section
/-! DEFINITION. The statements for the provers. A docstring names the rule a statement formalises, or the sections it
rests on. -/

open Sys2Proof Sys2Proof.Machine

/-! The queue of commands. -/

/-- A step runs the command at the front of the queue, on the state with the queue's rest. -/
def Obligations.StepRunsTheFrontCommand : Prop :=
  ∀ (c : Instr) (s : State), step { s with pending := c :: s.pending } = exec c s

/-- On an empty queue (the model's choice, log 3) the step acts as HELD_ELEMENT_RESUME when a held element may go on,
else as DMA_TRANSFER_START when a transfer may begin or an INSPECT image write under way may end, else lets one quantum
of 20 microseconds pass. A running clock's 100 ms interval then goes down, or the clock advances as by TOD_ADVANCE; an
open late window goes down or closes; with more than a quantum left the slot timer goes down, and nothing else changes.
A timer that runs out makes a synthetic slot, as SYNTHETIC_SLOT does, after the advance (log 46), and the part of the
quantum past its underflow counts on the new slot and the new late window. -/
def Obligations.EmptyQueueStepPassesTime : Prop :=
  ∀ s : State, s.pending = [] →
    let stuck := (∀ n, (s.chain n).held = none) ∨ 16 ≤ s.wq.records.length
    let free := (s.hp.current = none → s.hp.waiting = []) ∧ ∀ a w, s.hp.current ≠ some (.image a w)
    let clocked : State := { s with
      out := []
      hp := { s.hp with tod :=
        if s.hp.tod.running = false then s.hp.tod
        else if 200 < s.hp.tod.left then { s.hp.tod with left := s.hp.tod.left - 200, moment := .past }
        else match (exec .todAdvance { s with hp := { s.hp with tod := { s.hp.tod with moment := .past } } }) with
          | .next u => u.hp.tod
          | _ => s.hp.tod }
      rdm := if 200 < s.rdm.lateLeft then { s.rdm with lateLeft := s.rdm.lateLeft - 200 }
        else { s.rdm with lateLeft := 0, lateSubstitute := false } }
    ((∃ n, (s.chain n).held ≠ none) → s.wq.records.length < 16 → step s = exec .heldElementResume s) ∧
    (stuck → (s.hp.current = none ∧ s.hp.waiting ≠ [] ∨ ∃ a w, s.hp.current = some (.image a w)) →
      step s = exec .dmaTransferStart s) ∧
    (stuck → free → 200 < s.rdm.timer →
      step s = .next { clocked with rdm := { clocked.rdm with timer := s.rdm.timer - 200 } }) ∧
    (stuck → free → s.rdm.timer ≤ 200 → ∃ t, exec (.syntheticSlot none) clocked = .next t ∧
      step s = .next { t with rdm := { t.rdm with
        timer := t.rdm.timer - (200 - s.rdm.timer)
        lateLeft := t.rdm.lateLeft - (200 - s.rdm.timer) } })

/-! Resets. -/

/-- POWER_UP_RESET and IO_RESET (10.6, R129, R184). The reset notices are a RELEASE for a HOLDING or ENDING tenure and
a FREE for each claimed entry of the Hold List, and none when the adapter was SILENCED. A write of host memory under
way is cut short: no setup result and no whole completion record is written (R177, R181). The commands that wait stay.
The whole 100 ms interval of a clock never started and its mark are the model's choice (log 34), and so is the
requested level 0 of the null selector (log 50). -/
def Obligations.ResetsLeaveTheirValues : Prop :=
  (∀ (strap ready : Bool) (s : State), ∃ t, exec (.powerUpReset strap ready) s = .next t ∧
    AfterReset t strap ⟨false, 0, 0, 0, 0, 1000000, .past⟩ ready [] ∧ t.lu.exchange = none ∧ t.out = [] ∧
    t.rdm.ready = ready ∧ t.pending = s.pending) ∧
  ∀ (reached : Nat) (s : State), ∃ t, exec (.ioReset reached) s = .next t ∧
    AfterReset t s.lu.station s.hp.tod s.rdm.ready
      (if s.hp.adapter = .silenced then []
       else (if s.tm.own.isHolding = true ∨ s.tm.own.isEnding = true then [⟨.release, 0, 0, true⟩] else []) ++
         (s.hm.list.filter fun e => e.claimed).map fun e => ⟨.free e.start e.count e.written, 0, 0, true⟩) ∧
    (∀ x ∈ t.lu.exchange, x.discarded = true) ∧ t.rdm.ready = s.rdm.ready ∧ t.rdm.onCylinder = s.rdm.onCylinder ∧
    t.pending = s.pending ∧ (s.hp.current = none ∨ s.hp.current = some .setupResult → t.out = []) ∧
    ∀ c, s.hp.current = some (.completion c) → t.out = [] ∨ ∃ n, 1 ≤ n ∧ n ≤ 3 ∧
      t.out = [.hostWrite (wordsAt (c.info.addr + 12) (c.words.take n))]

/-- The state after power-up reset with the strap open and READY low has the values of the spec's tables; the strap and
the READY line (log 1), the whole 100 ms interval of a clock never started and its mark (log 34) and the requested
level 0 of the null selector (log 50) are the model's choice. It meets every law of the device named in Safety. -/
def Obligations.ResetStateMeetsTheLaws : Prop :=
  AfterReset State.reset false ⟨false, 0, 0, 0, 0, 1000000, .past⟩ false [] ∧ TenureExclusive State.reset ∧
    QueueBounded State.reset ∧ HoldListSound State.reset ∧ LineCountsInRange State.reset ∧
    MonitorInRange State.reset.rdm ∧ NamesFresh State.reset ∧ LogsSound State.reset

/-! Device words (10.1, 10.2). -/

/-- ADDRESS_WRITE replaces ADDRESS whole; IGNORED_WRITE, a write to STATE or ATTENTION, changes nothing (R172).
ILLEGAL_ACTION sets the code ILLEGAL ACTION and raises REFUSED (R186). Nothing else changes. TOD_ADVANCE: a running
clock advances by one tenth, from 23:59:59.9 to 00:00:00.0; a stopped one stands (R182). With no slot event since a SET
CLOCK loaded it, the advance is the one due with the load, and the fields stay. That the command is the advance
falling, and that slot events tell the two, is the model's reading (log 49). -/
def Obligations.HostWordsAndClockTick : Prop :=
  (∀ s : State,
    (∀ v, exec (.addressWrite v) s = .next { s with out := [], hp := { s.hp with address := v } }) ∧
    (∀ x v, exec (.ignoredWrite x v) s = .next { s with out := [] }) ∧
    (∀ a, exec (.illegalAction a) s = .next { s with
      out := []
      hp := { s.hp with refusal := .illegalAction, events := s.hp.events ||| BitVec.twoPow 12 10 } })) ∧
  ∀ s : State, s.hp.tod.InRange →
    (s.hp.tod.running = false → exec .todAdvance s = .next { s with out := [] }) ∧
    (s.hp.tod.running = true → s.hp.tod.moment ≠ .loaded → ∃ c : Tod,
      exec .todAdvance s = .next { s with out := [], hp := { s.hp with tod := c } } ∧
      c.total = (s.hp.tod.total + 1) % 864000 ∧ c.InRange ∧ c.running = true ∧ c.left = 1000000 ∧ c.moment = .advanced) ∧
    (s.hp.tod.running = true → s.hp.tod.moment = .loaded → exec .todAdvance s = .next { s with
      out := []
      hp := { s.hp with tod := { s.hp.tod with moment := .advanced } } })

/-- R176. MASK_WRITE: with the top bit 1, every mask bit written as 1 is set; with it 0, every mask bit written as 1
is cleared; the others keep their values, the event bits and all else stay, SUMMARY follows the new mask; with an
attention raised, both orders agree; the resets clear every mask bit. -/
def Obligations.MaskWriteSetsOrClears : Prop :=
  (∀ (v : Word) (s : State), ∃ m : BitVec 12,
    exec (.maskWrite v) s = .next { s with out := [], hp := { s.hp with mask := m } } ∧
    (∀ i, i < 12 → m.getLsbD i = if v.getLsbD i then v.getLsbD 15 else s.hp.mask.getLsbD i) ∧
    ({ s.hp with mask := m }.summary = true ↔ ∃ i, i < 12 ∧ s.hp.events.getLsbD i = true ∧ m.getLsbD i = true) ∧
    ∀ a, exec (.maskWrite v) (s.raise a) = .next (State.raise { s with out := [], hp := { s.hp with mask := m } } a)) ∧
  (∀ (strap ready : Bool) (s : State), ∃ t, exec (.powerUpReset strap ready) s = .next t ∧ t.hp.mask = 0) ∧
  ∀ (reached : Nat) (s : State), ∃ t, exec (.ioReset reached) s = .next t ∧ t.hp.mask = 0

/-- R175. An attention raised sets its own event bit, whatever the mask holds, and no other; a bit already set stays
set. SUMMARY is set while an event bit is set whose mask bit is set. ATTENTION_READ returns the twelve event bits in
their places and SUMMARY in bit 15, clears every event bit in the same act, and with it SUMMARY, and changes nothing
else. A raise taken first is returned and cleared; one taken after the read stays set. The resets clear every event
bit. -/
def Obligations.AttentionReadReturnsAndClears : Prop :=
  (∀ s : State, ∃ w : Word,
    exec .attentionRead s = .next { s with out := [.hostRead w], hp := { s.hp with events := 0 } } ∧
    (∀ i, i < 12 → w.getLsbD i = s.hp.events.getLsbD i) ∧ (∀ i, 12 ≤ i → i < 15 → w.getLsbD i = false) ∧
    (w.getLsbD 15 = true ↔ s.hp.summary = true) ∧ { s.hp with events := 0 }.summary = false) ∧
  (∀ h : HostPort, h.summary = true ↔ ∃ i, i < 12 ∧ h.events.getLsbD i = true ∧ h.mask.getLsbD i = true) ∧
  (∀ (s : State) (a : Attention), ∃ e : BitVec 12, s.raise a = { s with hp := { s.hp with events := e } } ∧
    (∀ i, i < 12 → e.getLsbD i = (s.hp.events.getLsbD i || i == a.bit)) ∧
    (∃ t w, exec .attentionRead (s.raise a) = .next t ∧ t.out = [.hostRead w] ∧ w.getLsbD a.bit = true ∧
      t.hp.events = 0)) ∧
  (∀ a b : Attention, a.bit < 12 ∧ (a.bit = b.bit → a = b)) ∧
  (∀ (strap ready : Bool) (s : State), ∃ t, exec (.powerUpReset strap ready) s = .next t ∧ t.hp.events = 0) ∧
  ∀ (reached : Nat) (s : State), ∃ t, exec (.ioReset reached) s = .next t ∧ t.hp.events = 0

/-! ACTIONs and setup (3.2, 10.2, 10.4). -/

/-- SETUP is begun while UNCONFIGURED, or while RUNNING and quiet, with no setup in progress; otherwise it is refused
BUSY and SETUP is raised (R173, R179). Nothing else changes. SETUP_RESULT_WRITTEN: the result word goes to the setup
address, with the code in bits 15 to 11 and, where an image is named, bit 9, its table in bit 8 and its index in bits 4
to 0; the code is set again, SETUP is raised, and no setup is in progress (R181, 11.5). Nothing else changes. -/
def Obligations.SetupBeginsAndEnds : Prop :=
  (∀ (a : Word) (s : State), exec (.setup a) s = .next (
    if s.hp.progress = none ∧ (s.hp.adapter = .unconfigured ∨ s.hp.adapter = .running ∧ Quiet s) then
      { s with
        out := []
        hp := { s.hp with
          progress := some ⟨s.hp.address, none, .none, none⟩
          waiting := s.hp.waiting ++ [.setupHeader] } }
    else refusedAction s .busy 11)) ∧
  ∀ (p : SetupProgress) (s : State), s.hp.current = some .setupResult → s.hp.progress = some p →
    (∀ x ∈ p.place, x.2 < 32) →
    ∃ w : Word, exec .setupResultWritten s = .next { s with
        out := [.hostWrite (wordsAt p.address [w])]
        hp := { s.hp with
          current := none
          progress := none
          refusal := p.code
          events := s.hp.events ||| BitVec.twoPow 12 11 } } ∧
      w.toNat / 2048 = p.code.code ∧
      (p.place = none → w.toNat % 2048 = 0) ∧
      ∀ x, p.place = some x → w.toNat % 2048 = 512 + (if x.1 = .common then 256 else 0) + x.2

/-- START_CHAIN is refused, in this order, while a setup is in progress, while UNCONFIGURED, while SILENCED, and on a
slot RUNNING or STOPPING, each with its code and REFUSED raised. Otherwise it makes the record of the slot that bits 5
and 4 name afresh, and asks the first fetch, which waits in MAINTENANCE unless the slot is the maintaining chain's
(R42, R44, R63, R173). Nothing else changes. The requested level 0 of the null selector is the model's choice (log 50).
-/
def Obligations.StartChainIsRefusedOrMakesTheRecord : Prop :=
  ∀ (a : Word) (n : Fin 4) (s : State), n.val = a.toNat / 16 % 4 →
    exec (.startChain a) s = .next (
      if s.hp.progress ≠ none then refusedAction s .busy 10
      else if s.hp.adapter = .unconfigured then refusedAction s .notConfigured 10
      else if s.hp.adapter = .silenced then refusedAction s .silenced 10
      else if (s.chain n).state = .running ∨ (s.chain n).state = .stopping then refusedAction s .slotBusy 10
      else if s.hp.adapter = .maintenance ∧ s.hp.maintaining ≠ some n then
        { s with
          out := []
          chains := s.chains.set n ⟨.running, a.toNat % 4, s.hp.address, ⟨.common, 0, 0⟩,
            ⟨false, false, false, false, false, false⟩, 0, none, ⟨false, false, false, true⟩, true, false⟩ }
      else
        { s with
          out := []
          chains := s.chains.set n ⟨.running, a.toNat % 4, s.hp.address, ⟨.common, 0, 0⟩,
            ⟨false, false, false, false, false, false⟩, 0, none, ⟨false, false, false, false⟩, false, false⟩
          hp := { s.hp with
            waiting := if .fetch n ∈ s.hp.waiting ∨ s.hp.current = some (.fetch n) then s.hp.waiting
              else s.hp.waiting ++ [.fetch n] } })

/-- ABORT_CHAIN (R43, R54, R88, R173). It is refused BUSY while a setup is in progress and NOT RUNNING on a slot IDLE or
ENDED. On a RUNNING slot the chain is STOPPING, or ENDED at once: no fetch of it waits, nothing is held, no reason
stands, each of its queued requests has left with ABORTED asked, and a HOLD of it that waits, its entry not HELD, is
ABORTED and its entry removed, its FREE offered if claimed, whatever the requests that left held (settled as on entry:
the model's choice, log 41); a held element has ABORTED asked, its record naming its selector's place (R48, R54). The
chain is ENDED at once if nothing of it is in flight and no fetch of it is under way, which is the model's reading (R55,
log 11), with all that the end of a chain brings (R56, R65): its explicit entries leave, the FREE of each claimed one is
offered unless SILENCED, MAINTENANCE is left if it was the maintaining chain, CHAIN n is raised. Else it is STOPPING. A
chain already STOPPING stays so. The rest of the chain's record stays. The engine's ACTIVE request, if it is the
chain's, is ENDING while its exchange runs, else has left with ABORTED asked. -/
def Obligations.AbortChainStopsTheChain : Prop :=
  ∀ (a : Word) (n : Fin 4) (s : State), n.val = a.toNat / 16 % 4 → NamesFresh s →
    (s.hp.progress ≠ none → exec (.abortChain a) s = .next (refusedAction s .busy 10)) ∧
    (s.hp.progress = none → (s.chain n).state ≠ .running → (s.chain n).state ≠ .stopping →
      exec (.abortChain a) s = .next (refusedAction s .notRunning 10)) ∧
    (s.hp.progress = none → ((s.chain n).state = .running ∨ (s.chain n).state = .stopping) →
      ∃ t, exec (.abortChain a) s = .next t ∧
        (if (s.chain n).state = .running ∧ (s.chain n).inFlight = 0 ∧ s.hp.current ≠ some (.fetch n) then
          ChainEnded s t n else (t.chain n).state = .stopping) ∧
        (t.chain n).flags = (s.chain n).flags ∧ (t.chain n).selector = (s.chain n).selector ∧
        (t.chain n).next = (s.chain n).next ∧ (t.chain n).level = (s.chain n).level ∧
        (t.chain n).inFlight = (s.chain n).inFlight ∧
        ((s.chain n).state = .running → WorkShed s t n .aborted none ∧ HoldsStopped s t n .aborted none) ∧
        (∀ r, s.activeRequest = some r → r.elem.chain = n → r.state = .active →
          if s.exchangeInProgress then ∃ u ∈ t.wq.records, u = { r with state := .ending }
          else CompletionAsked t r .aborted none ∧ Left t r.id) ∧
        t.rdm = s.rdm ∧ (s.hp.maintaining ≠ some n → t.hp.adapter = s.hp.adapter ∧ ∀ m, m ≠ n → t.chain m = s.chain m))

/-- SETUP_HEADER_READ: the seven contents are examined in record order and the first out of range refuses the record
with its code; otherwise the images are read, P + Q − 1 of them (R179, R181, R187). That a record with no image is
accepted at the end of the header read is the model's reading (log 14). R22 and R187, image by image: the first
condition an image breaks, in the order of the table. -/
def Obligations.SetupRecordIsExaminedInOrder : Prop :=
  (∀ (h : SetupHeader) (p : SetupProgress) (s : State), s.hp.current = some .setupHeader → s.hp.progress = some p →
    let tests : List (Bool × RefusalCode) :=
      [ ([1, 3, 7, 9, 11, 13, 17, 19].contains h.interleave.toNat, .interleave), (h.retryLimit.toNat ≤ 7, .retryLimit),
        (1 ≤ h.tenure.toNat ∧ h.tenure.toNat ≤ 15, .tenure), (h.urgency.toNat ≤ 400, .urgencyMargin),
        (h.options.toNat ≤ 1, .unassignedValue), (h.privSize.toNat ≤ 32, .privSize),
        (1 ≤ h.commSize.toNat ∧ h.commSize.toNat ≤ 32, .commSize) ]
    match tests.find? fun x => !x.1 with
    | some (_, c) =>
      exec (.setupHeaderRead h) s = .next { s with
        out := []
        hp := { s.hp with
          current := none
          refusal := c
          progress := some { p with code := c, place := none }
          waiting := s.hp.waiting ++ [.setupResult] } }
    | none =>
      if h.privSize.toNat + h.commSize.toNat = 1 then
        ∃ t, exec (.setupHeaderRead h) s = .next t ∧ t.hp.setup = some h.setup ∧ t.ec.privSize = 0 ∧ t.ec.commSize = 1 ∧
          t.hp.progress = some ⟨p.address, some h, .none, none⟩ ∧ t.hp.waiting = s.hp.waiting ++ [.setupResult] ∧
          t.hp.current = none
      else
        exec (.setupHeaderRead h) s = .next { s with
          out := []
          hp := { s.hp with
            current := none
            progress := some { p with header := some h }
            waiting := s.hp.waiting ++ [.setupImages] } }) ∧
  ∀ (i : Image) (x : Table),
    let k := i.w0.toNat / 8192
    let wrap := i.w0.getLsbD 10
    let sum := i.w1.toNat + i.w2.toNat
    let broken : List (Bool × RefusalCode) :=
      [ (4 ≤ k, .unassignedValue), (k ≠ 0 ∧ i.w0.toNat % 64 ≠ 0, .unassignedValue), (k = 3 ∧ x = .common, .logInCommon),
        (k ≠ 0 ∧ 31999 < sum, .beyondVolume), (k = 3 ∧ wrap = false ∧ i.w2.toNat + 1 < i.w3.toNat, .fillMark),
        (k = 3 ∧ wrap = true ∧ i.w2.toNat < i.w3.toNat, .fillMark), (k ≠ 3 ∧ wrap = true, .wrapOnNonLog),
        (k ≠ 3 ∧ i.w0.getLsbD 9 = true, .wrappedEverOnNonLog) ]
    i.check x = (broken.find? fun y => y.1).map fun y => y.2

/-- SETUP_IMAGES_READ (R21 to R23, R180, R181). The first image at fault, in record order, refuses the record with its
code and place, and nothing else changes. Otherwise the record is accepted: both tables are replaced, every mark and
reservation clear, the position behind the last image EMPTY and Common index 0 the null descriptor; the settings are in
force; the adapter is RUNNING, or stays SILENCED; presence is UNKNOWN and no courtesy wait stands; a HELLO is pending
unless SILENCED. The own tenure is NONE while a setup is in progress (R179). -/
def Obligations.SetupImagesAreExaminedOrLoaded : Prop :=
  ∀ (images : List Image) (p : SetupProgress) (h : SetupHeader) (s : State), s.hp.current = some .setupImages →
    s.hp.progress = some p → p.header = some h → s.tm.own = .none →
    h.privSize.toNat ≤ 32 → 1 ≤ h.commSize.toNat → h.commSize.toNat ≤ 32 →
    images.length = h.privSize.toNat + h.commSize.toNat - 1 →
    let place : Nat → Table × Nat := fun j =>
      if j < h.privSize.toNat then (.priv, j) else (.common, j - h.privSize.toNat + 1)
    (∀ j < images.length, ∀ i, images[j]? = some i → ∀ c, i.check (place j).1 = some c →
      (∀ l < j, ∀ u, images[l]? = some u → u.check (place l).1 = none) →
      exec (.setupImagesRead images) s = .next { s with
        out := []
        hp := { s.hp with
          current := none
          refusal := c
          progress := some { p with code := c, place := some (place j) }
          waiting := s.hp.waiting ++ [.setupResult] } }) ∧
    ((∀ j < images.length, ∀ i, images[j]? = some i → i.check (place j).1 = none) →
      ∃ x : Extents, exec (.setupImagesRead images) s = .next { s with
          out := []
          ec := x
          hp := { s.hp with
            current := none
            refusal := .none
            adapter := if s.hp.adapter = .silenced then .silenced else .running
            setup := some ⟨h.interleave.toNat, h.retryLimit.toNat, h.tenure.toNat, h.urgency.toNat, h.options.getLsbD 0⟩
            progress := some { p with code := .none, place := none }
            waiting := s.hp.waiting ++ [.setupResult] }
          tm := { s.tm with presence := .unknown, courtesy := false }
          lu := { s.lu with frames := s.lu.frames ++
            if s.hp.adapter = .silenced ∨ s.lu.frames.any (fun f => f.body = .hello) then []
            else [⟨.hello, 0, 0, false⟩] } } ∧
        x.privSize = h.privSize.toNat ∧ x.commSize = h.commSize.toNat ∧
        x.get .common 0 = .empty ∧ (∀ j < 32, h.privSize.toNat ≤ j → x.get .priv j = .empty) ∧
        (∀ j < 32, h.commSize.toNat ≤ j → x.get .common j = .empty) ∧
        ∀ j < images.length, ∀ i, images[j]? = some i →
          let d := x.get (place j).1 (place j).2
          let k := i.w0.toNat / 8192
          (k = 0 → d = .empty) ∧
          (k ≠ 0 → d.kind = (if k = 1 then .fixed else if k = 2 then .working else .log) ∧
            d.level = i.w0.toNat / 2048 % 4 ∧ d.base = i.w1.toNat ∧ d.limit = i.w2.toNat ∧
            d.fill = (if k = 3 then i.w3.toNat else 0) ∧ d.wrap = (decide (k = 3) && i.w0.getLsbD 10) ∧
            d.wrappedEver = (decide (k = 3) && i.w0.getLsbD 9) ∧ d.accessed = false ∧ d.written = false ∧
            d.changed = false ∧ d.reserved = 0 ∧ d.owner = none))

/-! The DMA engine (10.3). -/

/-- DMA_TRANSFER_START: with a transfer under way or none waiting nothing begins; else the waiting transfer begins that
no other is served before, the first asked among those of its rank; a read of host memory is put out with its addresses
(R177). An INSPECT image write under way ends here, its words at their addresses, and the next transfer begins; that is
the model's choice (log 12, log 28). Each word of a transfer lies one past the word before it, modulo 65,536 (R178). -/
def Obligations.TransferOfHighestRankBegins : Prop :=
  (∀ s : State,
    (s.hp.current = none → s.hp.waiting = [] → exec .dmaTransferStart s = .next { s with out := [] }) ∧
    (∀ u, s.hp.current = some u → (∀ a w, u ≠ .image a w) → exec .dmaTransferStart s = .next { s with out := [] }) ∧
    (∀ a w, s.hp.current = some (.image a w) → s.hp.waiting = [] → exec .dmaTransferStart s = .next { s with
      out := [.hostWrite (wordsAt a w)]
      hp := { s.hp with current := none } }) ∧
    ∀ i t, s.hp.waiting[i]? = some t → (s.hp.current = none ∨ ∃ a w, s.hp.current = some (.image a w)) →
      (∀ j < i, ∀ u, s.hp.waiting[j]? = some u → servedBefore t u = true) →
      (∀ u ∈ s.hp.waiting, servedBefore u t = false) →
      exec .dmaTransferStart s = .next { s with
        out := (match s.hp.current with
            | some (.image a w) => [.hostWrite (wordsAt a w)]
            | _ => []) ++
          match t, s.hp.progress with
          | .load _ a, _ => [.hostFetch (addressesFrom a 128)]
          | .fetch n, _ => [.hostFetch (addressesFrom (s.chain n).next 12)]
          | .setupHeader, some p => [.hostFetch (addressesFrom (p.address + 1) 7)]
          | .setupImages, some ⟨a, some h, _, _⟩ =>
            [.hostFetch (addressesFrom (a + 8) (4 * (h.privSize.toNat + h.commSize.toNat - 1)))]
          | _, _ => []
        hp := { s.hp with waiting := s.hp.waiting.eraseIdx i, current := some t } }) ∧
  (∀ (a : Word) (n : Nat), (addressesFrom a n).length = n ∧
    ∀ i < n, (addressesFrom a n)[i]?.map BitVec.toNat = some ((a.toNat + i) % 65536)) ∧
  ∀ (a : Word) (l : List Word), (wordsAt a l).length = l.length ∧
    ∀ (i : Nat) (w : Word), l[i]? = some w →
      (wordsAt a l)[i]?.map (fun x => (x.1.toNat, x.2)) = some ((a.toNat + i) % 65536, w)

/-! Completion (R50 to R55). -/

/-- R52: the flags after a completion. SKIPPED and ABORTED change none; otherwise each flag marked for the kind takes
its outcome bit, F alone where the effect is F alone (R45, R57); every other flag stays. The marks are those of the
table, in the order F, M, L, C, S, P. F is set for a FAULT alone, L for every EXPIRED; all six bits stand in the
completion record whatever the kind. The INSPECT of the line record or the position record asks a completion with
every outcome bit clear, and an EXPIRED completion asked by an expiry, or by the REFUSE of an entry whose budget is
spent, has L set and F clear. -/
def Obligations.FlagsFollowTheTable : Prop :=
  let row : ElementKind → List Bool := fun k =>
    match k with
    | .disk .read => [true, false, true, true, true, true]
    | .disk .write => [true, false, true, true, false, true]
    | .disk .append => [true, false, true, false, true, false]
    | .disk .compare => [true, true, true, true, true, true]
    | .disk .scan => [true, true, true, true, true, true]
    | .hold _ => [true, false, true, false, false, true]
    | .inspect _ => [true, false, false, true, false, false]
    | .disk _ => [true, false, true, false, false, false]
    | _ => [true, false, false, false, false, false]
  let bits : ChainFlags → List Bool := fun g => [g.f, g.m, g.l, g.c, g.s, g.p]
  (∀ (st : Status) (m late c s p : Bool),
    (outcomeBits st m late c s p).f = decide (st = .fault) ∧ (st = .expired → (outcomeBits st m late c s p).l = true)) ∧
  (∀ (e : Element) (n : Fin 4) (s : State) (i : Instr) (x : InspectTarget),
    (i = .inspectLineRecord e ∧ x = .lineRecord ∨ i = .inspectPositionRecord e ∧ x = .positionRecord) →
    Runs s n (.inspect x) e → ∃ t, exec i s = .next t ∧
      ∃ c ∈ asked t, c.info = infoOf s n (.inspect x) e ∧ c.bits = ⟨false, false, false, false, false, false⟩) ∧
  (∀ (k : Nat) (i : Instr) (s : State),
    i = .requestExpiry k ∨ i = .holdWaitExpiry k ∨ i = .holdBudgetExpiry k ∨ i = .refuse → ∃ t, exec i s = .next t ∧
    ∀ c ∈ asked t, c.status = .expired → c ∈ asked s ∨ c.bits.l = true ∧ c.bits.f = false) ∧
  (∀ c : Completion, ∃ w, c.words[1]? = some w ∧ ((c.place.map (·.2)).getD 0 < 32 →
    [w.getLsbD 15, w.getLsbD 14, w.getLsbD 13, w.getLsbD 12, w.getLsbD 11, w.getLsbD 10] = bits c.bits)) ∧
  ∀ (g : ChainFlags) (c : Completion),
    (c.status = .skipped ∨ c.status = .aborted → flagsAfter g c = g) ∧
    (c.status ≠ .skipped → c.status ≠ .aborted → c.effect = .onlyF → flagsAfter g c = { g with f := c.bits.f }) ∧
    (c.status ≠ .skipped → c.status ≠ .aborted → c.effect = .byKind → ∀ j < 6,
      (bits (flagsAfter g c))[j]? =
        if (row c.info.kind)[j]? = some true then (bits c.bits)[j]? else (bits g)[j]?)

/-- COMPLETION_WRITTEN (R51 to R55). The four words go to the element's words 12 to 15. The chain's flags take the
completion, its in-flight count falls by one, a SELECT's default is set; those of the other chains stay. A FAULT without
CARRY PAST FAULT raises FAULT and stops a RUNNING chain: no fetch of it waits, no reason stands and no fetch is due;
each of its queued requests has left with ABORTED asked, the held element and a HOLD that waits are ABORTED, the HOLD's
entry removed and its FREE offered if claimed (settled as on entry: the model's choice, log 41); the engine and its
request are not touched, nor are the records of other chains, but that an entry removed may let one end its HOLD-WAIT
(R54, R70, R87). A chain whose last element in flight it was, being STOPPING or with END noted, is ENDED (R55, R56): its
explicit entries leave list and line, the FREE of each claimed one is offered with its written flag unless SILENCED, in
list and then line order, MAINTENANCE is left if it was the maintaining chain (R65), and CHAIN n is raised. In the plain
case (RUNNING, no reason, a next fetch to ask) that is all, and the fetch is asked. R49, where the chain stays RUNNING:
the completion of a HOLD ends the reason hold waiting, that of an UNHOLD unhold waiting, the others stand; a next fetch
called for now or due before is asked once no reason is left, and is due while one stands. That a SELECT's default and
these reasons change when the record has been written is the model's reading (logs 9 and 10). -/
def Obligations.CompletionIsTakenByTheChain : Prop :=
  ∀ (c : Completion) (s : State), s.hp.current = some (.completion c) →
    let n := c.info.chain
    let u := s.chain n
    let f := (c.status = .fault ∧ c.info.carryPast = false)
    let ends := u.inFlight ≤ 1 ∧
      (u.state = .stopping ∨ u.state = .running ∧ (f ∨ u.endNoted = true ∨ c.info.last = true))
    ∃ t, exec .completionWritten s = .next t ∧ t.out = [.hostWrite (wordsAt (c.info.addr + 12) c.words)] ∧
      (t.chain n).flags = flagsAfter u.flags c ∧ (t.chain n).inFlight = u.inFlight - 1 ∧
      (t.chain n).selector = c.newDefault.getD u.selector ∧ (t.chain n).level = u.level ∧ (t.chain n).next = u.next ∧
      (∀ m, m ≠ n → (t.chain m).flags = (s.chain m).flags ∧ (t.chain m).inFlight = (s.chain m).inFlight ∧
        (t.chain m).state = (s.chain m).state) ∧
      (f → t.hp.events.getLsbD 4 = true ∧ (t.chain n).state ≠ .running) ∧
      (ends → (t.chain n).state = .ended ∧ t.hp.events.getLsbD n.val = true) ∧
      (¬ ends → (u.state = .running → f → (t.chain n).state = .stopping) ∧
        (¬ (u.state = .running ∧ f) → (t.chain n).state = u.state)) ∧
      (NamesFresh s → (f → u.state = .running → WorkShed s t n .aborted none ∧ HoldsStopped s t n .aborted none) ∧
        (ends → ChainEnded s t n) ∧
        (¬ (ends ∧ s.hp.maintaining = some n) → t.te = s.te ∧ t.hp.adapter = s.hp.adapter ∧
          ∀ r ∈ s.wq.records, r.elem.chain ≠ n →
            r ∈ t.wq.records ∨ r.state = .holdWait ∧ { r with state := .ready } ∈ t.wq.records) ∧
        (ends ∧ s.hp.maintaining = some n → (∀ r, s.activeRequest = some r → r.queued = false) → t.te = { s.te with
          maintenanceOver := s.te.maintenanceOver || s.activeRequest.any Request.isDirect }) ∧
        ∀ r ∈ s.wq.records, r.queued = false → r ∈ t.wq.records) ∧
      (¬ f → ¬ ends → t.wq = s.wq ∧ t.hm = s.hm ∧ t.lu = s.lu) ∧
      t.tm = s.tm ∧ t.rdm = s.rdm ∧
      (u.state = .running → u.endNoted = false → c.info.last = false → ¬ f →
        let left : FetchWait := { u.wait with
          holdWaiting := u.wait.holdWaiting && !c.endsHoldWait
          unholdWaiting := u.wait.unholdWaiting && !c.endsUnholdWait }
        let none : FetchWait := ⟨false, false, false, false⟩
        let asks := c.asksNext = true ∨ u.fetchDue = true
        (t.chain n).state = .running ∧ (t.chain n).wait = left ∧
          (left ≠ none → t.hp.waiting = s.hp.waiting ∧ ((t.chain n).fetchDue = true ↔ asks)) ∧
          (left = none → asks → u.wait ≠ none ∨ u.fetchDue = false →
            .fetch n ∈ t.hp.waiting ∧ (t.chain n).fetchDue = false)) ∧
      (u.state = .running → u.endNoted = false → c.info.last = false → c.asksNext = true → ¬ f →
        u.wait = ⟨false, false, false, false⟩ → u.fetchDue = false → .fetch n ∉ s.hp.waiting →
        t = { s with
          out := [.hostWrite (wordsAt (c.info.addr + 12) c.words)]
          chains := s.chains.set n { u with
            flags := flagsAfter u.flags c, inFlight := u.inFlight - 1, selector := c.newDefault.getD u.selector }
          hp := { s.hp with current := none, waiting := s.hp.waiting ++ [.fetch n] } })

/-! Sector buffers (R98, R99). -/

/-- BUFFER_LOADED: the buffer whose read has ended is LOADED with the 128 words, unless its data was discarded: then it
is free. BUFFER_UNLOADED: the sector's words have gone to the address asked, the buffer is free, and the completion
writes held back for its request are asked once no sector of it is left to write (R98, R99, R177). A buffer that is
free, the other one not being EMPTY, is loading again where the request in hand takes its sectors from host memory and
one within its count is due: its read is asked at the buffer address and 128 words for each sector before it, modulo
65,536; else it is EMPTY. In an open lead slot with its order not offered yet, the buffer that makes the condition of
R100 true has the order offered. Queue, holds, tenure, chains, tables and monitor stay. -/
def Obligations.BuffersAreLoadedAndUnloaded : Prop :=
  ∀ (i j : BufferName) (a : Word) (s : State), i ≠ j →
    let same : State → Prop := fun t => t.wq = s.wq ∧ t.hm = s.hm ∧ t.tm = s.tm ∧ t.chains = s.chains ∧ t.ec = s.ec ∧
      t.rdm = s.rdm ∧ t.lu.exchange = s.lu.exchange ∧ t.te.request = s.te.request ∧ t.te.phase = s.te.phase
    let free : State → Prop := fun t =>
      (t.te.buf i = ⟨.empty, 0, [], 0, false⟩ ∨
        (t.te.buf i).state = .loading ∧ (t.te.buf i).discarded = false ∧ s.te.request = some (t.te.buf i).owner) ∧
      ((s.te.buf j).state ≠ .empty → t.te.buf j = s.te.buf j ∧
        ((∀ r, s.activeRequest = some r → Outbound r.kind → sectorDue s.te r (s.te.buf j) = none) →
          t.te.buf i = ⟨.empty, 0, [], 0, false⟩) ∧
        ∀ r k, s.activeRequest = some r → Outbound r.kind → sectorDue s.te r (s.te.buf j) = some k →
          t.te.buf i = ⟨.loading, k, [], r.id, false⟩ ∧
            .load i (r.buffer + BitVec.ofNat 16 (k * 128)) ∈ t.hp.waiting)
    let open_ : Request → Prop := fun r => s.activeRequest = some r ∧ s.te.phase = .leadWait ∧ s.te.leadOpen = true ∧
      (∀ f ∈ s.lu.frames, f.body.isTransfer = false) ∧ s.hp.adapter ≠ .silenced
    (s.hp.current = some (.load i a) → ∀ words : List Word, words.length = 128 →
      ∃ t, exec (.bufferLoaded words) s = .next t ∧ same t ∧ t.out = [] ∧ t.hp.current = none ∧
        ((s.te.buf i).discarded = false → t.te.buf i = { s.te.buf i with state := .loaded, words := words } ∧
          ∀ r, open_ r → Outbound r.kind → (s.te.buf i).owner = r.id → (s.te.buf i).sector = s.te.sector →
            ∃ f ∈ t.lu.frames, f = ⟨orderDue r s.te.target, 0, 0, false⟩) ∧
        ((s.te.buf i).discarded = true → free t)) ∧
    (s.hp.current = some (.unload i a) →
      ∃ t, exec .bufferUnloaded s = .next t ∧ same t ∧ t.out = [.hostWrite (wordsAt a (s.te.buf i).words)] ∧
        t.hp.current = none ∧ free t ∧
        (∀ r, open_ r → ¬ Outbound r.kind → ∃ f ∈ t.lu.frames, f = ⟨.read s.te.target, 0, 0, false⟩) ∧
        ∀ x ∈ s.hp.heldBack,
          if x.1 = (s.te.buf i).owner ∧ t.te.unloadingFor x.1 = false then .completion x.2 ∈ t.hp.waiting
          else x ∈ t.hp.heldBack)

/-! A fetched element (Section 3). -/

/-- A fetch that ends when its chain is no longer RUNNING, and an element with an illegal field: the element completes
without being examined further, ABORTED, or FAULT SILENCED in a SILENCED adapter, or FAULT ILLEGAL ELEMENT; for
SILENCED and for an unassigned kind F alone is affected (R44, R45, R57). An unassigned kind is always illegal. R46: a
false run condition completes the element SKIPPED, with no other effect than the fetch's own; the table gives each
condition's meaning on the chain's flags. The record names the element's selector where the kind has one (R51); that
of an element fetched into a stopped chain names no table and no index, which is the model's choice (log 37). -/
def Obligations.ElementsNotCarriedOutComplete : Prop :=
  (∀ (c : Instr) (k : ElementKind) (e : Element) (n : Fin 4) (s : State), elementOf c = some (k, e) →
    s.hp.current = some (.fetch n) →
    ((s.chain n).state ≠ .running → s.hp.adapter ≠ .silenced →
      exec c s = .next (completing (fetched s n) (plainCompletion s n k e .aborted none none))) ∧
    ((s.chain n).state ≠ .running → s.hp.adapter = .silenced →
      exec c s = .next (completing (fetched s n)
        { plainCompletion s n k e .fault (some .silenced) none with effect := .onlyF })) ∧
    ((s.chain n).state = .running → legalFields k e = false → k ≠ .unassigned →
      exec c s = .next (completing (fetched s n) (plainCompletion s n k e .fault (some .illegalElement) none))) ∧
    ((s.chain n).state = .running → k = .unassigned →
      exec c s = .next (completing (fetched s n)
        { plainCompletion s n k e .fault (some .illegalElement) none with effect := .onlyF }))) ∧
  (∀ g : ChainFlags, (List.range 14).map (fun code => runCondition code g) =
    [true, false, !g.f, g.f, g.m, !g.m, !g.l, g.l, !g.c, g.c, !g.s, g.s, !g.p, g.p]) ∧
  ∀ (c : Instr) (k : ElementKind) (e : Element) (n : Fin 4) (s : State), elementOf c = some (k, e) →
    s.hp.current = some (.fetch n) → (s.chain n).state = .running → legalFields k e = true →
    runCondition e.condition (s.chain n).flags = false →
    exec c s = .next (completing (fetched s n) (plainCompletion s n k e .skipped none
      (if k.hasSelector then some ((selectorOf s n k e).table, (selectorOf s n k e).index) else none)))

/-- The legal fields (R45, R186): what the layout of 11.3 gives each kind, and no 1 in any other bit of words 0 to 11.
-/
def Obligations.LegalFieldsAreThoseOfTheLayout : Prop :=
  ∀ (k : ElementKind) (e : Element),
    let later := e.w6 = 0 ∧ e.w7 = 0 ∧ e.w8 = 0 ∧ e.w9 = 0 ∧ e.w10 = 0 ∧ e.w11 = 0
    let condition := e.w0.toNat / 256 % 16 ≤ 13
    let selector := e.w1.toNat % 256 = 0
    let count := 1 ≤ e.w3.toNat ∧ e.w3.toNat ≤ 64
    let options (bits : Nat) := e.w0.toNat % 2 ^ bits = 0
    let noLate := e.w0.getLsbD 4 = false
    legalFields k e = true ↔ condition ∧
      match k with
      | .disk .scan => options 3 ∧ selector ∧ e.w5 = 0 ∧ e.w3.toNat / 2048 = 0 ∧ e.w3.getLsbD 7 = false ∧
          1 ≤ e.w3.toNat % 128 ∧ e.w3.toNat % 128 ≤ 64 ∧ 1 ≤ e.w3.toNat / 256 ∧ e.w3.toNat / 256 ≤ 6
      | .disk .directRead => options 4 ∧ e.w1 = 0 ∧ e.w2.toNat ≤ 399 ∧ e.w3.toNat / 256 ≤ 19 ∧ e.w3.toNat % 256 ≤ 3 ∧ later
      | .disk .directWrite => options 4 ∧ e.w1 = 0 ∧ e.w2.toNat ≤ 399 ∧ e.w3.toNat / 256 ≤ 19 ∧ e.w3.toNat % 256 ≤ 3 ∧ later
      | .disk _ => options 3 ∧ selector ∧ count ∧ later
      | .hold _ => options 3 ∧ noLate ∧ selector ∧ count ∧ e.w5 = 0 ∧ later
      | .unhold => options 3 ∧ noLate ∧ selector ∧ count ∧ e.w4 = 0 ∧ e.w5 = 0 ∧ later
      | .select => options 3 ∧ noLate ∧ selector ∧ e.w2 = 0 ∧ e.w3 = 0 ∧ e.w4 = 0 ∧ e.w5 = 0 ∧ later
      | .inspect .descriptor => options 3 ∧ noLate ∧ selector ∧ e.w2.toNat % 32768 ≤ 2 ∧ e.w3 = 0 ∧ e.w4 = 0 ∧ later
      | .inspect _ => options 3 ∧ noLate ∧ e.w1 = 0 ∧ e.w2.toNat % 32768 ≤ 2 ∧ e.w3 = 0 ∧ e.w4 = 0 ∧ later
      | .setClock => options 5 ∧ e.w1 = 0 ∧ e.w2.toNat / 8192 = 0 ∧ e.w2.toNat % 256 ≤ 63 ∧ e.w3.toNat / 16384 = 0 ∧
          e.w3.toNat % 256 ≤ 15 ∧ e.w4 = 0 ∧ e.w5 = 0 ∧ later
      | .maintain => options 5 ∧ e.w1 = 0 ∧ (e.w2 = 1 ∨ e.w2 = 2) ∧ e.w3 = 0 ∧ e.w4 = 0 ∧ e.w5 = 0 ∧ later
      | .unassigned => False

/-- R25 to R30: the checks in their order for the kinds that pass through the Extent Check. The first that fails
completes the element FAULT with its fault, naming the resolved table and index. The sixth is by kind: READ, COMPARE and
SCAN by the readable limit, WRITE by the whole extent, the hold kinds by the offset alone. The disk kinds come to the
checks with room in the queue (R48); the hold kinds and INSPECT need none. The fifth is the table of R27: the kinds of
descriptor marked "yes" for each element, and no Private extent for the hold kinds. That a disk element comes to them
before another chain's held element not handed on yet is the model's choice (log 51). -/
def Obligations.ExtentChecksFaultInOrder : Prop :=
  ∀ (c : Instr) (k : ElementKind) (e : Element) (n : Fin 4) (s : State), elementOf c = some (k, e) → Runs s n k e →
    k ≠ .disk .directRead → k ≠ .disk .directWrite → ((∃ r, k = .disk r) → s.wq.records.length < 16) →
    let x := selectorOf s n k e
    let d := descriptorFor s n k e
    let o := e.offset
    let faults : ElementFault → Prop := fun f =>
      exec c s = .next (completing (fetched s n) (plainCompletion s n k e .fault (some f) (some (x.table, x.index))))
    (k = .unhold ∨ k = .inspect .descriptor ∨ (∃ m, k = .hold m) ∨ (∃ r, k = .disk r) →
      let yes : List DescriptorKind :=
        match k with
        | .disk .read => [.fixed, .working, .log]
        | .disk .compare => [.fixed, .working, .log]
        | .disk .scan => [.fixed, .working, .log]
        | .disk .write => [.working]
        | .disk .append => [.log]
        | .hold .shared => [.fixed, .working]
        | .hold .exclusive => [.working]
        | .unhold => [.fixed, .working]
        | .inspect .descriptor => [.fixed, .working, .log]
        | _ => []
      let first : Option ElementFault :=
        if x.table = .common ∧ x.index = 0 then some .nullSelector
        else if s.ec.size x.table ≤ x.index then some .indexLimit
        else if d.kind = .empty then some .emptyDescriptor
        else if d.level < max (s.chain n).level x.level then some .level
        else if d.kind ∉ yes ∨ x.table = .priv ∧ (k = .unhold ∨ k = .hold .shared ∨ k = .hold .exclusive) then some .kind
        else none
      first = firstCheckFailed s n k e ∧ ∀ f, first = some f → faults f) ∧
    (firstCheckFailed s n k e = none →
      (k = .disk .read ∨ k = .disk .compare ∨ k = .disk .scan → readableBlocks d ≤ o → faults .offsetLimit) ∧
      (k = .disk .write → d.limit < o → faults .offsetLimit) ∧
      (k = .disk .write → o ≤ d.limit → d.limit + 1 < o + e.count → faults .extentLimit) ∧
      (k = .unhold ∨ (∃ m, k = .hold m) → d.limit < o → faults .offsetLimit))

/-- A disk element on a Private extent is admitted (R28, R29, R31, R33, R66, R69, R70): its record joins the queue READY
behind the others, with n′, C and S as the sixth check and the changed mark give them, its budget, cost and slack formed
now; the accessed mark is set, an APPEND reserves its count; a STREAM element calls for the next fetch. Nothing else
changes. In a log with WRAP the fill mark is at most L (R34). An APPEND on a log without WRAP and without room completes
DONE at its admission with S set and no sector; a STREAM one calls for the next fetch then, another at its completion
(R33, R49). R64: DIRECT_READ and DIRECT_WRITE. From the maintaining chain the request joins the queue READY, with no
extent and no hold, for the one sector it names; from another chain it faults ILLEGAL ELEMENT. That the C outcome of an
APPEND is clear is the model's reading (log 22); that an element fetched now takes the free place before another chain's
held element not handed on yet is its choice (log 51). -/
def Obligations.PrivateAndDirectRequestsAreAdmitted : Prop :=
  (∀ (k : RequestKind) (e : Element) (n : Fin 4) (s : State), Admissible s n k e →
    let x := selectorOf s n (.disk k) e
    let d := descriptorFor s n (.disk k) e
    x.table = .priv → (k = .append → d.wrap = true → d.fill ≤ d.limit) →
    ∀ a, admission d k e.offset e.count = some a →
      exec (diskCommand k e) s = .next (streamed { fetched s n with
        ec := accessedWith s x (if k = .append then a.2.1 else 0)
        wq := ⟨s.wq.records ++ [recordFor s (infoOf s n (.disk k) e) k e (some (x.table, x.index)) a.1 a.2.1
          (max (s.chain n).level x.level) (changedOutcome k d) a.2.2 none .ready (targetOf s.cfg.interleave a.1)],
          s.wq.nextId + 1⟩ } n e)) ∧
  (∀ (e : Element) (n : Fin 4) (s : State), Admissible s n .append e →
    let x := selectorOf s n (.disk .append) e
    let d := descriptorFor s n (.disk .append) e
    d.wrap = false → d.limit + 1 ≤ d.fill + d.reserved →
    exec (.append e) s = .next (streamed (completing { fetched s n with ec := accessedWith s x 0 }
      { plainCompletion s n (.disk .append) e .done none (some (x.table, x.index)) with
        bits := ⟨false, false, false, false, true, false⟩
        asksNext := !e.last && !e.stream }) n e)) ∧
  ∀ (k : RequestKind) (e : Element) (n : Fin 4) (s : State), Runs s n (.disk k) e →
    k = .directRead ∨ k = .directWrite →
    (s.hp.maintaining ≠ some n → exec (diskCommand k e) s =
      .next (completing (fetched s n) (plainCompletion s n (.disk k) e .fault (some .illegalElement) none))) ∧
    (s.hp.maintaining = some n → s.wq.records.length < 16 → exec (diskCommand k e) s =
      .next (streamed { fetched s n with
        wq := ⟨s.wq.records ++ [recordFor s (infoOf s n (.disk k) e) k e none 0 1 (s.chain n).level false false none
          .ready ⟨e.w2.toNat, e.w3.toNat % 8, e.w3.toNat / 256 % 32⟩], s.wq.nextId + 1⟩ } n e))

/-- A disk element on a Common extent is admitted (R31, R70, R147 to R150). It relies on the earliest entry of its chain
that covers its range with mode enough, which takes a reference (an implicit entry's budget grows to the greater, or to
none, R160), or on a new implicit entry that is placed. The request is READY if the entry is HELD and else HOLD-WAIT.
That an element fetched now takes the free place before another chain's held element not handed on yet is the model's
choice (log 51). -/
def Obligations.CommonRequestTakesAHoldReference : Prop :=
  ∀ (k : RequestKind) (e : Element) (n : Fin 4) (s : State), Admissible s n k e → NamesFresh s →
    s.hp.adapter ≠ .silenced →
    let x := selectorOf s n (.disk k) e
    let d := descriptorFor s n (.disk k) e
    x.table = .common → k ≠ .append →
    ∀ a, admission d k e.offset e.count = some a →
      let made : Option Nat → RequestState → WorkQueue := fun hold st =>
        ⟨s.wq.records ++ [recordFor s (infoOf s n (.disk k) e) k e (some (x.table, x.index)) a.1 a.2.1
          (max (s.chain n).level x.level) (changedOutcome k d) a.2.2 hold st (targetOf s.cfg.interleave a.1)],
          s.wq.nextId + 1⟩
      (∀ y ∈ s.hm.list ++ s.hm.line, CoversRequest y n k a.1 a.2.1 →
        (∀ z ∈ s.hm.list ++ s.hm.line, CoversRequest z n k a.1 a.2.1 → y.id ≤ z.id) →
        exec (diskCommand k e) s = .next (streamed { fetched s n with
          ec := accessedWith s x 0
          hm := s.hm.modify y.id fun z => { z with
            refs := z.refs + 1
            budget := if z.origin = .explicit then z.budget
              else match z.budget, budgetOf e.budget with
                | some p, some q => some (max p q)
                | _, _ => none }
          wq := made (some y.id) (if y.state = .held then .ready else .holdWait) } n e)) ∧
      ((∀ y ∈ s.hm.list ++ s.hm.line, ¬ CoversRequest y n k a.1 a.2.1) →
        let y := implicitEntry s n k a.1 a.2.1 (budgetOf e.budget)
        exec (diskCommand k e) s = .next (streamed { fetched s n with
          ec := accessedWith s x 0
          hm := withEntry s y
          lu := withClaim s y
          wq := made (some y.id) (if placedState s y = .held then .ready else .holdWait) } n e))

/-- R48. With 16 records in the queue a disk element becomes its chain's held element, reason queue full.
HELD_ELEMENT_RESUME does nothing while the queue is full. With a place free the held element of the lowest slot goes
on: here a DIRECT one, and one on a Private extent, where no other is held or the place is the only one, so that the
others stay held. With the DMA engine free the only held element goes on, on any extent, to a fault or on a full log
besides, exactly as the same element fetched now. A held element passed its field check when it was fetched (R45). -/
def Obligations.FullQueueHoldsTheElement : Prop :=
  (∀ (k : RequestKind) (e : Element) (n : Fin 4) (s : State), Runs s n (.disk k) e → 16 ≤ s.wq.records.length →
    (k = .directRead ∨ k = .directWrite → s.hp.maintaining = some n) →
    exec (diskCommand k e) s = .next { fetched s n with
      chains := s.chains.set n { s.chain n with
        inFlight := (s.chain n).inFlight + 1
        next := (s.chain n).next + 16
        held := some ⟨infoOf s n (.disk k) e, e⟩
        wait := { (s.chain n).wait with queueFull := true } } }) ∧
  (∀ s : State, 16 ≤ s.wq.records.length → exec .heldElementResume s = .next { s with out := [] }) ∧
  ∀ (k : RequestKind) (h : HeldElement) (n : Fin 4) (s : State), (s.chain n).held = some h →
    (∀ m, m < n → (s.chain m).held = none) → h.info.chain = n → h.info.kind = .disk k → h.info.last = h.words.last →
    h.info.stream = h.words.stream → legalFields (.disk k) h.words = true → (s.chain n).fetchDue = false →
    (s.chain n).state = .running → s.hp.current ≠ some (.fetch n) → s.wq.records.length < 16 →
    let alone := ∀ m, n < m → (s.chain m).held = none
    let x := selectorOf s n (.disk k) h.words
    let d := descriptorFor s n (.disk k) h.words
    let base := { s with
      out := []
      chains := s.chains.set n { s.chain n with held := none, wait := { (s.chain n).wait with queueFull := false } } }
    (alone ∨ s.wq.records.length = 15 → k = .directRead ∨ k = .directWrite →
      exec .heldElementResume s = .next (streamed { base with
        wq := ⟨s.wq.records ++ [recordFor s h.info k h.words none 0 1 (s.chain n).level false false none .ready
          h.words.direct], s.wq.nextId + 1⟩ } n h.words)) ∧
    (alone ∨ s.wq.records.length = 15 → k ≠ .directRead → k ≠ .directWrite →
      firstCheckFailed s n (.disk k) h.words = none → x.table = .priv →
      (k = .append → d.wrap = true → d.fill ≤ d.limit) →
      ∀ a, admission d k h.words.offset h.words.count = some a →
        exec .heldElementResume s = .next (streamed { base with
          ec := accessedWith s x (if k = .append then a.2.1 else 0)
          wq := ⟨s.wq.records ++ [recordFor s h.info k h.words (some (x.table, x.index)) a.1 a.2.1
            (max (s.chain n).level x.level) (changedOutcome k d) a.2.2 none .ready (targetOf s.cfg.interleave a.1)],
            s.wq.nextId + 1⟩ } n h.words)) ∧
    let again : State := { s with
      hp := { s.hp with current := some (.fetch n) }
      chains := s.chains.set n { s.chain n with
        held := none
        wait := { (s.chain n).wait with queueFull := false }
        inFlight := (s.chain n).inFlight - 1
        next := (s.chain n).next - 16 } }
    (alone → s.hp.current = none → 1 ≤ (s.chain n).inFlight → h.info = infoOf again n (.disk k) h.words →
      runCondition h.words.condition (s.chain n).flags = true →
      (k = .directRead ∨ k = .directWrite → s.hp.maintaining = some n) →
      exec .heldElementResume s = exec (diskCommand k h.words) again)

/-- R61, R148, R150: a HOLD of either mode makes an explicit entry and places it. HELD at once, it completes DONE with P
from the peer-silent flag; CLAIMING or PENDING, the chain gets the reason hold waiting. A range cut at the end of the
extent is cut silently (R30), and the DONE record's done count is the count of the cut range (R50). That its C outcome
is clear is the model's reading (log 22). -/
def Obligations.HoldMakesAnExplicitEntry : Prop :=
  ∀ (m : Mode) (e : Element) (n : Fin 4) (s : State), Runs s n (.hold m) e → NamesFresh s →
    firstCheckFailed s n (.hold m) e = none → s.hp.adapter ≠ .silenced →
    let x := selectorOf s n (.hold m) e
    let d := descriptorFor s n (.hold m) e
    e.offset ≤ d.limit →
    let count := min e.count (d.limit + 1 - e.offset)
    let y := explicitEntry s n m e (d.base + e.offset) count x
    let made := { fetched s n with ec := accessedWith s x 0, hm := withEntry s y, lu := withClaim s y }
    exec (holdCommand m e) s = .next (
      if placedState s y = .held then
        completing made { plainCompletion s n (.hold m) e .done none (some (x.table, x.index)) with
          done := count
          bits := ⟨false, false, false, false, false, (withEntry s y).list.any fun z => z.id = y.id && z.silent⟩
          endsHoldWait := true }
      else
        { made with chains := made.chains.set n { made.chain n with
            wait := { (s.chain n).wait with holdWaiting := true } } })

/-- R61, R157: UNHOLD names the earliest explicit entry of its chain with exactly its range. None: FAULT NO HOLD. With
references left it waits for them. With none the entry is removed: it is gone from list and line, its CLAIM is not
pending, a FREE with its range and written flag is offered if it was claimed, and the UNHOLD completes DONE; the
removed entry's CLAIM in its exchange runs on. An entry that leaves the list has the pending line checked again
(R151): list and line are then what R150 makes of each PENDING entry in turn, the CLAIM of each that is CLAIMING now
is offered, and the HOLD that waited for one HELD now completes DONE. One that leaves the line changes nothing else.
The DONE record's done count is the count of the range (R30, R50); that its P and C outcomes are clear is the model's
reading (log 22). -/
def Obligations.UnholdRemovesTheEntry : Prop :=
  ∀ (e : Element) (n : Fin 4) (s : State), Runs s n .unhold e → NamesFresh s → firstCheckFailed s n .unhold e = none →
    let x := selectorOf s n .unhold e
    let d := descriptorFor s n .unhold e
    let b := d.base + e.offset
    let m := min e.count (d.limit + 1 - e.offset)
    let named : HoldEntry → Prop := fun y => y.origin = .explicit ∧ y.chain = n ∧ y.start = b ∧ y.count = m
    let c := { plainCompletion s n .unhold e .done none (some (x.table, x.index)) with done := m }
    e.offset ≤ d.limit →
    ((∀ y ∈ s.hm.list ++ s.hm.line, ¬ named y) → exec (.unhold e) s =
      .next (completing { fetched s n with ec := accessedWith s x 0 }
        (plainCompletion s n .unhold e .fault (some .noHold) (some (x.table, x.index))))) ∧
    ∀ y ∈ s.hm.list ++ s.hm.line, named y → (∀ z ∈ s.hm.list ++ s.hm.line, named z → y.id ≤ z.id) →
      (y.refs ≠ 0 → exec (.unhold e) s = .next { fetched s n with
        ec := accessedWith s x 0
        hm := s.hm.modify y.id fun z => { z with unholdElem := some (infoOf s n .unhold e, x.table, x.index) }
        chains := s.chains.set n { (fetched s n).chain n with
          wait := { (s.chain n).wait with unholdWaiting := true } } }) ∧
      (y.refs = 0 → ∃ t, exec (.unhold e) s = .next t ∧ c ∈ asked t ∧
        (let list := s.hm.list.filter fun z => z.id ≠ y.id
        let line := s.hm.line.filter fun z => z.id ≠ y.id
        (t.hm.list, t.hm.line) = (if y ∈ s.hm.list then rechecked list line else (list, line)) ∧
          ∀ z ∈ s.hm.line, ∀ w ∈ t.hm.list, w.id = z.id →
            (w.state = .claiming → s.hp.adapter ≠ .silenced →
              ∃ f ∈ t.lu.frames, f = ⟨.claim z.id z.start z.count z.mode, 0, 0, false⟩) ∧
            (w.state = .held → ∀ h, z.holdElem = some h → ∃ u ∈ asked t, u.info = h.1 ∧ u.status = .done ∧
              u.done = z.count ∧ u.bits.p = w.silent)) ∧
        (∀ z ∈ t.hm.list ++ t.hm.line, z.id ≠ y.id ∧ ∃ w ∈ s.hm.list ++ s.hm.line, w.id = z.id ∧ w.start = z.start ∧
          w.count = z.count ∧ w.mode = z.mode ∧ w.chain = z.chain ∧ w.written = z.written ∧ w.claimed = z.claimed) ∧
        (∀ w ∈ s.hm.list ++ s.hm.line, w.id ≠ y.id → ∃ z ∈ t.hm.list ++ t.hm.line, z.id = w.id) ∧
        (∀ f ∈ t.lu.frames, f.body.isClaimOf y.id = false) ∧ t.lu.exchange = s.lu.exchange ∧
        (y.claimed = true → s.hp.adapter ≠ .silenced → ∃ f ∈ t.lu.frames, f.body = .free y.start y.count y.written) ∧
        t.ec = accessedWith s x 0 ∧ t.te = s.te ∧ t.tm = s.tm ∧ t.rdm = s.rdm ∧ t.chains = (fetched s n).chains ∧
        t.wq.records.map Request.id = s.wq.records.map Request.id)

/-- R58: SELECT completes DONE, and its completion carries the element's own selector, unresolved and unchecked, which
becomes the default when its record is written (the model's reading, log 9). R60, R182: SET_CLOCK with the four fields
in range loads them, starts the clock and its 100 ms interval, and completes DONE stamped with the time just set; an
advance that comes with the load leaves the same state in either order (log 49); a field out of range faults ILLEGAL
ELEMENT and leaves the clock. R40, R59, R124, R145: the three INSPECTs ask the image write first and the completion
write after it. A descriptor's image shows its marks as they stood; the INSPECT then sets the accessed mark and, with
the clear option, clears the written and changed marks. The line record's clear option sets the collision count to 0
and arms the attention; the position record's sets the peer seek count to 0. Nothing else changes. The done count 0 of
these DONE records, whose kinds have no transfer count, is the model's choice (log 38). -/
def Obligations.SelectClockAndInspectComplete : Prop :=
  (∀ (e : Element) (n : Fin 4) (s : State), Runs s n .select e →
    exec (.select e) s = .next (completing (fetched s n)
      { plainCompletion s n .select e .done none (some (e.selector.table, e.selector.index)) with
        newDefault := some e.selector }) ∧
    e.selector.table = (if e.w1.getLsbD 15 then .common else .priv) ∧ e.selector.index = e.w1.toNat / 256 % 32 ∧
    e.selector.level = e.w1.toNat / 8192 % 4) ∧
  (∀ (e : Element) (n : Fin 4) (s : State), Runs s n .setClock e →
    let c : Tod := ⟨true, e.w2.toNat / 256 % 32, e.w2.toNat % 64, e.w3.toNat / 256 % 64, e.w3.toNat % 16, 1000000,
      if s.hp.tod.moment = .advanced then .advanced else .loaded⟩
    (c.InRange → exec (.setClock e) s = .next (completing { fetched s n with hp := { (fetched s n).hp with tod := c } }
      { plainCompletion s n .setClock e .done none none with
        stamp := ⟨false, c.hours, c.minutes, c.seconds, c.tenths⟩ })) ∧
    (c.InRange → s.hp.tod.running = true → s.hp.tod.moment ≠ .advanced → ∃ u, exec .todAdvance s = .next u ∧
      ∃ t, exec (.setClock e) u = .next t ∧ t.hp.tod = { c with moment := .advanced } ∧
        ∃ v, exec (.setClock e) s = .next v ∧ exec .todAdvance v = .next t) ∧
    (¬ c.InRange → exec (.setClock e) s =
      .next (completing (fetched s n) (plainCompletion s n .setClock e .fault (some .illegalElement) none)))) ∧
  ∀ (e : Element) (n : Fin 4) (s : State),
    let clear := e.w2.getLsbD 15
    let imaged : State → List Word → State := fun t w =>
      { t with hp := { t.hp with waiting := t.hp.waiting ++ [.image e.w5 w] } }
    (Runs s n (.inspect .descriptor) e → firstCheckFailed s n (.inspect .descriptor) e = none →
      let x := selectorOf s n (.inspect .descriptor) e
      let d := descriptorFor s n (.inspect .descriptor) e
      exec (.inspectDescriptor e) s = .next (completing
        (imaged { fetched s n with ec := s.ec.modify x.table x.index fun d => { d with
          accessed := true
          written := d.written && !clear
          changed := d.changed && !clear } } d.image)
        { plainCompletion s n (.inspect .descriptor) e .done none (some (x.table, x.index)) with
          bits := ⟨false, false, false, d.changed, false, false⟩ })) ∧
    (Runs s n (.inspect .lineRecord) e → exec (.inspectLineRecord e) s = .next (completing
      (imaged { fetched s n with lu := { s.lu with
        collisionCount := if clear then 0 else s.lu.collisionCount
        armed := s.lu.armed || clear } } (lineRecord s))
      (plainCompletion s n (.inspect .lineRecord) e .done none none))) ∧
    (Runs s n (.inspect .positionRecord) e → exec (.inspectPositionRecord e) s = .next (completing
      (imaged { fetched s n with tm := { s.tm with peerSeeks := if clear then 0 else s.tm.peerSeeks } }
        (positionRecord s))
      (plainCompletion s n (.inspect .positionRecord) e .done none none)))


/-- R62, R63: MAINTAIN_ON. Where the setup permits it, the chain's level is 0 and no chain maintains, the adapter
enters MAINTENANCE with this chain as the maintaining chain; every other RUNNING chain gets the reason maintenance,
its fetch not begun is withdrawn and due. In the maintaining chain it changes nothing. Otherwise it faults ILLEGAL
ELEMENT. R62, R65: MAINTAIN_OFF completes DONE. In the maintaining chain the adapter is RUNNING again with no
maintaining chain, the queued DIRECT requests leave with ABORTED asked and the other records stay, and no chain has
the reason maintenance: a fetch that was due for it alone is asked. In another chain nothing else changes. That chains
not RUNNING keep their record is the model's reading of R63's 'each chain' (log 20); the done count 0 of the DONE
record is its choice (log 38). -/
def Obligations.MaintenanceIsEnteredAndLeft : Prop :=
  (∀ (e : Element) (n : Fin 4) (s : State), Runs s n .maintain e →
    let done := plainCompletion s n .maintain e .done none none
    (s.hp.maintaining = some n → exec (.maintainOn e) s = .next (completing (fetched s n) done)) ∧
    (s.cfg.maintenance = true → (s.chain n).level = 0 → s.hp.maintaining = none →
      ∃ t, exec (.maintainOn e) s = .next t ∧ t = { fetched s n with chains := t.chains, hp := t.hp } ∧
        t.hp = { s.hp with current := none, adapter := .maintenance, maintaining := some n, waiting := t.hp.waiting } ∧
        t.chain n = (fetched s n).chain n ∧ .completion done ∈ t.hp.waiting ∧
        (∀ x, (∀ m, x ≠ .fetch m) → x ≠ .completion done → (x ∈ t.hp.waiting ↔ x ∈ s.hp.waiting)) ∧
        ∀ m, m ≠ n →
          ((s.chain m).state = .running → .fetch m ∉ t.hp.waiting ∧ t.chain m = { s.chain m with
            wait := { (s.chain m).wait with maintenance := true }
            fetchDue := (s.chain m).fetchDue || decide (.fetch m ∈ s.hp.waiting) }) ∧
          ((s.chain m).state ≠ .running → t.chain m = s.chain m)) ∧
    (s.hp.maintaining ≠ some n → (s.cfg.maintenance = false ∨ (s.chain n).level ≠ 0 ∨ s.hp.maintaining ≠ none) →
      exec (.maintainOn e) s =
        .next (completing (fetched s n) (plainCompletion s n .maintain e .fault (some .illegalElement) none)))) ∧
  ∀ (e : Element) (n : Fin 4) (s : State), Runs s n .maintain e →
    let done := plainCompletion s n .maintain e .done none none
    (s.hp.maintaining ≠ some n → exec (.maintainOff e) s = .next (completing (fetched s n) done)) ∧
    (s.hp.maintaining = some n → s.hp.adapter = .maintenance → NamesFresh s →
      (∀ r ∈ s.wq.records, r.isDirect = true → r.hold = none) →
      ∃ t, exec (.maintainOff e) s = .next t ∧ t.hp.adapter = .running ∧ t.hp.maintaining = none ∧ done ∈ asked t ∧
        t.wq.records = s.wq.records.filter (fun r => !(r.isDirect && r.queued)) ∧
        (∀ r ∈ s.wq.records, r.isDirect = true → r.queued = true → CompletionAsked t r .aborted none) ∧
        (∀ m, (t.chain m).wait = { ((fetched s n).chain m).wait with maintenance := false } ∧
          (t.chain m).state = (s.chain m).state ∧ (t.chain m).flags = (s.chain m).flags ∧
          ((s.chain m).state = .running → (s.chain m).fetchDue = true → s.hp.current ≠ some (.fetch m) →
            (s.chain m).wait = ⟨false, false, false, true⟩ → .fetch m ∈ t.hp.waiting)) ∧
        t.te = { s.te with
          maintenanceOver := s.te.maintenanceOver || s.activeRequest.any fun r => r.kind = .directRead ∨ r.kind = .directWrite } ∧
        t.tm = s.tm ∧ t.lu = s.lu ∧ t.rdm = s.rdm ∧ t.hm = s.hm ∧ t.ec = s.ec ∧ t.out = [])

/-! Rotation and the drive (1.2, Section 9). -/

/-- INDEX, SECTOR and the synthetic slot on the monitor's records, outside the late window for the pulses (R5 to R10):
the counter, the timer, the synthetic-run count, the revolution source, the late window, and the mark that says
whether the slot event was a synthetic slot. The positioner record and the setup stay. A late pulse and the close of
the late window (R9): a late pulse reloads the timer, clears the synthetic-run count, closes the window and begins the
ordered slot of an exchange in progress whose frames have gone out (R116), but makes no slot event. A late SECTOR
leaves the counter. A late INDEX sets it to 0 unless the drive is DOWN, and makes the revolution event unless the
synthetic slot stood for one; here that one case is stated whole. -/
def Obligations.PulsesMoveTheMonitor : Prop :=
  (∀ (p : Pulse) (o : Option LineTime) (s : State), s.rdm.revCount ≤ 19 →
    let m := s.rdm
    let stays : State → Prop := fun t => t.tm.cylinder = s.tm.cylinder ∧ t.tm.moving = s.tm.moving ∧
      t.hp.setup = s.hp.setup ∧ t.rdm.ready = m.ready ∧ t.rdm.onCylinder = m.onCylinder ∧ t.rdm.timer = 12500
    (m.lateLeft = 0 → ∃ t, exec (.indexPulse p) s = .next t ∧ stays t ∧ t.rdm.slotSynthetic = false ∧
      t.rdm.counter = (if m.drive = .down then m.counter else some 0) ∧ t.rdm.synthRun = 0 ∧ t.rdm.revCount = 0 ∧
      t.rdm.lateLeft = 0) ∧
    (m.lateLeft = 0 → ∃ t, exec (.sectorPulse p) s = .next t ∧ stays t ∧ t.rdm.slotSynthetic = false ∧
      t.rdm.counter = (if m.drive = .down then m.counter else m.counter.map fun c => (c + 1) % 20) ∧
      t.rdm.synthRun = 0 ∧ t.rdm.revCount = (m.revCount + 1) % 20 ∧ t.rdm.lateLeft = 0) ∧
    (m.synthRun ≠ 19 ∨ m.drive = .down → ∃ t, exec (.syntheticSlot o) s = .next t ∧ stays t ∧
      t.rdm.slotSynthetic = true ∧
      t.rdm.counter = (if m.drive = .down then m.counter else m.counter.map fun c => (c + 1) % 20) ∧
      t.rdm.synthRun = min 20 (m.synthRun + 1) ∧ t.rdm.revCount = (m.revCount + 1) % 20 ∧ t.rdm.lateLeft = 3125 ∧
      t.rdm.lateSubstitute = decide (m.revCount = 19) ∧ t.rdm.resync = .awaitingIndex)) ∧
  ∀ (p : Pulse) (s : State),
    let l := { s.lu with
      exchange := s.lu.exchange.map fun x => { x with slotBegun := x.slotBegun || !p.sending }
      peerExchange := s.lu.peerExchange.map fun x => { x with slotBegun := true } }
    let m := { s.rdm with timer := 12500, synthRun := 0, lateLeft := 0, lateSubstitute := false }
    (exec .lateWindowClose s = .next { s with out := [], rdm := { s.rdm with lateLeft := 0, lateSubstitute := false } }) ∧
    (0 < s.rdm.lateLeft → exec (.sectorPulse p) s = .next { s with out := [], lu := l, rdm := m }) ∧
    (0 < s.rdm.lateLeft → s.rdm.lateSubstitute = true → exec (.indexPulse p) s = .next { s with
      out := []
      lu := l
      rdm := if s.rdm.drive = .down then { m with revCount := 0 }
        else { m with
          revCount := 0
          counter := some 0
          resync := if s.rdm.drive = .resync then .counting else s.rdm.resync } }) ∧
    (0 < s.rdm.lateLeft → s.rdm.lateSubstitute = false → ∃ t, exec (.indexPulse p) s = .next t ∧
      t.rdm.counter = (if s.rdm.drive = .down then s.rdm.counter else some 0) ∧ t.rdm.revCount = 0 ∧
      t.rdm.lateLeft = 0 ∧ t.tm.courtesy = false ∧
      ∀ u ∈ t.wq.records, ∃ r ∈ s.wq.records, r.id = u.id ∧ r.budget = u.budget)

/-- The slot event counts the budgets (R72, R73, R75 to R77): each record that stays has one slot less; one that reaches
0 has left where it was queued, not started and DROP, or in HOLD-WAIT when the queue counts (an engine that ends a
request at the same event may have woken it before), and is LATE where it stays. One that is READY or BLOCKED, started
or CARRY ON, stays in the queue with the LATE mark, its done count and the counts of its sector kept; the review and the
selection of the same event may then block it or choose it. So does one of the engine whose order is on the line,
started, ENDING or CARRY ON, in its state. The records left keep their order. It holds of the INDEX and SECTOR in time
and of the synthetic slot, with expiry taken before an order due at the same event. -/
def Obligations.SlotEventCountsBudgets : Prop :=
  ∀ (s : State), NamesFresh s → s.rdm.lateLeft = 0 →
    ∀ b c, c = .indexPulse ⟨none, b⟩ ∨ c = .sectorPulse ⟨none, b⟩ ∨ c = .syntheticSlot none → ∃ t, exec c s = .next t ∧
      (∀ u ∈ t.wq.records, ∃ r ∈ s.wq.records, r.id = u.id ∧ u.budget = r.budget.map (fun b => b - 1) ∧
        (r.budget = some 1 → u.late = true)) ∧
      (∀ r ∈ s.wq.records, r.budget = some 1 → r.queued = true → r.started = false →
        (r.lateAction = .drop ∨ r.state = .holdWait ∧ s.te.phase = .idle ∧ s.te.request = none) → Left t r.id) ∧
      (∀ r ∈ s.wq.records, r.budget = some 1 → r.state = .ready ∨ r.state = .blocked →
        r.started = true ∨ r.lateAction = .carryOn → s.te.request ≠ some r.id → s.mayNotReturn r = false →
        ∃ u ∈ t.wq.records, (u.state = .ready ∨ u.state = .blocked ∨ u.state = .active) ∧
          u = { r with
            budget := some 0, late := true, state := u.state, cost := u.cost, slack := u.slack, urgent := u.urgent }) ∧
      (∀ r, s.activeRequest = some r → r.budget = some 1 → r.state = .active ∨ r.state = .ending →
        r.started = true ∨ r.state = .ending ∨ r.lateAction = .carryOn →
        s.te.phase = .exchange → s.exchangeInProgress = true →
        ∃ u ∈ t.wq.records, u = { r with budget := some 0, late := true, slack := u.slack, urgent := u.urgent }) ∧
      (t.wq.records.map Request.id).Sublist (s.wq.records.map Request.id)

/-- Selection at a slot event (R72, R81 to R84, R92 to R94, R100). Where the engine is IDLE and no budget runs out,
each record is counted and formed and the eligible ones are compared by the three tiers of R83. With none eligible the
engine stays IDLE. Else the first of least slack, or of least cost, is ACTIVE at its place, the engine works on it,
and positioning leaves it in the phase of the table of R93: TENURE WAIT, asking where no tenure is held, SETTLE, or
LEAD WAIT, whose lead slot is under way if the event brought it; then a READ is offered if a buffer is EMPTY. A kind
whose sectors come from host memory loads ahead: with both buffers EMPTY the read of its sector is asked into A and
that of the next one into B, each at the sector's place (R98). With neither tenure standing and the positioner moving
on the right cylinder it is suspended at once (R97): READY at its place, or ABORTED where its chain is STOPPING, and
the engine is IDLE; it is not chosen again at this event (the model's reading, log 8). -/
def Obligations.SlotEventSelectsByTiers : Prop :=
  ∀ (s : State) (c : Instr) (p : Nat), SlotTo s c p → NamesFresh s → s.te.phase = .idle → s.te.request = none →
    let eligible := (s.wq.records.map (slotRecord s p)).filter fun r => decide (MaySelect s r)
    ∃ t, exec c s = .next t ∧
      match tierChoice s.cfg.urgency eligible with
      | none => eligible = [] ∧ t.te.phase = .idle ∧ t.te.request = none
      | some r =>
        let target := s.nextTarget r
        let seek := NeedsSeek s r
        let halted := s.tm.own = .none ∧ s.tm.peer = none ∧ ¬ seek ∧ s.tm.moving = true
        r ∈ eligible ∧
        (halted → t.te.phase = .idle ∧ t.te.request = none ∧
          if (s.chain r.elem.chain).state = .stopping then CompletionAsked t r .aborted none ∧ Left t r.id
          else r ∈ t.wq.records) ∧
        (¬ halted →
          t.te.request = some r.id ∧ t.te.sector = r.done ∧ t.te.target = target ∧ t.te.lastSlip = .none ∧
          { r with state := .active } ∈ t.wq.records ∧
          (Outbound r.kind → s.te.bufA.state = .empty → s.te.bufB.state = .empty → r.done < r.count →
            t.te.bufA = ⟨.loading, r.done, [], r.id, false⟩ ∧
            .load .a (r.buffer + BitVec.ofNat 16 (r.done * 128)) ∈ t.hp.waiting ∧
            (r.done + 1 < r.count → t.te.bufB = ⟨.loading, r.done + 1, [], r.id, false⟩ ∧
              .load .b (r.buffer + BitVec.ofNat 16 ((r.done + 1) * 128)) ∈ t.hp.waiting)) ∧
          (seek → t.te.phase = .tenureWait ∧ (s.tm.own = .none → t.tm.own = .asking target.cylinder ∧
            (s.lu.tenureStands = false → ∃ f ∈ t.lu.frames, f = ⟨.tenure target.cylinder, 0, 0, false⟩))) ∧
          (¬ seek → s.tm.moving = true → t.te.phase = .settle ∧ t.te.settle = 0) ∧
          (¬ seek → s.tm.moving = false → t.te.phase = .leadWait ∧
            (t.te.leadOpen = true ↔ p = (target.slot + 19) % 20) ∧
            (p = (target.slot + 19) % 20 → (∀ f ∈ s.lu.frames, f.body.isTransfer = false) →
              r.kind = .read ∨ r.kind = .directRead ∨ r.kind = .scan →
              s.te.bufA.state = .empty ∨ s.te.bufB.state = .empty →
              ∃ f ∈ t.lu.frames, f.body = .read target)))

/-- The lead slot and the PREEMPT at a slot event. R100: the event that brings the lead slot of the sector in hand
opens it, and the order is offered at once if the buffer condition holds, else not yet. R101: the event that ends it
with the order not begun withdraws the order and slips the sector, with cause LINE where the order was offered and
BUFFER where not; the ninth slip ends the request FAULT LINE or HOST OVERRUN. R141: after a slot event that is no
revolution event a PREEMPT stands only while an URGENT request is BLOCKED, and carries the least slack of these; one
is offered where the peer's record is HOLDING, the preempt mark clear and none is pending or in its exchange, and none
where the record is NONE or the mark set. R136, R137: after a slot event an own tenure HOLDING is ENDING, its cylinder
and revolutions kept, if the engine is IDLE and no request needs the positioner, and still HOLDING if the engine was
IDLE and one does; an own tenure ENDING with the engine IDLE has a RELEASE pending or in its exchange, unless a
re-announcement is still to be settled. -/
def Obligations.SlotEventLeadSlotAndPreempt : Prop :=
  (∀ (s : State) (c : Instr) (p : Nat) (r : Request), SlotTo s c p → NamesFresh s → s.te.phase = .leadWait →
    s.activeRequest = some r → r.state = .active → s.te.suspendAfter = false → s.hp.adapter ≠ .silenced →
    let order := orderDue r s.te.target
    (s.te.leadOpen = false → p = (s.te.target.slot + 19) % 20 → (∀ f ∈ s.lu.frames, f.body.isTransfer = false) →
      ∃ t, exec c s = .next t ∧ t.te.phase = .leadWait ∧ t.te.leadOpen = true ∧ t.te.request = s.te.request ∧
        if bufferMet s.te r s.te.sector then ∃ f ∈ t.lu.frames, f = ⟨order, 0, 0, false⟩
        else ∀ f ∈ t.lu.frames, f.body.isTransfer = false) ∧
    (s.te.leadOpen = true → p = s.te.target.slot →
      let offered := s.lu.frames.any fun f => f.body.isTransfer
      ∃ t, exec c s = .next t ∧
        (r.slips < 8 → t.te.phase = .leadWait ∧ t.te.leadOpen = false ∧ t.te.request = s.te.request ∧
          t.te.lastSlip = (if offered then .line else .buffer) ∧ (∀ f ∈ t.lu.frames, f.body.isTransfer = false) ∧
          ∃ u ∈ t.wq.records, u.id = r.id ∧ u.state = .active ∧ u.slips = r.slips + 1 ∧ u.done = r.done ∧
            u.retries = r.retries ∧ u.displacements = r.displacements ∧ u.started = r.started) ∧
        (8 ≤ r.slips → CompletionAsked t r .fault (some (if offered then .line else .hostOverrun)) ∧ Left t r.id))) ∧
  ∀ (s : State) (c : Instr) (b : Bool), c = .sectorPulse ⟨none, b⟩ ∧ s.rdm.lateLeft = 0 ∨ c = .syntheticSlot none →
    s.rdm.revCount < 19 → ∃ t, exec c s = .next t ∧
      let pressed := t.wq.records.filter fun r => r.state = .blocked && r.urgent
      (pressed = [] → ∀ f ∈ t.lu.frames, f.body.isPreempt = false) ∧
      (∀ f ∈ t.lu.frames, match f.body with
        | .preempt k => (∃ r ∈ pressed, r.slack = some k) ∧ ∀ r ∈ pressed, ∀ j ∈ r.slack, k ≤ j
        | _ => True) ∧
      (pressed ≠ [] → t.tm.peer ≠ none → t.tm.preemptMark = false → t.lu.inExchange FrameBody.isPreempt = false →
        s.hp.adapter ≠ .silenced → ∃ f ∈ t.lu.frames, f.body.isPreempt = true) ∧
      (s.rdm.synthRun ≠ 19 → TenureTested s t ∧
        ∀ a k, s.te.phase = .idle → s.tm.own = .holding a k → t.te.phase ≠ .idle ∨ SomeNeeds t → t.tm.own = .holding a k) ∧
      (t.tm.peer = none ∨ t.tm.preemptMark = true → (∀ f ∈ s.lu.frames, f.body.isPreempt = false) →
        ∀ f ∈ t.lu.frames, f.body.isPreempt = false)

/-- The revolution event counts (R10, R135, R138, R153, R168). An INDEX in time, and a late one for which no synthetic
slot stood, is one; so is the twentieth slot event without INDEX, a SECTOR in time or a synthetic slot. It takes one
from an own tenure HOLDING or ENDING, which is ENDING at 0, and one from the peer's record, which is NONE at 0; the
courtesy wait ends; a drive that is DOWN with READY high has its recovery count raised, and leaves DOWN at the fourth.
A REFUSED entry that still stands has its refusal revolutions raised, and is CLAIMING again at the fourth, its CLAIM
offered. -/
def Obligations.RevolutionEventCounts : Prop :=
  ∀ (o : Pulse) (q : Option LineTime) (c : Instr) (s : State),
    (c = .indexPulse o ∧ (s.rdm.lateLeft = 0 ∨ s.rdm.lateSubstitute = false) ∨
      c = .sectorPulse o ∧ s.rdm.lateLeft = 0 ∧ 19 ≤ s.rdm.revCount ∨ c = .syntheticSlot q ∧ 19 ≤ s.rdm.revCount) →
    NamesFresh s → ∃ t, exec c s = .next t ∧
    (∀ a n, s.tm.own = .holding a n → t.tm.own = .ending a (n - 1) ∨ 2 ≤ n ∧ t.tm.own = .holding a (n - 1)) ∧
    (∀ a n, s.tm.own = .ending a n → t.tm.own = .ending a (n - 1)) ∧
    (∀ p, s.tm.peer = some p → t.tm.peer =
      if 2 ≤ p.revolutions then some { p with revolutions := p.revolutions - 1 } else none) ∧
    t.tm.courtesy = false ∧ t.rdm.revCount = 0 ∧
    (s.rdm.drive = .down → if s.rdm.ready = false then t.rdm.drive = .down ∧ t.rdm.recovery = 0
      else if s.rdm.recovery < 3 then t.rdm.drive = .down ∧ t.rdm.recovery = s.rdm.recovery + 1
      else t.rdm.drive = .resync ∧ t.rdm.recovery = 0) ∧
    ∀ y ∈ s.hm.list, y.state = .refused → ∀ z ∈ t.hm.list, z.id = y.id →
      if y.refusalRevs < 3 then z.state = .refused ∧ z.refusalRevs = y.refusalRevs + 1
      else z.state = .claiming ∧ z.refusalRevs = 0 ∧ (s.hp.adapter ≠ .silenced →
        ∃ f ∈ t.lu.frames, f = ⟨.claim y.id y.start y.count y.mode, 0, 0, false⟩)

/-- The drive is lost (R8, R163 to R166): READY_FALL, the twentieth synthetic slot in a row, and SPINDLE_LOSS, which is
that count alone (log 4). In DOWN they leave it DOWN. The drive returns (R168 to R170). READY_RISE, and RECOVERY at the
fourth revolution event in DOWN with READY high, take DOWN to RESYNC awaiting INDEX. The INDEX that finds a counting
RESYNC at counter 19 makes it UP, raises VOLUME and DRIVE, and sets the changed mark of every descriptor that is not
EMPTY. SPINDLE_LOSS and RECOVERY as commands of their own follow the model's choice in log 4. -/
def Obligations.DriveIsLostAndReturns : Prop :=
  (∀ (o : Option LineTime) (s : State),
    (∃ t, exec .readyFall s = .next t ∧ t.rdm.ready = false ∧ t.rdm.recovery = 0 ∧ t.rdm.drive = .down ∧
      (s.rdm.drive ≠ .down → LostDrive s t)) ∧
    (s.rdm.drive ≠ .down → s.rdm.synthRun = 19 →
      (∃ t, exec .spindleLoss s = .next t ∧ LostDrive s t ∧ t.rdm.synthRun = 20) ∧
      ∃ t, exec (.syntheticSlot o) s = .next t ∧ t.rdm.drive = .down ∧ t.rdm.counter = none ∧ t.rdm.synthRun = 20 ∧
        t.hp.events.getLsbD 9 = true ∧ t.tm.cylinder = none ∧ t.tm.moving = false)) ∧
  ∀ (o : Option LineTime) (s : State),
    exec .readyRise s = .next { s with
      out := []
      rdm := if s.rdm.drive = .down then
          { s.rdm with ready := true, drive := .resync, resync := .awaitingIndex, recovery := 0 }
        else { s.rdm with ready := true } } ∧
    (s.rdm.drive = .down → s.rdm.ready = true → s.rdm.recovery = 3 → exec .recovery s = .next { s with
      out := []
      rdm := { s.rdm with drive := .resync, resync := .awaitingIndex, recovery := 0 } }) ∧
    (s.rdm.lateLeft = 0 → s.rdm.drive = .resync → s.rdm.resync = .counting → s.rdm.counter = some 19 →
      ∃ t, exec (.indexPulse ⟨o, false⟩) s = .next t ∧ t.rdm.drive = .up ∧ t.rdm.counter = some 0 ∧
        t.hp.events.getLsbD 6 = true ∧ t.hp.events.getLsbD 9 = true ∧
        ∀ d ∈ t.ec.priv ++ t.ec.comm, d.kind ≠ .empty → d.changed = true)

/-- ON CYLINDER (R96, R132). Its fall sets the moving flag; the cylinder is UNKNOWN unless a SEEK exchange, own or the
peer's, is in progress, whose end decides; that an own SEEK whose answer is not to be taken counts as none is the
model's choice (log 47). Its rise clears the flag; an engine in SETTLE then positions its sector: with own tenure
HOLDING and the cylinder right it goes to LEAD WAIT. -/
def Obligations.OnCylinderMovesTheRecord : Prop :=
  ∀ (p : Bool) (s : State),
    (∃ t, exec (.onCylinderFall p) s = .next t ∧ t.rdm = { s.rdm with onCylinder := false } ∧
      t.tm = { s.tm with
        cylinder := if s.lu.inExchange FrameBody.isSeek = true ∨ p = true then s.tm.cylinder else none
        moving := true } ∧
      t.lu = { s.lu with
        exchange := s.lu.exchange.map fun x => { x with cylinderFell := true }
        peerSeekFell := s.lu.peerSeekFell || (p && !s.lu.inExchange FrameBody.isSeek) } ∧
      t.hp = s.hp ∧ t.te = s.te ∧ t.hm = s.hm ∧ t.ec = s.ec ∧ t.chains = s.chains ∧
      t.wq.records.map Request.id = s.wq.records.map Request.id) ∧
    ∃ t, exec .onCylinderRise s = .next t ∧ t.rdm = { s.rdm with onCylinder := true } ∧
      t.tm.cylinder = s.tm.cylinder ∧ t.tm.moving = false ∧
      (s.te.phase ≠ .settle → t.te = s.te ∧ t.lu = s.lu ∧ t.hp = s.hp ∧ t.hm = s.hm ∧ t.tm.own = s.tm.own) ∧
      ∀ r, s.te.phase = .settle → s.activeRequest = some r → s.tm.own.isHolding = true →
        s.tm.cylinder = some (s.nextTarget r).cylinder →
        t.te.phase = .leadWait ∧ t.te.sector = r.done ∧ t.te.target = s.nextTarget r

/-! Thresholds. As commands of their own they are the last count of the one counter they name (log 4). -/

/-- REQUEST_EXPIRY and HOLD_WAIT_EXPIRY (R75 to R77): the budget of the record at a place, with one slot left, reaches
0. In HOLD-WAIT, and DROP not started (ACTIVE or queued), the request leaves with EXPIRED asked, L set and F clear;
started, ENDING or CARRY ON, it stays at its place in its state with the LATE mark, and nothing else changes. A request
that was ACTIVE leaves the engine. Elsewhere the commands change nothing. As a command of its own a threshold is the
last count of its one counter: the model's choice, log 4. HOLD_BUDGET_EXPIRY and RECLAIM (R153, R160). The budget of an
entry that is not HELD reaches 0: an EXPLICIT entry PENDING or REFUSED is removed, its FREE offered if claimed, and its
HOLD completes EXPIRED; another keeps standing with budget 0. At the fourth revolution event a REFUSED entry is CLAIMING
again, and its CLAIM is offered. -/
def Obligations.BudgetsExpire : Prop :=
  (∀ (i : Nat) (s : State), NamesFresh s →
    ((∀ r, s.wq.records[i]? = some r → r.budget ≠ some 1) →
      exec (.requestExpiry i) s = .next { s with out := [] } ∧
      exec (.holdWaitExpiry i) s = .next { s with out := [] }) ∧
    ∀ r, s.wq.records[i]? = some r → r.budget = some 1 →
      (r.state = .holdWait → exec (.requestExpiry i) s = .next { s with out := [] } ∧
        ∃ t, exec (.holdWaitExpiry i) s = .next t ∧ CompletionAsked t r .expired none ∧ Left t r.id ∧
          t.rdm = s.rdm ∧ t.chains = s.chains) ∧
      (r.state ≠ .holdWait → exec (.holdWaitExpiry i) s = .next { s with out := [] } ∧
        if r.started = true ∨ r.state = .ending ∨ r.lateAction = .carryOn then
          exec (.requestExpiry i) s = .next { s with
            out := []
            wq := { s.wq with records := s.wq.records.set i { r with budget := some 0, late := true } } }
        else ∃ t, exec (.requestExpiry i) s = .next t ∧ t.rdm = s.rdm ∧ t.chains = s.chains ∧
          CompletionAsked t r .expired none ∧ Left t r.id ∧ (r.state = .active → t.te.request ≠ some r.id))) ∧
  ∀ (i : Nat) (s : State), NamesFresh s → s.hp.adapter ≠ .silenced →
    (∀ y, (s.hm.list ++ s.hm.line)[i]? = some y → y.state ≠ .held → y.budget = some 1 →
      (y.origin = .implicit ∨ y.state = .claiming → exec (.holdBudgetExpiry i) s = .next { s with
        out := []
        hm := s.hm.modify y.id fun z => { z with budget := some 0 } }) ∧
      (y.origin = .explicit → y.state = .pending ∨ y.state = .refused →
        ∃ t, exec (.holdBudgetExpiry i) s = .next t ∧ (∀ z ∈ t.hm.list ++ t.hm.line, z.id ≠ y.id) ∧
          (y.claimed = true → ∃ f ∈ t.lu.frames, f.body = .free y.start y.count y.written) ∧
          (∀ h, y.holdElem = some h → ∃ c ∈ asked t, c.info = h.1 ∧ c.status = .expired ∧ c.fault = none ∧
            c.done = 0 ∧ c.bits.l = true ∧ c.bits.f = false ∧ c.endsHoldWait = true) ∧
          t.te = s.te ∧ t.tm = s.tm ∧ t.rdm = s.rdm ∧ t.chains = s.chains ∧ t.ec = s.ec)) ∧
    ∀ y, s.hm.list[i]? = some y → y.state = .refused → y.refusalRevs = 3 → exec (.reclaim i) s = .next { s with
      out := []
      hm := s.hm.modify y.id fun z => { z with state := .claiming, refusalRevs := 0 }
      lu := { s.lu with frames := s.lu.frames ++ [⟨.claim y.id y.start y.count y.mode, 0, 0, false⟩] } }

/-- SEEK_TIMEOUT (R96, R105): the sixty-fourth slot event in SETTLE is a displacement: the fourth displacement of a
sector ends the request POSITIONER LOST; before it, with own tenure HOLDING, the engine goes to SENSE and offers its
order, and without it the request is suspended: READY again or chosen again at its place, its counts kept, or ABORTED
where it may not return (R85, R97). The tenure counts run out (R135, R136). OWN_TENURE_EXPIRY: HOLDING with one
revolution left is ENDING with none, a TENURE not started is withdrawn, and an engine with no exchange in progress is
IDLE, its request READY again or ABORTED; with one in progress the suspension waits for its end; with the engine IDLE a
RELEASE is offered unless a re-announcement is in its exchange (R137). PEER_TENURE_EXPIRY: the record is NONE, the
preempt mark clear, a PREEMPT not started withdrawn, and every BLOCKED request is READY. As commands of their own these
thresholds are the last count of their one counter: the model's choice, log 4. -/
def Obligations.SeekTimeoutAndTenureExpiry : Prop :=
  (∀ (r : Request) (s : State), s.te.phase = .settle → s.te.settle = 63 → s.activeRequest = some r → r.state = .active →
    s.te.suspendAfter = false → s.hp.adapter ≠ .silenced → (s.wq.records.map Request.id).Nodup →
    (3 ≤ r.displacements → ∃ t, exec .seekTimeout s = .next t ∧ CompletionAsked t r .fault (some .positionerLost) ∧
      Left t r.id) ∧
    (r.displacements < 3 → s.tm.own.isHolding = true → exec .seekTimeout s = .next { s with
      out := []
      wq := s.wq.modify r.id fun u => { u with displacements := u.displacements + 1 }
      te := { s.te with phase := .sense, settle := 64, leadOpen := false }
      lu := { s.lu with frames := s.lu.frames ++ [⟨.sense, 0, 0, false⟩] } }) ∧
    (r.displacements < 3 → s.tm.own.isHolding = false → ∃ t, exec .seekTimeout s = .next t ∧
      SuspendedAs s t r { r with displacements := r.displacements + 1 })) ∧
  ∀ s : State,
    (∀ c, s.tm.own = .holding c 1 → ∃ t, exec .ownTenureExpiry s = .next t ∧ t.tm = { s.tm with own := .ending c 0 } ∧
      ReleaseStands t ∧ (∀ f ∈ t.lu.frames, f.body.isTenure = false) ∧ t.rdm = s.rdm ∧ t.chains = s.chains ∧
      ∀ r, s.activeRequest = some r → SuspensionTaken s t r ∧
        (r.state = .active → s.exchangeInProgress = false → t.te.phase = .idle ∧
          (s.mayNotReturn r = false → { r with state := .ready } ∈ t.wq.records))) ∧
    ∀ p, s.tm.peer = some p → p.revolutions ≤ 1 → exec .peerTenureExpiry s = .next { s with
      out := []
      tm := { s.tm with peer := none, preemptMark := false }
      lu := { s.lu with frames := s.lu.frames.filter fun f => !f.body.isPreempt }
      wq := { s.wq with records := s.wq.records.map fun r => if r.state = .blocked then { r with state := .ready } else r } }


/-! This adapter's frames on the line (Section 6). -/

/-- EXCHANGE_START (R100, R114 to R116, R120, R141, R152): with the line free for the gap lengthened by the backoff that
stands, after a failed frame counted from 5 quanta after it (the times in the operand are the model's reading, log 5),
the pending frame of highest rank that may start, the first offered of its rank, goes out as its words and leaves the
pending ones; the backoff is spent and its collision count is gone. The ranks are those of R120: transfer orders, SEEK
and SENSE, RELEASE and FREE, TENURE and PREEMPT, CLAIM, HELLO; a TENURE is held back while the courtesy wait stands
(R138). An order or an answered notice or a RELEASE opens an exchange; that a FREE or HELLO is sent whole is the model's
choice (log 13). A PREEMPT sets the preempt mark, a CLAIM its entry's claimed flag; a READ or WRITE starts its request
and the engine is in EXCHANGE; a READ of a kind that receives takes an EMPTY buffer for its sector, RECEIVING (R99). A
TENURE goes out with its cylinder and a number of revolutions: T of the setup in force for an ask (R133), the
revolutions left as they stand at its start for a tenure announced again (R134). A tenure gone ENDING with 0 left sends
its re-announcement again with 0: the model's choice, unsafe (log 42), since R114 gives a TENURE 1 to 15. With the line
busy, or no frame that may start, nothing happens. -/
def Obligations.ArbiterStartsTheHighestRank : Prop :=
  ∀ (line : LineTime) (s : State),
    let rank : FrameBody → Nat := fun b =>
      match b with
      | .read _ => 1
      | .write _ => 1
      | .seek _ => 2
      | .sense => 2
      | .release => 3
      | .free _ _ _ => 3
      | .tenure _ => 4
      | .preempt _ => 4
      | .claim _ _ _ _ => 5
      | .hello => 6
    let mayStart : Frame → Prop := fun g => ¬ (s.tm.courtesy = true ∧ ∃ c, g.body = .tenure c)
    (line.free < 2 + s.lu.backoff ∨ s.lu.failedHeard = true ∧ line.sinceFailed < 7 + s.lu.backoff ∨
      s.lu.exchange ≠ none ∨ s.lu.peerExchange ≠ none ∨ (∀ g ∈ s.lu.frames, ¬ mayStart g) →
      exec (.exchangeStart line) s = .next { s with out := [] }) ∧
    ∀ i f, s.lu.frames[i]? = some f → 2 + s.lu.backoff ≤ line.free →
      (s.lu.failedHeard = true → 7 + s.lu.backoff ≤ line.sinceFailed) → s.lu.exchange = none →
      s.lu.peerExchange = none → mayStart f →
      (∀ g ∈ s.lu.frames, mayStart g → rank f.body ≤ rank g.body) →
      (∀ j < i, ∀ g, s.lu.frames[j]? = some g → mayStart g → rank f.body < rank g.body) →
      let x : Exchange := ⟨{ f with collisions := 0 }, if f.body.isOrder then s.te.request else none, false,
        false, false, false, false⟩
      let revolutions : Nat :=
        match s.tm.own with
        | .holding _ left => left
        | .ending _ left => left
        | .asking _ => s.cfg.tenure
        | .none => s.cfg.tenure
      let sent : State := { s with
        out := [.frame (frameWords s.lu.station f.body.code (f.body.content revolutions))]
        lu := { s.lu with
          frames := s.lu.frames.eraseIdx i
          backoff := 0
          failedHeard := false
          exchange := if f.body.sentWhole then none else some x } }
      match f.body with
      | .tenure c => exec (.exchangeStart line) s = .next { sent with
          out := [.frame (frameWords s.lu.station 16 [BitVec.ofNat 16 c, BitVec.ofNat 16 revolutions])] }
      | .preempt _ => exec (.exchangeStart line) s =
          .next { sent with tm := { s.tm with preemptMark := s.tm.peer.isSome } }
      | .claim y _ _ _ => exec (.exchangeStart line) s =
          .next { sent with hm := s.hm.modify y fun z => { z with claimed := true } }
      | .read _ => ∀ r, s.activeRequest = some r → ∃ t, exec (.exchangeStart line) s = .next t ∧ t.lu = sent.lu ∧
          t.out = sent.out ∧ t.te.phase = .exchange ∧ t.te.leadOpen = false ∧
          (∃ u ∈ t.wq.records, u.id = r.id ∧ u.started = true ∧ u.done = r.done) ∧ t.hp = s.hp ∧ t.tm = s.tm ∧
          t.hm = s.hm ∧ t.rdm = s.rdm ∧ t.chains = s.chains ∧
          (Outbound r.kind → t.te.bufA = s.te.bufA ∧ t.te.bufB = s.te.bufB) ∧
          (¬ Outbound r.kind → (∃ n, (s.te.buf n).state = .empty) → ∃ n, (s.te.buf n).state = .empty ∧
            t.te.buf n = ⟨.receiving, r.done, [], r.id, false⟩ ∧ ∀ m, m ≠ n → t.te.buf m = s.te.buf m)
      | .write _ => ∀ r, s.activeRequest = some r → ∃ t, exec (.exchangeStart line) s = .next t ∧ t.lu = sent.lu ∧
          t.out = sent.out ++ [.frame (frameWords s.lu.station 4 (s.te.loadedWords r))] ∧ t.te.phase = .exchange ∧
          t.te.leadOpen = false ∧ (∃ u ∈ t.wq.records, u.id = r.id ∧ u.started = true ∧ u.done = r.done) ∧
          t.hp = s.hp ∧ t.tm = s.tm ∧ t.hm = s.hm ∧ t.rdm = s.rdm ∧ t.chains = s.chains ∧
          ∀ p, r.kind = .append → r.started = false → r.extent = some p →
            (s.ec.get p.1 p.2).kind = .log → (t.ec.get p.1 p.2).owner = some r.id
      | _ => exec (.exchangeStart line) s = .next sent

/-- COLLISION and FRAME_ABANDONED (R122 to R125). The frame the arbiter chose, by the ranks of R120 and with a TENURE
held back in the courtesy wait (R138), keeps its place and counts one more; the backoff is that of the station and the
count; the collision record takes it; LINE is raised if armed, and arming is over. At the eighth the frame is abandoned:
it is no longer pending, LINE is raised, and its owner acts. A HELLO or FREE is dropped, and a RELEASE besides makes an
own tenure ENDING none and begins the courtesy wait. A TENURE, PREEMPT or CLAIM counts one silence: pending again with
its silence count 1 and no collision, or decided unanswered, the peer ABSENT, and settled as by two silences: an ask is
HOLDING, or ENDING at once with the drive not UP (R136). An order is withdrawn and the engine's request ends FAULT LINE.
The quanta in the operand and FRAME_ABANDONED as a command of its own are the model's choice (log 5, log 4), the
courtesy wait is log 16. -/
def Obligations.CollisionsBackOffAndAbandon : Prop :=
  ∀ (line : LineTime) (i : Nat) (f : Frame) (s : State), s.lu.frames[i]? = some f → 2 + s.lu.backoff ≤ line.free →
    let rank : FrameBody → Nat := fun b =>
      match b with
      | .read _ => 1
      | .write _ => 1
      | .seek _ => 2
      | .sense => 2
      | .release => 3
      | .free _ _ _ => 3
      | .tenure _ => 4
      | .preempt _ => 4
      | .claim _ _ _ _ => 5
      | .hello => 6
    let mayStart : Frame → Prop := fun g => ¬ (s.tm.courtesy = true ∧ ∃ c, g.body = .tenure c)
    (s.lu.failedHeard = true → 7 + s.lu.backoff ≤ line.sinceFailed) → s.lu.exchange = none →
    s.lu.peerExchange = none → mayStart f → s.hp.adapter ≠ .silenced →
    (∀ g ∈ s.lu.frames, mayStart g → rank f.body ≤ rank g.body) →
    (∀ j < i, ∀ g, s.lu.frames[j]? = some g → mayStart g → rank f.body < rank g.body) →
    let k := f.collisions + 1
    (k < 8 →
      exec (.frameAbandoned line) s = .next { s with out := [] } ∧
      exec (.collision line) s = .next { s with
        out := []
        hp := if s.lu.armed then { s.hp with events := s.hp.events ||| BitVec.twoPow 12 8 } else s.hp
        lu := { s.lu with
          frames := s.lu.frames.set i { f with collisions := k }
          backoff := if s.lu.station then (if k % 2 = 1 then 2 * k else k) else (if k % 2 = 1 then k else 2 * k)
          failedHeard := false
          collisionCount := min 255 (s.lu.collisionCount + 1)
          lastCollided := f.body.code
          armed := false } }) ∧
    (k = 8 → ∀ c, c = .collision line ∨ c = .frameAbandoned line →
      let gone := abandoned s i f
      (f.body = .hello ∨ (∃ b n w, f.body = .free b n w) → exec c s = .next gone) ∧
      (f.body = .release → exec c s = .next { gone with tm := { s.tm with
        own := if s.tm.own.isEnding then .none else s.tm.own
        courtesy := s.tm.courtesy || !(f.reset || decide (s.tm.presence = .absent)) } }) ∧
      (f.body.isAnswered = true → f.silences = 0 → s.tm.presence ≠ .absent →
        (askedElsewhere s f.body = false → exec c s = .next { gone with
          lu := { gone.lu with frames := { f with silences := 1, collisions := 0 } :: gone.lu.frames } }) ∧
        (askedElsewhere s f.body = true → ∃ t, exec c s = .next t ∧
          ∃ g ∈ t.lu.frames, g.body.isTenure = true ∧ g.silences = 1 ∧ g.collisions = 0)) ∧
      (f.silences ≠ 0 ∨ s.tm.presence = .absent →
        (∀ v, f.body = .preempt v → exec c s = .next (absent gone)) ∧
        (∀ y id b n m, f.body = .claim id b n m → s.hm.find id = some y →
          ∃ t, exec c s = .next t ∧ t.lu = (absent gone).lu ∧ t.tm = (absent gone).tm ∧
            ∃ z ∈ t.hm.list ++ t.hm.line, z.id = y.id ∧ z.state = .held ∧ z.silent = true ∧ z.claimed = true) ∧
        ∀ d, f.body = .tenure d → (∀ g ∈ gone.lu.frames, g.body.isTenure = false) →
          ∃ t, exec c s = .next t ∧ t.tm.presence = .absent ∧ (s.tm.presence ≠ .absent → t.hp.events.getLsbD 7 = true) ∧
            (∀ g ∈ t.lu.frames, g.body.isTenure = true → g.collisions = 0 ∧ g.silences = 0) ∧
            (∀ e, s.tm.own = .asking e → s.rdm.drive = .up → t.tm.own = .holding e s.cfg.tenure) ∧
            (∀ e, s.tm.own = .asking e → s.rdm.drive ≠ .up → t.tm.own = .ending e s.cfg.tenure) ∧
            (∀ e r, s.tm.own = .holding e r → t.tm.own = .holding d r) ∧
            (∀ e r, s.tm.own = .ending e r → t.tm.own = .ending d r)) ∧
      (f.body.isOrder = true → ∃ t, exec c s = .next t ∧ t.hp.events.getLsbD 8 = true ∧
        t.lu = { gone.lu with frames := t.lu.frames } ∧ t.rdm = s.rdm ∧
        (∀ g ∈ t.lu.frames, g.body.isOrder = true → g.collisions = 0) ∧
        ∀ r, s.activeRequest = some r → CompletionAsked t r .fault (some .line) ∧ Left t r.id))

/-- RELEASE_SENT (R137, R138): the exchange of the RELEASE is over, an own tenure ENDING is NONE, and the courtesy wait
begins unless the peer is ABSENT or the RELEASE is a reset notice, which is the model's reading for a reset notice and
for a RELEASE with no own tenure (log 16). YIELD and KEEP change no record of the asker (R141): the exchange of the
PREEMPT is over and the peer PRESENT. R129: while UNCONFIGURED or SILENCED no notice of the peer is answered or handed
on; it spends the backoff, and one that takes an answer stands as an exchange. Elsewhere an order or a notice of the
peer that comes while an own notice waits for its answer ends that exchange as a silence (R119): at the first silence
the notice is pending again, an ask for another cylinder is settled as at the close of its window (R134), and the
peer's frame is taken as with no own notice in exchange; at the second the notice is decided as at the close of its
window, the peer ABSENT and PEER raised, and the frame is taken then, the peer staying ABSENT. That the presence is
taken first, then the silence, then the frame, is the model's reading (log 21). -/
def Obligations.NoticesThatChangeNoRecordEnd : Prop :=
  (∀ (x : Exchange) (s : State), s.lu.exchange = some x → x.frame.body = .release →
    exec .releaseSent s = .next { s with
      out := []
      lu := { s.lu with exchange := none }
      tm := { s.tm with
        own := if s.tm.own.isEnding then .none else s.tm.own
        courtesy := s.tm.courtesy ||
          !(x.frame.reset || x.discarded || decide (s.tm.presence = .absent)) } }) ∧
  (∀ (x : Exchange) (k : Int) (s : State), Noticing s x → x.frame.body = .preempt k →
    exec .yield s = .next (answered s) ∧ exec .keep s = .next (answered s)) ∧
  (∀ s : State, s.hp.adapter = .unconfigured ∨ s.hp.adapter = .silenced → s.lu.exchange = none →
    let spent : State := { s with out := [], lu := { s.lu with backoff := 0 } }
    let stands : State := { s with out := [], lu := { s.lu with
      backoff := 0
      peerExchange := some ⟨none, false, false⟩ } }
    (∀ c n : Word, c.toNat ≤ 399 → 1 ≤ n.toNat → n.toNat ≤ 15 → exec (.peerTenureHeard c n) s = .next stands) ∧
    (∀ k : Word, -1264 ≤ k.toInt → k.toInt ≤ -1 → exec (.peerPreemptHeard k) s = .next stands) ∧
    (∀ b w : Word, w.toNat / 128 % 256 = 0 → 1 ≤ w.toNat % 128 → w.toNat % 128 ≤ 64 →
      b.toNat + w.toNat % 128 ≤ 32000 →
      exec (.peerClaimHeard b w) s = .next stands ∧ exec (.peerFreeHeard b w) s = .next spent) ∧
    exec .peerReleaseHeard s = .next spent ∧ exec .peerHelloHeard s = .next spent) ∧
  ∀ (c : Instr) (x : Exchange) (a : SeekAnswer) (l : Bool) (o : PeerOrder) (v w : Word) (s : State), Noticing s x →
    (c = .peerSeek v a l ∧ v.toNat ≤ 399 ∨ c = .peerOrderHeard o ∨
      c = .peerTenureHeard v w ∧ v.toNat ≤ 399 ∧ 1 ≤ w.toNat ∧ w.toNat ≤ 15 ∨
      c = .peerPreemptHeard v ∧ -1264 ≤ v.toInt ∧ v.toInt ≤ -1 ∨
      (c = .peerClaimHeard v w ∨ c = .peerFreeHeard v w) ∧ w.toNat / 128 % 256 = 0 ∧ 1 ≤ w.toNat % 128 ∧
        w.toNat % 128 ≤ 64 ∧ v.toNat + w.toNat % 128 ≤ 32000 ∨ c = .peerReleaseHeard ∨ c = .peerHelloHeard) →
    (x.frame.silences = 0 → askedElsewhere s x.frame.body = false → exec c s = exec c { s with lu := { s.lu with
      exchange := none
      frames := { x.frame with silences := 1, collisions := 0 } :: s.lu.frames } }) ∧
    (x.frame.silences = 0 → ∃ u, exec (.answerWindowClose 5) (present s) = .next u ∧ u.lu.exchange = none ∧
      exec c s = exec c u) ∧
    (x.frame.silences ≠ 0 → ∃ u, exec (.answerWindowClose 5) (present s) = .next u ∧ u.lu.exchange = none ∧
      u.tm.presence = .absent ∧ u.hp.events.getLsbD 7 = true ∧
      ∃ t, exec c u = .next t ∧ exec c s = .next { t with tm := { t.tm with presence := .absent } })

/-- ANSWER_WINDOW_CLOSE, and DRIVE_SILENCE_LIMIT for the silence that reaches 3 (R104, R116, R119, R125, R126). A window
not yet over stands. The window of the early answers to a READ or WRITE closes first, once its slot has begun (R116);
before the slot begins the whole window closes at 64 quanta. The silence of an own order raises the count; the third
loses the drive. Below the third a READ or WRITE slips with cause LINE: it waits in LEAD WAIT with one slip more and its
retries and displacements kept, its RECEIVING buffer EMPTY, and the ninth slip ends the request FAULT LINE (R99, R101,
R104). A SEEK or SENSE leaves the engine in its phase with no order, and a SEEK in whose exchange ON CYLINDER fell makes
the positioner UNKNOWN, moving (R132); the next slot event offers it again, the SEEK under the same tenure, HOLDING at
its cylinder, and under no other (R95, R96). A notice silent for the first time, the peer not ABSENT, is pending again
with its silence count 1 and no collision; if it is a re-announcement and the engine asked for another cylinder
meanwhile, the engine positions afresh, and the TENURE carries the cylinder of a sector that needs a seek (R134);
otherwise it is decided unanswered and the peer is ABSENT: an ask is HOLDING at its cylinder with T revolutions while
the drive is UP and ENDING at once while it is not (R133, R136); a re-announcement gives the tenure, HOLDING or ENDING,
its cylinder and keeps the revolutions left, an engine that waits for that cylinder offers its SEEK (R94, R134), and a
tenure ENDING offers its RELEASE (R137); an entry's CLAIM makes it HELD by silence, and the silence of the CLAIM of an
entry removed since counts as any other (log 31). A peer's exchange is forgotten. The quanta in the operand,
DRIVE_SILENCE_LIMIT as a command of its own and a window that closes by a command are the model's choice (log 5, log 4,
log 43). -/
def Obligations.WindowsCloseAsSilences : Prop :=
  (∀ (elapsed : Nat) (s : State),
    (∀ x, s.lu.exchange = some x → elapsed < x.window →
      exec (.driveSilenceLimit elapsed) s = .next { s with out := [] } ∧
      (x.frame.body.isTransfer = false ∨ x.earlyOver = true ∨ elapsed < 5 →
        exec (.answerWindowClose elapsed) s = .next { s with out := [] })) ∧
    (∀ x, s.lu.exchange = some x → x.frame.body.isTransfer = true → x.earlyOver = false → 5 ≤ elapsed →
      x.slotBegun = true ∨ elapsed < 64 →
      exec (.driveSilenceLimit elapsed) s = .next { s with out := [] } ∧
      exec (.answerWindowClose elapsed) s = .next { s with
        out := []
        lu := { s.lu with exchange := some { x with earlyOver := true } } }) ∧
    (∀ p, s.lu.exchange = none → s.lu.peerExchange = some p →
      let transfer := p.order ≠ none ∧ p.order ≠ some .sense
      (p.window ≤ elapsed → ¬ transfer ∨ p.earlyOver = true ∨ p.slotBegun = false →
        exec (.answerWindowClose elapsed) s = .next { s with out := [], lu := { s.lu with peerExchange := none } }) ∧
      (elapsed < p.window → ¬ transfer ∨ p.earlyOver = true ∨ elapsed < 5 →
        exec (.answerWindowClose elapsed) s = .next { s with out := [] }) ∧
      (transfer → p.earlyOver = false → 5 ≤ elapsed → p.slotBegun = true ∨ elapsed < 64 →
        exec (.answerWindowClose elapsed) s = .next { s with
          out := []
          lu := { s.lu with peerExchange := some { p with earlyOver := true } } })) ∧
    (∀ x, s.lu.exchange = some x → x.window ≤ elapsed →
      x.frame.body.isTransfer = false ∨ x.earlyOver = true ∨ x.slotBegun = false →
      x.frame.body.isOrder = true → x.discarded = false → x.lost = false →
      (s.rdm.silence < 2 → exec (.driveSilenceLimit elapsed) s = .next { s with out := [] } ∧
        ∃ t, exec (.answerWindowClose elapsed) s = .next t ∧ t.rdm = { s.rdm with silence := s.rdm.silence + 1 } ∧
          t.lu.exchange = none ∧
          ∀ r, Serving s x r → (s.wq.records.map Request.id).Nodup →
            let unused : SectorBuffer → SectorBuffer := fun b =>
              if b.state = .receiving then ⟨.empty, 0, [], 0, false⟩ else b
            let engine : Engine := { s.te with bufA := unused s.te.bufA, bufB := unused s.te.bufB }
            (x.frame.body.isTransfer = true →
              (r.slips < 8 → t = { s with
                out := []
                wq := s.wq.modify r.id fun u => { u with slips := u.slips + 1 }
                te := { engine with phase := .leadWait, leadOpen := false, lastSlip := .line }
                lu := { s.lu with exchange := none, frames := s.lu.frames.filter fun f => !f.body.isTransfer }
                rdm := { s.rdm with silence := s.rdm.silence + 1 } }) ∧
              (8 ≤ r.slips → CompletionAsked t r .fault (some .line) ∧ Left t r.id)) ∧
            (x.frame.body.isTransfer = false →
              t.te = engine ∧ r ∈ t.wq.records ∧ t.lu = { s.lu with exchange := none } ∧ t.hp = s.hp ∧ t.hm = s.hm ∧
              t.ec = s.ec ∧ t.chains = s.chains ∧
              if x.frame.body.isSeek = true ∧ x.cylinderFell = true then
                t.tm = { s.tm with cylinder := none, moving := true }
              else t.tm = s.tm ∧ t.wq = s.wq)) ∧
      (s.rdm.silence = 2 → s.rdm.drive ≠ .down →
        ∀ c, c = .answerWindowClose elapsed ∨ c = .driveSilenceLimit elapsed → ∃ t, exec c s = .next t ∧
          t.rdm.drive = .down ∧ t.rdm.silence = 0 ∧ t.rdm.counter = none ∧ t.hp.events.getLsbD 9 = true ∧
          t.tm.cylinder = none ∧ t.tm.moving = false ∧ t.lu.exchange = none ∧
          ∀ r, s.activeRequest = some r → r.state = .active → x.request = some r.id →
            CompletionAsked t r .fault (some .driveDown) ∧ Left t r.id)) ∧
    (∀ x, s.lu.exchange = some x → x.window ≤ elapsed → x.frame.body.isAnswered = true → x.discarded = false →
      (x.frame.silences = 0 → s.tm.presence ≠ .absent →
        let again : Frame := { x.frame with silences := 1, collisions := 0 }
        (askedElsewhere s x.frame.body = false → exec (.answerWindowClose elapsed) s = .next { s with
          out := []
          lu := { s.lu with exchange := none, frames := again :: s.lu.frames } }) ∧
        (askedElsewhere s x.frame.body = true → ∀ r, s.activeRequest = some r →
          (∀ f ∈ s.lu.frames, f.body.isTenure = false) →
          (NeedsSeek s r → exec (.answerWindowClose elapsed) s = .next { s with
            out := []
            te := { s.te with sector := r.done, target := s.nextTarget r, leadOpen := false }
            lu := { s.lu with
              exchange := none
              frames := { again with body := .tenure (s.nextTarget r).cylinder } :: s.lu.frames } }) ∧
          (¬ NeedsSeek s r → ∃ t, exec (.answerWindowClose elapsed) s = .next t ∧ again ∈ t.lu.frames ∧
            t.te.phase = if s.tm.moving then .settle else .leadWait))) ∧
      (x.frame.silences ≠ 0 ∨ s.tm.presence = .absent →
        ∃ t, exec (.answerWindowClose elapsed) s = .next t ∧ t.tm.presence = .absent ∧ t.tm.courtesy = false ∧
          t.lu.exchange = none ∧ (s.tm.presence ≠ .absent → t.hp.events.getLsbD 7 = true) ∧
          (∀ c d, x.frame.body = .tenure c → s.tm.own = .asking d →
            t.tm.own = if s.rdm.drive = .up then .holding d s.cfg.tenure else .ending d s.cfg.tenure) ∧
          (∀ c d n, x.frame.body = .tenure c → s.tm.own = .holding d n → t.tm.own = .holding c n ∧
            (s.te.phase = .tenureWait → s.te.target.cylinder = c → s.hp.adapter ≠ .silenced →
              t.te = { s.te with phase := .seek, leadOpen := false } ∧ ∃ f ∈ t.lu.frames, f = ⟨.seek c, 0, 0, false⟩)) ∧
          (∀ c d n, x.frame.body = .tenure c → s.tm.own = .ending d n →
            t.tm.own = .ending c n ∧ t.te = s.te ∧ ReleaseStands t) ∧
          (∀ y id b m mode, x.frame.body = .claim id b m mode → s.hm.find id = some y →
            ∃ z ∈ t.hm.list ++ t.hm.line, z.id = y.id ∧ z.state = .held ∧ z.silent = true ∧ z.claimed = true)))) ∧
  ∀ (s : State) (c : Instr) (p : Nat), SlotTo s c p → s.exchangeInProgress = false → s.hp.adapter ≠ .silenced →
    (s.te.phase = .seek → (∀ f ∈ s.lu.frames, f.body.isSeek = false) → ∃ t, exec c s = .next t ∧
      ((∃ n, s.tm.own = .holding s.te.target.cylinder n) →
        t.te = { s.te with leadOpen := false } ∧ (∃ n, t.tm.own = .holding s.te.target.cylinder n) ∧
          ∃ f ∈ t.lu.frames, f = ⟨.seek s.te.target.cylinder, 0, 0, false⟩) ∧
      ((∀ n, s.tm.own ≠ .holding s.te.target.cylinder n) → ∀ f ∈ t.lu.frames, f.body.isSeek = false)) ∧
    (s.te.phase = .sense → (∀ f ∈ s.lu.frames, f.body ≠ .sense) → ∃ t, exec c s = .next t ∧
      t.te = { s.te with leadOpen := false } ∧ ∃ f ∈ t.lu.frames, f = ⟨.sense, 0, 0, false⟩)

/-- FRAME_CHECK_FAILED has the line held busy for 5 quanta after a frame that fails, and is nothing for a valid one of a
kind its source sends (R114, R115, R188). One of another kind comes here too and answers nothing, which is the model's
reading (log 44): from the drive it ends an order's exchange as a silence; from the peer it is heard, and ends an own
notice's exchange as a silence, the first as at the close of its window (R119, R126, R127, R134). STATION_CLASH for a
frame that passes its check and range tests, is of a kind adapters send (1 to 5 and 16 to 27) and carries this station's
number as its source, while this adapter is not sending, which between two commands it is with its RELEASE alone (the
model's choice, logs 13 and 32), makes the adapter SILENCED: LINE is raised, no frame is pending, no request or tenure
is left, and each queued request, held element and waiting HOLD leaves with FAULT SILENCED, the HOLD's entry removed.
Every chain that was RUNNING or STOPPING has no fetch waiting, no reason and no fetch due; one with nothing in flight
and no fetch under way is ENDED, CHAIN n raised and its explicit entries removed, and any other is STOPPING (R55 to R57,
R89, R112, R128, R144, R161; that a fetch under way defers the end is the model's reading, log 11). For any other frame,
and while SILENCED, it changes nothing. -/
def Obligations.BadFramesAndTheStationClash : Prop :=
  ∀ (frame : List Word) (s : State),
    let source := frameSource frame
    let own := if s.lu.station then 1 else 0
    let stray := frameValid frame = true ∧
      (if source = 2 then adapterKind (frameKind frame) = true else 6 ≤ frameKind frame ∧ frameKind frame ≤ 15)
    let clash := frameValid frame = true ∧
      (1 ≤ frameKind frame ∧ frameKind frame ≤ 5 ∨ 16 ≤ frameKind frame ∧ frameKind frame ≤ 27) ∧
      source = own ∧ ∀ x ∈ s.lu.exchange, x.frame.body ≠ .release
    (¬ stray → exec (.frameCheckFailed frame) s = .next (
      if frameValid frame then { s with out := [] }
      else { s with out := [], lu := { s.lu with failedHeard := true } })) ∧
    (stray → source = own → exec (.frameCheckFailed frame) s = .next { s with out := [] }) ∧
    (stray → source = 2 →
      (∀ x, s.lu.exchange = some x → x.frame.body.isOrder = true → x.discarded = false → x.lost = false →
        s.rdm.silence < 2 → ∃ t, exec (.frameCheckFailed frame) s = .next t ∧
          t.rdm = { s.rdm with silence := s.rdm.silence + 1 } ∧ t.lu.exchange = none) ∧
      (∀ x, s.lu.exchange = some x → x.frame.body.isOrder = false →
        exec (.frameCheckFailed frame) s = .next { s with out := [] }) ∧
      (s.lu.exchange = none → ∀ p o, s.lu.peerExchange = some p → p.order = some o →
        exec (.frameCheckFailed frame) s = .next { s with out := [], lu := { s.lu with peerExchange := none } })) ∧
    (stray → source ≠ 2 → source ≠ own → s.listens = true →
      ((∀ x ∈ s.lu.exchange, x.frame.body.isAnswered = false) →
        exec (.frameCheckFailed frame) s = .next (present { s with out := [] })) ∧
      ∀ x, Noticing s x → x.frame.silences = 0 →
        (askedElsewhere s x.frame.body = false → exec (.frameCheckFailed frame) s = .next { answered s with
          lu := { (answered s).lu with
            frames := { x.frame with silences := 1, collisions := 0 } :: (answered s).lu.frames } }) ∧
        exec (.frameCheckFailed frame) s = exec (.answerWindowClose 5) (present s)) ∧
    (¬ clash ∨ s.hp.adapter = .silenced → exec (.stationClash frame) s = .next { s with out := [] }) ∧
    (clash → s.hp.adapter ≠ .silenced → (s.wq.records.map Request.id).Nodup →
      ∃ t, exec (.stationClash frame) s = .next t ∧ t.hp.adapter = .silenced ∧ t.hp.maintaining = none ∧
        t.hp.events.getLsbD 8 = true ∧ t.lu.frames = [] ∧ (∀ x ∈ t.lu.exchange, x.discarded = true) ∧
        t.tm.own = .none ∧ t.tm.peer = none ∧ t.tm.courtesy = false ∧ t.tm.presence = s.tm.presence ∧ t.rdm = s.rdm ∧
        t.out = [] ∧
        ∀ n, ((s.chain n).state = .running ∨ (s.chain n).state = .stopping →
            WorkShed s t n .fault (some .silenced) ∧
            (if (s.chain n).inFlight = 0 ∧ s.hp.current ≠ some (.fetch n) then
              (t.chain n).state = .ended ∧ t.hp.events.getLsbD n.val = true ∧
                ∀ z ∈ t.hm.list ++ t.hm.line, z.chain = n → z.origin = .implicit
            else (t.chain n).state = .stopping) ∧
            (∀ y ∈ t.hm.list ++ t.hm.line, y.chain = n → y.holdElem = none)) ∧
          (NamesFresh s → ∀ y ∈ s.hm.list ++ s.hm.line, y.holdElem ≠ none →
            ∀ z ∈ t.hm.list ++ t.hm.line, z.id ≠ y.id) ∧
          (∀ y ∈ s.hm.list ++ s.hm.line, ∀ h, y.holdElem = some h →
            ∃ c ∈ asked t, c.info = h.1 ∧ c.status = .fault ∧ c.fault = some .silenced ∧ c.place = some (h.2.1, h.2.2)) ∧
          ((s.chain n).state = .idle ∨ (s.chain n).state = .ended → t.chain n = s.chain n) ∧
          ∀ r, s.activeRequest = some r → CompletionAsked t r .fault (some .silenced) ∧ Left t r.id ∧
            t.te.phase = .idle)

/-! The drive's answers (Section 5). -/

/-- ACCEPTED to the own SEEK (R95, R132): the positioner record is at its cylinder and moving, the engine in SETTLE with
the count at 0. BUSY (R105, R132): the moving flag is set and the sector is displaced; under own tenure the engine is in
SETTLE; riding along or without tenure the request is suspended: READY again or chosen again at its place, its counts
kept, or ABORTED where it may not return (R85, R97); the fourth displacement ends the request POSITIONER LOST. The
drive-silence count returns to 0. To a transfer order BUSY is an early answer (R116, R119); that it is no answer, and
changes nothing, after the close of that window is the model's reading (log 43). -/
def Obligations.SeekIsAcceptedOrBusy : Prop :=
  ∀ (x : Exchange) (r : Request) (s : State), Serving s x r → (s.wq.records.map Request.id).Nodup →
    let closed : State → Prop := fun t => t.lu.exchange = none ∧ t.rdm = { s.rdm with silence := 0 } ∧
      t.hp.adapter = s.hp.adapter ∧ t.chains = s.chains
    (∀ c, x.frame.body = .seek c → ∃ t, exec .accepted s = .next t ∧ closed t ∧ t.tm.cylinder = some c ∧
      t.tm.moving = true ∧ t.te.phase = .settle ∧ t.te.settle = 0 ∧ t.te.request = s.te.request ∧
      ∃ u ∈ t.wq.records, u = r) ∧
    (x.frame.body.isTransfer = true → x.earlyOver = true → exec .busy s = .next { s with out := [] }) ∧
    (x.frame.body.isSeek = true ∨ x.frame.body.isTransfer = true → EarlyOpen x → ∃ t, exec .busy s = .next t ∧ closed t ∧
      t.tm.cylinder = s.tm.cylinder ∧ t.tm.moving = true ∧
      (3 ≤ r.displacements → CompletionAsked t r .fault (some .positionerLost) ∧ Left t r.id) ∧
      (r.displacements < 3 → s.tm.own.isHolding = true → t.te.phase = .settle ∧ t.te.settle = 0 ∧
        ∃ u ∈ t.wq.records, u = { r with displacements := r.displacements + 1 }) ∧
      (r.displacements < 3 → s.tm.own.isHolding = false →
        SuspendedAs s t r { r with displacements := r.displacements + 1 }))


/-- A sector is done (R99, R102, R106, R107): by WRITTEN for a WRITE order, by clean DATA for a READ order. The done
count rises by one and the sector's counts return to 0. The request ends DONE after its last sector, a COMPARE at an
unequal sector (M clear) or after the last equal one (M set), a SCAN at a sector whose first words are its key (M set)
or after the last (M clear). Otherwise the record stands, with its chain RUNNING. A WRITE marks its descriptor
written. R34, R35: an APPEND sector written advances its log's fill mark by one; past offset L of a log with WRAP it
goes to 0 and the wrapped-ever mark is set; the written mark is set and the reservation falls by one. An APPEND that
leaves is the owner no more and returns the rest of its reservation. The record of a DIRECT kind has one sector (R64).
-/
def Obligations.SectorIsDone : Prop :=
  (∀ (x : Exchange) (r : Request) (words : List Word) (s : State), Serving s x r →
    (s.wq.records.map Request.id).Nodup → words.length = 128 → (r.isDirect = true → r.count ≤ r.done + 1) →
    (s.chain r.elem.chain).state = .running →
    let ends : Option Bool :=
      match r.kind with
      | .compare => if s.te.loadedWords r ≠ words then some false else if r.count ≤ r.done + 1 then some true else none
      | .scan => if words.take r.key.length = r.key then some true
        else if r.count ≤ r.done + 1 then some false else none
      | _ => if r.count ≤ r.done + 1 then some false else none
    ∀ c, c = .written ∧ x.frame.body.isWrite = true ∧ r.kind.writes = true ∨
      c = .data words 0 ∧ x.frame.body.isRead = true ∧ r.kind.writes = false →
      ∃ t, exec c s = .next t ∧ t.lu.exchange = none ∧ t.rdm = { s.rdm with silence := 0 } ∧ t.chains = s.chains ∧
        (∀ m, ends = some m → Left t r.id ∧ ∃ u ∈ asked t, u.info = r.elem ∧ u.status = .done ∧ u.fault = none ∧
          u.done = r.done + 1 ∧ u.place = r.extent ∧ u.bits.m = m ∧ u.bits.f = false ∧ u.bits.l = r.late ∧
          u.bits.c = r.changedOut ∧ u.bits.s = r.shortOut) ∧
        (ends = none → ∃ u ∈ t.wq.records, u.id = r.id ∧ u.done = r.done + 1 ∧ u.retries = 0 ∧ u.displacements = 0 ∧
          u.slips = 0 ∧ u.budget = r.budget ∧ u.started = r.started) ∧
        (∀ p, r.kind = .write → r.extent = some p → (s.ec.get p.1 p.2).kind ≠ .empty →
          (t.ec.get p.1 p.2).written = true) ∧
        (NamesFresh s → let marked : HoldManager := if r.kind = .write ∧ r.extent ≠ none then
            { s.hm with
              list := s.hm.list.map fun y => if r.hold = some y.id then { y with written := true } else y
              line := s.hm.line.map fun y => if r.hold = some y.id then { y with written := true } else y }
          else s.hm
        (ends = none → t.hm = marked) ∧
          ∀ m, ends = some m → ∀ y ∈ marked.list ++ marked.line, r.hold = some y.id →
            (∃ z ∈ t.hm.list ++ t.hm.line, z.id = y.id ∧ z.written = y.written) ∨
              (∀ z ∈ t.hm.list ++ t.hm.line, z.id ≠ y.id) ∧
                (y.claimed = true → s.hp.adapter ≠ .silenced →
                  ∃ f ∈ t.lu.frames, f.body = .free y.start y.count y.written)) ∧
        (∀ m, ends = some m → TenureTested s t) ∧
        (∀ n k, (s.te.buf n).state = .receiving → k ≠ n → (s.te.buf k).state ≠ .receiving →
          (r.kind = .read ∨ r.kind = .directRead → t.te.buf n = ⟨.unloading, r.done, words, r.id, false⟩ ∧
            .unload n (r.buffer + BitVec.ofNat 16 (r.done * 128)) ∈ t.hp.waiting) ∧
          (r.kind = .scan → ∀ a, .unload n a ∈ t.hp.waiting → .unload n a ∈ s.hp.waiting)) ∧
        (∀ n k, Outbound r.kind → n ≠ k → s.te.buf n = ⟨.loaded, r.done, (s.te.buf n).words, r.id, false⟩ →
          s.te.buf k = ⟨.loaded, r.done + 1, (s.te.buf k).words, r.id, false⟩ → s.te.sector = r.done → ends = none →
          s.tm.own.isHolding = true → t.te.buf k = s.te.buf k ∧
            if r.done + 2 < r.count then t.te.buf n = ⟨.loading, r.done + 2, [], r.id, false⟩ ∧
              .load n (r.buffer + BitVec.ofNat 16 ((r.done + 2) * 128)) ∈ t.hp.waiting
            else t.te.buf n = ⟨.empty, 0, [], 0, false⟩)) ∧
  ∀ (x : Exchange) (r : Request) (p : Table × Nat) (s : State), Serving s x r →
    (s.wq.records.map Request.id).Nodup → (∀ q ∈ s.wq.records, (s.chain q.elem.chain).state = .running) →
    (∀ p, r.extent = some p → ∀ id ∈ (s.ec.get p.1 p.2).owner, id = r.id) → r.kind = .append →
    r.extent = some p → x.frame.body.isWrite = true →
    let d := s.ec.get p.1 p.2
    d.kind ≠ .empty →
    ∃ t, exec .written s = .next t ∧
      let u := t.ec.get p.1 p.2
      u.written = true ∧ u.base = d.base ∧ u.limit = d.limit ∧ u.changed = d.changed ∧
      (if d.wrap = true ∧ d.limit ≤ d.fill then u.fill = 0 ∧ u.wrappedEver = true
        else u.fill = d.fill + 1 ∧ u.wrappedEver = d.wrappedEver) ∧
      (r.done + 1 < r.count → u.reserved = d.reserved - 1 ∧ u.owner = d.owner) ∧
      (r.count = r.done + 1 → u.reserved = d.reserved - 1 ∧ u.owner = if d.owner = some r.id then none else d.owner)

/-- The failures of an order. NOT_READY to an own SEEK or transfer order, or to the peer's transfer order, loses the
drive (R104, R163): the engine's request ends FAULT DRIVE DOWN. MISSED is a slip of cause LINE: the ninth ends the
request FAULT LINE (R101). WRITE_FAULT to a WRITE ends it at once (R104). DATA with a check is tried again while
retries are left and ends the request FAULT DATA CHECK at the limit (R103). A slip or a retry goes back to LEAD WAIT.
NOT_READY and MISSED to a transfer order are early answers (R116, R119); that they are none, and change nothing, after
that window is the model's reading (log 43). -/
def Obligations.OrdersFail : Prop :=
  (∀ s : State, s.rdm.drive ≠ .down →
    (∀ x, s.lu.exchange = some x → x.frame.body.isTransfer = true → x.earlyOver = true →
      exec .notReady s = .next { s with out := [] }) ∧
    (∀ x r, Serving s x r → (x.frame.body.isSeek = true ∨ x.frame.body.isTransfer = true) → EarlyOpen x →
      ∃ t, exec .notReady s = .next t ∧ t.rdm.drive = .down ∧ t.rdm.counter = none ∧ t.rdm.silence = 0 ∧
        t.hp.events.getLsbD 9 = true ∧ t.tm.cylinder = none ∧ t.tm.moving = false ∧ t.tm.own.isHolding = false ∧
        t.lu.exchange = none ∧ t.te.phase = .idle ∧ CompletionAsked t r .fault (some .driveDown) ∧ Left t r.id) ∧
    ∀ p o, s.lu.exchange = none → s.lu.peerExchange = some p → p.order = some o → o ≠ .sense →
      (p.earlyOver = false → ∃ t, exec .notReady s = .next t ∧ LostDrive s t ∧ t.lu.peerExchange = none) ∧
      (p.earlyOver = true → exec .notReady s = .next { s with out := [] })) ∧
  ∀ (x : Exchange) (r : Request) (words : List Word) (s : State), Serving s x r →
    (s.wq.records.map Request.id).Nodup → words.length = 128 →
    let closed : State → Prop := fun t => t.lu.exchange = none ∧ t.rdm = { s.rdm with silence := 0 } ∧ t.chains = s.chains
    let ended : State → ElementFault → Prop := fun t f => CompletionAsked t r .fault (some f) ∧ Left t r.id
    (x.frame.body.isTransfer = true → x.earlyOver = true → exec .missed s = .next { s with out := [] }) ∧
    (x.frame.body.isTransfer = true → x.earlyOver = false → ∃ t, exec .missed s = .next t ∧ closed t ∧
      (8 ≤ r.slips → ended t .line) ∧
      (r.slips < 8 → t.te.phase = .leadWait ∧ t.te.leadOpen = false ∧ t.te.lastSlip = .line ∧
        ∃ u ∈ t.wq.records, u = { r with slips := r.slips + 1 })) ∧
    (∀ d, x.frame.body = .write d → ∃ t, exec .writeFault s = .next t ∧ closed t ∧ ended t .writeFault) ∧
    (∀ d, x.frame.body = .read d → ∃ t, exec (.data words 1) s = .next t ∧ closed t ∧
      (s.cfg.retryLimit ≤ r.retries → ended t .dataCheck) ∧
      (r.retries < s.cfg.retryLimit → t.te.phase = .leadWait ∧ t.te.leadOpen = false ∧
        ∃ u ∈ t.wq.records, u = { r with retries := r.retries + 1 }))

/-- The exchange of a request that does not go on (R111, R112, R166): it was turned ENDING, or the drive was lost
meanwhile. Every end of the exchange ends the request, ABORTED or FAULT DRIVE DOWN, in place of the answer's own effect
on it: ACCEPTED, BUSY, WRITE_FAULT, MISSED, WRONG_CYLINDER, DATA with a check, SENSE_REPLY, NOT_READY, silence. A sector
that WRITTEN or clean DATA makes done counts first: in the done count, the written mark and the fill mark. NOT_READY
still loses the drive. The silence after a loss is not counted. A SEEK that saw the loss leaves the positioner UNKNOWN
and still. A request whose suspension was taken during its exchange is suspended at the end of it, the answer's effect
on its sector applied first (R97): a sector done, a displacement, a slip or a retry counts, and the request is READY
again or chosen again at its place with its counts, or ABORTED where it may not return (R85). -/
def Obligations.ExchangesOfEndingRequestsEnd : Prop :=
  (∀ (x : Exchange) (r : Request) (words : List Word) (c : Word) (elapsed : Nat) (s : State), Finishing s x r →
    (s.wq.records.map Request.id).Nodup → words.length = 128 → c.toNat ≤ 399 →
    let st : Status := if r.state = .ending then .aborted else .fault
    let f : Option ElementFault := if r.state = .ending then none else some .driveDown
    let b := x.frame.body
    let heard : State → Prop := fun t => t.lu.exchange = none ∧ t.rdm = { s.rdm with silence := 0 } ∧ t.chains = s.chains
    let ended : State → Prop := fun t => CompletionAsked t r st f ∧ Left t r.id
    let record : State → Option Nat → Bool → Prop := fun t y m => t.tm.cylinder = y ∧ t.tm.moving = m
    let lostSeek := b.isSeek = true ∧ x.lost = true
    (b.isSeek = true → ∃ t, exec .accepted s = .next t ∧ heard t ∧ ended t ∧
      (∀ y, b = .seek y → if x.lost then record t none false else record t (some y) true)) ∧
    (b.isSeek = true ∨ b.isTransfer = true → EarlyOpen x → ∃ t, exec .busy s = .next t ∧ heard t ∧ ended t ∧
      if lostSeek then record t none false else record t s.tm.cylinder true) ∧
    (b.isTransfer = true → x.earlyOver = false → (∃ t, exec .missed s = .next t ∧ heard t ∧ ended t) ∧
      ∃ t, exec (.wrongCylinder c) s = .next t ∧ heard t ∧ ended t ∧ record t (some c.toNat) false) ∧
    (b.isWrite = true → ∃ t, exec .writeFault s = .next t ∧ heard t ∧ ended t) ∧
    (b.isRead = true → ∃ t, exec (.data words 1) s = .next t ∧ heard t ∧ ended t) ∧
    (b = .sense → ∃ t, exec (.senseReply 3 c) s = .next t ∧ heard t ∧ ended t ∧ record t (some c.toNat) false) ∧
    (b.isSeek = true ∨ b.isTransfer = true → EarlyOpen x → ∃ t, exec .notReady s = .next t ∧ t.lu.exchange = none ∧
      t.rdm.drive = .down ∧ ended t) ∧
    (∀ y, y = .written ∧ b.isWrite = true ∧ r.kind.writes = true ∨
        y = .data words 0 ∧ b.isRead = true ∧ r.kind.writes = false →
      ∃ t, exec y s = .next t ∧ heard t ∧ Left t r.id ∧
        (∃ u ∈ asked t, u.info = r.elem ∧ u.status = st ∧ u.fault = f ∧ u.done = r.done + 1 ∧ u.place = r.extent) ∧
        ∀ p, r.extent = some p → r.kind = .write ∨ r.kind = .append →
          let d := s.ec.get p.1 p.2
          let e := t.ec.get p.1 p.2
          d.kind ≠ .empty → e.written = true ∧ (r.kind = .append → e.fill =
            if d.wrap = true ∧ d.limit ≤ d.fill then 0 else d.fill + 1)) ∧
    (x.window ≤ elapsed → b.isTransfer = false ∨ x.earlyOver = true ∨ x.slotBegun = false →
      ∃ t, exec (.answerWindowClose elapsed) s = .next t ∧ t.lu.exchange = none ∧ ended t ∧
        (x.lost = true → t.rdm = s.rdm ∧ (b.isSeek = true → record t none false)) ∧
        (x.lost = false → s.rdm.silence < 2 → t.rdm = { s.rdm with silence := s.rdm.silence + 1 }) ∧
        (x.lost = false → 2 ≤ s.rdm.silence → t.rdm.drive = .down))) ∧
  ∀ (x : Exchange) (r : Request) (words : List Word) (c : Word) (elapsed : Nat) (s : State), Suspending s x r →
    (s.wq.records.map Request.id).Nodup → words.length = 128 → c.toNat ≤ 399 →
    let b := x.frame.body
    let heard : State → Prop := fun t => t.lu.exchange = none ∧ t.rdm = { s.rdm with silence := 0 } ∧ t.chains = s.chains
    let displaced := { r with displacements := r.displacements + 1 }
    let slipped := { r with slips := r.slips + 1 }
    (b.isSeek = true → ∃ t, exec .accepted s = .next t ∧ heard t ∧ SuspendedAs s t r r) ∧
    (b.isSeek = true ∨ b.isTransfer = true → EarlyOpen x → r.displacements < 3 →
      ∃ t, exec .busy s = .next t ∧ heard t ∧ SuspendedAs s t r displaced) ∧
    (b.isTransfer = true → x.earlyOver = false →
      (r.slips < 8 → ∃ t, exec .missed s = .next t ∧ heard t ∧ SuspendedAs s t r slipped) ∧
      (r.displacements < 3 → ∃ t, exec (.wrongCylinder c) s = .next t ∧ heard t ∧ SuspendedAs s t r displaced)) ∧
    (b.isRead = true → r.retries < s.cfg.retryLimit → ∃ t, exec (.data words 1) s = .next t ∧ heard t ∧
      SuspendedAs s t r { r with retries := r.retries + 1 }) ∧
    (b = .sense → ∃ t, exec (.senseReply 3 c) s = .next t ∧ heard t ∧ SuspendedAs s t r r) ∧
    (∀ y, y = .written ∧ b.isWrite = true ∧ r.kind.writes = true ∨
        y = .data words 0 ∧ b.isRead = true ∧ (r.kind = .read ∨ r.kind = .directRead) →
      r.done + 1 < r.count → ∃ t, exec y s = .next t ∧ heard t ∧
        SuspendedAs s t r { r with done := r.done + 1, retries := 0, displacements := 0, slips := 0 }) ∧
    (x.window ≤ elapsed → b.isTransfer = false ∨ x.earlyOver = true ∨ x.slotBegun = false → s.rdm.silence < 2 →
      ∃ t, exec (.answerWindowClose elapsed) s = .next t ∧ t.lu.exchange = none ∧
        t.rdm = { s.rdm with silence := s.rdm.silence + 1 } ∧ (b.isTransfer = false → SuspendedAs s t r r) ∧
        (b.isTransfer = true → r.slips < 8 → SuspendedAs s t r slipped))

/-- WRONG_CYLINDER and SENSE_REPLY (R96, R105, R132). The cylinder carried enters the positioner record, whoever
ordered; to the own transfer order WRONG CYLINDER is a displacement: the fourth ends the request POSITIONER LOST; before
it, under own tenure, the engine positions the sector again, asking tenure where the record shows another cylinder than
the target (R93); riding along or without tenure the request is suspended: READY again or chosen again at its place, its
counts kept, or ABORTED where it may not return (R85, R97). A SENSE REPLY saying ready sets the moving flag unless it
says on cylinder; one saying not ready, to either station, loses the drive and leaves the record to that (R163); in DOWN
it changes nothing but the silence count. WRONG CYLINDER is an early answer (R116, R119); that it is none, and changes
nothing, after that window is the model's reading (log 43). To an own SENSE, or to a SEEK, it is no answer that fits and
ends the exchange as a silence, which is the model's reading too (R119; log 15). -/
def Obligations.DriveTellsItsCylinder : Prop :=
  ∀ (flags cylinder : Word) (s : State), cylinder.toNat ≤ 399 → flags.toNat ≤ 3 →
    (∀ x, s.lu.exchange = some x → x.frame.body.isTransfer = true → x.earlyOver = true →
      exec (.wrongCylinder cylinder) s = .next { s with out := [] }) ∧
    (∀ x r, Serving s x r → x.frame.body.isTransfer = true → x.earlyOver = false → (s.wq.records.map Request.id).Nodup →
      ∃ t, exec (.wrongCylinder cylinder) s = .next t ∧ t.tm.cylinder = some cylinder.toNat ∧ t.tm.moving = false ∧
        t.lu.exchange = none ∧ t.rdm = { s.rdm with silence := 0 } ∧
        (3 ≤ r.displacements → CompletionAsked t r .fault (some .positionerLost) ∧ Left t r.id) ∧
        (r.displacements < 3 → s.tm.own.isHolding = true →
          { r with displacements := r.displacements + 1 } ∈ t.wq.records ∧ t.te.request = s.te.request ∧
            t.te.phase = if (s.nextTarget r).cylinder = cylinder.toNat then .leadWait else .tenureWait) ∧
        (r.displacements < 3 → s.tm.own.isHolding = false →
          SuspendedAs s t r { r with displacements := r.displacements + 1 })) ∧
    (∀ x r, Serving s x r → x.frame.body = .sense ∨ x.frame.body.isSeek = true ∧ x.cylinderFell = false →
      s.rdm.silence < 2 → ∃ t, exec (.wrongCylinder cylinder) s = .next t ∧
        t.lu = { s.lu with exchange := none } ∧ t.rdm = { s.rdm with silence := s.rdm.silence + 1 } ∧ t.tm = s.tm ∧
        t.wq = s.wq ∧ t.te.phase = s.te.phase ∧ t.te.request = s.te.request) ∧
    (∀ x r, Serving s x r → x.frame.body = .sense →
      ∃ t, exec (.senseReply flags cylinder) s = .next t ∧ t.lu.exchange = none ∧ t.rdm.silence = 0 ∧
        (flags.getLsbD 1 = true → t.tm.cylinder = some cylinder.toNat ∧ t.tm.moving = !flags.getLsbD 0 ∧
          t.rdm = { s.rdm with silence := 0 }) ∧
        (flags.getLsbD 1 = false → t.rdm.drive = .down ∧
          (s.rdm.drive ≠ .down → t.tm.cylinder = none ∧ t.hp.events.getLsbD 9 = true ∧
            CompletionAsked t r .fault (some .driveDown) ∧ Left t r.id))) ∧
    ∀ p o, s.lu.exchange = none → s.lu.peerExchange = some p → p.order = some o →
      (o ≠ .sense → p.earlyOver = true → exec (.wrongCylinder cylinder) s = .next { s with out := [] }) ∧
      (o ≠ .sense → p.earlyOver = false → ∃ t, exec (.wrongCylinder cylinder) s = .next t ∧
        t.tm = { s.tm with cylinder := some cylinder.toNat, moving := false } ∧ t.te = s.te ∧
        t.lu = { s.lu with peerExchange := none } ∧ t.rdm = { s.rdm with silence := 0 }) ∧
      (o = .sense → flags.getLsbD 1 = true → ∃ t, exec (.senseReply flags cylinder) s = .next t ∧
        t.tm = { s.tm with cylinder := some cylinder.toNat, moving := !flags.getLsbD 0 } ∧ t.te = s.te ∧
        t.lu = { s.lu with peerExchange := none } ∧ t.rdm = { s.rdm with silence := 0 }) ∧
      (o = .sense → flags.getLsbD 1 = false →
        (s.rdm.drive ≠ .down → ∃ t, exec (.senseReply flags cylinder) s = .next t ∧ LostDrive s t ∧
          t.lu.peerExchange = none) ∧
        (s.rdm.drive = .down → exec (.senseReply flags cylinder) s = .next { s with
          out := []
          lu := { s.lu with peerExchange := none }
          rdm := { s.rdm with silence := 0 } }))

/-! The peer's frames (Sections 6 to 8). -/

/-- PEER_SEEK and PEER_ORDER_HEARD (R121, R122, R127, R132). The peer is heard. The end of its SEEK exchange enters the
positioner record: ACCEPTED its cylinder, moving, and the seek is counted up to 255; BUSY the moving flag; none of it
when unanswered, unless ON CYLINDER fell meanwhile, which leaves UNKNOWN and moving; whatever the answer, UNKNOWN and
still where the drive was lost in the exchange (R166). Where it is ACCEPTED and the own tenure is not HOLDING, the
engine's request is suspended (R97), with no exchange of it in progress at once: READY again or chosen again at its
place, its counts kept, or ABORTED where it may not return (R85); else at the end of that exchange. An engine that is
IDLE stays so (R82). Another order's exchange is remembered for its answer. A SEEK with a cylinder out of range is a
failed frame. That one command is the whole SEEK exchange is the model's choice (log 19). -/
def Obligations.PeerOrdersAreFollowed : Prop :=
  ∀ (cylinder : Word) (o : PeerOrder) (s : State), Hears s →
    (399 < cylinder.toNat → ∀ a l, exec (.peerSeek cylinder a l) s =
      .next { s with out := [], lu := { s.lu with failedHeard := true } }) ∧
    (cylinder.toNat ≤ 399 →
      (∃ t, exec (.peerSeek cylinder .accepted false) s = .next t ∧ t.tm.presence = .present ∧ t.tm.courtesy = false ∧
        t.tm.cylinder = some cylinder.toNat ∧ t.tm.moving = true ∧ t.tm.peerSeeks = min 255 (s.tm.peerSeeks + 1) ∧
        t.rdm = { s.rdm with silence := 0 } ∧ t.lu.exchange = s.lu.exchange ∧ t.lu.backoff = 0 ∧
        (s.tm.own.isHolding = true ∨ s.te.phase = .idle ∧ s.te.request = none → t.te = s.te) ∧
        ∀ r, s.activeRequest = some r → s.tm.own.isHolding = false → (s.wq.records.map Request.id).Nodup →
          SuspensionTaken s t r) ∧
      (∃ t, exec (.peerSeek cylinder .busy false) s = .next t ∧ t.tm.cylinder = s.tm.cylinder ∧ t.tm.moving = true ∧
        t.tm.peerSeeks = s.tm.peerSeeks ∧ t.rdm = { s.rdm with silence := 0 } ∧ t.te = s.te) ∧
      (∀ a, ∃ t, exec (.peerSeek cylinder a true) s = .next t ∧ t.tm.presence = .present ∧ t.tm.cylinder = none ∧
        t.tm.moving = false ∧ t.lu.peerSeekFell = false ∧
        t.tm.peerSeeks = (if a = .accepted then min 255 (s.tm.peerSeeks + 1) else s.tm.peerSeeks)) ∧
      (∃ t, exec (.peerSeek cylinder .notReady false) s = .next t ∧ t.rdm.drive = .down ∧
        (s.rdm.drive ≠ .down → LostDrive s t)) ∧
      ∃ t, exec (.peerSeek cylinder .silent false) s = .next t ∧ t.te = s.te ∧ t.rdm = s.rdm ∧ t.tm = { (peerBegan s).tm with
        cylinder := if s.lu.peerSeekFell then none else s.tm.cylinder
        moving := s.tm.moving || s.lu.peerSeekFell }) ∧
    exec (.peerOrderHeard o) s = .next { peerBegan s with lu := { (peerBegan s).lu with
      peerExchange := if s.lu.exchange = none then some ⟨some o, false, false⟩ else s.lu.peerExchange } }

/-- PEER_TENURE_HEARD (R97, R139). Own tenure HOLDING or ENDING answers CLASH with its revolutions left, and neither
record changes. NONE and ASKING answer ACK; the peer's record takes the cylinder and the revolutions, with the preempt
mark cleared where it was NONE; a TENURE asked is withdrawn and the own tenure is NONE. What the engine works on (R94,
R97): with the own tenure NONE, a request whose target lies on the cylinder heard goes on, and one on another cylinder
is suspended, with no exchange of it in progress at once: READY again or chosen again at its place, its counts kept, or
ABORTED where it may not return (R85); else at the end of that exchange. An engine that waits for tenure has its ask
refused: its request is given back, BLOCKED if not started (R86), READY again or chosen again if started (R85), or
ABORTED where it may not return (R65, R87). An engine that is IDLE stays so (R82). -/
def Obligations.PeerTenureIsAnswered : Prop :=
  ∀ (c n : Word) (s : State), Hears s → c.toNat ≤ 399 → 1 ≤ n.toNat → n.toNat ≤ 15 →
    (∀ a r, s.tm.own = .holding a r ∨ s.tm.own = .ending a r → exec (.peerTenureHeard c n) s =
      .next { peerBegan s with out := [.frame (frameWords s.lu.station 18 [BitVec.ofNat 16 r])] }) ∧
    (s.tm.own = .none ∨ (∃ a, s.tm.own = .asking a) →
      ∃ t, exec (.peerTenureHeard c n) s = .next t ∧ t.out = [.frame (frameWords s.lu.station 17 [])] ∧
        t.tm.own = .none ∧ t.tm.peer = some ⟨some c.toNat, n.toNat⟩ ∧ t.tm.presence = .present ∧
        t.tm.preemptMark = (s.tm.preemptMark && s.tm.peer.isSome) ∧ t.tm.courtesy = false ∧
        t.tm.cylinder = s.tm.cylinder ∧ (∀ f ∈ t.lu.frames, f.body.isTenure = true → s.tm.own = .none) ∧
        t.rdm = s.rdm ∧ t.chains = s.chains ∧ t.hp.adapter = s.hp.adapter ∧
        (s.te.phase = .idle ∧ s.te.request = none → t.te = s.te) ∧
        ∀ r, s.activeRequest = some r → (s.wq.records.map Request.id).Nodup →
          (s.tm.own = .none → r.state = .active → s.te.target.cylinder = c.toNat → t.te = s.te ∧ r ∈ t.wq.records) ∧
          (s.tm.own = .none → s.te.target.cylinder ≠ c.toNat → SuspensionTaken s t r) ∧
          (s.tm.own ≠ .none → s.te.phase = .tenureWait → r.state = .active →
            if s.mayNotReturn r then CompletionAsked t r .aborted none ∧ Left t r.id
            else if r.started then Returned s t r
            else { r with state := .blocked } ∈ t.wq.records ∧ t.te.request ≠ some r.id))

/-- PEER_PREEMPT_HEARD (R142). Own tenure HOLDING keeps where the least slack at its cylinder is no greater than the one
heard, and nothing else changes; otherwise, and where no request compared has a budget, it yields and is ENDING, and the
engine's request is suspended, at once or at the end of its exchange in progress (R97, R136), and the RELEASE offered
(R137). The slacks compared (R80) are those of the ACTIVE request and of the requests in HOLD-WAIT, READY or BLOCKED
whose next sector lies on that cylinder, formed by R18 at the notice's last word (R118): the budget as counted by then,
less the span of the sectors still to transfer, and less the cost as last formed (R15) while the request is not started.
ENDING yields. NONE yields and offers a RELEASE, one at most standing. ASKING yields, its TENURE is withdrawn, its ask
refused, and a RELEASE is offered: the engine's request is given back (R85, R86, R94), BLOCKED if not started, READY
again or chosen again if started, or ABORTED where it may not return (R65, R87). A TENURE pending afterwards is a new
ask of the selection that follows (R82). -/
def Obligations.PeerPreemptIsAnswered : Prop :=
  ∀ (k : Word) (s : State), Hears s → -1264 ≤ k.toInt → k.toInt ≤ -1 → s.hp.adapter ≠ .silenced →
    let out : Nat → List Output := fun code => [.frame (frameWords s.lu.station code [])]
    let compared : Nat → Request → Prop := fun c r => r.state = .active ∨
      (r.state = .holdWait ∨ r.state = .ready ∨ r.state = .blocked) ∧ (s.nextTarget r).cylinder = c
    let kept : Nat → Prop := fun c => ∃ r ∈ s.wq.records, compared c r ∧ ∃ b, r.budget = some b ∧
      (b : Int) - (span s.cfg.interleave (r.count - r.done) + (if r.started then 0 else r.cost) : Nat) ≤ k.toInt
    (∀ c r, s.tm.own = .holding c r → kept c →
      exec (.peerPreemptHeard k) s = .next { peerBegan s with out := out 21 }) ∧
    (∀ c r, s.tm.own = .holding c r → ¬ kept c → ∃ t, exec (.peerPreemptHeard k) s = .next t ∧ t.out = out 20 ∧
      t.tm = { (peerBegan s).tm with own := .ending c r } ∧ (∀ f ∈ t.lu.frames, f.body.isTenure = false) ∧
      t.rdm = s.rdm ∧ ReleaseStands t ∧ ∀ r, s.activeRequest = some r → SuspensionTaken s t r) ∧
    (∀ c r, s.tm.own = .ending c r → exec (.peerPreemptHeard k) s = .next { peerBegan s with out := out 20 }) ∧
    (s.tm.own = .none → s.lu.frames.all (fun f => !f.body.isRelease) = true →
      s.lu.inExchange FrameBody.isRelease = false → exec (.peerPreemptHeard k) s = .next { peerBegan s with
        out := out 20
        lu := { (peerBegan s).lu with frames := s.lu.frames ++ [⟨.release, 0, 0, false⟩] } }) ∧
    (∀ c, s.tm.own = .asking c → s.lu.inExchange FrameBody.isRelease = false →
      let u := peerBegan s
      let kept := u.lu.frames.filter fun f => !f.body.isTenure
      (s.te.phase ≠ .tenureWait → exec (.peerPreemptHeard k) s = .next { u with
        out := out 20
        tm := { u.tm with own := .none }
        lu := { u.lu with frames :=
          kept ++ if kept.any fun f => f.body.isRelease then [] else [⟨.release, 0, 0, false⟩] } }) ∧
      (s.te.phase = .tenureWait → ∃ t, exec (.peerPreemptHeard k) s = .next t ∧ t.out = out 20 ∧
        (∃ f ∈ t.lu.frames, f.body = .release) ∧ t.rdm = s.rdm ∧ t.tm.presence = .present ∧
        (match t.tm.own with
          | .none => ∀ f ∈ t.lu.frames, f.body.isTenure = false
          | .asking d => t.te.phase = .tenureWait ∧
              ∀ f ∈ t.lu.frames, f.body.isTenure = true → f = ⟨.tenure d, 0, 0, false⟩
          | _ => False) ∧
        ∀ r, s.activeRequest = some r → r.state = .active → (s.wq.records.map Request.id).Nodup →
          (s.mayNotReturn r = true → CompletionAsked t r .aborted none ∧ Left t r.id) ∧
          (s.mayNotReturn r = false →
            (r.started = false → { r with state := .blocked } ∈ t.wq.records) ∧ (r.started = true → Returned s t r) ∧
            (r.started = false → (∀ q ∈ s.wq.records, q.state ≠ .ready) →
              t.te.phase = .idle ∧ t.te.request = none ∧ t.tm.own = .none ∧
                t.wq.records = s.wq.records.map fun q => if q.id = r.id then { q with state := .blocked } else q))))

/-- PEER_CLAIM_HEARD and PEER_FREE_HEARD (R38, R114, R154, R159). A CLAIM is answered REFUSE where a HELD entry on the
list overlaps its range with an EXCLUSIVE side, else GRANT, and no entry changes. A FREE makes every REFUSED entry that
overlaps CLAIMING again with its CLAIM offered, in list order; with the written flag it sets the changed mark of every
Common descriptor that overlaps and raises CHANGED, in the same act. PEER_RELEASE_HEARD and PEER_HELLO_HEARD (R127,
R140): the peer's record is NONE, the preempt mark clear, a PREEMPT not started withdrawn, every BLOCKED request READY.
A HELLO has an own tenure HOLDING announced again, unless a TENURE stands; the own tenure record does not change. With
no peer record a RELEASE only shows the peer PRESENT. -/
def Obligations.PeerNoticesOfRangesAndRelease : Prop :=
  (∀ (b w : Word) (s : State), Hears s → s.hp.adapter ≠ .silenced → NamesFresh s →
    let n := w.toNat % 128
    let top := w.getLsbD 15
    let y : HoldEntry → Bool := fun y => y.state = .refused && overlap y.start y.count b.toNat n
    let again : List Frame := (s.hm.list.filter y).map fun z => ⟨.claim z.id z.start z.count z.mode, 0, 0, false⟩
    w.toNat / 128 % 256 = 0 → 1 ≤ n → n ≤ 64 → b.toNat + n ≤ 32000 →
    exec (.peerClaimHeard b w) s = .next { peerBegan s with
      out := [.frame (frameWords s.lu.station
        (if s.hm.list.any (fun y => y.state = .held && overlap y.start y.count b.toNat n &&
          (y.mode = .exclusive || top)) then 24 else 23) [])] } ∧
    ∃ t, exec (.peerFreeHeard b w) s = .next t ∧ t.tm = (peerBegan s).tm ∧ t.te = s.te ∧ t.wq = s.wq ∧ t.rdm = s.rdm ∧
      t.chains = s.chains ∧ t.out = [] ∧
      t.hm.list = s.hm.list.map (fun z => if y z then { z with state := .claiming, refusalRevs := 0 } else z) ∧
      t.lu = { (peerBegan s).lu with frames := (peerBegan s).lu.frames ++ again } ∧
      t.hp = (if top then { (peerBegan s).hp with events := (peerBegan s).hp.events ||| BitVec.twoPow 12 5 }
        else (peerBegan s).hp) ∧
      t.ec = (if top then { s.ec with comm := s.ec.comm.map fun d =>
          if d.kind ≠ .empty ∧ overlap d.base (d.limit + 1) b.toNat n = true then { d with changed := true } else d }
        else s.ec)) ∧
  ∀ s : State, Hears s →
    let t := peerBegan s
    let u : State :=
      match s.tm.peer with
      | none => t
      | some _ => { t with
        tm := { t.tm with peer := none, preemptMark := false }
        lu := { t.lu with frames := t.lu.frames.filter fun f => !f.body.isPreempt }
        wq := { s.wq with records := s.wq.records.map fun r =>
          if r.state = .blocked then { r with state := .ready } else r } }
    exec .peerReleaseHeard s = .next u ∧
    exec .peerHelloHeard s = .next (
      match s.tm.own with
      | .holding c _ => if s.lu.tenureStands then u
        else { u with lu := { u.lu with frames := u.lu.frames ++ [⟨.tenure c, 0, 0, false⟩] } }
      | _ => u)

/-- ACK and CLASH (R133, R134). ACK to an ask makes the tenure HOLDING at the ask cylinder with T revolutions, the drive
being UP; with the drive DOWN or in RESYNC it goes ENDING at once (R136), the engine's request is suspended, READY or
ABORTED where it may not return (R85, R97), and the IDLE engine has the RELEASE offered (R137). ACK to a re-announcement
gives the tenure the new cylinder and keeps the count, HOLDING or ENDING. CLASH makes the own tenure NONE and the peer's
record HOLDING at UNKNOWN with the revolutions carried, and the ask of an engine that waits for tenure is refused (R94):
its request is given back, BLOCKED if not started and READY if started, or ABORTED where it may not return (R65, R85 to
R87). With no request left that may ride along the engine is IDLE, and the review has made the READY ones that need a
seek BLOCKED (R79). -/
def Obligations.TenureNoticesAreSettled : Prop :=
  ∀ (x : Exchange) (c : Nat) (n : Word) (s : State), Noticing s x → x.frame.body = .tenure c → n.toNat ≤ 15 →
    (∀ d, s.tm.own = .asking d → s.rdm.drive = .up → ∃ t, exec .ack s = .next t ∧ t.tm.own = .holding d s.cfg.tenure ∧
      t.tm.peer = s.tm.peer ∧ t.tm.presence = .present ∧ t.lu.exchange = none ∧ t.rdm = s.rdm ∧
      (s.te.phase = .tenureWait → s.te.target.cylinder = d → c = d →
        t.te.phase = .seek ∧ ∃ f ∈ t.lu.frames, f.body = .seek d)) ∧
    (∀ d, s.tm.own = .asking d → s.rdm.drive ≠ .up → ∃ t, exec .ack s = .next t ∧
      t.tm = { (answered s).tm with own := .ending d s.cfg.tenure } ∧ ReleaseStands t ∧ t.lu.exchange = none ∧
      (∀ f ∈ t.lu.frames, f.body.isTenure = false) ∧ t.rdm = s.rdm ∧ t.chains = s.chains ∧
      ∀ r, s.activeRequest = some r → r.state = .active → t.te.phase = .idle ∧ t.te.request = none ∧
        if s.mayNotReturn r then CompletionAsked t r .aborted none ∧ Left t r.id
        else { r with state := .ready } ∈ t.wq.records) ∧
    (∀ d r, s.tm.own = .holding d r → ∃ t, exec .ack s = .next t ∧ t.tm.own = .holding c r ∧ t.tm.peer = s.tm.peer ∧
      t.lu.exchange = none ∧ t.rdm = s.rdm) ∧
    (∀ d r, s.tm.own = .ending d r → ∃ t, exec .ack s = .next t ∧ t.tm.own = .ending c r ∧ t.tm.peer = s.tm.peer ∧
      t.lu.exchange = none ∧ t.rdm = s.rdm ∧ t.te = s.te) ∧
    ∃ t, exec (.clash n) s = .next t ∧ t.tm.own = .none ∧ t.tm.peer = some ⟨none, n.toNat⟩ ∧ t.tm.presence = .present ∧
      t.lu.exchange = none ∧ t.tm.preemptMark = (s.tm.preemptMark && s.tm.peer.isSome) ∧ t.rdm = s.rdm ∧
      (∀ f ∈ t.lu.frames, f.body.isTenure = false) ∧
      ∀ r, s.te.phase = .tenureWait → s.activeRequest = some r → r.state = .active →
        (s.wq.records.map Request.id).Nodup →
        (s.mayNotReturn r = true → CompletionAsked t r .aborted none ∧ Left t r.id) ∧
        (s.mayNotReturn r = false →
          (r.started = false → { r with state := .blocked } ∈ t.wq.records) ∧
          (r.started = true → Returned s t r) ∧
          ((∀ q ∈ s.wq.records, q.state = .ready ∨ q.state = .blocked → NeedsSeek s q) →
            (r.started = true → NeedsSeek s r) →
            t.te.phase = .idle ∧ t.te.request = none ∧ t.wq.records = s.wq.records.map fun q =>
              if q.id = r.id then { q with state := if q.started then .ready else .blocked }
              else if q.state = .ready then { q with state := .blocked } else q))

/-- GRANT and REFUSE (R70, R152, R160). GRANT makes the entry HELD with its peer-silent flag clear, its HOLD-WAIT
requests READY and its HOLD complete DONE, with the count of its range. REFUSE makes an entry whose budget is not spent
REFUSED with the count at 0; an EXPLICIT one with budget 0 is removed at once and its HOLD completes EXPIRED (R152,
R160). That an IMPLICIT one with budget 0 stands REFUSED, where R152 removes any entry that becomes REFUSED with its
budget at 0, is the model's choice (log 33: DEDUCED from R160, unsafe). -/
def Obligations.ClaimsAreGrantedOrRefused : Prop :=
  ∀ (x : Exchange) (id b n : Nat) (m : Mode) (y : HoldEntry) (s : State), Noticing s x → NamesFresh s →
    x.frame.body = .claim id b n m → y ∈ s.hm.list → y.id = id → s.hp.adapter ≠ .silenced →
    (∃ t, exec .grant s = .next t ∧
      t.hm = s.hm.modify id (fun z => { z with state := .held, silent := false, holdElem := none }) ∧
      t.wq.records = s.wq.records.map (fun r =>
        if r.state = .holdWait ∧ r.hold = some id then { r with state := .ready } else r) ∧
      (∀ h, y.holdElem = some h → ∃ c ∈ asked t, c.info = h.1 ∧ c.status = .done ∧ c.fault = none ∧ c.done = y.count ∧
        c.bits.p = false ∧
        c.place = some (h.2.1, h.2.2) ∧ c.endsHoldWait = true) ∧
      t.lu = (answered s).lu ∧ t.tm = (answered s).tm ∧ t.te = s.te ∧ t.rdm = s.rdm ∧ t.ec = s.ec ∧
      t.chains = s.chains) ∧
    let standsRefused := exec .refuse s = .next { answered s with
      hm := s.hm.modify id fun z => { z with state := .refused, refusalRevs := 0 } }
    (y.budget ≠ some 0 → standsRefused) ∧
    (y.origin = .implicit → y.budget = some 0 → standsRefused) ∧
    (y.origin = .explicit → y.budget = some 0 → ∃ t, exec .refuse s = .next t ∧
      (∀ z ∈ t.hm.list ++ t.hm.line, z.id ≠ id) ∧
      (∀ h, y.holdElem = some h → ∃ c ∈ asked t, c.info = h.1 ∧ c.status = .expired ∧ c.done = 0 ∧ c.bits.l = true) ∧
      (y.claimed = true → ∃ f ∈ t.lu.frames, f.body = .free y.start y.count y.written))

/-! Numbers of Section 1, frames and records of Section 11. -/

/-- R1 and R2 (with the interleave a setup may name): cylinder, head and logical sector of a block; the physical slot
of a logical sector; over one track the slots of the twenty sectors are the twenty slots. R17: no budget for a field
of 0; else the greatest number of slots of 1.25 ms in the milliseconds, but at least 1. R16: the span of m sectors
still to transfer is (m − 1) × I + 1, at most 1,198, and that of a DIRECT request 1. R18: the slack of a request with
a budget is its budget less its span, and less its cost too while it is not started; it has none without a budget. -/
def Obligations.BlocksAndBudgetsOfSection1 : Prop :=
  (∀ (i b : Nat), interleaveAllowed i = true → b < 32000 →
    let t := targetOf i b
    t.cylinder = b / 80 ∧ t.head = b % 80 / 20 ∧ t.slot = b % 20 * i % 20 ∧ t.cylinder ≤ 399 ∧ t.head ≤ 3 ∧
      t.slot ≤ 19 ∧
      (∀ c, c < 32000 → targetOf i c = t → c = b) ∧
      ∀ p < 20, ∃ c, c < 32000 ∧ targetOf i c = ⟨t.cylinder, t.head, p⟩) ∧
  budgetOf 0 = none ∧ (∀ m, 0 < m → ∃ b, budgetOf m = some b ∧ 1 ≤ b ∧ (b = 1 ∨ 5 * b ≤ 4 * m) ∧ 4 * m < 5 * (b + 1)) ∧
  (∀ i m, 1 ≤ m → span i m = (m - 1) * i + 1 ∧ (m ≤ 64 → i ≤ 19 → span i m ≤ 1198)) ∧
  ∀ (s : State) (r : Request), r.done < r.count → (r.isDirect = true → r.count = 1) →
    let spanned : Nat := if r.isDirect then 1 else (r.count - r.done - 1) * s.cfg.interleave + 1
    (r.budget = none → s.slackOf r = none) ∧
    ∀ b, r.budget = some b → s.slackOf r = some (if r.started then (b : Int) - spanned else b - (r.cost + spanned : Nat))

/-- R12. The seek estimate for the cylinder in the positioner record: 0 on the cylinder, else 6 and one for each ten
cylinders of distance begun, 7 to 46; an UNKNOWN positioner counts as 399 away. The moving flag does not enter. R14.
With the counter at `s`, the arrival slot is (s + k) mod 20, and the rotational wait, 1 to 20, is what brings the
arrival slot to the sector's slot: 1 in its lead slot, 20 in the slot itself. While the counter is UNSYNCED it is taken
as 20 and no request is eligible; with the positioner UNKNOWN besides, every cost of a sector on the volume is 66. -/
def Obligations.SeekEstimateAndRotationalWait : Prop :=
  ((∀ (p c : Nat), seekEstimate (some p) p = 0 ∧ seekEstimate none c = 46 ∧
    (p ≠ c → ∀ d, (d = p - c ∧ c < p ∨ d = c - p ∧ p < c) →
      6 * 10 + d ≤ 10 * seekEstimate (some p) c ∧ 10 * seekEstimate (some p) c < 6 * 10 + d + 10) ∧
    (p ≠ c → p ≤ 399 → c ≤ 399 → 7 ≤ seekEstimate (some p) c ∧ seekEstimate (some p) c ≤ 46)) ∧
  ∀ (s : State) (r : Request) (b : Bool), s.costOf r = seekEstimate s.tm.cylinder (s.nextTarget r).cylinder +
      rotationalWait s.rdm.counter (seekEstimate s.tm.cylinder (s.nextTarget r).cylinder) (s.nextTarget r).slot ∧
    State.costOf { s with tm := { s.tm with moving := b } } r = s.costOf r) ∧
  (∀ (s k p : Nat), s < 20 → p < 20 →
    rotationalWait none k p = 20 ∧ 1 ≤ rotationalWait (some s) k p ∧ rotationalWait (some s) k p ≤ 20 ∧
      (s + k + rotationalWait (some s) k p) % 20 = p ∧ ((s + k + 1) % 20 = p → rotationalWait (some s) k p = 1) ∧
      ((s + k) % 20 = p → rotationalWait (some s) k p = 20)) ∧
  ∀ (s : State) (r : Request), s.rdm.counter = none →
    s.eligible r = false ∧ (s.tm.cylinder = none → s.costOf r = 66)

/-- Encoding of frames (R114, R185, R188, 11.7): the words of every frame this adapter sends, orders, WRITE DATA,
notices and answers, sum to zero, carry its station and kind code, have every spare bit 0, and give its content back;
such a frame passes the tests of the adapter that hears it. Two frames with the same words are of the same kind with
the same content: the encoding of 11.7 drops no bit of the fields of an offered frame, each in its range. -/
def Obligations.SentFramesAreValidAndExact : Prop :=
  (∀ (station : Bool) (code : Nat) (content : List Word), code < 32 →
    let w := frameWords station code content
    w.foldl (· + ·) 0 = 0 ∧ frameKind w = code ∧ frameSource w = (if station then 1 else 0) ∧
      w.tail.dropLast = content ∧ w.length = content.length + 2 ∧
      (contentOk code content = true → frameValid w = true) ∧
      (∀ b : FrameBody, ∀ r, 1 ≤ r → r ≤ 15 → code = b.code → content = b.content r →
        (match b with
          | .seek c => c ≤ 399
          | .read t => t.cylinder ≤ 399 ∧ t.head ≤ 3 ∧ t.slot ≤ 19
          | .write t => t.cylinder ≤ 399 ∧ t.head ≤ 3 ∧ t.slot ≤ 19
          | .tenure c => c ≤ 399
          | .preempt k => -1264 ≤ k ∧ k ≤ -1
          | .claim _ s n _ => 1 ≤ n ∧ n ≤ 64 ∧ s + n ≤ 32000
          | .free s n _ => 1 ≤ n ∧ n ≤ 64 ∧ s + n ≤ 32000
          | _ => True) → frameValid w = true)) ∧
  ∀ (r : Nat) (a b : FrameBody) (station : Bool), 1 ≤ r → r ≤ 15 →
    let inRange : FrameBody → Prop := fun f =>
      match f with
      | .seek c => c ≤ 399
      | .read t => t.cylinder ≤ 399 ∧ t.head ≤ 3 ∧ t.slot ≤ 19
      | .write t => t.cylinder ≤ 399 ∧ t.head ≤ 3 ∧ t.slot ≤ 19
      | .tenure c => c ≤ 399
      | .preempt k => -1264 ≤ k ∧ k ≤ -1
      | .claim _ s n _ => 1 ≤ n ∧ n ≤ 64 ∧ s + n ≤ 32000
      | .free s n _ => 1 ≤ n ∧ n ≤ 64 ∧ s + n ≤ 32000
      | _ => True
    inRange a → inRange b →
      frameWords station a.code (a.content r) = frameWords station b.code (b.content r) →
      match a, b with
      | .claim _ s n m, .claim _ s' n' m' => s = s' ∧ n = n' ∧ m = m'
      | _, _ => a = b

/-- Encoding of descriptors (R22, R23, R40, 11.5): the image INSPECT returns of a loaded descriptor, given back in a
setup record, loads the same descriptor, with the marks clear that setup clears. The image INSPECT returns of any
descriptor shows its fields in the places of 11.5, the accessed, written and changed marks in bits 8, 7 and 6 of its
first word. The words the host reads show their fields in the places of 11.2, 11.4 and 11.6, each in its range: STATE
(R174), the completion area (R51), the line record (R124) and the position record (R145). Spare bits are 0 (R185). A
read of STATE has no row in the table (log 27). -/
def Obligations.WordsAndImagesShowTheirFields : Prop :=
  (∀ (d : Descriptor) (x : Table) (i : Image), d.level ≤ 3 → d.base < 65536 → d.limit < 65536 → d.fill < 65536 →
    d.kind ≠ .empty → (d.kind = .log ∨ d.fill = 0 ∧ d.wrap = false ∧ d.wrappedEver = false) →
    d.accessed = false → d.written = false → d.changed = false → d.reserved = 0 → d.owner = none →
    d.image = [i.w0, i.w1, i.w2, i.w3] →
    i.descriptor = d ∧ (i.check x = none ↔ d.base + d.limit ≤ 31999 ∧ ¬ (d.kind = .log ∧ x = .common) ∧
      (d.kind = .log → if d.wrap then d.fill ≤ d.limit else d.fill ≤ d.limit + 1))) ∧
  (∀ d : Descriptor, d.level ≤ 3 → d.base < 65536 → d.limit < 65536 → d.fill < 65536 →
    ∃ w0 w1 w2 w3 : Word, d.image = [w0, w1, w2, w3] ∧
      w0.toNat / 8192 = (match d.kind with | .empty => 0 | .fixed => 1 | .working => 2 | .log => 3) ∧
      w0.toNat / 2048 % 4 = d.level ∧ w0.getLsbD 10 = d.wrap ∧ w0.getLsbD 9 = d.wrappedEver ∧
      w0.getLsbD 8 = d.accessed ∧ w0.getLsbD 7 = d.written ∧ w0.getLsbD 6 = d.changed ∧ w0.toNat % 64 = 0 ∧
      w1.toNat = d.base ∧ w2.toNat = d.limit ∧ w3.toNat = d.fill) ∧
  (∀ s : State,
    let w := stateWord s
    let runs : Fin 4 → Bool := fun n => (s.chain n).state = .running || (s.chain n).state = .stopping
    w.toNat / 16384 = (match s.hp.adapter with | .unconfigured => 0 | .running => 1 | .maintenance => 2 | .silenced => 3) ∧
    w.getLsbD 13 = s.lu.station ∧ w.toNat / 256 % 32 = s.hp.refusal.code ∧
    (∀ n : Fin 4, w.getLsbD (4 + n.val) = runs n) ∧ w.getLsbD 3 = decide (s.rdm.drive = .up) ∧
    w.toNat / 2 % 4 = (match s.tm.presence with | .unknown => 0 | .present => 1 | .absent => 2) ∧ w.getLsbD 0 = false) ∧
  (∀ c : Completion, c.done ≤ 64 → (∀ x ∈ c.place, x.2 < 32) → c.stamp.hours ≤ 23 → c.stamp.minutes ≤ 59 →
    c.stamp.seconds ≤ 59 → c.stamp.tenths ≤ 9 →
    ∃ w0 w1 w2 w3 : Word, c.words = [w0, w1, w2, w3] ∧
      w0.toNat / 8192 = (match c.status with | .done => 0 | .skipped => 1 | .expired => 2 | .aborted => 3 | .fault => 4) ∧
      w0.toNat / 256 % 32 = (match c.fault with | none => 0 | some f => f.code) ∧
      w0.getLsbD 7 = c.fault.any ElementFault.outside ∧ w0.toNat % 128 = c.done ∧
      w1.toNat / 1024 = (if c.bits.f then 32 else 0) + (if c.bits.m then 16 else 0) + (if c.bits.l then 8 else 0) +
        (if c.bits.c then 4 else 0) + (if c.bits.s then 2 else 0) + (if c.bits.p then 1 else 0) ∧
      w1.toNat % 1024 = (match c.place with
        | none => 0
        | some x => 512 + (if x.1 = .common then 256 else 0) + x.2) ∧
      w2.toNat = (if c.stamp.unset then 32768 else 0) + c.stamp.hours * 256 + c.stamp.minutes ∧
      w3.toNat = c.stamp.seconds * 256 + c.stamp.tenths) ∧
  (∀ s : State, s.lu.collisionCount ≤ 255 → s.lu.lastCollided ≤ 27 →
    ∃ w0 w1 w2 w3 : Word, lineRecord s = [w0, w1, w2, w3] ∧ w0.toNat = s.lu.collisionCount ∧
      w1.toNat = s.lu.lastCollided ∧ w2.toNat / 16 = 0 ∧ w2.getLsbD 3 = s.lu.station ∧
      w2.toNat / 2 % 4 = (match s.tm.presence with | .unknown => 0 | .present => 1 | .absent => 2) ∧
      w2.getLsbD 0 = s.lu.armed ∧ w3 = 0) ∧
  ∀ s : State, (∀ c ∈ s.tm.cylinder, c ≤ 399) → (∀ p ∈ s.tm.peer, p.revolutions ≤ 15 ∧ ∀ c ∈ p.cylinder, c ≤ 399) →
    (∀ c ∈ s.rdm.counter, c ≤ 19) → s.rdm.synthRun ≤ 20 → s.rdm.silence ≤ 3 → s.tm.peerSeeks ≤ 255 →
    s.tm.own.fields.2.1 ≤ 15 → s.tm.own.fields.2.2 ≤ 399 →
    ∃ w0 w1 w2 w3 : Word, positionRecord s = [w0, w1, w2, w3] ∧
      w0.toNat = s.tm.own.fields.1 * 16384 + s.tm.own.fields.2.1 * 1024 + (if s.tm.courtesy then 512 else 0) +
        s.tm.own.fields.2.2 ∧
      s.tm.own.fields = (match s.tm.own with
        | .none => (0, 0, 0)
        | .asking c => (1, 0, c)
        | .holding c n => (2, n, c)
        | .ending c n => (3, n, c)) ∧
      w1.getLsbD 15 = s.tm.peer.isSome ∧ w1.getLsbD 10 = s.tm.preemptMark ∧ w1.getLsbD 9 = s.tm.moving ∧
      (∀ p ∈ s.tm.peer, w1.toNat / 2048 % 16 = p.revolutions ∧
        w1.toNat % 512 = (match p.cylinder with | none => 511 | some c => c)) ∧
      (s.tm.peer = none → w1.toNat / 2048 % 16 = 0 ∧ w1.toNat % 512 = 0) ∧
      w2.toNat / 128 = (match s.tm.cylinder with | none => 511 | some c => c) ∧
      w2.toNat / 4 % 32 = (match s.rdm.counter with | none => 31 | some c => c) ∧
      w2.toNat % 4 = (match s.rdm.drive with | .up => 0 | .down => 1 | .resync => 2) ∧
      w3.toNat / 256 = s.tm.peerSeeks ∧ w3.toNat / 8 % 32 = s.rdm.synthRun ∧ w3.toNat / 2 % 4 = s.rdm.silence ∧
      w3.getLsbD 0 = false


/-! Laws of the device, kept by every step from every state that meets them. -/

/-- R131: while one of own tenure and peer record stands, the other does not come to stand with it. -/
def Obligations.StepKeepsTenureExclusive : Prop :=
  ∀ s t : State, TenureExclusive s → step s = .next t → TenureExclusive t

/-- R66: the queue holds at most 16 requests, and names are given once. The names of records and entries stay unique and
below the next to be given (the model's own, log 17). -/
def Obligations.StepKeepsTheQueueAndItsNames : Prop :=
  (∀ s t : State, QueueBounded s → step s = .next t → QueueBounded t) ∧
  ∀ s t : State, NamesFresh s → step s = .next t → NamesFresh t

/-- R147: the Hold List holds at most 8 entries, two of which overlap only if both are SHARED. -/
def Obligations.StepKeepsTheHoldListSound : Prop :=
  ∀ s t : State, HoldListSound s → step s = .next t → HoldListSound t

/-- R122, R124, R125: collision and silence counts of frames and the collision record stay in their ranges. R5 to R10,
R126, R168: the monitor's counts stay in their ranges; the counter is UNSYNCED in DOWN, synchronized in UP. -/
def Obligations.StepKeepsCountsInRange : Prop :=
  (∀ s t : State, LineCountsInRange s → step s = .next t → LineCountsInRange t) ∧
  ∀ s t : State, MonitorInRange s.rdm → step s = .next t → MonitorInRange t.rdm

/-- R32, the law of the fill mark, and what it rests on (R33 to R35): the fill mark of each LOG lies within 0..L + 1,
within 0..L with WRAP; without WRAP the fill mark and the reserved count together lie within 0..L + 1; no less is
reserved than is promised to the APPENDs in the queue. With it are kept that these have a sector left to write, that a
held element is legal and its chain RUNNING, and that nothing runs while no setup is in force or one is in progress. -/
def Obligations.StepKeepsTheLogsSound : Prop :=
  ∀ s t : State, NamesFresh s ∧ LogsSound s → step s = .next t → LogsSound t
end

