-- ==== Sys2Proof/Laws/State.lean ====
section
/-! SUPPORT. One lemma for each block of State under each updater, and what a fold of an operation keeps. -/

namespace Sys2Proof.Machine

open Sys2Proof

@[simp] theorem State.onHp_hp (s : State) (f : HostPort → HostPort) : (s.onHp f).hp = f s.hp := rfl
@[simp] theorem State.onHp_chains (s : State) (f : HostPort → HostPort) : (s.onHp f).chains = s.chains := rfl
@[simp] theorem State.onHp_ec (s : State) (f : HostPort → HostPort) : (s.onHp f).ec = s.ec := rfl
@[simp] theorem State.onHp_wq (s : State) (f : HostPort → HostPort) : (s.onHp f).wq = s.wq := rfl
@[simp] theorem State.onHp_te (s : State) (f : HostPort → HostPort) : (s.onHp f).te = s.te := rfl
@[simp] theorem State.onHp_hm (s : State) (f : HostPort → HostPort) : (s.onHp f).hm = s.hm := rfl
@[simp] theorem State.onHp_tm (s : State) (f : HostPort → HostPort) : (s.onHp f).tm = s.tm := rfl
@[simp] theorem State.onHp_lu (s : State) (f : HostPort → HostPort) : (s.onHp f).lu = s.lu := rfl
@[simp] theorem State.onHp_rdm (s : State) (f : HostPort → HostPort) : (s.onHp f).rdm = s.rdm := rfl
@[simp] theorem State.onHp_out (s : State) (f : HostPort → HostPort) : (s.onHp f).out = s.out := rfl
@[simp] theorem State.onHp_pending (s : State) (f : HostPort → HostPort) : (s.onHp f).pending = s.pending := rfl
@[simp] theorem State.onChains_hp (s : State) (f : Four Chain → Four Chain) : (s.onChains f).hp = s.hp := rfl
@[simp] theorem State.onChains_chains (s : State) (f : Four Chain → Four Chain) : (s.onChains f).chains = f s.chains := rfl
@[simp] theorem State.onChains_ec (s : State) (f : Four Chain → Four Chain) : (s.onChains f).ec = s.ec := rfl
@[simp] theorem State.onChains_wq (s : State) (f : Four Chain → Four Chain) : (s.onChains f).wq = s.wq := rfl
@[simp] theorem State.onChains_te (s : State) (f : Four Chain → Four Chain) : (s.onChains f).te = s.te := rfl
@[simp] theorem State.onChains_hm (s : State) (f : Four Chain → Four Chain) : (s.onChains f).hm = s.hm := rfl
@[simp] theorem State.onChains_tm (s : State) (f : Four Chain → Four Chain) : (s.onChains f).tm = s.tm := rfl
@[simp] theorem State.onChains_lu (s : State) (f : Four Chain → Four Chain) : (s.onChains f).lu = s.lu := rfl
@[simp] theorem State.onChains_rdm (s : State) (f : Four Chain → Four Chain) : (s.onChains f).rdm = s.rdm := rfl
@[simp] theorem State.onChains_out (s : State) (f : Four Chain → Four Chain) : (s.onChains f).out = s.out := rfl
@[simp] theorem State.onChains_pending (s : State) (f : Four Chain → Four Chain) : (s.onChains f).pending = s.pending := rfl
@[simp] theorem State.onEc_hp (s : State) (f : Extents → Extents) : (s.onEc f).hp = s.hp := rfl
@[simp] theorem State.onEc_chains (s : State) (f : Extents → Extents) : (s.onEc f).chains = s.chains := rfl
@[simp] theorem State.onEc_ec (s : State) (f : Extents → Extents) : (s.onEc f).ec = f s.ec := rfl
@[simp] theorem State.onEc_wq (s : State) (f : Extents → Extents) : (s.onEc f).wq = s.wq := rfl
@[simp] theorem State.onEc_te (s : State) (f : Extents → Extents) : (s.onEc f).te = s.te := rfl
@[simp] theorem State.onEc_hm (s : State) (f : Extents → Extents) : (s.onEc f).hm = s.hm := rfl
@[simp] theorem State.onEc_tm (s : State) (f : Extents → Extents) : (s.onEc f).tm = s.tm := rfl
@[simp] theorem State.onEc_lu (s : State) (f : Extents → Extents) : (s.onEc f).lu = s.lu := rfl
@[simp] theorem State.onEc_rdm (s : State) (f : Extents → Extents) : (s.onEc f).rdm = s.rdm := rfl
@[simp] theorem State.onEc_out (s : State) (f : Extents → Extents) : (s.onEc f).out = s.out := rfl
@[simp] theorem State.onEc_pending (s : State) (f : Extents → Extents) : (s.onEc f).pending = s.pending := rfl
@[simp] theorem State.onWq_hp (s : State) (f : WorkQueue → WorkQueue) : (s.onWq f).hp = s.hp := rfl
@[simp] theorem State.onWq_chains (s : State) (f : WorkQueue → WorkQueue) : (s.onWq f).chains = s.chains := rfl
@[simp] theorem State.onWq_ec (s : State) (f : WorkQueue → WorkQueue) : (s.onWq f).ec = s.ec := rfl
@[simp] theorem State.onWq_wq (s : State) (f : WorkQueue → WorkQueue) : (s.onWq f).wq = f s.wq := rfl
@[simp] theorem State.onWq_te (s : State) (f : WorkQueue → WorkQueue) : (s.onWq f).te = s.te := rfl
@[simp] theorem State.onWq_hm (s : State) (f : WorkQueue → WorkQueue) : (s.onWq f).hm = s.hm := rfl
@[simp] theorem State.onWq_tm (s : State) (f : WorkQueue → WorkQueue) : (s.onWq f).tm = s.tm := rfl
@[simp] theorem State.onWq_lu (s : State) (f : WorkQueue → WorkQueue) : (s.onWq f).lu = s.lu := rfl
@[simp] theorem State.onWq_rdm (s : State) (f : WorkQueue → WorkQueue) : (s.onWq f).rdm = s.rdm := rfl
@[simp] theorem State.onWq_out (s : State) (f : WorkQueue → WorkQueue) : (s.onWq f).out = s.out := rfl
@[simp] theorem State.onWq_pending (s : State) (f : WorkQueue → WorkQueue) : (s.onWq f).pending = s.pending := rfl
@[simp] theorem State.onTe_hp (s : State) (f : Engine → Engine) : (s.onTe f).hp = s.hp := rfl
@[simp] theorem State.onTe_chains (s : State) (f : Engine → Engine) : (s.onTe f).chains = s.chains := rfl
@[simp] theorem State.onTe_ec (s : State) (f : Engine → Engine) : (s.onTe f).ec = s.ec := rfl
@[simp] theorem State.onTe_wq (s : State) (f : Engine → Engine) : (s.onTe f).wq = s.wq := rfl
@[simp] theorem State.onTe_te (s : State) (f : Engine → Engine) : (s.onTe f).te = f s.te := rfl
@[simp] theorem State.onTe_hm (s : State) (f : Engine → Engine) : (s.onTe f).hm = s.hm := rfl
@[simp] theorem State.onTe_tm (s : State) (f : Engine → Engine) : (s.onTe f).tm = s.tm := rfl
@[simp] theorem State.onTe_lu (s : State) (f : Engine → Engine) : (s.onTe f).lu = s.lu := rfl
@[simp] theorem State.onTe_rdm (s : State) (f : Engine → Engine) : (s.onTe f).rdm = s.rdm := rfl
@[simp] theorem State.onTe_out (s : State) (f : Engine → Engine) : (s.onTe f).out = s.out := rfl
@[simp] theorem State.onTe_pending (s : State) (f : Engine → Engine) : (s.onTe f).pending = s.pending := rfl
@[simp] theorem State.onHm_hp (s : State) (f : HoldManager → HoldManager) : (s.onHm f).hp = s.hp := rfl
@[simp] theorem State.onHm_chains (s : State) (f : HoldManager → HoldManager) : (s.onHm f).chains = s.chains := rfl
@[simp] theorem State.onHm_ec (s : State) (f : HoldManager → HoldManager) : (s.onHm f).ec = s.ec := rfl
@[simp] theorem State.onHm_wq (s : State) (f : HoldManager → HoldManager) : (s.onHm f).wq = s.wq := rfl
@[simp] theorem State.onHm_te (s : State) (f : HoldManager → HoldManager) : (s.onHm f).te = s.te := rfl
@[simp] theorem State.onHm_hm (s : State) (f : HoldManager → HoldManager) : (s.onHm f).hm = f s.hm := rfl
@[simp] theorem State.onHm_tm (s : State) (f : HoldManager → HoldManager) : (s.onHm f).tm = s.tm := rfl
@[simp] theorem State.onHm_lu (s : State) (f : HoldManager → HoldManager) : (s.onHm f).lu = s.lu := rfl
@[simp] theorem State.onHm_rdm (s : State) (f : HoldManager → HoldManager) : (s.onHm f).rdm = s.rdm := rfl
@[simp] theorem State.onHm_out (s : State) (f : HoldManager → HoldManager) : (s.onHm f).out = s.out := rfl
@[simp] theorem State.onHm_pending (s : State) (f : HoldManager → HoldManager) : (s.onHm f).pending = s.pending := rfl
@[simp] theorem State.onTm_hp (s : State) (f : TenureManager → TenureManager) : (s.onTm f).hp = s.hp := rfl
@[simp] theorem State.onTm_chains (s : State) (f : TenureManager → TenureManager) : (s.onTm f).chains = s.chains := rfl
@[simp] theorem State.onTm_ec (s : State) (f : TenureManager → TenureManager) : (s.onTm f).ec = s.ec := rfl
@[simp] theorem State.onTm_wq (s : State) (f : TenureManager → TenureManager) : (s.onTm f).wq = s.wq := rfl
@[simp] theorem State.onTm_te (s : State) (f : TenureManager → TenureManager) : (s.onTm f).te = s.te := rfl
@[simp] theorem State.onTm_hm (s : State) (f : TenureManager → TenureManager) : (s.onTm f).hm = s.hm := rfl
@[simp] theorem State.onTm_tm (s : State) (f : TenureManager → TenureManager) : (s.onTm f).tm = f s.tm := rfl
@[simp] theorem State.onTm_lu (s : State) (f : TenureManager → TenureManager) : (s.onTm f).lu = s.lu := rfl
@[simp] theorem State.onTm_rdm (s : State) (f : TenureManager → TenureManager) : (s.onTm f).rdm = s.rdm := rfl
@[simp] theorem State.onTm_out (s : State) (f : TenureManager → TenureManager) : (s.onTm f).out = s.out := rfl
@[simp] theorem State.onTm_pending (s : State) (f : TenureManager → TenureManager) : (s.onTm f).pending = s.pending := rfl
@[simp] theorem State.onLu_hp (s : State) (f : LineUnit → LineUnit) : (s.onLu f).hp = s.hp := rfl
@[simp] theorem State.onLu_chains (s : State) (f : LineUnit → LineUnit) : (s.onLu f).chains = s.chains := rfl
@[simp] theorem State.onLu_ec (s : State) (f : LineUnit → LineUnit) : (s.onLu f).ec = s.ec := rfl
@[simp] theorem State.onLu_wq (s : State) (f : LineUnit → LineUnit) : (s.onLu f).wq = s.wq := rfl
@[simp] theorem State.onLu_te (s : State) (f : LineUnit → LineUnit) : (s.onLu f).te = s.te := rfl
@[simp] theorem State.onLu_hm (s : State) (f : LineUnit → LineUnit) : (s.onLu f).hm = s.hm := rfl
@[simp] theorem State.onLu_tm (s : State) (f : LineUnit → LineUnit) : (s.onLu f).tm = s.tm := rfl
@[simp] theorem State.onLu_lu (s : State) (f : LineUnit → LineUnit) : (s.onLu f).lu = f s.lu := rfl
@[simp] theorem State.onLu_rdm (s : State) (f : LineUnit → LineUnit) : (s.onLu f).rdm = s.rdm := rfl
@[simp] theorem State.onLu_out (s : State) (f : LineUnit → LineUnit) : (s.onLu f).out = s.out := rfl
@[simp] theorem State.onLu_pending (s : State) (f : LineUnit → LineUnit) : (s.onLu f).pending = s.pending := rfl
@[simp] theorem State.onRdm_hp (s : State) (f : Monitor → Monitor) : (s.onRdm f).hp = s.hp := rfl
@[simp] theorem State.onRdm_chains (s : State) (f : Monitor → Monitor) : (s.onRdm f).chains = s.chains := rfl
@[simp] theorem State.onRdm_ec (s : State) (f : Monitor → Monitor) : (s.onRdm f).ec = s.ec := rfl
@[simp] theorem State.onRdm_wq (s : State) (f : Monitor → Monitor) : (s.onRdm f).wq = s.wq := rfl
@[simp] theorem State.onRdm_te (s : State) (f : Monitor → Monitor) : (s.onRdm f).te = s.te := rfl
@[simp] theorem State.onRdm_hm (s : State) (f : Monitor → Monitor) : (s.onRdm f).hm = s.hm := rfl
@[simp] theorem State.onRdm_tm (s : State) (f : Monitor → Monitor) : (s.onRdm f).tm = s.tm := rfl
@[simp] theorem State.onRdm_lu (s : State) (f : Monitor → Monitor) : (s.onRdm f).lu = s.lu := rfl
@[simp] theorem State.onRdm_rdm (s : State) (f : Monitor → Monitor) : (s.onRdm f).rdm = f s.rdm := rfl
@[simp] theorem State.onRdm_out (s : State) (f : Monitor → Monitor) : (s.onRdm f).out = s.out := rfl
@[simp] theorem State.onRdm_pending (s : State) (f : Monitor → Monitor) : (s.onRdm f).pending = s.pending := rfl

/-- What every round of a fold keeps, the fold keeps. -/
theorem foldl_keeps {β γ : Type} {f : State → β → State} (g : State → γ) (h : ∀ s b, g (f s b) = g s) (l : List β)
    (s : State) : g (l.foldl f s) = g s := by
  induction l generalizing s with
  | nil => rfl
  | cons b l ih => exact (ih _).trans (h s b)

@[simp] theorem foldl_hp {β : Type} {f : State → β → State} (h : ∀ s b, (f s b).hp = s.hp)
    (l : List β) (s : State) : (l.foldl f s).hp = s.hp := foldl_keeps (fun s => s.hp) h l s
@[simp] theorem foldl_hp_address {β : Type} {f : State → β → State} (h : ∀ s b, (f s b).hp.address = s.hp.address)
    (l : List β) (s : State) : (l.foldl f s).hp.address = s.hp.address := foldl_keeps (fun s => s.hp.address) h l s
@[simp] theorem foldl_hp_adapter {β : Type} {f : State → β → State} (h : ∀ s b, (f s b).hp.adapter = s.hp.adapter)
    (l : List β) (s : State) : (l.foldl f s).hp.adapter = s.hp.adapter := foldl_keeps (fun s => s.hp.adapter) h l s
@[simp] theorem foldl_hp_maintaining {β : Type} {f : State → β → State} (h : ∀ s b, (f s b).hp.maintaining = s.hp.maintaining)
    (l : List β) (s : State) : (l.foldl f s).hp.maintaining = s.hp.maintaining := foldl_keeps (fun s => s.hp.maintaining) h l s
@[simp] theorem foldl_hp_refusal {β : Type} {f : State → β → State} (h : ∀ s b, (f s b).hp.refusal = s.hp.refusal)
    (l : List β) (s : State) : (l.foldl f s).hp.refusal = s.hp.refusal := foldl_keeps (fun s => s.hp.refusal) h l s
@[simp] theorem foldl_hp_events {β : Type} {f : State → β → State} (h : ∀ s b, (f s b).hp.events = s.hp.events)
    (l : List β) (s : State) : (l.foldl f s).hp.events = s.hp.events := foldl_keeps (fun s => s.hp.events) h l s
@[simp] theorem foldl_hp_mask {β : Type} {f : State → β → State} (h : ∀ s b, (f s b).hp.mask = s.hp.mask)
    (l : List β) (s : State) : (l.foldl f s).hp.mask = s.hp.mask := foldl_keeps (fun s => s.hp.mask) h l s
@[simp] theorem foldl_hp_progress {β : Type} {f : State → β → State} (h : ∀ s b, (f s b).hp.progress = s.hp.progress)
    (l : List β) (s : State) : (l.foldl f s).hp.progress = s.hp.progress := foldl_keeps (fun s => s.hp.progress) h l s
@[simp] theorem foldl_hp_setup {β : Type} {f : State → β → State} (h : ∀ s b, (f s b).hp.setup = s.hp.setup)
    (l : List β) (s : State) : (l.foldl f s).hp.setup = s.hp.setup := foldl_keeps (fun s => s.hp.setup) h l s
@[simp] theorem foldl_hp_waiting {β : Type} {f : State → β → State} (h : ∀ s b, (f s b).hp.waiting = s.hp.waiting)
    (l : List β) (s : State) : (l.foldl f s).hp.waiting = s.hp.waiting := foldl_keeps (fun s => s.hp.waiting) h l s
@[simp] theorem foldl_hp_current {β : Type} {f : State → β → State} (h : ∀ s b, (f s b).hp.current = s.hp.current)
    (l : List β) (s : State) : (l.foldl f s).hp.current = s.hp.current := foldl_keeps (fun s => s.hp.current) h l s
@[simp] theorem foldl_hp_heldBack {β : Type} {f : State → β → State} (h : ∀ s b, (f s b).hp.heldBack = s.hp.heldBack)
    (l : List β) (s : State) : (l.foldl f s).hp.heldBack = s.hp.heldBack := foldl_keeps (fun s => s.hp.heldBack) h l s
@[simp] theorem foldl_hp_tod {β : Type} {f : State → β → State} (h : ∀ s b, (f s b).hp.tod = s.hp.tod)
    (l : List β) (s : State) : (l.foldl f s).hp.tod = s.hp.tod := foldl_keeps (fun s => s.hp.tod) h l s
@[simp] theorem foldl_chains {β : Type} {f : State → β → State} (h : ∀ s b, (f s b).chains = s.chains)
    (l : List β) (s : State) : (l.foldl f s).chains = s.chains := foldl_keeps (fun s => s.chains) h l s
@[simp] theorem foldl_ec {β : Type} {f : State → β → State} (h : ∀ s b, (f s b).ec = s.ec)
    (l : List β) (s : State) : (l.foldl f s).ec = s.ec := foldl_keeps (fun s => s.ec) h l s
@[simp] theorem foldl_ec_privSize {β : Type} {f : State → β → State} (h : ∀ s b, (f s b).ec.privSize = s.ec.privSize)
    (l : List β) (s : State) : (l.foldl f s).ec.privSize = s.ec.privSize := foldl_keeps (fun s => s.ec.privSize) h l s
@[simp] theorem foldl_ec_commSize {β : Type} {f : State → β → State} (h : ∀ s b, (f s b).ec.commSize = s.ec.commSize)
    (l : List β) (s : State) : (l.foldl f s).ec.commSize = s.ec.commSize := foldl_keeps (fun s => s.ec.commSize) h l s
@[simp] theorem foldl_wq {β : Type} {f : State → β → State} (h : ∀ s b, (f s b).wq = s.wq)
    (l : List β) (s : State) : (l.foldl f s).wq = s.wq := foldl_keeps (fun s => s.wq) h l s
@[simp] theorem foldl_wq_nextId {β : Type} {f : State → β → State} (h : ∀ s b, (f s b).wq.nextId = s.wq.nextId)
    (l : List β) (s : State) : (l.foldl f s).wq.nextId = s.wq.nextId := foldl_keeps (fun s => s.wq.nextId) h l s
@[simp] theorem foldl_wq_records {β : Type} {f : State → β → State} (h : ∀ s b, (f s b).wq.records = s.wq.records)
    (l : List β) (s : State) : (l.foldl f s).wq.records = s.wq.records := foldl_keeps (fun s => s.wq.records) h l s
@[simp] theorem foldl_te {β : Type} {f : State → β → State} (h : ∀ s b, (f s b).te = s.te)
    (l : List β) (s : State) : (l.foldl f s).te = s.te := foldl_keeps (fun s => s.te) h l s
@[simp] theorem foldl_te_phase {β : Type} {f : State → β → State} (h : ∀ s b, (f s b).te.phase = s.te.phase)
    (l : List β) (s : State) : (l.foldl f s).te.phase = s.te.phase := foldl_keeps (fun s => s.te.phase) h l s
@[simp] theorem foldl_te_request {β : Type} {f : State → β → State} (h : ∀ s b, (f s b).te.request = s.te.request)
    (l : List β) (s : State) : (l.foldl f s).te.request = s.te.request := foldl_keeps (fun s => s.te.request) h l s
@[simp] theorem foldl_te_sector {β : Type} {f : State → β → State} (h : ∀ s b, (f s b).te.sector = s.te.sector)
    (l : List β) (s : State) : (l.foldl f s).te.sector = s.te.sector := foldl_keeps (fun s => s.te.sector) h l s
@[simp] theorem foldl_te_target {β : Type} {f : State → β → State} (h : ∀ s b, (f s b).te.target = s.te.target)
    (l : List β) (s : State) : (l.foldl f s).te.target = s.te.target := foldl_keeps (fun s => s.te.target) h l s
@[simp] theorem foldl_te_settle {β : Type} {f : State → β → State} (h : ∀ s b, (f s b).te.settle = s.te.settle)
    (l : List β) (s : State) : (l.foldl f s).te.settle = s.te.settle := foldl_keeps (fun s => s.te.settle) h l s
@[simp] theorem foldl_te_lastSlip {β : Type} {f : State → β → State} (h : ∀ s b, (f s b).te.lastSlip = s.te.lastSlip)
    (l : List β) (s : State) : (l.foldl f s).te.lastSlip = s.te.lastSlip := foldl_keeps (fun s => s.te.lastSlip) h l s
@[simp] theorem foldl_te_leadOpen {β : Type} {f : State → β → State} (h : ∀ s b, (f s b).te.leadOpen = s.te.leadOpen)
    (l : List β) (s : State) : (l.foldl f s).te.leadOpen = s.te.leadOpen := foldl_keeps (fun s => s.te.leadOpen) h l s
@[simp] theorem foldl_te_suspendAfter {β : Type} {f : State → β → State} (h : ∀ s b, (f s b).te.suspendAfter = s.te.suspendAfter)
    (l : List β) (s : State) : (l.foldl f s).te.suspendAfter = s.te.suspendAfter := foldl_keeps (fun s => s.te.suspendAfter) h l s
@[simp] theorem foldl_te_downAfter {β : Type} {f : State → β → State} (h : ∀ s b, (f s b).te.downAfter = s.te.downAfter)
    (l : List β) (s : State) : (l.foldl f s).te.downAfter = s.te.downAfter := foldl_keeps (fun s => s.te.downAfter) h l s
@[simp] theorem foldl_te_maintenanceOver {β : Type} {f : State → β → State} (h : ∀ s b, (f s b).te.maintenanceOver = s.te.maintenanceOver)
    (l : List β) (s : State) : (l.foldl f s).te.maintenanceOver = s.te.maintenanceOver := foldl_keeps (fun s => s.te.maintenanceOver) h l s
@[simp] theorem foldl_te_bufA {β : Type} {f : State → β → State} (h : ∀ s b, (f s b).te.bufA = s.te.bufA)
    (l : List β) (s : State) : (l.foldl f s).te.bufA = s.te.bufA := foldl_keeps (fun s => s.te.bufA) h l s
@[simp] theorem foldl_te_bufB {β : Type} {f : State → β → State} (h : ∀ s b, (f s b).te.bufB = s.te.bufB)
    (l : List β) (s : State) : (l.foldl f s).te.bufB = s.te.bufB := foldl_keeps (fun s => s.te.bufB) h l s
@[simp] theorem foldl_hm {β : Type} {f : State → β → State} (h : ∀ s b, (f s b).hm = s.hm)
    (l : List β) (s : State) : (l.foldl f s).hm = s.hm := foldl_keeps (fun s => s.hm) h l s
@[simp] theorem foldl_hm_list {β : Type} {f : State → β → State} (h : ∀ s b, (f s b).hm.list = s.hm.list)
    (l : List β) (s : State) : (l.foldl f s).hm.list = s.hm.list := foldl_keeps (fun s => s.hm.list) h l s
@[simp] theorem foldl_hm_line {β : Type} {f : State → β → State} (h : ∀ s b, (f s b).hm.line = s.hm.line)
    (l : List β) (s : State) : (l.foldl f s).hm.line = s.hm.line := foldl_keeps (fun s => s.hm.line) h l s
@[simp] theorem foldl_hm_nextId {β : Type} {f : State → β → State} (h : ∀ s b, (f s b).hm.nextId = s.hm.nextId)
    (l : List β) (s : State) : (l.foldl f s).hm.nextId = s.hm.nextId := foldl_keeps (fun s => s.hm.nextId) h l s
@[simp] theorem foldl_tm {β : Type} {f : State → β → State} (h : ∀ s b, (f s b).tm = s.tm)
    (l : List β) (s : State) : (l.foldl f s).tm = s.tm := foldl_keeps (fun s => s.tm) h l s
@[simp] theorem foldl_tm_own {β : Type} {f : State → β → State} (h : ∀ s b, (f s b).tm.own = s.tm.own)
    (l : List β) (s : State) : (l.foldl f s).tm.own = s.tm.own := foldl_keeps (fun s => s.tm.own) h l s
@[simp] theorem foldl_tm_peer {β : Type} {f : State → β → State} (h : ∀ s b, (f s b).tm.peer = s.tm.peer)
    (l : List β) (s : State) : (l.foldl f s).tm.peer = s.tm.peer := foldl_keeps (fun s => s.tm.peer) h l s
@[simp] theorem foldl_tm_cylinder {β : Type} {f : State → β → State} (h : ∀ s b, (f s b).tm.cylinder = s.tm.cylinder)
    (l : List β) (s : State) : (l.foldl f s).tm.cylinder = s.tm.cylinder := foldl_keeps (fun s => s.tm.cylinder) h l s
@[simp] theorem foldl_tm_moving {β : Type} {f : State → β → State} (h : ∀ s b, (f s b).tm.moving = s.tm.moving)
    (l : List β) (s : State) : (l.foldl f s).tm.moving = s.tm.moving := foldl_keeps (fun s => s.tm.moving) h l s
@[simp] theorem foldl_tm_presence {β : Type} {f : State → β → State} (h : ∀ s b, (f s b).tm.presence = s.tm.presence)
    (l : List β) (s : State) : (l.foldl f s).tm.presence = s.tm.presence := foldl_keeps (fun s => s.tm.presence) h l s
@[simp] theorem foldl_tm_courtesy {β : Type} {f : State → β → State} (h : ∀ s b, (f s b).tm.courtesy = s.tm.courtesy)
    (l : List β) (s : State) : (l.foldl f s).tm.courtesy = s.tm.courtesy := foldl_keeps (fun s => s.tm.courtesy) h l s
@[simp] theorem foldl_tm_preemptMark {β : Type} {f : State → β → State} (h : ∀ s b, (f s b).tm.preemptMark = s.tm.preemptMark)
    (l : List β) (s : State) : (l.foldl f s).tm.preemptMark = s.tm.preemptMark := foldl_keeps (fun s => s.tm.preemptMark) h l s
@[simp] theorem foldl_tm_peerSeeks {β : Type} {f : State → β → State} (h : ∀ s b, (f s b).tm.peerSeeks = s.tm.peerSeeks)
    (l : List β) (s : State) : (l.foldl f s).tm.peerSeeks = s.tm.peerSeeks := foldl_keeps (fun s => s.tm.peerSeeks) h l s
@[simp] theorem foldl_lu {β : Type} {f : State → β → State} (h : ∀ s b, (f s b).lu = s.lu)
    (l : List β) (s : State) : (l.foldl f s).lu = s.lu := foldl_keeps (fun s => s.lu) h l s
@[simp] theorem foldl_lu_station {β : Type} {f : State → β → State} (h : ∀ s b, (f s b).lu.station = s.lu.station)
    (l : List β) (s : State) : (l.foldl f s).lu.station = s.lu.station := foldl_keeps (fun s => s.lu.station) h l s
@[simp] theorem foldl_lu_frames {β : Type} {f : State → β → State} (h : ∀ s b, (f s b).lu.frames = s.lu.frames)
    (l : List β) (s : State) : (l.foldl f s).lu.frames = s.lu.frames := foldl_keeps (fun s => s.lu.frames) h l s
@[simp] theorem foldl_lu_exchange {β : Type} {f : State → β → State} (h : ∀ s b, (f s b).lu.exchange = s.lu.exchange)
    (l : List β) (s : State) : (l.foldl f s).lu.exchange = s.lu.exchange := foldl_keeps (fun s => s.lu.exchange) h l s
@[simp] theorem foldl_lu_peerExchange {β : Type} {f : State → β → State} (h : ∀ s b, (f s b).lu.peerExchange = s.lu.peerExchange)
    (l : List β) (s : State) : (l.foldl f s).lu.peerExchange = s.lu.peerExchange := foldl_keeps (fun s => s.lu.peerExchange) h l s
@[simp] theorem foldl_lu_peerSeekFell {β : Type} {f : State → β → State} (h : ∀ s b, (f s b).lu.peerSeekFell = s.lu.peerSeekFell)
    (l : List β) (s : State) : (l.foldl f s).lu.peerSeekFell = s.lu.peerSeekFell := foldl_keeps (fun s => s.lu.peerSeekFell) h l s
@[simp] theorem foldl_lu_backoff {β : Type} {f : State → β → State} (h : ∀ s b, (f s b).lu.backoff = s.lu.backoff)
    (l : List β) (s : State) : (l.foldl f s).lu.backoff = s.lu.backoff := foldl_keeps (fun s => s.lu.backoff) h l s
@[simp] theorem foldl_lu_failedHeard {β : Type} {f : State → β → State} (h : ∀ s b, (f s b).lu.failedHeard = s.lu.failedHeard)
    (l : List β) (s : State) : (l.foldl f s).lu.failedHeard = s.lu.failedHeard := foldl_keeps (fun s => s.lu.failedHeard) h l s
@[simp] theorem foldl_lu_collisionCount {β : Type} {f : State → β → State} (h : ∀ s b, (f s b).lu.collisionCount = s.lu.collisionCount)
    (l : List β) (s : State) : (l.foldl f s).lu.collisionCount = s.lu.collisionCount := foldl_keeps (fun s => s.lu.collisionCount) h l s
@[simp] theorem foldl_lu_lastCollided {β : Type} {f : State → β → State} (h : ∀ s b, (f s b).lu.lastCollided = s.lu.lastCollided)
    (l : List β) (s : State) : (l.foldl f s).lu.lastCollided = s.lu.lastCollided := foldl_keeps (fun s => s.lu.lastCollided) h l s
@[simp] theorem foldl_lu_armed {β : Type} {f : State → β → State} (h : ∀ s b, (f s b).lu.armed = s.lu.armed)
    (l : List β) (s : State) : (l.foldl f s).lu.armed = s.lu.armed := foldl_keeps (fun s => s.lu.armed) h l s
@[simp] theorem foldl_rdm {β : Type} {f : State → β → State} (h : ∀ s b, (f s b).rdm = s.rdm)
    (l : List β) (s : State) : (l.foldl f s).rdm = s.rdm := foldl_keeps (fun s => s.rdm) h l s
@[simp] theorem foldl_rdm_counter {β : Type} {f : State → β → State} (h : ∀ s b, (f s b).rdm.counter = s.rdm.counter)
    (l : List β) (s : State) : (l.foldl f s).rdm.counter = s.rdm.counter := foldl_keeps (fun s => s.rdm.counter) h l s
@[simp] theorem foldl_rdm_timer {β : Type} {f : State → β → State} (h : ∀ s b, (f s b).rdm.timer = s.rdm.timer)
    (l : List β) (s : State) : (l.foldl f s).rdm.timer = s.rdm.timer := foldl_keeps (fun s => s.rdm.timer) h l s
@[simp] theorem foldl_rdm_synthRun {β : Type} {f : State → β → State} (h : ∀ s b, (f s b).rdm.synthRun = s.rdm.synthRun)
    (l : List β) (s : State) : (l.foldl f s).rdm.synthRun = s.rdm.synthRun := foldl_keeps (fun s => s.rdm.synthRun) h l s
@[simp] theorem foldl_rdm_revCount {β : Type} {f : State → β → State} (h : ∀ s b, (f s b).rdm.revCount = s.rdm.revCount)
    (l : List β) (s : State) : (l.foldl f s).rdm.revCount = s.rdm.revCount := foldl_keeps (fun s => s.rdm.revCount) h l s
@[simp] theorem foldl_rdm_lateLeft {β : Type} {f : State → β → State} (h : ∀ s b, (f s b).rdm.lateLeft = s.rdm.lateLeft)
    (l : List β) (s : State) : (l.foldl f s).rdm.lateLeft = s.rdm.lateLeft := foldl_keeps (fun s => s.rdm.lateLeft) h l s
@[simp] theorem foldl_rdm_lateSubstitute {β : Type} {f : State → β → State} (h : ∀ s b, (f s b).rdm.lateSubstitute = s.rdm.lateSubstitute)
    (l : List β) (s : State) : (l.foldl f s).rdm.lateSubstitute = s.rdm.lateSubstitute := foldl_keeps (fun s => s.rdm.lateSubstitute) h l s
@[simp] theorem foldl_rdm_ready {β : Type} {f : State → β → State} (h : ∀ s b, (f s b).rdm.ready = s.rdm.ready)
    (l : List β) (s : State) : (l.foldl f s).rdm.ready = s.rdm.ready := foldl_keeps (fun s => s.rdm.ready) h l s
@[simp] theorem foldl_rdm_onCylinder {β : Type} {f : State → β → State} (h : ∀ s b, (f s b).rdm.onCylinder = s.rdm.onCylinder)
    (l : List β) (s : State) : (l.foldl f s).rdm.onCylinder = s.rdm.onCylinder := foldl_keeps (fun s => s.rdm.onCylinder) h l s
@[simp] theorem foldl_rdm_drive {β : Type} {f : State → β → State} (h : ∀ s b, (f s b).rdm.drive = s.rdm.drive)
    (l : List β) (s : State) : (l.foldl f s).rdm.drive = s.rdm.drive := foldl_keeps (fun s => s.rdm.drive) h l s
@[simp] theorem foldl_rdm_recovery {β : Type} {f : State → β → State} (h : ∀ s b, (f s b).rdm.recovery = s.rdm.recovery)
    (l : List β) (s : State) : (l.foldl f s).rdm.recovery = s.rdm.recovery := foldl_keeps (fun s => s.rdm.recovery) h l s
@[simp] theorem foldl_rdm_resync {β : Type} {f : State → β → State} (h : ∀ s b, (f s b).rdm.resync = s.rdm.resync)
    (l : List β) (s : State) : (l.foldl f s).rdm.resync = s.rdm.resync := foldl_keeps (fun s => s.rdm.resync) h l s
@[simp] theorem foldl_rdm_silence {β : Type} {f : State → β → State} (h : ∀ s b, (f s b).rdm.silence = s.rdm.silence)
    (l : List β) (s : State) : (l.foldl f s).rdm.silence = s.rdm.silence := foldl_keeps (fun s => s.rdm.silence) h l s
@[simp] theorem foldl_rdm_slotSynthetic {β : Type} {f : State → β → State} (h : ∀ s b, (f s b).rdm.slotSynthetic = s.rdm.slotSynthetic)
    (l : List β) (s : State) : (l.foldl f s).rdm.slotSynthetic = s.rdm.slotSynthetic := foldl_keeps (fun s => s.rdm.slotSynthetic) h l s
@[simp] theorem foldl_out {β : Type} {f : State → β → State} (h : ∀ s b, (f s b).out = s.out)
    (l : List β) (s : State) : (l.foldl f s).out = s.out := foldl_keeps (fun s => s.out) h l s
@[simp] theorem foldl_pending {β : Type} {f : State → β → State} (h : ∀ s b, (f s b).pending = s.pending)
    (l : List β) (s : State) : (l.foldl f s).pending = s.pending := foldl_keeps (fun s => s.pending) h l s

/-! The clock (R182; log 49). -/

@[simp] theorem Tod.pass_running (t : Tod) : t.pass.running = t.running := rfl
@[simp] theorem Tod.pass_hours (t : Tod) : t.pass.hours = t.hours := rfl
@[simp] theorem Tod.pass_minutes (t : Tod) : t.pass.minutes = t.minutes := rfl
@[simp] theorem Tod.pass_seconds (t : Tod) : t.pass.seconds = t.seconds := rfl
@[simp] theorem Tod.pass_tenths (t : Tod) : t.pass.tenths = t.tenths := rfl
@[simp] theorem Tod.pass_left (t : Tod) : t.pass.left = t.left := rfl
@[simp] theorem Tod.pass_moment (t : Tod) : t.pass.moment = .past := rfl
@[simp] theorem Tod.pass_stamp (t : Tod) : t.pass.stamp = t.stamp := rfl
@[simp] theorem Tod.pass_pass (t : Tod) : t.pass.pass = t.pass := rfl

theorem Tod.due_cases (t : Tod) :
    t.due = t ∧ t.running = false ∨
      t.due = { t with moment := .advanced } ∧ t.running = true ∧ t.moment = .loaded ∨
      t.due = t.advance ∧ t.running = true ∧ t.moment ≠ .loaded := by
  simp only [Tod.due]
  split <;> cases h : t.running <;> simp_all [Tod.advance]

end Sys2Proof.Machine
end

