-- ==== Sys2Proof/Laws/Blocks.lean ====
section
/-! SUPPORT. What each shared operation of the Host Port, Hold Manager, Work Queue and Tenure Manager leaves unchanged. -/

namespace Sys2Proof.Machine

open Sys2Proof

/-! The named operations and completions. -/

@[simp] theorem State.emit_frame (s : State) (o : Output) :
    (s.emit o).hp = s.hp ∧ (s.emit o).chains = s.chains ∧ (s.emit o).ec = s.ec ∧ (s.emit o).wq = s.wq ∧
    (s.emit o).te = s.te ∧ (s.emit o).hm = s.hm ∧ (s.emit o).tm = s.tm ∧ (s.emit o).lu = s.lu ∧
    (s.emit o).rdm = s.rdm ∧ (s.emit o).pending = s.pending := by
  simp only [State.emit]
  simp

@[simp] theorem State.appendOut_frame (s : State) (l : List Output) :
    (s.appendOut l).hp = s.hp ∧ (s.appendOut l).chains = s.chains ∧ (s.appendOut l).ec = s.ec ∧
    (s.appendOut l).wq = s.wq ∧ (s.appendOut l).te = s.te ∧ (s.appendOut l).hm = s.hm ∧ (s.appendOut l).tm = s.tm ∧
    (s.appendOut l).lu = s.lu ∧ (s.appendOut l).rdm = s.rdm ∧ (s.appendOut l).pending = s.pending := by
  simp only [State.appendOut]
  simp

@[simp] theorem State.begin_frame (s : State) :
    s.begin.hp = s.hp ∧ s.begin.chains = s.chains ∧ s.begin.ec = s.ec ∧ s.begin.wq = s.wq ∧ s.begin.te = s.te ∧
    s.begin.hm = s.hm ∧ s.begin.tm = s.tm ∧ s.begin.lu = s.lu ∧ s.begin.rdm = s.rdm ∧ s.begin.pending = s.pending := by
  simp only [State.begin]
  simp

@[simp] theorem State.onChain_frame (s : State) (n : Fin 4) (f : Chain → Chain) :
    (s.onChain n f).hp = s.hp ∧ (s.onChain n f).ec = s.ec ∧ (s.onChain n f).wq = s.wq ∧ (s.onChain n f).te = s.te ∧
    (s.onChain n f).hm = s.hm ∧ (s.onChain n f).tm = s.tm ∧ (s.onChain n f).lu = s.lu ∧
    (s.onChain n f).rdm = s.rdm ∧ (s.onChain n f).out = s.out ∧ (s.onChain n f).pending = s.pending := by
  simp only [State.onChain]
  simp

@[simp] theorem State.raise_frame (s : State) (a : Attention) :
    (s.raise a).hp.address = s.hp.address ∧ (s.raise a).hp.adapter = s.hp.adapter ∧
    (s.raise a).hp.maintaining = s.hp.maintaining ∧ (s.raise a).hp.refusal = s.hp.refusal ∧
    (s.raise a).hp.mask = s.hp.mask ∧ (s.raise a).hp.progress = s.hp.progress ∧ (s.raise a).hp.setup = s.hp.setup ∧
    (s.raise a).hp.waiting = s.hp.waiting ∧ (s.raise a).hp.current = s.hp.current ∧
    (s.raise a).hp.heldBack = s.hp.heldBack ∧ (s.raise a).hp.tod = s.hp.tod ∧ (s.raise a).chains = s.chains ∧
    (s.raise a).ec = s.ec ∧ (s.raise a).wq = s.wq ∧ (s.raise a).te = s.te ∧ (s.raise a).hm = s.hm ∧
    (s.raise a).tm = s.tm ∧ (s.raise a).lu = s.lu ∧ (s.raise a).rdm = s.rdm ∧ (s.raise a).out = s.out ∧
    (s.raise a).pending = s.pending := by
  simp only [State.raise]
  simp

@[simp] theorem State.refuse_frame (s : State) (c : RefusalCode) :
    (s.refuse c).hp.address = s.hp.address ∧ (s.refuse c).hp.adapter = s.hp.adapter ∧
    (s.refuse c).hp.maintaining = s.hp.maintaining ∧ (s.refuse c).hp.events = s.hp.events ∧
    (s.refuse c).hp.mask = s.hp.mask ∧ (s.refuse c).hp.progress = s.hp.progress ∧
    (s.refuse c).hp.setup = s.hp.setup ∧ (s.refuse c).hp.waiting = s.hp.waiting ∧
    (s.refuse c).hp.current = s.hp.current ∧ (s.refuse c).hp.heldBack = s.hp.heldBack ∧
    (s.refuse c).hp.tod = s.hp.tod ∧ (s.refuse c).chains = s.chains ∧ (s.refuse c).ec = s.ec ∧
    (s.refuse c).wq = s.wq ∧ (s.refuse c).te = s.te ∧ (s.refuse c).hm = s.hm ∧ (s.refuse c).tm = s.tm ∧
    (s.refuse c).lu = s.lu ∧ (s.refuse c).rdm = s.rdm ∧ (s.refuse c).out = s.out ∧ (s.refuse c).pending = s.pending := by
  simp only [State.refuse]
  simp

@[simp] theorem State.askTransfer_frame (s : State) (t : Transfer) :
    (s.askTransfer t).hp.address = s.hp.address ∧ (s.askTransfer t).hp.adapter = s.hp.adapter ∧
    (s.askTransfer t).hp.maintaining = s.hp.maintaining ∧ (s.askTransfer t).hp.refusal = s.hp.refusal ∧
    (s.askTransfer t).hp.events = s.hp.events ∧ (s.askTransfer t).hp.mask = s.hp.mask ∧
    (s.askTransfer t).hp.progress = s.hp.progress ∧ (s.askTransfer t).hp.setup = s.hp.setup ∧
    (s.askTransfer t).hp.current = s.hp.current ∧ (s.askTransfer t).hp.heldBack = s.hp.heldBack ∧
    (s.askTransfer t).hp.tod = s.hp.tod ∧ (s.askTransfer t).chains = s.chains ∧ (s.askTransfer t).ec = s.ec ∧
    (s.askTransfer t).wq = s.wq ∧ (s.askTransfer t).te = s.te ∧ (s.askTransfer t).hm = s.hm ∧
    (s.askTransfer t).tm = s.tm ∧ (s.askTransfer t).lu = s.lu ∧ (s.askTransfer t).rdm = s.rdm ∧
    (s.askTransfer t).out = s.out ∧ (s.askTransfer t).pending = s.pending := by
  simp only [State.askTransfer]
  simp

@[simp] theorem State.withdrawTransfer_frame (s : State) (t : Transfer) :
    (s.withdrawTransfer t).hp.address = s.hp.address ∧ (s.withdrawTransfer t).hp.adapter = s.hp.adapter ∧
    (s.withdrawTransfer t).hp.maintaining = s.hp.maintaining ∧ (s.withdrawTransfer t).hp.refusal = s.hp.refusal ∧
    (s.withdrawTransfer t).hp.events = s.hp.events ∧ (s.withdrawTransfer t).hp.mask = s.hp.mask ∧
    (s.withdrawTransfer t).hp.progress = s.hp.progress ∧ (s.withdrawTransfer t).hp.setup = s.hp.setup ∧
    (s.withdrawTransfer t).hp.current = s.hp.current ∧ (s.withdrawTransfer t).hp.heldBack = s.hp.heldBack ∧
    (s.withdrawTransfer t).hp.tod = s.hp.tod ∧ (s.withdrawTransfer t).chains = s.chains ∧
    (s.withdrawTransfer t).ec = s.ec ∧ (s.withdrawTransfer t).wq = s.wq ∧ (s.withdrawTransfer t).te = s.te ∧
    (s.withdrawTransfer t).hm = s.hm ∧ (s.withdrawTransfer t).tm = s.tm ∧ (s.withdrawTransfer t).lu = s.lu ∧
    (s.withdrawTransfer t).rdm = s.rdm ∧ (s.withdrawTransfer t).out = s.out ∧
    (s.withdrawTransfer t).pending = s.pending := by
  simp only [State.withdrawTransfer]
  simp

@[simp] theorem State.endTransfer_frame (s : State) :
    s.endTransfer.hp.address = s.hp.address ∧ s.endTransfer.hp.adapter = s.hp.adapter ∧
    s.endTransfer.hp.maintaining = s.hp.maintaining ∧ s.endTransfer.hp.refusal = s.hp.refusal ∧
    s.endTransfer.hp.events = s.hp.events ∧ s.endTransfer.hp.mask = s.hp.mask ∧
    s.endTransfer.hp.progress = s.hp.progress ∧ s.endTransfer.hp.setup = s.hp.setup ∧
    s.endTransfer.hp.waiting = s.hp.waiting ∧ s.endTransfer.hp.heldBack = s.hp.heldBack ∧
    s.endTransfer.hp.tod = s.hp.tod ∧ s.endTransfer.chains = s.chains ∧ s.endTransfer.ec = s.ec ∧
    s.endTransfer.wq = s.wq ∧ s.endTransfer.te = s.te ∧ s.endTransfer.hm = s.hm ∧ s.endTransfer.tm = s.tm ∧
    s.endTransfer.lu = s.lu ∧ s.endTransfer.rdm = s.rdm ∧ s.endTransfer.out = s.out ∧
    s.endTransfer.pending = s.pending := by
  simp only [State.endTransfer]
  simp

@[simp] theorem State.onDescriptor_frame (s : State) (t : Table) (i : Nat) (f : Descriptor → Descriptor) :
    (s.onDescriptor t i f).hp = s.hp ∧ (s.onDescriptor t i f).chains = s.chains ∧
    (s.onDescriptor t i f).wq = s.wq ∧ (s.onDescriptor t i f).te = s.te ∧ (s.onDescriptor t i f).hm = s.hm ∧
    (s.onDescriptor t i f).tm = s.tm ∧ (s.onDescriptor t i f).lu = s.lu ∧ (s.onDescriptor t i f).rdm = s.rdm ∧
    (s.onDescriptor t i f).out = s.out ∧ (s.onDescriptor t i f).pending = s.pending := by
  simp only [State.onDescriptor]
  simp

@[simp] theorem State.onRequest_frame (s : State) (id : Nat) (f : Request → Request) :
    (s.onRequest id f).hp = s.hp ∧ (s.onRequest id f).chains = s.chains ∧ (s.onRequest id f).ec = s.ec ∧
    (s.onRequest id f).te = s.te ∧ (s.onRequest id f).hm = s.hm ∧ (s.onRequest id f).tm = s.tm ∧
    (s.onRequest id f).lu = s.lu ∧ (s.onRequest id f).rdm = s.rdm ∧ (s.onRequest id f).out = s.out ∧
    (s.onRequest id f).pending = s.pending := by
  simp only [State.onRequest]
  simp

@[simp] theorem State.dropRequest_frame (s : State) (id : Nat) :
    (s.dropRequest id).hp = s.hp ∧ (s.dropRequest id).chains = s.chains ∧ (s.dropRequest id).ec = s.ec ∧
    (s.dropRequest id).wq.nextId = s.wq.nextId ∧ (s.dropRequest id).te = s.te ∧ (s.dropRequest id).hm = s.hm ∧
    (s.dropRequest id).tm = s.tm ∧ (s.dropRequest id).lu = s.lu ∧ (s.dropRequest id).rdm = s.rdm ∧
    (s.dropRequest id).out = s.out ∧ (s.dropRequest id).pending = s.pending := by
  simp only [State.dropRequest]
  simp

@[simp] theorem State.onActive_frame (s : State) (f : Request → Request) :
    (s.onActive f).hp = s.hp ∧ (s.onActive f).chains = s.chains ∧ (s.onActive f).ec = s.ec ∧
    (s.onActive f).te = s.te ∧ (s.onActive f).hm = s.hm ∧ (s.onActive f).tm = s.tm ∧ (s.onActive f).lu = s.lu ∧
    (s.onActive f).rdm = s.rdm ∧ (s.onActive f).out = s.out ∧ (s.onActive f).pending = s.pending := by
  simp only [State.onActive]
  (repeat' split) <;> simp

@[simp] theorem State.onEntry_frame (s : State) (id : Nat) (f : HoldEntry → HoldEntry) :
    (s.onEntry id f).hp = s.hp ∧ (s.onEntry id f).chains = s.chains ∧ (s.onEntry id f).ec = s.ec ∧
    (s.onEntry id f).wq = s.wq ∧ (s.onEntry id f).te = s.te ∧ (s.onEntry id f).tm = s.tm ∧
    (s.onEntry id f).lu = s.lu ∧ (s.onEntry id f).rdm = s.rdm ∧ (s.onEntry id f).out = s.out ∧
    (s.onEntry id f).pending = s.pending := by
  simp only [State.onEntry]
  simp

@[simp] theorem State.offer_frame (s : State) (b : FrameBody) :
    (s.offer b).hp = s.hp ∧ (s.offer b).chains = s.chains ∧ (s.offer b).ec = s.ec ∧ (s.offer b).wq = s.wq ∧
    (s.offer b).te = s.te ∧ (s.offer b).hm = s.hm ∧ (s.offer b).tm = s.tm ∧ (s.offer b).lu.station = s.lu.station ∧
    (s.offer b).lu.exchange = s.lu.exchange ∧ (s.offer b).lu.peerExchange = s.lu.peerExchange ∧
    (s.offer b).lu.peerSeekFell = s.lu.peerSeekFell ∧ (s.offer b).lu.backoff = s.lu.backoff ∧
    (s.offer b).lu.failedHeard = s.lu.failedHeard ∧ (s.offer b).lu.collisionCount = s.lu.collisionCount ∧
    (s.offer b).lu.lastCollided = s.lu.lastCollided ∧ (s.offer b).lu.armed = s.lu.armed ∧ (s.offer b).rdm = s.rdm ∧
    (s.offer b).out = s.out ∧ (s.offer b).pending = s.pending := by
  simp only [State.offer]
  (repeat' split) <;> simp

@[simp] theorem State.withdraw_frame (s : State) (p : FrameBody → Bool) :
    (s.withdraw p).hp = s.hp ∧ (s.withdraw p).chains = s.chains ∧ (s.withdraw p).ec = s.ec ∧
    (s.withdraw p).wq = s.wq ∧ (s.withdraw p).te = s.te ∧ (s.withdraw p).hm = s.hm ∧ (s.withdraw p).tm = s.tm ∧
    (s.withdraw p).lu.station = s.lu.station ∧ (s.withdraw p).lu.exchange = s.lu.exchange ∧
    (s.withdraw p).lu.peerExchange = s.lu.peerExchange ∧ (s.withdraw p).lu.peerSeekFell = s.lu.peerSeekFell ∧
    (s.withdraw p).lu.backoff = s.lu.backoff ∧ (s.withdraw p).lu.failedHeard = s.lu.failedHeard ∧
    (s.withdraw p).lu.collisionCount = s.lu.collisionCount ∧ (s.withdraw p).lu.lastCollided = s.lu.lastCollided ∧
    (s.withdraw p).lu.armed = s.lu.armed ∧ (s.withdraw p).rdm = s.rdm ∧ (s.withdraw p).out = s.out ∧
    (s.withdraw p).pending = s.pending := by
  simp only [State.withdraw]
  simp

@[simp] theorem State.complete_frame (s : State) (c : Completion) :
    (s.complete c).hp.address = s.hp.address ∧ (s.complete c).hp.adapter = s.hp.adapter ∧
    (s.complete c).hp.maintaining = s.hp.maintaining ∧ (s.complete c).hp.refusal = s.hp.refusal ∧
    (s.complete c).hp.events = s.hp.events ∧ (s.complete c).hp.mask = s.hp.mask ∧
    (s.complete c).hp.progress = s.hp.progress ∧ (s.complete c).hp.setup = s.hp.setup ∧
    (s.complete c).hp.current = s.hp.current ∧ (s.complete c).hp.heldBack = s.hp.heldBack ∧
    (s.complete c).hp.tod = s.hp.tod ∧ (s.complete c).chains = s.chains ∧ (s.complete c).ec = s.ec ∧
    (s.complete c).wq = s.wq ∧ (s.complete c).te = s.te ∧ (s.complete c).hm = s.hm ∧ (s.complete c).tm = s.tm ∧
    (s.complete c).lu = s.lu ∧ (s.complete c).rdm = s.rdm ∧ (s.complete c).out = s.out ∧
    (s.complete c).pending = s.pending := by
  simp only [State.complete]
  simp

@[simp] theorem State.completePlain_frame (s : State) (i : ElemInfo) (st : Status) (f : Option ElementFault)
    (place : Option (Table × Nat)) :
    (s.completePlain i st f place).hp.address = s.hp.address ∧
    (s.completePlain i st f place).hp.adapter = s.hp.adapter ∧
    (s.completePlain i st f place).hp.maintaining = s.hp.maintaining ∧
    (s.completePlain i st f place).hp.refusal = s.hp.refusal ∧
    (s.completePlain i st f place).hp.events = s.hp.events ∧ (s.completePlain i st f place).hp.mask = s.hp.mask ∧
    (s.completePlain i st f place).hp.progress = s.hp.progress ∧
    (s.completePlain i st f place).hp.setup = s.hp.setup ∧
    (s.completePlain i st f place).hp.current = s.hp.current ∧
    (s.completePlain i st f place).hp.heldBack = s.hp.heldBack ∧ (s.completePlain i st f place).hp.tod = s.hp.tod ∧
    (s.completePlain i st f place).chains = s.chains ∧ (s.completePlain i st f place).ec = s.ec ∧
    (s.completePlain i st f place).wq = s.wq ∧ (s.completePlain i st f place).te = s.te ∧
    (s.completePlain i st f place).hm = s.hm ∧ (s.completePlain i st f place).tm = s.tm ∧
    (s.completePlain i st f place).lu = s.lu ∧ (s.completePlain i st f place).rdm = s.rdm ∧
    (s.completePlain i st f place).out = s.out ∧ (s.completePlain i st f place).pending = s.pending := by
  simp only [State.completePlain]
  simp

@[simp] theorem State.completeOnlyF_frame (s : State) (i : ElemInfo) (f : ElementFault) (p : Bool) (place : Option
    (Table × Nat)) :
    (s.completeOnlyF i f p place).hp.address = s.hp.address ∧
    (s.completeOnlyF i f p place).hp.adapter = s.hp.adapter ∧
    (s.completeOnlyF i f p place).hp.maintaining = s.hp.maintaining ∧
    (s.completeOnlyF i f p place).hp.refusal = s.hp.refusal ∧
    (s.completeOnlyF i f p place).hp.events = s.hp.events ∧ (s.completeOnlyF i f p place).hp.mask = s.hp.mask ∧
    (s.completeOnlyF i f p place).hp.progress = s.hp.progress ∧
    (s.completeOnlyF i f p place).hp.setup = s.hp.setup ∧ (s.completeOnlyF i f p place).hp.current = s.hp.current ∧
    (s.completeOnlyF i f p place).hp.heldBack = s.hp.heldBack ∧ (s.completeOnlyF i f p place).hp.tod = s.hp.tod ∧
    (s.completeOnlyF i f p place).chains = s.chains ∧ (s.completeOnlyF i f p place).ec = s.ec ∧
    (s.completeOnlyF i f p place).wq = s.wq ∧ (s.completeOnlyF i f p place).te = s.te ∧
    (s.completeOnlyF i f p place).hm = s.hm ∧ (s.completeOnlyF i f p place).tm = s.tm ∧
    (s.completeOnlyF i f p place).lu = s.lu ∧ (s.completeOnlyF i f p place).rdm = s.rdm ∧
    (s.completeOnlyF i f p place).out = s.out ∧ (s.completeOnlyF i f p place).pending = s.pending := by
  simp only [State.completeOnlyF]
  simp

@[simp] theorem State.completeAfterData_frame (s : State) (id : Nat) (c : Completion) :
    (s.completeAfterData id c).hp.address = s.hp.address ∧ (s.completeAfterData id c).hp.adapter = s.hp.adapter ∧
    (s.completeAfterData id c).hp.maintaining = s.hp.maintaining ∧
    (s.completeAfterData id c).hp.refusal = s.hp.refusal ∧ (s.completeAfterData id c).hp.events = s.hp.events ∧
    (s.completeAfterData id c).hp.mask = s.hp.mask ∧ (s.completeAfterData id c).hp.progress = s.hp.progress ∧
    (s.completeAfterData id c).hp.setup = s.hp.setup ∧ (s.completeAfterData id c).hp.current = s.hp.current ∧
    (s.completeAfterData id c).hp.tod = s.hp.tod ∧ (s.completeAfterData id c).chains = s.chains ∧
    (s.completeAfterData id c).ec = s.ec ∧ (s.completeAfterData id c).wq = s.wq ∧
    (s.completeAfterData id c).te = s.te ∧ (s.completeAfterData id c).hm = s.hm ∧
    (s.completeAfterData id c).tm = s.tm ∧ (s.completeAfterData id c).lu = s.lu ∧
    (s.completeAfterData id c).rdm = s.rdm ∧ (s.completeAfterData id c).out = s.out ∧
    (s.completeAfterData id c).pending = s.pending := by
  simp only [State.completeAfterData]
  (repeat' split) <;> simp

@[simp] theorem State.askHeldBack_frame (s : State) (id : Nat) :
    (s.askHeldBack id).hp.address = s.hp.address ∧ (s.askHeldBack id).hp.adapter = s.hp.adapter ∧
    (s.askHeldBack id).hp.maintaining = s.hp.maintaining ∧ (s.askHeldBack id).hp.refusal = s.hp.refusal ∧
    (s.askHeldBack id).hp.events = s.hp.events ∧ (s.askHeldBack id).hp.mask = s.hp.mask ∧
    (s.askHeldBack id).hp.progress = s.hp.progress ∧ (s.askHeldBack id).hp.setup = s.hp.setup ∧
    (s.askHeldBack id).hp.current = s.hp.current ∧ (s.askHeldBack id).hp.tod = s.hp.tod ∧
    (s.askHeldBack id).chains = s.chains ∧ (s.askHeldBack id).ec = s.ec ∧ (s.askHeldBack id).wq = s.wq ∧
    (s.askHeldBack id).te = s.te ∧ (s.askHeldBack id).hm = s.hm ∧ (s.askHeldBack id).tm = s.tm ∧
    (s.askHeldBack id).lu = s.lu ∧ (s.askHeldBack id).rdm = s.rdm ∧ (s.askHeldBack id).out = s.out ∧
    (s.askHeldBack id).pending = s.pending := by
  simp only [State.askHeldBack]
  (repeat' split) <;> simp

/-! The Hold Manager (Section 8). -/

@[simp] theorem State.wakeRequests_frame (s : State) (id : Nat) :
    (s.wakeRequests id).hp = s.hp ∧ (s.wakeRequests id).chains = s.chains ∧ (s.wakeRequests id).ec = s.ec ∧
    (s.wakeRequests id).wq.nextId = s.wq.nextId ∧ (s.wakeRequests id).te = s.te ∧ (s.wakeRequests id).hm = s.hm ∧
    (s.wakeRequests id).tm = s.tm ∧ (s.wakeRequests id).lu = s.lu ∧ (s.wakeRequests id).rdm = s.rdm ∧
    (s.wakeRequests id).out = s.out ∧ (s.wakeRequests id).pending = s.pending := by
  simp only [State.wakeRequests]
  simp

@[simp] theorem State.completeHold_frame (s : State) (e : HoldEntry) (st : Status) (f : Option ElementFault)
    (p : Bool) :
    (s.completeHold e st f p).hp.address = s.hp.address ∧ (s.completeHold e st f p).hp.adapter = s.hp.adapter ∧
    (s.completeHold e st f p).hp.maintaining = s.hp.maintaining ∧
    (s.completeHold e st f p).hp.refusal = s.hp.refusal ∧ (s.completeHold e st f p).hp.events = s.hp.events ∧
    (s.completeHold e st f p).hp.mask = s.hp.mask ∧ (s.completeHold e st f p).hp.progress = s.hp.progress ∧
    (s.completeHold e st f p).hp.setup = s.hp.setup ∧ (s.completeHold e st f p).hp.current = s.hp.current ∧
    (s.completeHold e st f p).hp.heldBack = s.hp.heldBack ∧ (s.completeHold e st f p).hp.tod = s.hp.tod ∧
    (s.completeHold e st f p).chains = s.chains ∧ (s.completeHold e st f p).ec = s.ec ∧
    (s.completeHold e st f p).wq = s.wq ∧ (s.completeHold e st f p).te = s.te ∧
    (s.completeHold e st f p).hm = s.hm ∧ (s.completeHold e st f p).tm = s.tm ∧
    (s.completeHold e st f p).lu = s.lu ∧ (s.completeHold e st f p).rdm = s.rdm ∧
    (s.completeHold e st f p).out = s.out ∧ (s.completeHold e st f p).pending = s.pending := by
  simp only [State.completeHold]
  (repeat' split) <;> simp

@[simp] theorem State.becomeHeld_frame (s : State) (id : Nat) (silent : Bool) :
    (s.becomeHeld id silent).hp.address = s.hp.address ∧ (s.becomeHeld id silent).hp.adapter = s.hp.adapter ∧
    (s.becomeHeld id silent).hp.maintaining = s.hp.maintaining ∧
    (s.becomeHeld id silent).hp.refusal = s.hp.refusal ∧ (s.becomeHeld id silent).hp.events = s.hp.events ∧
    (s.becomeHeld id silent).hp.mask = s.hp.mask ∧ (s.becomeHeld id silent).hp.progress = s.hp.progress ∧
    (s.becomeHeld id silent).hp.setup = s.hp.setup ∧ (s.becomeHeld id silent).hp.current = s.hp.current ∧
    (s.becomeHeld id silent).hp.heldBack = s.hp.heldBack ∧ (s.becomeHeld id silent).hp.tod = s.hp.tod ∧
    (s.becomeHeld id silent).chains = s.chains ∧ (s.becomeHeld id silent).ec = s.ec ∧
    (s.becomeHeld id silent).wq.nextId = s.wq.nextId ∧ (s.becomeHeld id silent).te = s.te ∧
    (s.becomeHeld id silent).tm = s.tm ∧ (s.becomeHeld id silent).lu = s.lu ∧
    (s.becomeHeld id silent).rdm = s.rdm ∧ (s.becomeHeld id silent).out = s.out ∧
    (s.becomeHeld id silent).pending = s.pending := by
  simp only [State.becomeHeld]
  (repeat' split) <;> simp

@[simp] theorem State.joinList_frame (s : State) (e : HoldEntry) :
    (s.joinList e).hp.address = s.hp.address ∧ (s.joinList e).hp.adapter = s.hp.adapter ∧
    (s.joinList e).hp.maintaining = s.hp.maintaining ∧ (s.joinList e).hp.refusal = s.hp.refusal ∧
    (s.joinList e).hp.events = s.hp.events ∧ (s.joinList e).hp.mask = s.hp.mask ∧
    (s.joinList e).hp.progress = s.hp.progress ∧ (s.joinList e).hp.setup = s.hp.setup ∧
    (s.joinList e).hp.current = s.hp.current ∧ (s.joinList e).hp.heldBack = s.hp.heldBack ∧
    (s.joinList e).hp.tod = s.hp.tod ∧ (s.joinList e).chains = s.chains ∧ (s.joinList e).ec = s.ec ∧
    (s.joinList e).wq.nextId = s.wq.nextId ∧ (s.joinList e).te = s.te ∧ (s.joinList e).tm = s.tm ∧
    (s.joinList e).lu.station = s.lu.station ∧ (s.joinList e).lu.exchange = s.lu.exchange ∧
    (s.joinList e).lu.peerExchange = s.lu.peerExchange ∧ (s.joinList e).lu.peerSeekFell = s.lu.peerSeekFell ∧
    (s.joinList e).lu.backoff = s.lu.backoff ∧ (s.joinList e).lu.failedHeard = s.lu.failedHeard ∧
    (s.joinList e).lu.collisionCount = s.lu.collisionCount ∧ (s.joinList e).lu.lastCollided = s.lu.lastCollided ∧
    (s.joinList e).lu.armed = s.lu.armed ∧ (s.joinList e).rdm = s.rdm ∧ (s.joinList e).out = s.out ∧
    (s.joinList e).pending = s.pending := by
  simp only [State.joinList]
  (repeat' split) <;> simp

@[simp] theorem State.placeEntry_frame (s : State) (e : HoldEntry) :
    (s.placeEntry e).hp.address = s.hp.address ∧ (s.placeEntry e).hp.adapter = s.hp.adapter ∧
    (s.placeEntry e).hp.maintaining = s.hp.maintaining ∧ (s.placeEntry e).hp.refusal = s.hp.refusal ∧
    (s.placeEntry e).hp.events = s.hp.events ∧ (s.placeEntry e).hp.mask = s.hp.mask ∧
    (s.placeEntry e).hp.progress = s.hp.progress ∧ (s.placeEntry e).hp.setup = s.hp.setup ∧
    (s.placeEntry e).hp.current = s.hp.current ∧ (s.placeEntry e).hp.heldBack = s.hp.heldBack ∧
    (s.placeEntry e).hp.tod = s.hp.tod ∧ (s.placeEntry e).chains = s.chains ∧ (s.placeEntry e).ec = s.ec ∧
    (s.placeEntry e).wq.nextId = s.wq.nextId ∧ (s.placeEntry e).te = s.te ∧ (s.placeEntry e).tm = s.tm ∧
    (s.placeEntry e).lu.station = s.lu.station ∧ (s.placeEntry e).lu.exchange = s.lu.exchange ∧
    (s.placeEntry e).lu.peerExchange = s.lu.peerExchange ∧ (s.placeEntry e).lu.peerSeekFell = s.lu.peerSeekFell ∧
    (s.placeEntry e).lu.backoff = s.lu.backoff ∧ (s.placeEntry e).lu.failedHeard = s.lu.failedHeard ∧
    (s.placeEntry e).lu.collisionCount = s.lu.collisionCount ∧
    (s.placeEntry e).lu.lastCollided = s.lu.lastCollided ∧ (s.placeEntry e).lu.armed = s.lu.armed ∧
    (s.placeEntry e).rdm = s.rdm ∧ (s.placeEntry e).out = s.out ∧ (s.placeEntry e).pending = s.pending := by
  simp only [State.placeEntry]
  (repeat' split) <;> simp

@[simp] theorem State.recheckEntry_frame (s : State) (e : HoldEntry) :
    (s.recheckEntry e).hp.address = s.hp.address ∧ (s.recheckEntry e).hp.adapter = s.hp.adapter ∧
    (s.recheckEntry e).hp.maintaining = s.hp.maintaining ∧ (s.recheckEntry e).hp.refusal = s.hp.refusal ∧
    (s.recheckEntry e).hp.events = s.hp.events ∧ (s.recheckEntry e).hp.mask = s.hp.mask ∧
    (s.recheckEntry e).hp.progress = s.hp.progress ∧ (s.recheckEntry e).hp.setup = s.hp.setup ∧
    (s.recheckEntry e).hp.current = s.hp.current ∧ (s.recheckEntry e).hp.heldBack = s.hp.heldBack ∧
    (s.recheckEntry e).hp.tod = s.hp.tod ∧ (s.recheckEntry e).chains = s.chains ∧ (s.recheckEntry e).ec = s.ec ∧
    (s.recheckEntry e).wq.nextId = s.wq.nextId ∧ (s.recheckEntry e).te = s.te ∧ (s.recheckEntry e).tm = s.tm ∧
    (s.recheckEntry e).lu.station = s.lu.station ∧ (s.recheckEntry e).lu.exchange = s.lu.exchange ∧
    (s.recheckEntry e).lu.peerExchange = s.lu.peerExchange ∧
    (s.recheckEntry e).lu.peerSeekFell = s.lu.peerSeekFell ∧ (s.recheckEntry e).lu.backoff = s.lu.backoff ∧
    (s.recheckEntry e).lu.failedHeard = s.lu.failedHeard ∧
    (s.recheckEntry e).lu.collisionCount = s.lu.collisionCount ∧
    (s.recheckEntry e).lu.lastCollided = s.lu.lastCollided ∧ (s.recheckEntry e).lu.armed = s.lu.armed ∧
    (s.recheckEntry e).rdm = s.rdm ∧ (s.recheckEntry e).out = s.out ∧ (s.recheckEntry e).pending = s.pending := by
  simp only [State.recheckEntry]
  (repeat' split) <;> simp

@[simp] theorem State.recheckLine_frame (s : State) :
    s.recheckLine.hp.address = s.hp.address ∧ s.recheckLine.hp.adapter = s.hp.adapter ∧
    s.recheckLine.hp.maintaining = s.hp.maintaining ∧ s.recheckLine.hp.refusal = s.hp.refusal ∧
    s.recheckLine.hp.events = s.hp.events ∧ s.recheckLine.hp.mask = s.hp.mask ∧
    s.recheckLine.hp.progress = s.hp.progress ∧ s.recheckLine.hp.setup = s.hp.setup ∧
    s.recheckLine.hp.current = s.hp.current ∧ s.recheckLine.hp.heldBack = s.hp.heldBack ∧
    s.recheckLine.hp.tod = s.hp.tod ∧ s.recheckLine.chains = s.chains ∧ s.recheckLine.ec = s.ec ∧
    s.recheckLine.wq.nextId = s.wq.nextId ∧ s.recheckLine.te = s.te ∧ s.recheckLine.tm = s.tm ∧
    s.recheckLine.lu.station = s.lu.station ∧ s.recheckLine.lu.exchange = s.lu.exchange ∧
    s.recheckLine.lu.peerExchange = s.lu.peerExchange ∧ s.recheckLine.lu.peerSeekFell = s.lu.peerSeekFell ∧
    s.recheckLine.lu.backoff = s.lu.backoff ∧ s.recheckLine.lu.failedHeard = s.lu.failedHeard ∧
    s.recheckLine.lu.collisionCount = s.lu.collisionCount ∧ s.recheckLine.lu.lastCollided = s.lu.lastCollided ∧
    s.recheckLine.lu.armed = s.lu.armed ∧ s.recheckLine.rdm = s.rdm ∧ s.recheckLine.out = s.out ∧
    s.recheckLine.pending = s.pending := by
  simp only [State.recheckLine]
  simp

@[simp] theorem State.settleClaim_frame (s : State) (id : Nat) :
    (s.settleClaim id).hp = s.hp ∧ (s.settleClaim id).chains = s.chains ∧ (s.settleClaim id).ec = s.ec ∧
    (s.settleClaim id).wq = s.wq ∧ (s.settleClaim id).te = s.te ∧ (s.settleClaim id).hm = s.hm ∧
    (s.settleClaim id).tm = s.tm ∧ (s.settleClaim id).lu.station = s.lu.station ∧
    (s.settleClaim id).lu.exchange = s.lu.exchange ∧ (s.settleClaim id).lu.peerExchange = s.lu.peerExchange ∧
    (s.settleClaim id).lu.peerSeekFell = s.lu.peerSeekFell ∧ (s.settleClaim id).lu.backoff = s.lu.backoff ∧
    (s.settleClaim id).lu.failedHeard = s.lu.failedHeard ∧
    (s.settleClaim id).lu.collisionCount = s.lu.collisionCount ∧
    (s.settleClaim id).lu.lastCollided = s.lu.lastCollided ∧ (s.settleClaim id).lu.armed = s.lu.armed ∧
    (s.settleClaim id).rdm = s.rdm ∧ (s.settleClaim id).out = s.out ∧ (s.settleClaim id).pending = s.pending := by
  simp only [State.settleClaim]
  simp

@[simp] theorem State.removeEntry_frame (s : State) (e : HoldEntry) :
    (s.removeEntry e).hp.address = s.hp.address ∧ (s.removeEntry e).hp.adapter = s.hp.adapter ∧
    (s.removeEntry e).hp.maintaining = s.hp.maintaining ∧ (s.removeEntry e).hp.refusal = s.hp.refusal ∧
    (s.removeEntry e).hp.events = s.hp.events ∧ (s.removeEntry e).hp.mask = s.hp.mask ∧
    (s.removeEntry e).hp.progress = s.hp.progress ∧ (s.removeEntry e).hp.setup = s.hp.setup ∧
    (s.removeEntry e).hp.current = s.hp.current ∧ (s.removeEntry e).hp.heldBack = s.hp.heldBack ∧
    (s.removeEntry e).hp.tod = s.hp.tod ∧ (s.removeEntry e).chains = s.chains ∧ (s.removeEntry e).ec = s.ec ∧
    (s.removeEntry e).wq.nextId = s.wq.nextId ∧ (s.removeEntry e).te = s.te ∧ (s.removeEntry e).tm = s.tm ∧
    (s.removeEntry e).lu.station = s.lu.station ∧ (s.removeEntry e).lu.exchange = s.lu.exchange ∧
    (s.removeEntry e).lu.peerExchange = s.lu.peerExchange ∧ (s.removeEntry e).lu.peerSeekFell = s.lu.peerSeekFell ∧
    (s.removeEntry e).lu.backoff = s.lu.backoff ∧ (s.removeEntry e).lu.failedHeard = s.lu.failedHeard ∧
    (s.removeEntry e).lu.collisionCount = s.lu.collisionCount ∧
    (s.removeEntry e).lu.lastCollided = s.lu.lastCollided ∧ (s.removeEntry e).lu.armed = s.lu.armed ∧
    (s.removeEntry e).rdm = s.rdm ∧ (s.removeEntry e).out = s.out ∧ (s.removeEntry e).pending = s.pending := by
  simp only [State.removeEntry]
  (repeat' split) <;> simp

@[simp] theorem State.removeEntryId_frame (s : State) (id : Nat) :
    (s.removeEntryId id).hp.address = s.hp.address ∧ (s.removeEntryId id).hp.adapter = s.hp.adapter ∧
    (s.removeEntryId id).hp.maintaining = s.hp.maintaining ∧ (s.removeEntryId id).hp.refusal = s.hp.refusal ∧
    (s.removeEntryId id).hp.events = s.hp.events ∧ (s.removeEntryId id).hp.mask = s.hp.mask ∧
    (s.removeEntryId id).hp.progress = s.hp.progress ∧ (s.removeEntryId id).hp.setup = s.hp.setup ∧
    (s.removeEntryId id).hp.current = s.hp.current ∧ (s.removeEntryId id).hp.heldBack = s.hp.heldBack ∧
    (s.removeEntryId id).hp.tod = s.hp.tod ∧ (s.removeEntryId id).chains = s.chains ∧
    (s.removeEntryId id).ec = s.ec ∧ (s.removeEntryId id).wq.nextId = s.wq.nextId ∧
    (s.removeEntryId id).te = s.te ∧ (s.removeEntryId id).tm = s.tm ∧
    (s.removeEntryId id).lu.station = s.lu.station ∧ (s.removeEntryId id).lu.exchange = s.lu.exchange ∧
    (s.removeEntryId id).lu.peerExchange = s.lu.peerExchange ∧
    (s.removeEntryId id).lu.peerSeekFell = s.lu.peerSeekFell ∧ (s.removeEntryId id).lu.backoff = s.lu.backoff ∧
    (s.removeEntryId id).lu.failedHeard = s.lu.failedHeard ∧
    (s.removeEntryId id).lu.collisionCount = s.lu.collisionCount ∧
    (s.removeEntryId id).lu.lastCollided = s.lu.lastCollided ∧ (s.removeEntryId id).lu.armed = s.lu.armed ∧
    (s.removeEntryId id).rdm = s.rdm ∧ (s.removeEntryId id).out = s.out ∧ (s.removeEntryId id).pending = s.pending := by
  simp only [State.removeEntryId]
  (repeat' split) <;> simp

@[simp] theorem State.completeUnhold_frame (s : State) (e : HoldEntry) :
    (s.completeUnhold e).hp.address = s.hp.address ∧ (s.completeUnhold e).hp.adapter = s.hp.adapter ∧
    (s.completeUnhold e).hp.maintaining = s.hp.maintaining ∧ (s.completeUnhold e).hp.refusal = s.hp.refusal ∧
    (s.completeUnhold e).hp.events = s.hp.events ∧ (s.completeUnhold e).hp.mask = s.hp.mask ∧
    (s.completeUnhold e).hp.progress = s.hp.progress ∧ (s.completeUnhold e).hp.setup = s.hp.setup ∧
    (s.completeUnhold e).hp.current = s.hp.current ∧ (s.completeUnhold e).hp.heldBack = s.hp.heldBack ∧
    (s.completeUnhold e).hp.tod = s.hp.tod ∧ (s.completeUnhold e).chains = s.chains ∧
    (s.completeUnhold e).ec = s.ec ∧ (s.completeUnhold e).wq = s.wq ∧ (s.completeUnhold e).te = s.te ∧
    (s.completeUnhold e).hm = s.hm ∧ (s.completeUnhold e).tm = s.tm ∧ (s.completeUnhold e).lu = s.lu ∧
    (s.completeUnhold e).rdm = s.rdm ∧ (s.completeUnhold e).out = s.out ∧ (s.completeUnhold e).pending = s.pending := by
  simp only [State.completeUnhold]
  (repeat' split) <;> simp

@[simp] theorem State.endReference_frame (s : State) (id : Nat) :
    (s.endReference id).hp.address = s.hp.address ∧ (s.endReference id).hp.adapter = s.hp.adapter ∧
    (s.endReference id).hp.maintaining = s.hp.maintaining ∧ (s.endReference id).hp.refusal = s.hp.refusal ∧
    (s.endReference id).hp.events = s.hp.events ∧ (s.endReference id).hp.mask = s.hp.mask ∧
    (s.endReference id).hp.progress = s.hp.progress ∧ (s.endReference id).hp.setup = s.hp.setup ∧
    (s.endReference id).hp.current = s.hp.current ∧ (s.endReference id).hp.heldBack = s.hp.heldBack ∧
    (s.endReference id).hp.tod = s.hp.tod ∧ (s.endReference id).chains = s.chains ∧ (s.endReference id).ec = s.ec ∧
    (s.endReference id).wq.nextId = s.wq.nextId ∧ (s.endReference id).te = s.te ∧ (s.endReference id).tm = s.tm ∧
    (s.endReference id).lu.station = s.lu.station ∧ (s.endReference id).lu.exchange = s.lu.exchange ∧
    (s.endReference id).lu.peerExchange = s.lu.peerExchange ∧
    (s.endReference id).lu.peerSeekFell = s.lu.peerSeekFell ∧ (s.endReference id).lu.backoff = s.lu.backoff ∧
    (s.endReference id).lu.failedHeard = s.lu.failedHeard ∧
    (s.endReference id).lu.collisionCount = s.lu.collisionCount ∧
    (s.endReference id).lu.lastCollided = s.lu.lastCollided ∧ (s.endReference id).lu.armed = s.lu.armed ∧
    (s.endReference id).rdm = s.rdm ∧ (s.endReference id).out = s.out ∧ (s.endReference id).pending = s.pending := by
  simp only [State.endReference]
  (repeat' split) <;> simp

@[simp] theorem State.makeEntry_frame (s : State) (e : HoldEntry) :
    (s.makeEntry e).hp.address = s.hp.address ∧ (s.makeEntry e).hp.adapter = s.hp.adapter ∧
    (s.makeEntry e).hp.maintaining = s.hp.maintaining ∧ (s.makeEntry e).hp.refusal = s.hp.refusal ∧
    (s.makeEntry e).hp.events = s.hp.events ∧ (s.makeEntry e).hp.mask = s.hp.mask ∧
    (s.makeEntry e).hp.progress = s.hp.progress ∧ (s.makeEntry e).hp.setup = s.hp.setup ∧
    (s.makeEntry e).hp.current = s.hp.current ∧ (s.makeEntry e).hp.heldBack = s.hp.heldBack ∧
    (s.makeEntry e).hp.tod = s.hp.tod ∧ (s.makeEntry e).chains = s.chains ∧ (s.makeEntry e).ec = s.ec ∧
    (s.makeEntry e).wq.nextId = s.wq.nextId ∧ (s.makeEntry e).te = s.te ∧ (s.makeEntry e).tm = s.tm ∧
    (s.makeEntry e).lu.station = s.lu.station ∧ (s.makeEntry e).lu.exchange = s.lu.exchange ∧
    (s.makeEntry e).lu.peerExchange = s.lu.peerExchange ∧ (s.makeEntry e).lu.peerSeekFell = s.lu.peerSeekFell ∧
    (s.makeEntry e).lu.backoff = s.lu.backoff ∧ (s.makeEntry e).lu.failedHeard = s.lu.failedHeard ∧
    (s.makeEntry e).lu.collisionCount = s.lu.collisionCount ∧ (s.makeEntry e).lu.lastCollided = s.lu.lastCollided ∧
    (s.makeEntry e).lu.armed = s.lu.armed ∧ (s.makeEntry e).rdm = s.rdm ∧ (s.makeEntry e).out = s.out ∧
    (s.makeEntry e).pending = s.pending := by
  simp only [State.makeEntry]
  simp

@[simp] theorem State.reclaimEntry_frame (s : State) (e : HoldEntry) :
    (s.reclaimEntry e).hp = s.hp ∧ (s.reclaimEntry e).chains = s.chains ∧ (s.reclaimEntry e).ec = s.ec ∧
    (s.reclaimEntry e).wq = s.wq ∧ (s.reclaimEntry e).te = s.te ∧ (s.reclaimEntry e).tm = s.tm ∧
    (s.reclaimEntry e).lu.station = s.lu.station ∧ (s.reclaimEntry e).lu.exchange = s.lu.exchange ∧
    (s.reclaimEntry e).lu.peerExchange = s.lu.peerExchange ∧
    (s.reclaimEntry e).lu.peerSeekFell = s.lu.peerSeekFell ∧ (s.reclaimEntry e).lu.backoff = s.lu.backoff ∧
    (s.reclaimEntry e).lu.failedHeard = s.lu.failedHeard ∧
    (s.reclaimEntry e).lu.collisionCount = s.lu.collisionCount ∧
    (s.reclaimEntry e).lu.lastCollided = s.lu.lastCollided ∧ (s.reclaimEntry e).lu.armed = s.lu.armed ∧
    (s.reclaimEntry e).rdm = s.rdm ∧ (s.reclaimEntry e).out = s.out ∧ (s.reclaimEntry e).pending = s.pending := by
  simp only [State.reclaimEntry]
  simp

@[simp] theorem State.expireEntry_frame (s : State) (e : HoldEntry) :
    (s.expireEntry e).hp.address = s.hp.address ∧ (s.expireEntry e).hp.adapter = s.hp.adapter ∧
    (s.expireEntry e).hp.maintaining = s.hp.maintaining ∧ (s.expireEntry e).hp.refusal = s.hp.refusal ∧
    (s.expireEntry e).hp.events = s.hp.events ∧ (s.expireEntry e).hp.mask = s.hp.mask ∧
    (s.expireEntry e).hp.progress = s.hp.progress ∧ (s.expireEntry e).hp.setup = s.hp.setup ∧
    (s.expireEntry e).hp.current = s.hp.current ∧ (s.expireEntry e).hp.heldBack = s.hp.heldBack ∧
    (s.expireEntry e).hp.tod = s.hp.tod ∧ (s.expireEntry e).chains = s.chains ∧ (s.expireEntry e).ec = s.ec ∧
    (s.expireEntry e).wq.nextId = s.wq.nextId ∧ (s.expireEntry e).te = s.te ∧ (s.expireEntry e).tm = s.tm ∧
    (s.expireEntry e).lu.station = s.lu.station ∧ (s.expireEntry e).lu.exchange = s.lu.exchange ∧
    (s.expireEntry e).lu.peerExchange = s.lu.peerExchange ∧ (s.expireEntry e).lu.peerSeekFell = s.lu.peerSeekFell ∧
    (s.expireEntry e).lu.backoff = s.lu.backoff ∧ (s.expireEntry e).lu.failedHeard = s.lu.failedHeard ∧
    (s.expireEntry e).lu.collisionCount = s.lu.collisionCount ∧
    (s.expireEntry e).lu.lastCollided = s.lu.lastCollided ∧ (s.expireEntry e).lu.armed = s.lu.armed ∧
    (s.expireEntry e).rdm = s.rdm ∧ (s.expireEntry e).out = s.out ∧ (s.expireEntry e).pending = s.pending := by
  simp only [State.expireEntry]
  simp

@[simp] theorem State.refuseEntry_frame (s : State) (id : Nat) :
    (s.refuseEntry id).hp.address = s.hp.address ∧ (s.refuseEntry id).hp.adapter = s.hp.adapter ∧
    (s.refuseEntry id).hp.maintaining = s.hp.maintaining ∧ (s.refuseEntry id).hp.refusal = s.hp.refusal ∧
    (s.refuseEntry id).hp.events = s.hp.events ∧ (s.refuseEntry id).hp.mask = s.hp.mask ∧
    (s.refuseEntry id).hp.progress = s.hp.progress ∧ (s.refuseEntry id).hp.setup = s.hp.setup ∧
    (s.refuseEntry id).hp.current = s.hp.current ∧ (s.refuseEntry id).hp.heldBack = s.hp.heldBack ∧
    (s.refuseEntry id).hp.tod = s.hp.tod ∧ (s.refuseEntry id).chains = s.chains ∧ (s.refuseEntry id).ec = s.ec ∧
    (s.refuseEntry id).wq.nextId = s.wq.nextId ∧ (s.refuseEntry id).te = s.te ∧ (s.refuseEntry id).tm = s.tm ∧
    (s.refuseEntry id).lu.station = s.lu.station ∧ (s.refuseEntry id).lu.exchange = s.lu.exchange ∧
    (s.refuseEntry id).lu.peerExchange = s.lu.peerExchange ∧
    (s.refuseEntry id).lu.peerSeekFell = s.lu.peerSeekFell ∧ (s.refuseEntry id).lu.backoff = s.lu.backoff ∧
    (s.refuseEntry id).lu.failedHeard = s.lu.failedHeard ∧
    (s.refuseEntry id).lu.collisionCount = s.lu.collisionCount ∧
    (s.refuseEntry id).lu.lastCollided = s.lu.lastCollided ∧ (s.refuseEntry id).lu.armed = s.lu.armed ∧
    (s.refuseEntry id).rdm = s.rdm ∧ (s.refuseEntry id).out = s.out ∧ (s.refuseEntry id).pending = s.pending := by
  simp only [State.refuseEntry]
  (repeat' split) <;> simp

@[simp] theorem State.silentEntry_frame (s : State) (id : Nat) :
    (s.silentEntry id).hp.address = s.hp.address ∧ (s.silentEntry id).hp.adapter = s.hp.adapter ∧
    (s.silentEntry id).hp.maintaining = s.hp.maintaining ∧ (s.silentEntry id).hp.refusal = s.hp.refusal ∧
    (s.silentEntry id).hp.events = s.hp.events ∧ (s.silentEntry id).hp.mask = s.hp.mask ∧
    (s.silentEntry id).hp.progress = s.hp.progress ∧ (s.silentEntry id).hp.setup = s.hp.setup ∧
    (s.silentEntry id).hp.current = s.hp.current ∧ (s.silentEntry id).hp.heldBack = s.hp.heldBack ∧
    (s.silentEntry id).hp.tod = s.hp.tod ∧ (s.silentEntry id).chains = s.chains ∧ (s.silentEntry id).ec = s.ec ∧
    (s.silentEntry id).wq.nextId = s.wq.nextId ∧ (s.silentEntry id).te = s.te ∧ (s.silentEntry id).tm = s.tm ∧
    (s.silentEntry id).lu = s.lu ∧ (s.silentEntry id).rdm = s.rdm ∧ (s.silentEntry id).out = s.out ∧
    (s.silentEntry id).pending = s.pending := by
  simp only [State.silentEntry]
  simp

@[simp] theorem State.reclaimRange_frame (s : State) (start count : Nat) :
    (s.reclaimRange start count).hp = s.hp ∧ (s.reclaimRange start count).chains = s.chains ∧
    (s.reclaimRange start count).ec = s.ec ∧ (s.reclaimRange start count).wq = s.wq ∧
    (s.reclaimRange start count).te = s.te ∧ (s.reclaimRange start count).tm = s.tm ∧
    (s.reclaimRange start count).lu.station = s.lu.station ∧
    (s.reclaimRange start count).lu.exchange = s.lu.exchange ∧
    (s.reclaimRange start count).lu.peerExchange = s.lu.peerExchange ∧
    (s.reclaimRange start count).lu.peerSeekFell = s.lu.peerSeekFell ∧
    (s.reclaimRange start count).lu.backoff = s.lu.backoff ∧
    (s.reclaimRange start count).lu.failedHeard = s.lu.failedHeard ∧
    (s.reclaimRange start count).lu.collisionCount = s.lu.collisionCount ∧
    (s.reclaimRange start count).lu.lastCollided = s.lu.lastCollided ∧
    (s.reclaimRange start count).lu.armed = s.lu.armed ∧ (s.reclaimRange start count).rdm = s.rdm ∧
    (s.reclaimRange start count).out = s.out ∧ (s.reclaimRange start count).pending = s.pending := by
  simp only [State.reclaimRange]
  simp

@[simp] theorem State.expireIfDue_frame (s : State) (id : Nat) :
    (s.expireIfDue id).hp.address = s.hp.address ∧ (s.expireIfDue id).hp.adapter = s.hp.adapter ∧
    (s.expireIfDue id).hp.maintaining = s.hp.maintaining ∧ (s.expireIfDue id).hp.refusal = s.hp.refusal ∧
    (s.expireIfDue id).hp.events = s.hp.events ∧ (s.expireIfDue id).hp.mask = s.hp.mask ∧
    (s.expireIfDue id).hp.progress = s.hp.progress ∧ (s.expireIfDue id).hp.setup = s.hp.setup ∧
    (s.expireIfDue id).hp.current = s.hp.current ∧ (s.expireIfDue id).hp.heldBack = s.hp.heldBack ∧
    (s.expireIfDue id).hp.tod = s.hp.tod ∧ (s.expireIfDue id).chains = s.chains ∧ (s.expireIfDue id).ec = s.ec ∧
    (s.expireIfDue id).wq.nextId = s.wq.nextId ∧ (s.expireIfDue id).te = s.te ∧ (s.expireIfDue id).tm = s.tm ∧
    (s.expireIfDue id).lu.station = s.lu.station ∧ (s.expireIfDue id).lu.exchange = s.lu.exchange ∧
    (s.expireIfDue id).lu.peerExchange = s.lu.peerExchange ∧
    (s.expireIfDue id).lu.peerSeekFell = s.lu.peerSeekFell ∧ (s.expireIfDue id).lu.backoff = s.lu.backoff ∧
    (s.expireIfDue id).lu.failedHeard = s.lu.failedHeard ∧
    (s.expireIfDue id).lu.collisionCount = s.lu.collisionCount ∧
    (s.expireIfDue id).lu.lastCollided = s.lu.lastCollided ∧ (s.expireIfDue id).lu.armed = s.lu.armed ∧
    (s.expireIfDue id).rdm = s.rdm ∧ (s.expireIfDue id).out = s.out ∧ (s.expireIfDue id).pending = s.pending := by
  simp only [State.expireIfDue]
  (repeat' split) <;> simp

@[simp] theorem State.holdSlot_frame (s : State) :
    s.holdSlot.hp.address = s.hp.address ∧ s.holdSlot.hp.adapter = s.hp.adapter ∧
    s.holdSlot.hp.maintaining = s.hp.maintaining ∧ s.holdSlot.hp.refusal = s.hp.refusal ∧
    s.holdSlot.hp.events = s.hp.events ∧ s.holdSlot.hp.mask = s.hp.mask ∧ s.holdSlot.hp.progress = s.hp.progress ∧
    s.holdSlot.hp.setup = s.hp.setup ∧ s.holdSlot.hp.current = s.hp.current ∧
    s.holdSlot.hp.heldBack = s.hp.heldBack ∧ s.holdSlot.hp.tod = s.hp.tod ∧ s.holdSlot.chains = s.chains ∧
    s.holdSlot.ec = s.ec ∧ s.holdSlot.wq.nextId = s.wq.nextId ∧ s.holdSlot.te = s.te ∧ s.holdSlot.tm = s.tm ∧
    s.holdSlot.lu.station = s.lu.station ∧ s.holdSlot.lu.exchange = s.lu.exchange ∧
    s.holdSlot.lu.peerExchange = s.lu.peerExchange ∧ s.holdSlot.lu.peerSeekFell = s.lu.peerSeekFell ∧
    s.holdSlot.lu.backoff = s.lu.backoff ∧ s.holdSlot.lu.failedHeard = s.lu.failedHeard ∧
    s.holdSlot.lu.collisionCount = s.lu.collisionCount ∧ s.holdSlot.lu.lastCollided = s.lu.lastCollided ∧
    s.holdSlot.lu.armed = s.lu.armed ∧ s.holdSlot.rdm = s.rdm ∧ s.holdSlot.out = s.out ∧
    s.holdSlot.pending = s.pending := by
  simp only [State.holdSlot]
  simp

@[simp] theorem State.holdRevolution_frame (s : State) :
    s.holdRevolution.hp = s.hp ∧ s.holdRevolution.chains = s.chains ∧ s.holdRevolution.ec = s.ec ∧
    s.holdRevolution.wq = s.wq ∧ s.holdRevolution.te = s.te ∧ s.holdRevolution.tm = s.tm ∧
    s.holdRevolution.lu.station = s.lu.station ∧ s.holdRevolution.lu.exchange = s.lu.exchange ∧
    s.holdRevolution.lu.peerExchange = s.lu.peerExchange ∧ s.holdRevolution.lu.peerSeekFell = s.lu.peerSeekFell ∧
    s.holdRevolution.lu.backoff = s.lu.backoff ∧ s.holdRevolution.lu.failedHeard = s.lu.failedHeard ∧
    s.holdRevolution.lu.collisionCount = s.lu.collisionCount ∧
    s.holdRevolution.lu.lastCollided = s.lu.lastCollided ∧ s.holdRevolution.lu.armed = s.lu.armed ∧
    s.holdRevolution.rdm = s.rdm ∧ s.holdRevolution.out = s.out ∧ s.holdRevolution.pending = s.pending := by
  simp only [State.holdRevolution]
  simp

@[simp] theorem State.detachHolds_frame (s : State) (l : List HoldEntry) :
    (s.detachHolds l).hp = s.hp ∧ (s.detachHolds l).chains = s.chains ∧ (s.detachHolds l).ec = s.ec ∧
    (s.detachHolds l).wq = s.wq ∧ (s.detachHolds l).te = s.te ∧ (s.detachHolds l).tm = s.tm ∧
    (s.detachHolds l).lu = s.lu ∧ (s.detachHolds l).rdm = s.rdm ∧ (s.detachHolds l).out = s.out ∧
    (s.detachHolds l).pending = s.pending := by
  simp only [State.detachHolds]
  simp

@[simp] theorem State.stopHold_frame (st : Status) (f : Option ElementFault) (s : State) (e : HoldEntry) :
    (State.stopHold st f s e).hp.address = s.hp.address ∧ (State.stopHold st f s e).hp.adapter = s.hp.adapter ∧
    (State.stopHold st f s e).hp.maintaining = s.hp.maintaining ∧
    (State.stopHold st f s e).hp.refusal = s.hp.refusal ∧ (State.stopHold st f s e).hp.events = s.hp.events ∧
    (State.stopHold st f s e).hp.mask = s.hp.mask ∧ (State.stopHold st f s e).hp.progress = s.hp.progress ∧
    (State.stopHold st f s e).hp.setup = s.hp.setup ∧ (State.stopHold st f s e).hp.current = s.hp.current ∧
    (State.stopHold st f s e).hp.heldBack = s.hp.heldBack ∧ (State.stopHold st f s e).hp.tod = s.hp.tod ∧
    (State.stopHold st f s e).chains = s.chains ∧ (State.stopHold st f s e).ec = s.ec ∧
    (State.stopHold st f s e).wq.nextId = s.wq.nextId ∧ (State.stopHold st f s e).te = s.te ∧
    (State.stopHold st f s e).tm = s.tm ∧ (State.stopHold st f s e).lu.station = s.lu.station ∧
    (State.stopHold st f s e).lu.exchange = s.lu.exchange ∧
    (State.stopHold st f s e).lu.peerExchange = s.lu.peerExchange ∧
    (State.stopHold st f s e).lu.peerSeekFell = s.lu.peerSeekFell ∧
    (State.stopHold st f s e).lu.backoff = s.lu.backoff ∧
    (State.stopHold st f s e).lu.failedHeard = s.lu.failedHeard ∧
    (State.stopHold st f s e).lu.collisionCount = s.lu.collisionCount ∧
    (State.stopHold st f s e).lu.lastCollided = s.lu.lastCollided ∧
    (State.stopHold st f s e).lu.armed = s.lu.armed ∧ (State.stopHold st f s e).rdm = s.rdm ∧
    (State.stopHold st f s e).out = s.out ∧ (State.stopHold st f s e).pending = s.pending := by
  simp only [State.stopHold]
  simp

@[simp] theorem State.silenceHolds_frame (s : State) :
    s.silenceHolds.hp.address = s.hp.address ∧ s.silenceHolds.hp.adapter = s.hp.adapter ∧
    s.silenceHolds.hp.maintaining = s.hp.maintaining ∧ s.silenceHolds.hp.refusal = s.hp.refusal ∧
    s.silenceHolds.hp.events = s.hp.events ∧ s.silenceHolds.hp.mask = s.hp.mask ∧
    s.silenceHolds.hp.progress = s.hp.progress ∧ s.silenceHolds.hp.setup = s.hp.setup ∧
    s.silenceHolds.hp.current = s.hp.current ∧ s.silenceHolds.hp.heldBack = s.hp.heldBack ∧
    s.silenceHolds.hp.tod = s.hp.tod ∧ s.silenceHolds.chains = s.chains ∧ s.silenceHolds.ec = s.ec ∧
    s.silenceHolds.wq = s.wq ∧ s.silenceHolds.te = s.te ∧ s.silenceHolds.tm = s.tm ∧ s.silenceHolds.lu = s.lu ∧
    s.silenceHolds.rdm = s.rdm ∧ s.silenceHolds.out = s.out ∧ s.silenceHolds.pending = s.pending := by
  simp only [State.silenceHolds]
  simp

@[simp] theorem State.removeExplicit_frame (s : State) (n : Fin 4) :
    (s.removeExplicit n).hp.address = s.hp.address ∧ (s.removeExplicit n).hp.adapter = s.hp.adapter ∧
    (s.removeExplicit n).hp.maintaining = s.hp.maintaining ∧ (s.removeExplicit n).hp.refusal = s.hp.refusal ∧
    (s.removeExplicit n).hp.events = s.hp.events ∧ (s.removeExplicit n).hp.mask = s.hp.mask ∧
    (s.removeExplicit n).hp.progress = s.hp.progress ∧ (s.removeExplicit n).hp.setup = s.hp.setup ∧
    (s.removeExplicit n).hp.current = s.hp.current ∧ (s.removeExplicit n).hp.heldBack = s.hp.heldBack ∧
    (s.removeExplicit n).hp.tod = s.hp.tod ∧ (s.removeExplicit n).chains = s.chains ∧
    (s.removeExplicit n).ec = s.ec ∧ (s.removeExplicit n).wq.nextId = s.wq.nextId ∧
    (s.removeExplicit n).te = s.te ∧ (s.removeExplicit n).tm = s.tm ∧
    (s.removeExplicit n).lu.station = s.lu.station ∧ (s.removeExplicit n).lu.exchange = s.lu.exchange ∧
    (s.removeExplicit n).lu.peerExchange = s.lu.peerExchange ∧
    (s.removeExplicit n).lu.peerSeekFell = s.lu.peerSeekFell ∧ (s.removeExplicit n).lu.backoff = s.lu.backoff ∧
    (s.removeExplicit n).lu.failedHeard = s.lu.failedHeard ∧
    (s.removeExplicit n).lu.collisionCount = s.lu.collisionCount ∧
    (s.removeExplicit n).lu.lastCollided = s.lu.lastCollided ∧ (s.removeExplicit n).lu.armed = s.lu.armed ∧
    (s.removeExplicit n).rdm = s.rdm ∧ (s.removeExplicit n).out = s.out ∧ (s.removeExplicit n).pending = s.pending := by
  simp only [State.removeExplicit]
  simp

/-! The Work Queue (Section 4). -/

@[simp] theorem State.review_frame (s : State) :
    s.review.hp = s.hp ∧ s.review.chains = s.chains ∧ s.review.ec = s.ec ∧ s.review.wq.nextId = s.wq.nextId ∧
    s.review.te = s.te ∧ s.review.hm = s.hm ∧ s.review.tm = s.tm ∧ s.review.lu = s.lu ∧ s.review.rdm = s.rdm ∧
    s.review.out = s.out ∧ s.review.pending = s.pending := by
  simp only [State.review]
  simp

@[simp] theorem State.leaveQueue_frame (s : State) (r : Request) (st : Status) (f : Option ElementFault)
    (m p : Bool) :
    (s.leaveQueue r st f m p).hp.address = s.hp.address ∧ (s.leaveQueue r st f m p).hp.adapter = s.hp.adapter ∧
    (s.leaveQueue r st f m p).hp.maintaining = s.hp.maintaining ∧
    (s.leaveQueue r st f m p).hp.refusal = s.hp.refusal ∧ (s.leaveQueue r st f m p).hp.events = s.hp.events ∧
    (s.leaveQueue r st f m p).hp.mask = s.hp.mask ∧ (s.leaveQueue r st f m p).hp.progress = s.hp.progress ∧
    (s.leaveQueue r st f m p).hp.setup = s.hp.setup ∧ (s.leaveQueue r st f m p).hp.current = s.hp.current ∧
    (s.leaveQueue r st f m p).hp.tod = s.hp.tod ∧ (s.leaveQueue r st f m p).chains = s.chains ∧
    (s.leaveQueue r st f m p).wq.nextId = s.wq.nextId ∧ (s.leaveQueue r st f m p).te = s.te ∧
    (s.leaveQueue r st f m p).tm = s.tm ∧ (s.leaveQueue r st f m p).lu.station = s.lu.station ∧
    (s.leaveQueue r st f m p).lu.exchange = s.lu.exchange ∧
    (s.leaveQueue r st f m p).lu.peerExchange = s.lu.peerExchange ∧
    (s.leaveQueue r st f m p).lu.peerSeekFell = s.lu.peerSeekFell ∧
    (s.leaveQueue r st f m p).lu.backoff = s.lu.backoff ∧
    (s.leaveQueue r st f m p).lu.failedHeard = s.lu.failedHeard ∧
    (s.leaveQueue r st f m p).lu.collisionCount = s.lu.collisionCount ∧
    (s.leaveQueue r st f m p).lu.lastCollided = s.lu.lastCollided ∧
    (s.leaveQueue r st f m p).lu.armed = s.lu.armed ∧ (s.leaveQueue r st f m p).rdm = s.rdm ∧
    (s.leaveQueue r st f m p).out = s.out ∧ (s.leaveQueue r st f m p).pending = s.pending := by
  simp only [State.leaveQueue]
  (repeat' split) <;> simp

@[simp] theorem State.completeRequest_frame (s : State) (r : Request) (st : Status) (f : Option ElementFault)
    (m : Bool) :
    (s.completeRequest r st f m).hp.address = s.hp.address ∧
    (s.completeRequest r st f m).hp.adapter = s.hp.adapter ∧
    (s.completeRequest r st f m).hp.maintaining = s.hp.maintaining ∧
    (s.completeRequest r st f m).hp.refusal = s.hp.refusal ∧ (s.completeRequest r st f m).hp.events = s.hp.events ∧
    (s.completeRequest r st f m).hp.mask = s.hp.mask ∧ (s.completeRequest r st f m).hp.progress = s.hp.progress ∧
    (s.completeRequest r st f m).hp.setup = s.hp.setup ∧ (s.completeRequest r st f m).hp.current = s.hp.current ∧
    (s.completeRequest r st f m).hp.tod = s.hp.tod ∧ (s.completeRequest r st f m).chains = s.chains ∧
    (s.completeRequest r st f m).wq.nextId = s.wq.nextId ∧ (s.completeRequest r st f m).te = s.te ∧
    (s.completeRequest r st f m).tm = s.tm ∧ (s.completeRequest r st f m).lu.station = s.lu.station ∧
    (s.completeRequest r st f m).lu.exchange = s.lu.exchange ∧
    (s.completeRequest r st f m).lu.peerExchange = s.lu.peerExchange ∧
    (s.completeRequest r st f m).lu.peerSeekFell = s.lu.peerSeekFell ∧
    (s.completeRequest r st f m).lu.backoff = s.lu.backoff ∧
    (s.completeRequest r st f m).lu.failedHeard = s.lu.failedHeard ∧
    (s.completeRequest r st f m).lu.collisionCount = s.lu.collisionCount ∧
    (s.completeRequest r st f m).lu.lastCollided = s.lu.lastCollided ∧
    (s.completeRequest r st f m).lu.armed = s.lu.armed ∧ (s.completeRequest r st f m).rdm = s.rdm ∧
    (s.completeRequest r st f m).out = s.out ∧ (s.completeRequest r st f m).pending = s.pending := by
  simp only [State.completeRequest]
  simp

@[simp] theorem State.completeQueued_frame (s : State) (p : Request → Bool) (st : Status) (f : Option ElementFault) :
    (s.completeQueued p st f).hp.address = s.hp.address ∧ (s.completeQueued p st f).hp.adapter = s.hp.adapter ∧
    (s.completeQueued p st f).hp.maintaining = s.hp.maintaining ∧
    (s.completeQueued p st f).hp.refusal = s.hp.refusal ∧ (s.completeQueued p st f).hp.events = s.hp.events ∧
    (s.completeQueued p st f).hp.mask = s.hp.mask ∧ (s.completeQueued p st f).hp.progress = s.hp.progress ∧
    (s.completeQueued p st f).hp.setup = s.hp.setup ∧ (s.completeQueued p st f).hp.current = s.hp.current ∧
    (s.completeQueued p st f).hp.tod = s.hp.tod ∧ (s.completeQueued p st f).chains = s.chains ∧
    (s.completeQueued p st f).wq.nextId = s.wq.nextId ∧ (s.completeQueued p st f).te = s.te ∧
    (s.completeQueued p st f).tm = s.tm ∧ (s.completeQueued p st f).lu.station = s.lu.station ∧
    (s.completeQueued p st f).lu.exchange = s.lu.exchange ∧
    (s.completeQueued p st f).lu.peerExchange = s.lu.peerExchange ∧
    (s.completeQueued p st f).lu.peerSeekFell = s.lu.peerSeekFell ∧
    (s.completeQueued p st f).lu.backoff = s.lu.backoff ∧
    (s.completeQueued p st f).lu.failedHeard = s.lu.failedHeard ∧
    (s.completeQueued p st f).lu.collisionCount = s.lu.collisionCount ∧
    (s.completeQueued p st f).lu.lastCollided = s.lu.lastCollided ∧
    (s.completeQueued p st f).lu.armed = s.lu.armed ∧ (s.completeQueued p st f).rdm = s.rdm ∧
    (s.completeQueued p st f).out = s.out ∧ (s.completeQueued p st f).pending = s.pending := by
  simp only [State.completeQueued]
  simp

@[simp] theorem State.countBudgets_frame (s : State) :
    s.countBudgets.hp = s.hp ∧ s.countBudgets.chains = s.chains ∧ s.countBudgets.ec = s.ec ∧
    s.countBudgets.wq.nextId = s.wq.nextId ∧ s.countBudgets.te = s.te ∧ s.countBudgets.hm = s.hm ∧
    s.countBudgets.tm = s.tm ∧ s.countBudgets.lu = s.lu ∧ s.countBudgets.rdm = s.rdm ∧ s.countBudgets.out = s.out ∧
    s.countBudgets.pending = s.pending := by
  simp only [State.countBudgets]
  simp

@[simp] theorem State.formSlacks_frame (s : State) :
    s.formSlacks.hp = s.hp ∧ s.formSlacks.chains = s.chains ∧ s.formSlacks.ec = s.ec ∧
    s.formSlacks.wq.nextId = s.wq.nextId ∧ s.formSlacks.te = s.te ∧ s.formSlacks.hm = s.hm ∧
    s.formSlacks.tm = s.tm ∧ s.formSlacks.lu = s.lu ∧ s.formSlacks.rdm = s.rdm ∧ s.formSlacks.out = s.out ∧
    s.formSlacks.pending = s.pending := by
  simp only [State.formSlacks]
  simp

@[simp] theorem State.formEligible_frame (s : State) :
    s.formEligible.hp = s.hp ∧ s.formEligible.chains = s.chains ∧ s.formEligible.ec = s.ec ∧
    s.formEligible.wq.nextId = s.wq.nextId ∧ s.formEligible.te = s.te ∧ s.formEligible.hm = s.hm ∧
    s.formEligible.tm = s.tm ∧ s.formEligible.lu = s.lu ∧ s.formEligible.rdm = s.rdm ∧ s.formEligible.out = s.out ∧
    s.formEligible.pending = s.pending := by
  simp only [State.formEligible]
  simp

/-! The Tenure Manager (Section 7). -/

@[simp] theorem State.setPositioner_frame (s : State) (c : Option Nat) (moving : Bool) :
    (s.setPositioner c moving).hp = s.hp ∧ (s.setPositioner c moving).chains = s.chains ∧
    (s.setPositioner c moving).ec = s.ec ∧ (s.setPositioner c moving).wq.nextId = s.wq.nextId ∧
    (s.setPositioner c moving).te = s.te ∧ (s.setPositioner c moving).hm = s.hm ∧
    (s.setPositioner c moving).tm.own = s.tm.own ∧ (s.setPositioner c moving).tm.peer = s.tm.peer ∧
    (s.setPositioner c moving).tm.presence = s.tm.presence ∧
    (s.setPositioner c moving).tm.courtesy = s.tm.courtesy ∧
    (s.setPositioner c moving).tm.preemptMark = s.tm.preemptMark ∧
    (s.setPositioner c moving).tm.peerSeeks = s.tm.peerSeeks ∧ (s.setPositioner c moving).lu = s.lu ∧
    (s.setPositioner c moving).rdm = s.rdm ∧ (s.setPositioner c moving).out = s.out ∧
    (s.setPositioner c moving).pending = s.pending := by
  simp only [State.setPositioner]
  simp

@[simp] theorem State.setMoving_frame (s : State) (b : Bool) :
    (s.setMoving b).hp = s.hp ∧ (s.setMoving b).chains = s.chains ∧ (s.setMoving b).ec = s.ec ∧
    (s.setMoving b).wq.nextId = s.wq.nextId ∧ (s.setMoving b).te = s.te ∧ (s.setMoving b).hm = s.hm ∧
    (s.setMoving b).tm.own = s.tm.own ∧ (s.setMoving b).tm.peer = s.tm.peer ∧
    (s.setMoving b).tm.presence = s.tm.presence ∧ (s.setMoving b).tm.courtesy = s.tm.courtesy ∧
    (s.setMoving b).tm.preemptMark = s.tm.preemptMark ∧ (s.setMoving b).tm.peerSeeks = s.tm.peerSeeks ∧
    (s.setMoving b).lu = s.lu ∧ (s.setMoving b).rdm = s.rdm ∧ (s.setMoving b).out = s.out ∧
    (s.setMoving b).pending = s.pending := by
  simp only [State.setMoving]
  simp

@[simp] theorem State.endCourtesy_frame (s : State) :
    s.endCourtesy.hp = s.hp ∧ s.endCourtesy.chains = s.chains ∧ s.endCourtesy.ec = s.ec ∧ s.endCourtesy.wq = s.wq ∧
    s.endCourtesy.te = s.te ∧ s.endCourtesy.hm = s.hm ∧ s.endCourtesy.tm.own = s.tm.own ∧
    s.endCourtesy.tm.peer = s.tm.peer ∧ s.endCourtesy.tm.cylinder = s.tm.cylinder ∧
    s.endCourtesy.tm.moving = s.tm.moving ∧ s.endCourtesy.tm.presence = s.tm.presence ∧
    s.endCourtesy.tm.preemptMark = s.tm.preemptMark ∧ s.endCourtesy.tm.peerSeeks = s.tm.peerSeeks ∧
    s.endCourtesy.lu.station = s.lu.station ∧ s.endCourtesy.lu.exchange = s.lu.exchange ∧
    s.endCourtesy.lu.peerExchange = s.lu.peerExchange ∧ s.endCourtesy.lu.peerSeekFell = s.lu.peerSeekFell ∧
    s.endCourtesy.lu.backoff = s.lu.backoff ∧ s.endCourtesy.lu.failedHeard = s.lu.failedHeard ∧
    s.endCourtesy.lu.collisionCount = s.lu.collisionCount ∧ s.endCourtesy.lu.lastCollided = s.lu.lastCollided ∧
    s.endCourtesy.lu.armed = s.lu.armed ∧ s.endCourtesy.rdm = s.rdm ∧ s.endCourtesy.out = s.out ∧
    s.endCourtesy.pending = s.pending := by
  simp only [State.endCourtesy]
  (repeat' split) <;> simp

@[simp] theorem State.beginCourtesy_frame (s : State) :
    s.beginCourtesy.hp = s.hp ∧ s.beginCourtesy.chains = s.chains ∧ s.beginCourtesy.ec = s.ec ∧
    s.beginCourtesy.wq = s.wq ∧ s.beginCourtesy.te = s.te ∧ s.beginCourtesy.hm = s.hm ∧
    s.beginCourtesy.tm.own = s.tm.own ∧ s.beginCourtesy.tm.peer = s.tm.peer ∧
    s.beginCourtesy.tm.cylinder = s.tm.cylinder ∧ s.beginCourtesy.tm.moving = s.tm.moving ∧
    s.beginCourtesy.tm.presence = s.tm.presence ∧ s.beginCourtesy.tm.preemptMark = s.tm.preemptMark ∧
    s.beginCourtesy.tm.peerSeeks = s.tm.peerSeeks ∧ s.beginCourtesy.lu = s.lu ∧ s.beginCourtesy.rdm = s.rdm ∧
    s.beginCourtesy.out = s.out ∧ s.beginCourtesy.pending = s.pending := by
  simp only [State.beginCourtesy]
  (repeat' split) <;> simp

@[simp] theorem State.peerAbsent_frame (s : State) :
    s.peerAbsent.hp.address = s.hp.address ∧ s.peerAbsent.hp.adapter = s.hp.adapter ∧
    s.peerAbsent.hp.maintaining = s.hp.maintaining ∧ s.peerAbsent.hp.refusal = s.hp.refusal ∧
    s.peerAbsent.hp.mask = s.hp.mask ∧ s.peerAbsent.hp.progress = s.hp.progress ∧
    s.peerAbsent.hp.setup = s.hp.setup ∧ s.peerAbsent.hp.waiting = s.hp.waiting ∧
    s.peerAbsent.hp.current = s.hp.current ∧ s.peerAbsent.hp.heldBack = s.hp.heldBack ∧
    s.peerAbsent.hp.tod = s.hp.tod ∧ s.peerAbsent.chains = s.chains ∧ s.peerAbsent.ec = s.ec ∧
    s.peerAbsent.wq = s.wq ∧ s.peerAbsent.te = s.te ∧ s.peerAbsent.hm = s.hm ∧ s.peerAbsent.tm.own = s.tm.own ∧
    s.peerAbsent.tm.peer = s.tm.peer ∧ s.peerAbsent.tm.cylinder = s.tm.cylinder ∧
    s.peerAbsent.tm.moving = s.tm.moving ∧ s.peerAbsent.tm.preemptMark = s.tm.preemptMark ∧
    s.peerAbsent.tm.peerSeeks = s.tm.peerSeeks ∧ s.peerAbsent.lu.station = s.lu.station ∧
    s.peerAbsent.lu.exchange = s.lu.exchange ∧ s.peerAbsent.lu.peerExchange = s.lu.peerExchange ∧
    s.peerAbsent.lu.peerSeekFell = s.lu.peerSeekFell ∧ s.peerAbsent.lu.backoff = s.lu.backoff ∧
    s.peerAbsent.lu.failedHeard = s.lu.failedHeard ∧ s.peerAbsent.lu.collisionCount = s.lu.collisionCount ∧
    s.peerAbsent.lu.lastCollided = s.lu.lastCollided ∧ s.peerAbsent.lu.armed = s.lu.armed ∧
    s.peerAbsent.rdm = s.rdm ∧ s.peerAbsent.out = s.out ∧ s.peerAbsent.pending = s.pending := by
  simp only [State.peerAbsent]
  (repeat' split) <;> simp

@[simp] theorem State.peerPresent_frame (s : State) :
    s.peerPresent.hp.address = s.hp.address ∧ s.peerPresent.hp.adapter = s.hp.adapter ∧
    s.peerPresent.hp.maintaining = s.hp.maintaining ∧ s.peerPresent.hp.refusal = s.hp.refusal ∧
    s.peerPresent.hp.mask = s.hp.mask ∧ s.peerPresent.hp.progress = s.hp.progress ∧
    s.peerPresent.hp.setup = s.hp.setup ∧ s.peerPresent.hp.waiting = s.hp.waiting ∧
    s.peerPresent.hp.current = s.hp.current ∧ s.peerPresent.hp.heldBack = s.hp.heldBack ∧
    s.peerPresent.hp.tod = s.hp.tod ∧ s.peerPresent.chains = s.chains ∧ s.peerPresent.ec = s.ec ∧
    s.peerPresent.wq = s.wq ∧ s.peerPresent.te = s.te ∧ s.peerPresent.hm = s.hm ∧ s.peerPresent.tm.own = s.tm.own ∧
    s.peerPresent.tm.peer = s.tm.peer ∧ s.peerPresent.tm.cylinder = s.tm.cylinder ∧
    s.peerPresent.tm.moving = s.tm.moving ∧ s.peerPresent.tm.preemptMark = s.tm.preemptMark ∧
    s.peerPresent.tm.peerSeeks = s.tm.peerSeeks ∧ s.peerPresent.lu.station = s.lu.station ∧
    s.peerPresent.lu.exchange = s.lu.exchange ∧ s.peerPresent.lu.peerExchange = s.lu.peerExchange ∧
    s.peerPresent.lu.peerSeekFell = s.lu.peerSeekFell ∧ s.peerPresent.lu.backoff = s.lu.backoff ∧
    s.peerPresent.lu.failedHeard = s.lu.failedHeard ∧ s.peerPresent.lu.collisionCount = s.lu.collisionCount ∧
    s.peerPresent.lu.lastCollided = s.lu.lastCollided ∧ s.peerPresent.lu.armed = s.lu.armed ∧
    s.peerPresent.rdm = s.rdm ∧ s.peerPresent.out = s.out ∧ s.peerPresent.pending = s.pending := by
  simp only [State.peerPresent]
  (repeat' split) <;> simp

@[simp] theorem State.reannounce_frame (s : State) (c : Nat) :
    (s.reannounce c).hp = s.hp ∧ (s.reannounce c).chains = s.chains ∧ (s.reannounce c).ec = s.ec ∧
    (s.reannounce c).wq = s.wq ∧ (s.reannounce c).te = s.te ∧ (s.reannounce c).hm = s.hm ∧
    (s.reannounce c).tm = s.tm ∧ (s.reannounce c).rdm = s.rdm ∧ (s.reannounce c).out = s.out ∧
    (s.reannounce c).pending = s.pending := by
  simp only [State.reannounce]
  (repeat' split) <;> simp

@[simp] theorem State.askTenure_frame (s : State) (c : Nat) :
    (s.askTenure c).hp = s.hp ∧ (s.askTenure c).chains = s.chains ∧ (s.askTenure c).ec = s.ec ∧
    (s.askTenure c).wq = s.wq ∧ (s.askTenure c).te = s.te ∧ (s.askTenure c).hm = s.hm ∧
    (s.askTenure c).tm.peer = s.tm.peer ∧ (s.askTenure c).tm.cylinder = s.tm.cylinder ∧
    (s.askTenure c).tm.moving = s.tm.moving ∧ (s.askTenure c).tm.presence = s.tm.presence ∧
    (s.askTenure c).tm.courtesy = s.tm.courtesy ∧ (s.askTenure c).tm.preemptMark = s.tm.preemptMark ∧
    (s.askTenure c).tm.peerSeeks = s.tm.peerSeeks ∧ (s.askTenure c).rdm = s.rdm ∧ (s.askTenure c).out = s.out ∧
    (s.askTenure c).pending = s.pending := by
  simp only [State.askTenure]
  (repeat' split) <;> simp

@[simp] theorem State.peerGone_frame (s : State) :
    s.peerGone.hp = s.hp ∧ s.peerGone.chains = s.chains ∧ s.peerGone.ec = s.ec ∧
    s.peerGone.wq.nextId = s.wq.nextId ∧ s.peerGone.te = s.te ∧ s.peerGone.hm = s.hm ∧
    s.peerGone.tm.own = s.tm.own ∧ s.peerGone.tm.cylinder = s.tm.cylinder ∧ s.peerGone.tm.moving = s.tm.moving ∧
    s.peerGone.tm.presence = s.tm.presence ∧ s.peerGone.tm.courtesy = s.tm.courtesy ∧
    s.peerGone.tm.peerSeeks = s.tm.peerSeeks ∧ s.peerGone.lu.station = s.lu.station ∧
    s.peerGone.lu.exchange = s.lu.exchange ∧ s.peerGone.lu.peerExchange = s.lu.peerExchange ∧
    s.peerGone.lu.peerSeekFell = s.lu.peerSeekFell ∧ s.peerGone.lu.backoff = s.lu.backoff ∧
    s.peerGone.lu.failedHeard = s.lu.failedHeard ∧ s.peerGone.lu.collisionCount = s.lu.collisionCount ∧
    s.peerGone.lu.lastCollided = s.lu.lastCollided ∧ s.peerGone.lu.armed = s.lu.armed ∧ s.peerGone.rdm = s.rdm ∧
    s.peerGone.out = s.out ∧ s.peerGone.pending = s.pending := by
  simp only [State.peerGone]
  (repeat' split) <;> simp

@[simp] theorem State.peerHolds_frame (s : State) (c : Option Nat) (revolutions : Nat) :
    (s.peerHolds c revolutions).hp = s.hp ∧ (s.peerHolds c revolutions).chains = s.chains ∧
    (s.peerHolds c revolutions).ec = s.ec ∧ (s.peerHolds c revolutions).wq.nextId = s.wq.nextId ∧
    (s.peerHolds c revolutions).te = s.te ∧ (s.peerHolds c revolutions).hm = s.hm ∧
    (s.peerHolds c revolutions).tm.own = s.tm.own ∧ (s.peerHolds c revolutions).tm.cylinder = s.tm.cylinder ∧
    (s.peerHolds c revolutions).tm.moving = s.tm.moving ∧ (s.peerHolds c revolutions).tm.presence = s.tm.presence ∧
    (s.peerHolds c revolutions).tm.courtesy = s.tm.courtesy ∧
    (s.peerHolds c revolutions).tm.peerSeeks = s.tm.peerSeeks ∧ (s.peerHolds c revolutions).lu = s.lu ∧
    (s.peerHolds c revolutions).rdm = s.rdm ∧ (s.peerHolds c revolutions).out = s.out ∧
    (s.peerHolds c revolutions).pending = s.pending := by
  simp only [State.peerHolds]
  simp

@[simp] theorem State.setOwn_frame (s : State) (o : OwnTenure) :
    (s.setOwn o).hp = s.hp ∧ (s.setOwn o).chains = s.chains ∧ (s.setOwn o).ec = s.ec ∧ (s.setOwn o).wq = s.wq ∧
    (s.setOwn o).te = s.te ∧ (s.setOwn o).hm = s.hm ∧ (s.setOwn o).tm.peer = s.tm.peer ∧
    (s.setOwn o).tm.cylinder = s.tm.cylinder ∧ (s.setOwn o).tm.moving = s.tm.moving ∧
    (s.setOwn o).tm.presence = s.tm.presence ∧ (s.setOwn o).tm.courtesy = s.tm.courtesy ∧
    (s.setOwn o).tm.preemptMark = s.tm.preemptMark ∧ (s.setOwn o).tm.peerSeeks = s.tm.peerSeeks ∧
    (s.setOwn o).lu = s.lu ∧ (s.setOwn o).rdm = s.rdm ∧ (s.setOwn o).out = s.out ∧ (s.setOwn o).pending = s.pending := by
  simp only [State.setOwn]
  simp

@[simp] theorem State.offerReleaseOnce_frame (s : State) :
    s.offerReleaseOnce.hp = s.hp ∧ s.offerReleaseOnce.chains = s.chains ∧ s.offerReleaseOnce.ec = s.ec ∧
    s.offerReleaseOnce.wq = s.wq ∧ s.offerReleaseOnce.te = s.te ∧ s.offerReleaseOnce.hm = s.hm ∧
    s.offerReleaseOnce.tm = s.tm ∧ s.offerReleaseOnce.lu.station = s.lu.station ∧
    s.offerReleaseOnce.lu.exchange = s.lu.exchange ∧ s.offerReleaseOnce.lu.peerExchange = s.lu.peerExchange ∧
    s.offerReleaseOnce.lu.peerSeekFell = s.lu.peerSeekFell ∧ s.offerReleaseOnce.lu.backoff = s.lu.backoff ∧
    s.offerReleaseOnce.lu.failedHeard = s.lu.failedHeard ∧
    s.offerReleaseOnce.lu.collisionCount = s.lu.collisionCount ∧
    s.offerReleaseOnce.lu.lastCollided = s.lu.lastCollided ∧ s.offerReleaseOnce.lu.armed = s.lu.armed ∧
    s.offerReleaseOnce.rdm = s.rdm ∧ s.offerReleaseOnce.out = s.out ∧ s.offerReleaseOnce.pending = s.pending := by
  simp only [State.offerReleaseOnce]
  (repeat' split) <;> simp

@[simp] theorem State.offerRelease_frame (s : State) :
    s.offerRelease.hp = s.hp ∧ s.offerRelease.chains = s.chains ∧ s.offerRelease.ec = s.ec ∧
    s.offerRelease.wq = s.wq ∧ s.offerRelease.te = s.te ∧ s.offerRelease.hm = s.hm ∧ s.offerRelease.tm = s.tm ∧
    s.offerRelease.lu.station = s.lu.station ∧ s.offerRelease.lu.exchange = s.lu.exchange ∧
    s.offerRelease.lu.peerExchange = s.lu.peerExchange ∧ s.offerRelease.lu.peerSeekFell = s.lu.peerSeekFell ∧
    s.offerRelease.lu.backoff = s.lu.backoff ∧ s.offerRelease.lu.failedHeard = s.lu.failedHeard ∧
    s.offerRelease.lu.collisionCount = s.lu.collisionCount ∧ s.offerRelease.lu.lastCollided = s.lu.lastCollided ∧
    s.offerRelease.lu.armed = s.lu.armed ∧ s.offerRelease.rdm = s.rdm ∧ s.offerRelease.out = s.out ∧
    s.offerRelease.pending = s.pending := by
  simp only [State.offerRelease]
  (repeat' split) <;> simp

@[simp] theorem State.preemptSlot_frame (s : State) :
    s.preemptSlot.hp = s.hp ∧ s.preemptSlot.chains = s.chains ∧ s.preemptSlot.ec = s.ec ∧ s.preemptSlot.wq = s.wq ∧
    s.preemptSlot.te = s.te ∧ s.preemptSlot.hm = s.hm ∧ s.preemptSlot.tm = s.tm ∧ s.preemptSlot.rdm = s.rdm ∧
    s.preemptSlot.out = s.out ∧ s.preemptSlot.pending = s.pending := by
  simp only [State.preemptSlot]
  (repeat' split) <;> simp

@[simp] theorem State.countPeerSeek_frame (s : State) :
    s.countPeerSeek.hp = s.hp ∧ s.countPeerSeek.chains = s.chains ∧ s.countPeerSeek.ec = s.ec ∧
    s.countPeerSeek.wq = s.wq ∧ s.countPeerSeek.te = s.te ∧ s.countPeerSeek.hm = s.hm ∧
    s.countPeerSeek.tm.own = s.tm.own ∧ s.countPeerSeek.tm.peer = s.tm.peer ∧
    s.countPeerSeek.tm.cylinder = s.tm.cylinder ∧ s.countPeerSeek.tm.moving = s.tm.moving ∧
    s.countPeerSeek.tm.presence = s.tm.presence ∧ s.countPeerSeek.tm.courtesy = s.tm.courtesy ∧
    s.countPeerSeek.tm.preemptMark = s.tm.preemptMark ∧ s.countPeerSeek.lu = s.lu ∧ s.countPeerSeek.rdm = s.rdm ∧
    s.countPeerSeek.out = s.out ∧ s.countPeerSeek.pending = s.pending := by
  simp only [State.countPeerSeek]
  simp

end Sys2Proof.Machine
end

