-- ==== Sys2Proof/Laws/Engine.lean ====
section
/-! SUPPORT. What each shared operation of the Transfer Engine and the Chain Unit leaves unchanged. -/

namespace Sys2Proof.Machine

open Sys2Proof

/-! The Transfer Engine (Section 5). -/

@[simp] theorem State.setBuf_frame (s : State) (n : BufferName) (b : SectorBuffer) :
    (s.setBuf n b).hp = s.hp ∧ (s.setBuf n b).chains = s.chains ∧ (s.setBuf n b).ec = s.ec ∧
    (s.setBuf n b).wq = s.wq ∧ (s.setBuf n b).hm = s.hm ∧ (s.setBuf n b).tm = s.tm ∧ (s.setBuf n b).lu = s.lu ∧
    (s.setBuf n b).rdm = s.rdm ∧ (s.setBuf n b).out = s.out ∧ (s.setBuf n b).pending = s.pending := by
  simp only [State.setBuf]
  simp

@[simp] theorem State.loadOne_frame (s : State) (r : Request) :
    (s.loadOne r).hp.address = s.hp.address ∧ (s.loadOne r).hp.adapter = s.hp.adapter ∧
    (s.loadOne r).hp.maintaining = s.hp.maintaining ∧ (s.loadOne r).hp.refusal = s.hp.refusal ∧
    (s.loadOne r).hp.events = s.hp.events ∧ (s.loadOne r).hp.mask = s.hp.mask ∧
    (s.loadOne r).hp.progress = s.hp.progress ∧ (s.loadOne r).hp.setup = s.hp.setup ∧
    (s.loadOne r).hp.current = s.hp.current ∧ (s.loadOne r).hp.heldBack = s.hp.heldBack ∧
    (s.loadOne r).hp.tod = s.hp.tod ∧ (s.loadOne r).chains = s.chains ∧ (s.loadOne r).ec = s.ec ∧
    (s.loadOne r).wq = s.wq ∧ (s.loadOne r).hm = s.hm ∧ (s.loadOne r).tm = s.tm ∧ (s.loadOne r).lu = s.lu ∧
    (s.loadOne r).rdm = s.rdm ∧ (s.loadOne r).out = s.out ∧ (s.loadOne r).pending = s.pending := by
  simp only [State.loadOne]
  (repeat' split) <;> simp

@[simp] theorem State.loadAhead_frame (s : State) :
    s.loadAhead.hp.address = s.hp.address ∧ s.loadAhead.hp.adapter = s.hp.adapter ∧
    s.loadAhead.hp.maintaining = s.hp.maintaining ∧ s.loadAhead.hp.refusal = s.hp.refusal ∧
    s.loadAhead.hp.events = s.hp.events ∧ s.loadAhead.hp.mask = s.hp.mask ∧
    s.loadAhead.hp.progress = s.hp.progress ∧ s.loadAhead.hp.setup = s.hp.setup ∧
    s.loadAhead.hp.current = s.hp.current ∧ s.loadAhead.hp.heldBack = s.hp.heldBack ∧
    s.loadAhead.hp.tod = s.hp.tod ∧ s.loadAhead.chains = s.chains ∧ s.loadAhead.ec = s.ec ∧ s.loadAhead.wq = s.wq ∧
    s.loadAhead.hm = s.hm ∧ s.loadAhead.tm = s.tm ∧ s.loadAhead.lu = s.lu ∧ s.loadAhead.rdm = s.rdm ∧
    s.loadAhead.out = s.out ∧ s.loadAhead.pending = s.pending := by
  simp only [State.loadAhead]
  (repeat' split) <;> simp

@[simp] theorem State.discardBuf_frame (s : State) (n : BufferName) :
    (s.discardBuf n).hp.address = s.hp.address ∧ (s.discardBuf n).hp.adapter = s.hp.adapter ∧
    (s.discardBuf n).hp.maintaining = s.hp.maintaining ∧ (s.discardBuf n).hp.refusal = s.hp.refusal ∧
    (s.discardBuf n).hp.events = s.hp.events ∧ (s.discardBuf n).hp.mask = s.hp.mask ∧
    (s.discardBuf n).hp.progress = s.hp.progress ∧ (s.discardBuf n).hp.setup = s.hp.setup ∧
    (s.discardBuf n).hp.current = s.hp.current ∧ (s.discardBuf n).hp.heldBack = s.hp.heldBack ∧
    (s.discardBuf n).hp.tod = s.hp.tod ∧ (s.discardBuf n).chains = s.chains ∧ (s.discardBuf n).ec = s.ec ∧
    (s.discardBuf n).wq = s.wq ∧ (s.discardBuf n).hm = s.hm ∧ (s.discardBuf n).tm = s.tm ∧
    (s.discardBuf n).lu = s.lu ∧ (s.discardBuf n).rdm = s.rdm ∧ (s.discardBuf n).out = s.out ∧
    (s.discardBuf n).pending = s.pending := by
  simp only [State.discardBuf]
  (repeat' split) <;> simp

@[simp] theorem State.discardData_frame (s : State) :
    s.discardData.hp.address = s.hp.address ∧ s.discardData.hp.adapter = s.hp.adapter ∧
    s.discardData.hp.maintaining = s.hp.maintaining ∧ s.discardData.hp.refusal = s.hp.refusal ∧
    s.discardData.hp.events = s.hp.events ∧ s.discardData.hp.mask = s.hp.mask ∧
    s.discardData.hp.progress = s.hp.progress ∧ s.discardData.hp.setup = s.hp.setup ∧
    s.discardData.hp.current = s.hp.current ∧ s.discardData.hp.heldBack = s.hp.heldBack ∧
    s.discardData.hp.tod = s.hp.tod ∧ s.discardData.chains = s.chains ∧ s.discardData.ec = s.ec ∧
    s.discardData.wq = s.wq ∧ s.discardData.hm = s.hm ∧ s.discardData.tm = s.tm ∧ s.discardData.lu = s.lu ∧
    s.discardData.rdm = s.rdm ∧ s.discardData.out = s.out ∧ s.discardData.pending = s.pending := by
  simp only [State.discardData]
  simp

@[simp] theorem State.idleEngine_frame (s : State) :
    s.idleEngine.hp.address = s.hp.address ∧ s.idleEngine.hp.adapter = s.hp.adapter ∧
    s.idleEngine.hp.maintaining = s.hp.maintaining ∧ s.idleEngine.hp.refusal = s.hp.refusal ∧
    s.idleEngine.hp.events = s.hp.events ∧ s.idleEngine.hp.mask = s.hp.mask ∧
    s.idleEngine.hp.progress = s.hp.progress ∧ s.idleEngine.hp.setup = s.hp.setup ∧
    s.idleEngine.hp.current = s.hp.current ∧ s.idleEngine.hp.heldBack = s.hp.heldBack ∧
    s.idleEngine.hp.tod = s.hp.tod ∧ s.idleEngine.chains = s.chains ∧ s.idleEngine.ec = s.ec ∧
    s.idleEngine.wq = s.wq ∧ s.idleEngine.hm = s.hm ∧ s.idleEngine.tm = s.tm ∧
    s.idleEngine.lu.station = s.lu.station ∧ s.idleEngine.lu.exchange = s.lu.exchange ∧
    s.idleEngine.lu.peerExchange = s.lu.peerExchange ∧ s.idleEngine.lu.peerSeekFell = s.lu.peerSeekFell ∧
    s.idleEngine.lu.backoff = s.lu.backoff ∧ s.idleEngine.lu.failedHeard = s.lu.failedHeard ∧
    s.idleEngine.lu.collisionCount = s.lu.collisionCount ∧ s.idleEngine.lu.lastCollided = s.lu.lastCollided ∧
    s.idleEngine.lu.armed = s.lu.armed ∧ s.idleEngine.rdm = s.rdm ∧ s.idleEngine.out = s.out ∧
    s.idleEngine.pending = s.pending := by
  simp only [State.idleEngine]
  simp

@[simp] theorem State.finish_frame (s : State) (st : Status) (f : Option ElementFault) (m : Bool) :
    (s.finish st f m).hp.address = s.hp.address ∧ (s.finish st f m).hp.adapter = s.hp.adapter ∧
    (s.finish st f m).hp.maintaining = s.hp.maintaining ∧ (s.finish st f m).hp.refusal = s.hp.refusal ∧
    (s.finish st f m).hp.events = s.hp.events ∧ (s.finish st f m).hp.mask = s.hp.mask ∧
    (s.finish st f m).hp.progress = s.hp.progress ∧ (s.finish st f m).hp.setup = s.hp.setup ∧
    (s.finish st f m).hp.current = s.hp.current ∧ (s.finish st f m).hp.tod = s.hp.tod ∧
    (s.finish st f m).chains = s.chains ∧ (s.finish st f m).wq.nextId = s.wq.nextId ∧ (s.finish st f m).tm = s.tm ∧
    (s.finish st f m).lu.station = s.lu.station ∧ (s.finish st f m).lu.exchange = s.lu.exchange ∧
    (s.finish st f m).lu.peerExchange = s.lu.peerExchange ∧ (s.finish st f m).lu.peerSeekFell = s.lu.peerSeekFell ∧
    (s.finish st f m).lu.backoff = s.lu.backoff ∧ (s.finish st f m).lu.failedHeard = s.lu.failedHeard ∧
    (s.finish st f m).lu.collisionCount = s.lu.collisionCount ∧
    (s.finish st f m).lu.lastCollided = s.lu.lastCollided ∧ (s.finish st f m).lu.armed = s.lu.armed ∧
    (s.finish st f m).rdm = s.rdm ∧ (s.finish st f m).out = s.out ∧ (s.finish st f m).pending = s.pending := by
  simp only [State.finish]
  (repeat' split) <;> simp

@[simp] theorem State.handBack_frame (s : State) (q : Request → RequestState) :
    (s.handBack q).hp.address = s.hp.address ∧ (s.handBack q).hp.adapter = s.hp.adapter ∧
    (s.handBack q).hp.maintaining = s.hp.maintaining ∧ (s.handBack q).hp.refusal = s.hp.refusal ∧
    (s.handBack q).hp.events = s.hp.events ∧ (s.handBack q).hp.mask = s.hp.mask ∧
    (s.handBack q).hp.progress = s.hp.progress ∧ (s.handBack q).hp.setup = s.hp.setup ∧
    (s.handBack q).hp.current = s.hp.current ∧ (s.handBack q).hp.tod = s.hp.tod ∧
    (s.handBack q).chains = s.chains ∧ (s.handBack q).tm = s.tm ∧ (s.handBack q).lu.station = s.lu.station ∧
    (s.handBack q).lu.exchange = s.lu.exchange ∧ (s.handBack q).lu.peerExchange = s.lu.peerExchange ∧
    (s.handBack q).lu.peerSeekFell = s.lu.peerSeekFell ∧ (s.handBack q).lu.backoff = s.lu.backoff ∧
    (s.handBack q).lu.failedHeard = s.lu.failedHeard ∧ (s.handBack q).lu.collisionCount = s.lu.collisionCount ∧
    (s.handBack q).lu.lastCollided = s.lu.lastCollided ∧ (s.handBack q).lu.armed = s.lu.armed ∧
    (s.handBack q).rdm = s.rdm ∧ (s.handBack q).out = s.out ∧ (s.handBack q).pending = s.pending := by
  simp only [State.handBack]
  (repeat' split) <;> simp

@[simp] theorem State.suspend_frame (s : State) :
    s.suspend.hp.address = s.hp.address ∧ s.suspend.hp.adapter = s.hp.adapter ∧
    s.suspend.hp.maintaining = s.hp.maintaining ∧ s.suspend.hp.refusal = s.hp.refusal ∧
    s.suspend.hp.events = s.hp.events ∧ s.suspend.hp.mask = s.hp.mask ∧ s.suspend.hp.progress = s.hp.progress ∧
    s.suspend.hp.setup = s.hp.setup ∧ s.suspend.hp.current = s.hp.current ∧ s.suspend.hp.tod = s.hp.tod ∧
    s.suspend.chains = s.chains ∧ s.suspend.tm = s.tm ∧ s.suspend.lu.station = s.lu.station ∧
    s.suspend.lu.exchange = s.lu.exchange ∧ s.suspend.lu.peerExchange = s.lu.peerExchange ∧
    s.suspend.lu.peerSeekFell = s.lu.peerSeekFell ∧ s.suspend.lu.backoff = s.lu.backoff ∧
    s.suspend.lu.failedHeard = s.lu.failedHeard ∧ s.suspend.lu.collisionCount = s.lu.collisionCount ∧
    s.suspend.lu.lastCollided = s.lu.lastCollided ∧ s.suspend.lu.armed = s.lu.armed ∧ s.suspend.rdm = s.rdm ∧
    s.suspend.out = s.out ∧ s.suspend.pending = s.pending := by
  simp only [State.suspend]
  simp

@[simp] theorem State.giveBack_frame (s : State) :
    s.giveBack.hp.address = s.hp.address ∧ s.giveBack.hp.adapter = s.hp.adapter ∧
    s.giveBack.hp.maintaining = s.hp.maintaining ∧ s.giveBack.hp.refusal = s.hp.refusal ∧
    s.giveBack.hp.events = s.hp.events ∧ s.giveBack.hp.mask = s.hp.mask ∧ s.giveBack.hp.progress = s.hp.progress ∧
    s.giveBack.hp.setup = s.hp.setup ∧ s.giveBack.hp.current = s.hp.current ∧ s.giveBack.hp.tod = s.hp.tod ∧
    s.giveBack.chains = s.chains ∧ s.giveBack.tm = s.tm ∧ s.giveBack.lu.station = s.lu.station ∧
    s.giveBack.lu.exchange = s.lu.exchange ∧ s.giveBack.lu.peerExchange = s.lu.peerExchange ∧
    s.giveBack.lu.peerSeekFell = s.lu.peerSeekFell ∧ s.giveBack.lu.backoff = s.lu.backoff ∧
    s.giveBack.lu.failedHeard = s.lu.failedHeard ∧ s.giveBack.lu.collisionCount = s.lu.collisionCount ∧
    s.giveBack.lu.lastCollided = s.lu.lastCollided ∧ s.giveBack.lu.armed = s.lu.armed ∧ s.giveBack.rdm = s.rdm ∧
    s.giveBack.out = s.out ∧ s.giveBack.pending = s.pending := by
  simp only [State.giveBack]
  simp

@[simp] theorem State.tryOrder_frame (s : State) :
    s.tryOrder.hp = s.hp ∧ s.tryOrder.chains = s.chains ∧ s.tryOrder.ec = s.ec ∧ s.tryOrder.wq = s.wq ∧
    s.tryOrder.te = s.te ∧ s.tryOrder.hm = s.hm ∧ s.tryOrder.tm = s.tm ∧ s.tryOrder.lu.station = s.lu.station ∧
    s.tryOrder.lu.exchange = s.lu.exchange ∧ s.tryOrder.lu.peerExchange = s.lu.peerExchange ∧
    s.tryOrder.lu.peerSeekFell = s.lu.peerSeekFell ∧ s.tryOrder.lu.backoff = s.lu.backoff ∧
    s.tryOrder.lu.failedHeard = s.lu.failedHeard ∧ s.tryOrder.lu.collisionCount = s.lu.collisionCount ∧
    s.tryOrder.lu.lastCollided = s.lu.lastCollided ∧ s.tryOrder.lu.armed = s.lu.armed ∧ s.tryOrder.rdm = s.rdm ∧
    s.tryOrder.out = s.out ∧ s.tryOrder.pending = s.pending := by
  simp only [State.tryOrder]
  (repeat' split) <;> simp

@[simp] theorem State.enterLead_frame (s : State) :
    s.enterLead.hp = s.hp ∧ s.enterLead.chains = s.chains ∧ s.enterLead.ec = s.ec ∧ s.enterLead.wq = s.wq ∧
    s.enterLead.te.request = s.te.request ∧ s.enterLead.te.sector = s.te.sector ∧
    s.enterLead.te.target = s.te.target ∧ s.enterLead.te.settle = s.te.settle ∧
    s.enterLead.te.lastSlip = s.te.lastSlip ∧ s.enterLead.te.suspendAfter = s.te.suspendAfter ∧
    s.enterLead.te.downAfter = s.te.downAfter ∧ s.enterLead.te.maintenanceOver = s.te.maintenanceOver ∧
    s.enterLead.te.bufA = s.te.bufA ∧ s.enterLead.te.bufB = s.te.bufB ∧ s.enterLead.hm = s.hm ∧
    s.enterLead.tm = s.tm ∧ s.enterLead.lu.station = s.lu.station ∧ s.enterLead.lu.exchange = s.lu.exchange ∧
    s.enterLead.lu.peerExchange = s.lu.peerExchange ∧ s.enterLead.lu.peerSeekFell = s.lu.peerSeekFell ∧
    s.enterLead.lu.backoff = s.lu.backoff ∧ s.enterLead.lu.failedHeard = s.lu.failedHeard ∧
    s.enterLead.lu.collisionCount = s.lu.collisionCount ∧ s.enterLead.lu.lastCollided = s.lu.lastCollided ∧
    s.enterLead.lu.armed = s.lu.armed ∧ s.enterLead.rdm = s.rdm ∧ s.enterLead.out = s.out ∧
    s.enterLead.pending = s.pending := by
  simp only [State.enterLead]
  simp

@[simp] theorem State.setPhase_frame (s : State) (p : Phase) :
    (s.setPhase p).hp = s.hp ∧ (s.setPhase p).chains = s.chains ∧ (s.setPhase p).ec = s.ec ∧
    (s.setPhase p).wq = s.wq ∧ (s.setPhase p).te.request = s.te.request ∧ (s.setPhase p).te.sector = s.te.sector ∧
    (s.setPhase p).te.target = s.te.target ∧ (s.setPhase p).te.settle = s.te.settle ∧
    (s.setPhase p).te.lastSlip = s.te.lastSlip ∧ (s.setPhase p).te.suspendAfter = s.te.suspendAfter ∧
    (s.setPhase p).te.downAfter = s.te.downAfter ∧ (s.setPhase p).te.maintenanceOver = s.te.maintenanceOver ∧
    (s.setPhase p).te.bufA = s.te.bufA ∧ (s.setPhase p).te.bufB = s.te.bufB ∧ (s.setPhase p).hm = s.hm ∧
    (s.setPhase p).tm = s.tm ∧ (s.setPhase p).lu = s.lu ∧ (s.setPhase p).rdm = s.rdm ∧ (s.setPhase p).out = s.out ∧
    (s.setPhase p).pending = s.pending := by
  simp only [State.setPhase]
  simp

@[simp] theorem State.enterSettle_frame (s : State) :
    s.enterSettle.hp = s.hp ∧ s.enterSettle.chains = s.chains ∧ s.enterSettle.ec = s.ec ∧ s.enterSettle.wq = s.wq ∧
    s.enterSettle.te.request = s.te.request ∧ s.enterSettle.te.sector = s.te.sector ∧
    s.enterSettle.te.target = s.te.target ∧ s.enterSettle.te.lastSlip = s.te.lastSlip ∧
    s.enterSettle.te.suspendAfter = s.te.suspendAfter ∧ s.enterSettle.te.downAfter = s.te.downAfter ∧
    s.enterSettle.te.maintenanceOver = s.te.maintenanceOver ∧ s.enterSettle.te.bufA = s.te.bufA ∧
    s.enterSettle.te.bufB = s.te.bufB ∧ s.enterSettle.hm = s.hm ∧ s.enterSettle.tm = s.tm ∧
    s.enterSettle.lu = s.lu ∧ s.enterSettle.rdm = s.rdm ∧ s.enterSettle.out = s.out ∧
    s.enterSettle.pending = s.pending := by
  simp only [State.enterSettle]
  simp

@[simp] theorem State.offerSeek_frame (s : State) :
    s.offerSeek.hp = s.hp ∧ s.offerSeek.chains = s.chains ∧ s.offerSeek.ec = s.ec ∧ s.offerSeek.wq = s.wq ∧
    s.offerSeek.te.request = s.te.request ∧ s.offerSeek.te.sector = s.te.sector ∧
    s.offerSeek.te.target = s.te.target ∧ s.offerSeek.te.settle = s.te.settle ∧
    s.offerSeek.te.lastSlip = s.te.lastSlip ∧ s.offerSeek.te.suspendAfter = s.te.suspendAfter ∧
    s.offerSeek.te.downAfter = s.te.downAfter ∧ s.offerSeek.te.maintenanceOver = s.te.maintenanceOver ∧
    s.offerSeek.te.bufA = s.te.bufA ∧ s.offerSeek.te.bufB = s.te.bufB ∧ s.offerSeek.hm = s.hm ∧
    s.offerSeek.tm = s.tm ∧ s.offerSeek.lu.station = s.lu.station ∧ s.offerSeek.lu.exchange = s.lu.exchange ∧
    s.offerSeek.lu.peerExchange = s.lu.peerExchange ∧ s.offerSeek.lu.peerSeekFell = s.lu.peerSeekFell ∧
    s.offerSeek.lu.backoff = s.lu.backoff ∧ s.offerSeek.lu.failedHeard = s.lu.failedHeard ∧
    s.offerSeek.lu.collisionCount = s.lu.collisionCount ∧ s.offerSeek.lu.lastCollided = s.lu.lastCollided ∧
    s.offerSeek.lu.armed = s.lu.armed ∧ s.offerSeek.rdm = s.rdm ∧ s.offerSeek.out = s.out ∧
    s.offerSeek.pending = s.pending := by
  simp only [State.offerSeek]
  simp

@[simp] theorem State.offerSense_frame (s : State) :
    s.offerSense.hp = s.hp ∧ s.offerSense.chains = s.chains ∧ s.offerSense.ec = s.ec ∧ s.offerSense.wq = s.wq ∧
    s.offerSense.te.request = s.te.request ∧ s.offerSense.te.sector = s.te.sector ∧
    s.offerSense.te.target = s.te.target ∧ s.offerSense.te.settle = s.te.settle ∧
    s.offerSense.te.lastSlip = s.te.lastSlip ∧ s.offerSense.te.suspendAfter = s.te.suspendAfter ∧
    s.offerSense.te.downAfter = s.te.downAfter ∧ s.offerSense.te.maintenanceOver = s.te.maintenanceOver ∧
    s.offerSense.te.bufA = s.te.bufA ∧ s.offerSense.te.bufB = s.te.bufB ∧ s.offerSense.hm = s.hm ∧
    s.offerSense.tm = s.tm ∧ s.offerSense.lu.station = s.lu.station ∧ s.offerSense.lu.exchange = s.lu.exchange ∧
    s.offerSense.lu.peerExchange = s.lu.peerExchange ∧ s.offerSense.lu.peerSeekFell = s.lu.peerSeekFell ∧
    s.offerSense.lu.backoff = s.lu.backoff ∧ s.offerSense.lu.failedHeard = s.lu.failedHeard ∧
    s.offerSense.lu.collisionCount = s.lu.collisionCount ∧ s.offerSense.lu.lastCollided = s.lu.lastCollided ∧
    s.offerSense.lu.armed = s.lu.armed ∧ s.offerSense.rdm = s.rdm ∧ s.offerSense.out = s.out ∧
    s.offerSense.pending = s.pending := by
  simp only [State.offerSense]
  simp

@[simp] theorem State.waitTenure_frame (s : State) :
    s.waitTenure.hp = s.hp ∧ s.waitTenure.chains = s.chains ∧ s.waitTenure.ec = s.ec ∧ s.waitTenure.wq = s.wq ∧
    s.waitTenure.te.request = s.te.request ∧ s.waitTenure.te.sector = s.te.sector ∧
    s.waitTenure.te.target = s.te.target ∧ s.waitTenure.te.settle = s.te.settle ∧
    s.waitTenure.te.lastSlip = s.te.lastSlip ∧ s.waitTenure.te.suspendAfter = s.te.suspendAfter ∧
    s.waitTenure.te.downAfter = s.te.downAfter ∧ s.waitTenure.te.maintenanceOver = s.te.maintenanceOver ∧
    s.waitTenure.te.bufA = s.te.bufA ∧ s.waitTenure.te.bufB = s.te.bufB ∧ s.waitTenure.hm = s.hm ∧
    s.waitTenure.tm.peer = s.tm.peer ∧ s.waitTenure.tm.cylinder = s.tm.cylinder ∧
    s.waitTenure.tm.moving = s.tm.moving ∧ s.waitTenure.tm.presence = s.tm.presence ∧
    s.waitTenure.tm.courtesy = s.tm.courtesy ∧ s.waitTenure.tm.preemptMark = s.tm.preemptMark ∧
    s.waitTenure.tm.peerSeeks = s.tm.peerSeeks ∧ s.waitTenure.rdm = s.rdm ∧ s.waitTenure.out = s.out ∧
    s.waitTenure.pending = s.pending := by
  simp only [State.waitTenure]
  simp

@[simp] theorem State.positionAt_frame (s : State) :
    s.positionAt.hp.address = s.hp.address ∧ s.positionAt.hp.adapter = s.hp.adapter ∧
    s.positionAt.hp.maintaining = s.hp.maintaining ∧ s.positionAt.hp.refusal = s.hp.refusal ∧
    s.positionAt.hp.events = s.hp.events ∧ s.positionAt.hp.mask = s.hp.mask ∧
    s.positionAt.hp.progress = s.hp.progress ∧ s.positionAt.hp.setup = s.hp.setup ∧
    s.positionAt.hp.current = s.hp.current ∧ s.positionAt.hp.tod = s.hp.tod ∧ s.positionAt.chains = s.chains ∧
    s.positionAt.tm.peer = s.tm.peer ∧ s.positionAt.tm.cylinder = s.tm.cylinder ∧
    s.positionAt.tm.moving = s.tm.moving ∧ s.positionAt.tm.presence = s.tm.presence ∧
    s.positionAt.tm.courtesy = s.tm.courtesy ∧ s.positionAt.tm.preemptMark = s.tm.preemptMark ∧
    s.positionAt.tm.peerSeeks = s.tm.peerSeeks ∧ s.positionAt.rdm = s.rdm ∧ s.positionAt.out = s.out ∧
    s.positionAt.pending = s.pending := by
  simp only [State.positionAt]
  (repeat' split) <;> simp

@[simp] theorem State.position_frame (s : State) :
    s.position.hp.address = s.hp.address ∧ s.position.hp.adapter = s.hp.adapter ∧
    s.position.hp.maintaining = s.hp.maintaining ∧ s.position.hp.refusal = s.hp.refusal ∧
    s.position.hp.events = s.hp.events ∧ s.position.hp.mask = s.hp.mask ∧ s.position.hp.progress = s.hp.progress ∧
    s.position.hp.setup = s.hp.setup ∧ s.position.hp.current = s.hp.current ∧ s.position.hp.tod = s.hp.tod ∧
    s.position.chains = s.chains ∧ s.position.tm.peer = s.tm.peer ∧ s.position.tm.cylinder = s.tm.cylinder ∧
    s.position.tm.moving = s.tm.moving ∧ s.position.tm.presence = s.tm.presence ∧
    s.position.tm.courtesy = s.tm.courtesy ∧ s.position.tm.preemptMark = s.tm.preemptMark ∧
    s.position.tm.peerSeeks = s.tm.peerSeeks ∧ s.position.rdm = s.rdm ∧ s.position.out = s.out ∧
    s.position.pending = s.pending := by
  simp only [State.position]
  (repeat' split) <;> simp

@[simp] theorem State.takeRequest_frame (s : State) (r : Request) :
    (s.takeRequest r).hp.address = s.hp.address ∧ (s.takeRequest r).hp.adapter = s.hp.adapter ∧
    (s.takeRequest r).hp.maintaining = s.hp.maintaining ∧ (s.takeRequest r).hp.refusal = s.hp.refusal ∧
    (s.takeRequest r).hp.events = s.hp.events ∧ (s.takeRequest r).hp.mask = s.hp.mask ∧
    (s.takeRequest r).hp.progress = s.hp.progress ∧ (s.takeRequest r).hp.setup = s.hp.setup ∧
    (s.takeRequest r).hp.current = s.hp.current ∧ (s.takeRequest r).hp.tod = s.hp.tod ∧
    (s.takeRequest r).chains = s.chains ∧ (s.takeRequest r).tm.peer = s.tm.peer ∧
    (s.takeRequest r).tm.cylinder = s.tm.cylinder ∧ (s.takeRequest r).tm.moving = s.tm.moving ∧
    (s.takeRequest r).tm.presence = s.tm.presence ∧ (s.takeRequest r).tm.courtesy = s.tm.courtesy ∧
    (s.takeRequest r).tm.preemptMark = s.tm.preemptMark ∧ (s.takeRequest r).tm.peerSeeks = s.tm.peerSeeks ∧
    (s.takeRequest r).rdm = s.rdm ∧ (s.takeRequest r).out = s.out ∧ (s.takeRequest r).pending = s.pending := by
  simp only [State.takeRequest]
  simp

@[simp] theorem State.select_frame (s : State) :
    s.select.hp.address = s.hp.address ∧ s.select.hp.adapter = s.hp.adapter ∧
    s.select.hp.maintaining = s.hp.maintaining ∧ s.select.hp.refusal = s.hp.refusal ∧
    s.select.hp.events = s.hp.events ∧ s.select.hp.mask = s.hp.mask ∧ s.select.hp.progress = s.hp.progress ∧
    s.select.hp.setup = s.hp.setup ∧ s.select.hp.current = s.hp.current ∧ s.select.hp.tod = s.hp.tod ∧
    s.select.chains = s.chains ∧ s.select.tm.peer = s.tm.peer ∧ s.select.tm.cylinder = s.tm.cylinder ∧
    s.select.tm.moving = s.tm.moving ∧ s.select.tm.presence = s.tm.presence ∧
    s.select.tm.courtesy = s.tm.courtesy ∧ s.select.tm.preemptMark = s.tm.preemptMark ∧
    s.select.tm.peerSeeks = s.tm.peerSeeks ∧ s.select.rdm = s.rdm ∧ s.select.out = s.out ∧
    s.select.pending = s.pending := by
  simp only [State.select]
  (repeat' split) <;> simp

@[simp] theorem State.suspendAfterExchange_frame (s : State) :
    s.suspendAfterExchange.hp.address = s.hp.address ∧ s.suspendAfterExchange.hp.adapter = s.hp.adapter ∧
    s.suspendAfterExchange.hp.maintaining = s.hp.maintaining ∧ s.suspendAfterExchange.hp.refusal = s.hp.refusal ∧
    s.suspendAfterExchange.hp.events = s.hp.events ∧ s.suspendAfterExchange.hp.mask = s.hp.mask ∧
    s.suspendAfterExchange.hp.progress = s.hp.progress ∧ s.suspendAfterExchange.hp.setup = s.hp.setup ∧
    s.suspendAfterExchange.hp.current = s.hp.current ∧ s.suspendAfterExchange.hp.tod = s.hp.tod ∧
    s.suspendAfterExchange.chains = s.chains ∧ s.suspendAfterExchange.tm = s.tm ∧
    s.suspendAfterExchange.lu.station = s.lu.station ∧ s.suspendAfterExchange.lu.exchange = s.lu.exchange ∧
    s.suspendAfterExchange.lu.peerExchange = s.lu.peerExchange ∧
    s.suspendAfterExchange.lu.peerSeekFell = s.lu.peerSeekFell ∧ s.suspendAfterExchange.lu.backoff = s.lu.backoff ∧
    s.suspendAfterExchange.lu.failedHeard = s.lu.failedHeard ∧
    s.suspendAfterExchange.lu.collisionCount = s.lu.collisionCount ∧
    s.suspendAfterExchange.lu.lastCollided = s.lu.lastCollided ∧ s.suspendAfterExchange.lu.armed = s.lu.armed ∧
    s.suspendAfterExchange.rdm = s.rdm ∧ s.suspendAfterExchange.out = s.out ∧
    s.suspendAfterExchange.pending = s.pending := by
  simp only [State.suspendAfterExchange]
  (repeat' split) <;> simp

@[simp] theorem State.endTenure_frame (s : State) :
    s.endTenure.hp.address = s.hp.address ∧ s.endTenure.hp.adapter = s.hp.adapter ∧
    s.endTenure.hp.maintaining = s.hp.maintaining ∧ s.endTenure.hp.refusal = s.hp.refusal ∧
    s.endTenure.hp.events = s.hp.events ∧ s.endTenure.hp.mask = s.hp.mask ∧
    s.endTenure.hp.progress = s.hp.progress ∧ s.endTenure.hp.setup = s.hp.setup ∧
    s.endTenure.hp.current = s.hp.current ∧ s.endTenure.hp.tod = s.hp.tod ∧ s.endTenure.chains = s.chains ∧
    s.endTenure.tm.peer = s.tm.peer ∧ s.endTenure.tm.cylinder = s.tm.cylinder ∧
    s.endTenure.tm.moving = s.tm.moving ∧ s.endTenure.tm.presence = s.tm.presence ∧
    s.endTenure.tm.courtesy = s.tm.courtesy ∧ s.endTenure.tm.preemptMark = s.tm.preemptMark ∧
    s.endTenure.tm.peerSeeks = s.tm.peerSeeks ∧ s.endTenure.lu.station = s.lu.station ∧
    s.endTenure.lu.exchange = s.lu.exchange ∧ s.endTenure.lu.peerExchange = s.lu.peerExchange ∧
    s.endTenure.lu.peerSeekFell = s.lu.peerSeekFell ∧ s.endTenure.lu.backoff = s.lu.backoff ∧
    s.endTenure.lu.failedHeard = s.lu.failedHeard ∧ s.endTenure.lu.collisionCount = s.lu.collisionCount ∧
    s.endTenure.lu.lastCollided = s.lu.lastCollided ∧ s.endTenure.lu.armed = s.lu.armed ∧ s.endTenure.rdm = s.rdm ∧
    s.endTenure.out = s.out ∧ s.endTenure.pending = s.pending := by
  simp only [State.endTenure]
  (repeat' split) <;> simp

@[simp] theorem State.idleTenureTest_frame (s : State) :
    s.idleTenureTest.hp.address = s.hp.address ∧ s.idleTenureTest.hp.adapter = s.hp.adapter ∧
    s.idleTenureTest.hp.maintaining = s.hp.maintaining ∧ s.idleTenureTest.hp.refusal = s.hp.refusal ∧
    s.idleTenureTest.hp.events = s.hp.events ∧ s.idleTenureTest.hp.mask = s.hp.mask ∧
    s.idleTenureTest.hp.progress = s.hp.progress ∧ s.idleTenureTest.hp.setup = s.hp.setup ∧
    s.idleTenureTest.hp.current = s.hp.current ∧ s.idleTenureTest.hp.tod = s.hp.tod ∧
    s.idleTenureTest.chains = s.chains ∧ s.idleTenureTest.tm.peer = s.tm.peer ∧
    s.idleTenureTest.tm.cylinder = s.tm.cylinder ∧ s.idleTenureTest.tm.moving = s.tm.moving ∧
    s.idleTenureTest.tm.presence = s.tm.presence ∧ s.idleTenureTest.tm.courtesy = s.tm.courtesy ∧
    s.idleTenureTest.tm.preemptMark = s.tm.preemptMark ∧ s.idleTenureTest.tm.peerSeeks = s.tm.peerSeeks ∧
    s.idleTenureTest.lu.station = s.lu.station ∧ s.idleTenureTest.lu.exchange = s.lu.exchange ∧
    s.idleTenureTest.lu.peerExchange = s.lu.peerExchange ∧ s.idleTenureTest.lu.peerSeekFell = s.lu.peerSeekFell ∧
    s.idleTenureTest.lu.backoff = s.lu.backoff ∧ s.idleTenureTest.lu.failedHeard = s.lu.failedHeard ∧
    s.idleTenureTest.lu.collisionCount = s.lu.collisionCount ∧
    s.idleTenureTest.lu.lastCollided = s.lu.lastCollided ∧ s.idleTenureTest.lu.armed = s.lu.armed ∧
    s.idleTenureTest.rdm = s.rdm ∧ s.idleTenureTest.out = s.out ∧ s.idleTenureTest.pending = s.pending := by
  simp only [State.idleTenureTest]
  (repeat' split) <;> simp

@[simp] theorem State.engineIdled_frame (s : State) :
    s.engineIdled.hp.address = s.hp.address ∧ s.engineIdled.hp.adapter = s.hp.adapter ∧
    s.engineIdled.hp.maintaining = s.hp.maintaining ∧ s.engineIdled.hp.refusal = s.hp.refusal ∧
    s.engineIdled.hp.events = s.hp.events ∧ s.engineIdled.hp.mask = s.hp.mask ∧
    s.engineIdled.hp.progress = s.hp.progress ∧ s.engineIdled.hp.setup = s.hp.setup ∧
    s.engineIdled.hp.current = s.hp.current ∧ s.engineIdled.hp.tod = s.hp.tod ∧ s.engineIdled.chains = s.chains ∧
    s.engineIdled.tm.peer = s.tm.peer ∧ s.engineIdled.tm.cylinder = s.tm.cylinder ∧
    s.engineIdled.tm.moving = s.tm.moving ∧ s.engineIdled.tm.presence = s.tm.presence ∧
    s.engineIdled.tm.courtesy = s.tm.courtesy ∧ s.engineIdled.tm.preemptMark = s.tm.preemptMark ∧
    s.engineIdled.tm.peerSeeks = s.tm.peerSeeks ∧ s.engineIdled.rdm = s.rdm ∧ s.engineIdled.out = s.out ∧
    s.engineIdled.pending = s.pending := by
  simp only [State.engineIdled]
  simp

@[simp] theorem State.endRequest_frame (s : State) (st : Status) (f : Option ElementFault) (m : Bool) :
    (s.endRequest st f m).hp.address = s.hp.address ∧ (s.endRequest st f m).hp.adapter = s.hp.adapter ∧
    (s.endRequest st f m).hp.maintaining = s.hp.maintaining ∧ (s.endRequest st f m).hp.refusal = s.hp.refusal ∧
    (s.endRequest st f m).hp.events = s.hp.events ∧ (s.endRequest st f m).hp.mask = s.hp.mask ∧
    (s.endRequest st f m).hp.progress = s.hp.progress ∧ (s.endRequest st f m).hp.setup = s.hp.setup ∧
    (s.endRequest st f m).hp.current = s.hp.current ∧ (s.endRequest st f m).hp.tod = s.hp.tod ∧
    (s.endRequest st f m).chains = s.chains ∧ (s.endRequest st f m).tm.peer = s.tm.peer ∧
    (s.endRequest st f m).tm.cylinder = s.tm.cylinder ∧ (s.endRequest st f m).tm.moving = s.tm.moving ∧
    (s.endRequest st f m).tm.presence = s.tm.presence ∧ (s.endRequest st f m).tm.courtesy = s.tm.courtesy ∧
    (s.endRequest st f m).tm.preemptMark = s.tm.preemptMark ∧ (s.endRequest st f m).tm.peerSeeks = s.tm.peerSeeks ∧
    (s.endRequest st f m).rdm = s.rdm ∧ (s.endRequest st f m).out = s.out ∧
    (s.endRequest st f m).pending = s.pending := by
  simp only [State.endRequest]
  simp

@[simp] theorem State.reposition_frame (s : State) :
    s.reposition.hp.address = s.hp.address ∧ s.reposition.hp.adapter = s.hp.adapter ∧
    s.reposition.hp.maintaining = s.hp.maintaining ∧ s.reposition.hp.refusal = s.hp.refusal ∧
    s.reposition.hp.events = s.hp.events ∧ s.reposition.hp.mask = s.hp.mask ∧
    s.reposition.hp.progress = s.hp.progress ∧ s.reposition.hp.setup = s.hp.setup ∧
    s.reposition.hp.current = s.hp.current ∧ s.reposition.hp.tod = s.hp.tod ∧ s.reposition.chains = s.chains ∧
    s.reposition.tm.peer = s.tm.peer ∧ s.reposition.tm.cylinder = s.tm.cylinder ∧
    s.reposition.tm.moving = s.tm.moving ∧ s.reposition.tm.presence = s.tm.presence ∧
    s.reposition.tm.courtesy = s.tm.courtesy ∧ s.reposition.tm.preemptMark = s.tm.preemptMark ∧
    s.reposition.tm.peerSeeks = s.tm.peerSeeks ∧ s.reposition.rdm = s.rdm ∧ s.reposition.out = s.out ∧
    s.reposition.pending = s.pending := by
  simp only [State.reposition, State.following]
  (repeat' split) <;> simp_all

@[simp] theorem State.slip_frame (s : State) (cause : SlipCause) :
    (s.slip cause).hp.address = s.hp.address ∧ (s.slip cause).hp.adapter = s.hp.adapter ∧
    (s.slip cause).hp.maintaining = s.hp.maintaining ∧ (s.slip cause).hp.refusal = s.hp.refusal ∧
    (s.slip cause).hp.events = s.hp.events ∧ (s.slip cause).hp.mask = s.hp.mask ∧
    (s.slip cause).hp.progress = s.hp.progress ∧ (s.slip cause).hp.setup = s.hp.setup ∧
    (s.slip cause).hp.current = s.hp.current ∧ (s.slip cause).hp.tod = s.hp.tod ∧
    (s.slip cause).chains = s.chains ∧ (s.slip cause).tm.peer = s.tm.peer ∧
    (s.slip cause).tm.cylinder = s.tm.cylinder ∧ (s.slip cause).tm.moving = s.tm.moving ∧
    (s.slip cause).tm.presence = s.tm.presence ∧ (s.slip cause).tm.courtesy = s.tm.courtesy ∧
    (s.slip cause).tm.preemptMark = s.tm.preemptMark ∧ (s.slip cause).tm.peerSeeks = s.tm.peerSeeks ∧
    (s.slip cause).rdm = s.rdm ∧ (s.slip cause).out = s.out ∧ (s.slip cause).pending = s.pending := by
  simp only [State.slip, State.goOn]
  (repeat' split) <;> simp_all

@[simp] theorem State.tenureGranted_frame (s : State) (c : Nat) :
    (s.tenureGranted c).hp.address = s.hp.address ∧ (s.tenureGranted c).hp.adapter = s.hp.adapter ∧
    (s.tenureGranted c).hp.maintaining = s.hp.maintaining ∧ (s.tenureGranted c).hp.refusal = s.hp.refusal ∧
    (s.tenureGranted c).hp.events = s.hp.events ∧ (s.tenureGranted c).hp.mask = s.hp.mask ∧
    (s.tenureGranted c).hp.progress = s.hp.progress ∧ (s.tenureGranted c).hp.setup = s.hp.setup ∧
    (s.tenureGranted c).hp.current = s.hp.current ∧ (s.tenureGranted c).hp.tod = s.hp.tod ∧
    (s.tenureGranted c).chains = s.chains ∧ (s.tenureGranted c).tm.peer = s.tm.peer ∧
    (s.tenureGranted c).tm.cylinder = s.tm.cylinder ∧ (s.tenureGranted c).tm.moving = s.tm.moving ∧
    (s.tenureGranted c).tm.presence = s.tm.presence ∧ (s.tenureGranted c).tm.courtesy = s.tm.courtesy ∧
    (s.tenureGranted c).tm.preemptMark = s.tm.preemptMark ∧ (s.tenureGranted c).tm.peerSeeks = s.tm.peerSeeks ∧
    (s.tenureGranted c).rdm = s.rdm ∧ (s.tenureGranted c).out = s.out ∧ (s.tenureGranted c).pending = s.pending := by
  simp only [State.tenureGranted]
  (repeat' split) <;> simp

@[simp] theorem State.settleAsk_frame (s : State) (b : FrameBody) :
    (s.settleAsk b).hp.address = s.hp.address ∧ (s.settleAsk b).hp.adapter = s.hp.adapter ∧
    (s.settleAsk b).hp.maintaining = s.hp.maintaining ∧ (s.settleAsk b).hp.refusal = s.hp.refusal ∧
    (s.settleAsk b).hp.events = s.hp.events ∧ (s.settleAsk b).hp.mask = s.hp.mask ∧
    (s.settleAsk b).hp.progress = s.hp.progress ∧ (s.settleAsk b).hp.setup = s.hp.setup ∧
    (s.settleAsk b).hp.current = s.hp.current ∧ (s.settleAsk b).hp.tod = s.hp.tod ∧
    (s.settleAsk b).chains = s.chains ∧ (s.settleAsk b).tm.peer = s.tm.peer ∧
    (s.settleAsk b).tm.cylinder = s.tm.cylinder ∧ (s.settleAsk b).tm.moving = s.tm.moving ∧
    (s.settleAsk b).tm.presence = s.tm.presence ∧ (s.settleAsk b).tm.courtesy = s.tm.courtesy ∧
    (s.settleAsk b).tm.preemptMark = s.tm.preemptMark ∧ (s.settleAsk b).tm.peerSeeks = s.tm.peerSeeks ∧
    (s.settleAsk b).rdm = s.rdm ∧ (s.settleAsk b).out = s.out ∧ (s.settleAsk b).pending = s.pending := by
  simp only [State.settleAsk]
  (repeat' split) <;> simp

@[simp] theorem State.tenureRefused_frame (s : State) :
    s.tenureRefused.hp.address = s.hp.address ∧ s.tenureRefused.hp.adapter = s.hp.adapter ∧
    s.tenureRefused.hp.maintaining = s.hp.maintaining ∧ s.tenureRefused.hp.refusal = s.hp.refusal ∧
    s.tenureRefused.hp.events = s.hp.events ∧ s.tenureRefused.hp.mask = s.hp.mask ∧
    s.tenureRefused.hp.progress = s.hp.progress ∧ s.tenureRefused.hp.setup = s.hp.setup ∧
    s.tenureRefused.hp.current = s.hp.current ∧ s.tenureRefused.hp.tod = s.hp.tod ∧
    s.tenureRefused.chains = s.chains ∧ s.tenureRefused.tm.peer = s.tm.peer ∧
    s.tenureRefused.tm.cylinder = s.tm.cylinder ∧ s.tenureRefused.tm.moving = s.tm.moving ∧
    s.tenureRefused.tm.presence = s.tm.presence ∧ s.tenureRefused.tm.courtesy = s.tm.courtesy ∧
    s.tenureRefused.tm.preemptMark = s.tm.preemptMark ∧ s.tenureRefused.tm.peerSeeks = s.tm.peerSeeks ∧
    s.tenureRefused.rdm = s.rdm ∧ s.tenureRefused.out = s.out ∧ s.tenureRefused.pending = s.pending := by
  simp only [State.tenureRefused]
  (repeat' split) <;> simp

@[simp] theorem State.holdTenure_frame (s : State) (c n : Nat) :
    (s.holdTenure c n).hp.address = s.hp.address ∧ (s.holdTenure c n).hp.adapter = s.hp.adapter ∧
    (s.holdTenure c n).hp.maintaining = s.hp.maintaining ∧ (s.holdTenure c n).hp.refusal = s.hp.refusal ∧
    (s.holdTenure c n).hp.events = s.hp.events ∧ (s.holdTenure c n).hp.mask = s.hp.mask ∧
    (s.holdTenure c n).hp.progress = s.hp.progress ∧ (s.holdTenure c n).hp.setup = s.hp.setup ∧
    (s.holdTenure c n).hp.current = s.hp.current ∧ (s.holdTenure c n).hp.tod = s.hp.tod ∧
    (s.holdTenure c n).chains = s.chains ∧ (s.holdTenure c n).tm.peer = s.tm.peer ∧
    (s.holdTenure c n).tm.cylinder = s.tm.cylinder ∧ (s.holdTenure c n).tm.moving = s.tm.moving ∧
    (s.holdTenure c n).tm.presence = s.tm.presence ∧ (s.holdTenure c n).tm.courtesy = s.tm.courtesy ∧
    (s.holdTenure c n).tm.preemptMark = s.tm.preemptMark ∧ (s.holdTenure c n).tm.peerSeeks = s.tm.peerSeeks ∧
    (s.holdTenure c n).rdm = s.rdm ∧ (s.holdTenure c n).out = s.out ∧ (s.holdTenure c n).pending = s.pending := by
  simp only [State.holdTenure]
  (repeat' split) <;> simp

@[simp] theorem State.tenureSettled_frame (s : State) (c : Nat) :
    (s.tenureSettled c).hp.address = s.hp.address ∧ (s.tenureSettled c).hp.adapter = s.hp.adapter ∧
    (s.tenureSettled c).hp.maintaining = s.hp.maintaining ∧ (s.tenureSettled c).hp.refusal = s.hp.refusal ∧
    (s.tenureSettled c).hp.events = s.hp.events ∧ (s.tenureSettled c).hp.mask = s.hp.mask ∧
    (s.tenureSettled c).hp.progress = s.hp.progress ∧ (s.tenureSettled c).hp.setup = s.hp.setup ∧
    (s.tenureSettled c).hp.current = s.hp.current ∧ (s.tenureSettled c).hp.tod = s.hp.tod ∧
    (s.tenureSettled c).chains = s.chains ∧ (s.tenureSettled c).tm.peer = s.tm.peer ∧
    (s.tenureSettled c).tm.cylinder = s.tm.cylinder ∧ (s.tenureSettled c).tm.moving = s.tm.moving ∧
    (s.tenureSettled c).tm.presence = s.tm.presence ∧ (s.tenureSettled c).tm.courtesy = s.tm.courtesy ∧
    (s.tenureSettled c).tm.preemptMark = s.tm.preemptMark ∧ (s.tenureSettled c).tm.peerSeeks = s.tm.peerSeeks ∧
    (s.tenureSettled c).rdm = s.rdm ∧ (s.tenureSettled c).out = s.out ∧ (s.tenureSettled c).pending = s.pending := by
  simp only [State.tenureSettled]
  (repeat' split) <;> simp

@[simp] theorem State.tenureClashed_frame (s : State) (n : Nat) :
    (s.tenureClashed n).hp.address = s.hp.address ∧ (s.tenureClashed n).hp.adapter = s.hp.adapter ∧
    (s.tenureClashed n).hp.maintaining = s.hp.maintaining ∧ (s.tenureClashed n).hp.refusal = s.hp.refusal ∧
    (s.tenureClashed n).hp.events = s.hp.events ∧ (s.tenureClashed n).hp.mask = s.hp.mask ∧
    (s.tenureClashed n).hp.progress = s.hp.progress ∧ (s.tenureClashed n).hp.setup = s.hp.setup ∧
    (s.tenureClashed n).hp.current = s.hp.current ∧ (s.tenureClashed n).hp.tod = s.hp.tod ∧
    (s.tenureClashed n).chains = s.chains ∧ (s.tenureClashed n).tm.cylinder = s.tm.cylinder ∧
    (s.tenureClashed n).tm.moving = s.tm.moving ∧ (s.tenureClashed n).tm.presence = s.tm.presence ∧
    (s.tenureClashed n).tm.courtesy = s.tm.courtesy ∧ (s.tenureClashed n).tm.peerSeeks = s.tm.peerSeeks ∧
    (s.tenureClashed n).rdm = s.rdm ∧ (s.tenureClashed n).out = s.out ∧ (s.tenureClashed n).pending = s.pending := by
  simp only [State.tenureClashed]
  (repeat' split) <;> simp

@[simp] theorem State.withdrawAsk_frame (s : State) :
    s.withdrawAsk.hp.address = s.hp.address ∧ s.withdrawAsk.hp.adapter = s.hp.adapter ∧
    s.withdrawAsk.hp.maintaining = s.hp.maintaining ∧ s.withdrawAsk.hp.refusal = s.hp.refusal ∧
    s.withdrawAsk.hp.events = s.hp.events ∧ s.withdrawAsk.hp.mask = s.hp.mask ∧
    s.withdrawAsk.hp.progress = s.hp.progress ∧ s.withdrawAsk.hp.setup = s.hp.setup ∧
    s.withdrawAsk.hp.current = s.hp.current ∧ s.withdrawAsk.hp.tod = s.hp.tod ∧ s.withdrawAsk.chains = s.chains ∧
    s.withdrawAsk.tm.peer = s.tm.peer ∧ s.withdrawAsk.tm.cylinder = s.tm.cylinder ∧
    s.withdrawAsk.tm.moving = s.tm.moving ∧ s.withdrawAsk.tm.presence = s.tm.presence ∧
    s.withdrawAsk.tm.courtesy = s.tm.courtesy ∧ s.withdrawAsk.tm.preemptMark = s.tm.preemptMark ∧
    s.withdrawAsk.tm.peerSeeks = s.tm.peerSeeks ∧ s.withdrawAsk.rdm = s.rdm ∧ s.withdrawAsk.out = s.out ∧
    s.withdrawAsk.pending = s.pending := by
  simp only [State.withdrawAsk]
  simp

/-! The ends of drive exchanges (Sections 5, 6, 9). -/

@[simp] theorem State.engineDown_frame (s : State) :
    s.engineDown.hp.address = s.hp.address ∧ s.engineDown.hp.adapter = s.hp.adapter ∧
    s.engineDown.hp.maintaining = s.hp.maintaining ∧ s.engineDown.hp.refusal = s.hp.refusal ∧
    s.engineDown.hp.events = s.hp.events ∧ s.engineDown.hp.mask = s.hp.mask ∧
    s.engineDown.hp.progress = s.hp.progress ∧ s.engineDown.hp.setup = s.hp.setup ∧
    s.engineDown.hp.current = s.hp.current ∧ s.engineDown.hp.tod = s.hp.tod ∧ s.engineDown.chains = s.chains ∧
    s.engineDown.wq.nextId = s.wq.nextId ∧ s.engineDown.tm = s.tm ∧ s.engineDown.lu.station = s.lu.station ∧
    s.engineDown.lu.exchange = s.lu.exchange ∧ s.engineDown.lu.peerExchange = s.lu.peerExchange ∧
    s.engineDown.lu.peerSeekFell = s.lu.peerSeekFell ∧ s.engineDown.lu.backoff = s.lu.backoff ∧
    s.engineDown.lu.failedHeard = s.lu.failedHeard ∧ s.engineDown.lu.collisionCount = s.lu.collisionCount ∧
    s.engineDown.lu.lastCollided = s.lu.lastCollided ∧ s.engineDown.lu.armed = s.lu.armed ∧
    s.engineDown.rdm = s.rdm ∧ s.engineDown.out = s.out ∧ s.engineDown.pending = s.pending := by
  simp only [State.engineDown]
  (repeat' split) <;> simp

@[simp] theorem State.tenureDown_frame (s : State) :
    s.tenureDown.hp.address = s.hp.address ∧ s.tenureDown.hp.adapter = s.hp.adapter ∧
    s.tenureDown.hp.maintaining = s.hp.maintaining ∧ s.tenureDown.hp.refusal = s.hp.refusal ∧
    s.tenureDown.hp.events = s.hp.events ∧ s.tenureDown.hp.mask = s.hp.mask ∧
    s.tenureDown.hp.progress = s.hp.progress ∧ s.tenureDown.hp.setup = s.hp.setup ∧
    s.tenureDown.hp.current = s.hp.current ∧ s.tenureDown.hp.tod = s.hp.tod ∧ s.tenureDown.chains = s.chains ∧
    s.tenureDown.tm.peer = s.tm.peer ∧ s.tenureDown.tm.presence = s.tm.presence ∧
    s.tenureDown.tm.courtesy = s.tm.courtesy ∧ s.tenureDown.tm.preemptMark = s.tm.preemptMark ∧
    s.tenureDown.tm.peerSeeks = s.tm.peerSeeks ∧ s.tenureDown.lu.station = s.lu.station ∧
    s.tenureDown.lu.exchange = s.lu.exchange ∧ s.tenureDown.lu.peerExchange = s.lu.peerExchange ∧
    s.tenureDown.lu.peerSeekFell = s.lu.peerSeekFell ∧ s.tenureDown.lu.backoff = s.lu.backoff ∧
    s.tenureDown.lu.failedHeard = s.lu.failedHeard ∧ s.tenureDown.lu.collisionCount = s.lu.collisionCount ∧
    s.tenureDown.lu.lastCollided = s.lu.lastCollided ∧ s.tenureDown.lu.armed = s.lu.armed ∧
    s.tenureDown.rdm = s.rdm ∧ s.tenureDown.out = s.out ∧ s.tenureDown.pending = s.pending := by
  simp only [State.tenureDown]
  simp

@[simp] theorem State.driveDown_frame (s : State) :
    s.driveDown.hp.address = s.hp.address ∧ s.driveDown.hp.adapter = s.hp.adapter ∧
    s.driveDown.hp.maintaining = s.hp.maintaining ∧ s.driveDown.hp.refusal = s.hp.refusal ∧
    s.driveDown.hp.mask = s.hp.mask ∧ s.driveDown.hp.progress = s.hp.progress ∧ s.driveDown.hp.setup = s.hp.setup ∧
    s.driveDown.hp.current = s.hp.current ∧ s.driveDown.hp.tod = s.hp.tod ∧ s.driveDown.chains = s.chains ∧
    s.driveDown.tm.peer = s.tm.peer ∧ s.driveDown.tm.presence = s.tm.presence ∧
    s.driveDown.tm.courtesy = s.tm.courtesy ∧ s.driveDown.tm.preemptMark = s.tm.preemptMark ∧
    s.driveDown.tm.peerSeeks = s.tm.peerSeeks ∧ s.driveDown.out = s.out ∧ s.driveDown.pending = s.pending := by
  simp only [State.driveDown]
  (repeat' split) <;> simp

@[simp] theorem State.endExchange_frame (s : State) :
    s.endExchange.hp = s.hp ∧ s.endExchange.chains = s.chains ∧ s.endExchange.ec = s.ec ∧ s.endExchange.wq = s.wq ∧
    s.endExchange.te = s.te ∧ s.endExchange.hm = s.hm ∧ s.endExchange.tm = s.tm ∧
    s.endExchange.lu.station = s.lu.station ∧ s.endExchange.lu.frames = s.lu.frames ∧
    s.endExchange.lu.peerExchange = s.lu.peerExchange ∧ s.endExchange.lu.peerSeekFell = s.lu.peerSeekFell ∧
    s.endExchange.lu.backoff = s.lu.backoff ∧ s.endExchange.lu.failedHeard = s.lu.failedHeard ∧
    s.endExchange.lu.collisionCount = s.lu.collisionCount ∧ s.endExchange.lu.lastCollided = s.lu.lastCollided ∧
    s.endExchange.lu.armed = s.lu.armed ∧ s.endExchange.rdm = s.rdm ∧ s.endExchange.out = s.out ∧
    s.endExchange.pending = s.pending := by
  simp only [State.endExchange]
  simp

@[simp] theorem State.releaseReceiving_frame (s : State) :
    s.releaseReceiving.hp = s.hp ∧ s.releaseReceiving.chains = s.chains ∧ s.releaseReceiving.ec = s.ec ∧
    s.releaseReceiving.wq = s.wq ∧ s.releaseReceiving.te.phase = s.te.phase ∧
    s.releaseReceiving.te.request = s.te.request ∧ s.releaseReceiving.te.sector = s.te.sector ∧
    s.releaseReceiving.te.target = s.te.target ∧ s.releaseReceiving.te.settle = s.te.settle ∧
    s.releaseReceiving.te.lastSlip = s.te.lastSlip ∧ s.releaseReceiving.te.leadOpen = s.te.leadOpen ∧
    s.releaseReceiving.te.suspendAfter = s.te.suspendAfter ∧ s.releaseReceiving.te.downAfter = s.te.downAfter ∧
    s.releaseReceiving.te.maintenanceOver = s.te.maintenanceOver ∧ s.releaseReceiving.hm = s.hm ∧
    s.releaseReceiving.tm = s.tm ∧ s.releaseReceiving.lu = s.lu ∧ s.releaseReceiving.rdm = s.rdm ∧
    s.releaseReceiving.out = s.out ∧ s.releaseReceiving.pending = s.pending := by
  simp only [State.releaseReceiving]
  simp

@[simp] theorem State.loseDrive_frame (s : State) (owned : Bool) :
    (s.loseDrive owned).hp.address = s.hp.address ∧ (s.loseDrive owned).hp.adapter = s.hp.adapter ∧
    (s.loseDrive owned).hp.maintaining = s.hp.maintaining ∧ (s.loseDrive owned).hp.refusal = s.hp.refusal ∧
    (s.loseDrive owned).hp.mask = s.hp.mask ∧ (s.loseDrive owned).hp.progress = s.hp.progress ∧
    (s.loseDrive owned).hp.setup = s.hp.setup ∧ (s.loseDrive owned).hp.current = s.hp.current ∧
    (s.loseDrive owned).hp.tod = s.hp.tod ∧ (s.loseDrive owned).chains = s.chains ∧
    (s.loseDrive owned).tm.peer = s.tm.peer ∧ (s.loseDrive owned).tm.presence = s.tm.presence ∧
    (s.loseDrive owned).tm.courtesy = s.tm.courtesy ∧ (s.loseDrive owned).tm.preemptMark = s.tm.preemptMark ∧
    (s.loseDrive owned).tm.peerSeeks = s.tm.peerSeeks ∧ (s.loseDrive owned).out = s.out ∧
    (s.loseDrive owned).pending = s.pending := by
  simp only [State.loseDrive, State.following]
  (repeat' split) <;> simp_all

@[simp] theorem State.countSector_frame (s : State) (r : Request) :
    (s.countSector r).hp = s.hp ∧ (s.countSector r).chains = s.chains ∧ (s.countSector r).ec = s.ec ∧
    (s.countSector r).te.phase = s.te.phase ∧ (s.countSector r).te.request = s.te.request ∧
    (s.countSector r).te.target = s.te.target ∧ (s.countSector r).te.settle = s.te.settle ∧
    (s.countSector r).te.leadOpen = s.te.leadOpen ∧ (s.countSector r).te.suspendAfter = s.te.suspendAfter ∧
    (s.countSector r).te.downAfter = s.te.downAfter ∧ (s.countSector r).te.maintenanceOver = s.te.maintenanceOver ∧
    (s.countSector r).te.bufA = s.te.bufA ∧ (s.countSector r).te.bufB = s.te.bufB ∧ (s.countSector r).hm = s.hm ∧
    (s.countSector r).tm = s.tm ∧ (s.countSector r).lu = s.lu ∧ (s.countSector r).rdm = s.rdm ∧
    (s.countSector r).out = s.out ∧ (s.countSector r).pending = s.pending := by
  simp only [State.countSector]
  simp

@[simp] theorem State.reportWritten_frame (s : State) (r : Request) :
    (s.reportWritten r).hp = s.hp ∧ (s.reportWritten r).chains = s.chains ∧ (s.reportWritten r).wq = s.wq ∧
    (s.reportWritten r).te = s.te ∧ (s.reportWritten r).tm = s.tm ∧ (s.reportWritten r).lu = s.lu ∧
    (s.reportWritten r).rdm = s.rdm ∧ (s.reportWritten r).out = s.out ∧ (s.reportWritten r).pending = s.pending := by
  simp only [State.reportWritten]
  (repeat' split) <;> simp

@[simp] theorem State.emptyLoaded_frame (s : State) (r : Request) :
    (s.emptyLoaded r).hp = s.hp ∧ (s.emptyLoaded r).chains = s.chains ∧ (s.emptyLoaded r).ec = s.ec ∧
    (s.emptyLoaded r).wq = s.wq ∧ (s.emptyLoaded r).hm = s.hm ∧ (s.emptyLoaded r).tm = s.tm ∧
    (s.emptyLoaded r).lu = s.lu ∧ (s.emptyLoaded r).rdm = s.rdm ∧ (s.emptyLoaded r).out = s.out ∧
    (s.emptyLoaded r).pending = s.pending := by
  simp only [State.emptyLoaded]
  (repeat' split) <;> simp

@[simp] theorem State.unloadSector_frame (s : State) (r : Request) (words : List Word) :
    (s.unloadSector r words).hp.address = s.hp.address ∧ (s.unloadSector r words).hp.adapter = s.hp.adapter ∧
    (s.unloadSector r words).hp.maintaining = s.hp.maintaining ∧
    (s.unloadSector r words).hp.refusal = s.hp.refusal ∧ (s.unloadSector r words).hp.events = s.hp.events ∧
    (s.unloadSector r words).hp.mask = s.hp.mask ∧ (s.unloadSector r words).hp.progress = s.hp.progress ∧
    (s.unloadSector r words).hp.setup = s.hp.setup ∧ (s.unloadSector r words).hp.current = s.hp.current ∧
    (s.unloadSector r words).hp.heldBack = s.hp.heldBack ∧ (s.unloadSector r words).hp.tod = s.hp.tod ∧
    (s.unloadSector r words).chains = s.chains ∧ (s.unloadSector r words).ec = s.ec ∧
    (s.unloadSector r words).wq = s.wq ∧ (s.unloadSector r words).hm = s.hm ∧ (s.unloadSector r words).tm = s.tm ∧
    (s.unloadSector r words).lu = s.lu ∧ (s.unloadSector r words).rdm = s.rdm ∧
    (s.unloadSector r words).out = s.out ∧ (s.unloadSector r words).pending = s.pending := by
  simp only [State.unloadSector]
  (repeat' split) <;> simp

@[simp] theorem State.handleData_frame (s : State) (r : Request) (words : List Word) :
    (s.handleData r words).hp.address = s.hp.address ∧ (s.handleData r words).hp.adapter = s.hp.adapter ∧
    (s.handleData r words).hp.maintaining = s.hp.maintaining ∧ (s.handleData r words).hp.refusal = s.hp.refusal ∧
    (s.handleData r words).hp.events = s.hp.events ∧ (s.handleData r words).hp.mask = s.hp.mask ∧
    (s.handleData r words).hp.progress = s.hp.progress ∧ (s.handleData r words).hp.setup = s.hp.setup ∧
    (s.handleData r words).hp.current = s.hp.current ∧ (s.handleData r words).hp.heldBack = s.hp.heldBack ∧
    (s.handleData r words).hp.tod = s.hp.tod ∧ (s.handleData r words).chains = s.chains ∧
    (s.handleData r words).ec = s.ec ∧ (s.handleData r words).wq = s.wq ∧ (s.handleData r words).hm = s.hm ∧
    (s.handleData r words).tm = s.tm ∧ (s.handleData r words).lu = s.lu ∧ (s.handleData r words).rdm = s.rdm ∧
    (s.handleData r words).out = s.out ∧ (s.handleData r words).pending = s.pending := by
  simp only [State.handleData]
  (repeat' split) <;> simp

@[simp] theorem State.afterSector_frame (s : State) (r : Request) (same : Bool) :
    (s.afterSector r same).hp.address = s.hp.address ∧ (s.afterSector r same).hp.adapter = s.hp.adapter ∧
    (s.afterSector r same).hp.maintaining = s.hp.maintaining ∧ (s.afterSector r same).hp.refusal = s.hp.refusal ∧
    (s.afterSector r same).hp.events = s.hp.events ∧ (s.afterSector r same).hp.mask = s.hp.mask ∧
    (s.afterSector r same).hp.progress = s.hp.progress ∧ (s.afterSector r same).hp.setup = s.hp.setup ∧
    (s.afterSector r same).hp.current = s.hp.current ∧ (s.afterSector r same).hp.tod = s.hp.tod ∧
    (s.afterSector r same).chains = s.chains ∧ (s.afterSector r same).tm.peer = s.tm.peer ∧
    (s.afterSector r same).tm.cylinder = s.tm.cylinder ∧ (s.afterSector r same).tm.moving = s.tm.moving ∧
    (s.afterSector r same).tm.presence = s.tm.presence ∧ (s.afterSector r same).tm.courtesy = s.tm.courtesy ∧
    (s.afterSector r same).tm.preemptMark = s.tm.preemptMark ∧
    (s.afterSector r same).tm.peerSeeks = s.tm.peerSeeks ∧ (s.afterSector r same).rdm = s.rdm ∧
    (s.afterSector r same).out = s.out ∧ (s.afterSector r same).pending = s.pending := by
  simp only [State.afterSector, State.goOn]
  (repeat' split) <;> simp_all

@[simp] theorem State.dataClean_frame (s : State) (words : List Word) :
    (s.dataClean words).hp.address = s.hp.address ∧ (s.dataClean words).hp.adapter = s.hp.adapter ∧
    (s.dataClean words).hp.maintaining = s.hp.maintaining ∧ (s.dataClean words).hp.refusal = s.hp.refusal ∧
    (s.dataClean words).hp.events = s.hp.events ∧ (s.dataClean words).hp.mask = s.hp.mask ∧
    (s.dataClean words).hp.progress = s.hp.progress ∧ (s.dataClean words).hp.setup = s.hp.setup ∧
    (s.dataClean words).hp.current = s.hp.current ∧ (s.dataClean words).hp.tod = s.hp.tod ∧
    (s.dataClean words).chains = s.chains ∧ (s.dataClean words).tm.peer = s.tm.peer ∧
    (s.dataClean words).tm.cylinder = s.tm.cylinder ∧ (s.dataClean words).tm.moving = s.tm.moving ∧
    (s.dataClean words).tm.presence = s.tm.presence ∧ (s.dataClean words).tm.courtesy = s.tm.courtesy ∧
    (s.dataClean words).tm.preemptMark = s.tm.preemptMark ∧ (s.dataClean words).tm.peerSeeks = s.tm.peerSeeks ∧
    (s.dataClean words).rdm = s.rdm ∧ (s.dataClean words).out = s.out ∧ (s.dataClean words).pending = s.pending := by
  simp only [State.dataClean]
  (repeat' split) <;> simp

@[simp] theorem State.sectorWritten_frame (s : State) :
    s.sectorWritten.hp.address = s.hp.address ∧ s.sectorWritten.hp.adapter = s.hp.adapter ∧
    s.sectorWritten.hp.maintaining = s.hp.maintaining ∧ s.sectorWritten.hp.refusal = s.hp.refusal ∧
    s.sectorWritten.hp.events = s.hp.events ∧ s.sectorWritten.hp.mask = s.hp.mask ∧
    s.sectorWritten.hp.progress = s.hp.progress ∧ s.sectorWritten.hp.setup = s.hp.setup ∧
    s.sectorWritten.hp.current = s.hp.current ∧ s.sectorWritten.hp.tod = s.hp.tod ∧
    s.sectorWritten.chains = s.chains ∧ s.sectorWritten.tm.peer = s.tm.peer ∧
    s.sectorWritten.tm.cylinder = s.tm.cylinder ∧ s.sectorWritten.tm.moving = s.tm.moving ∧
    s.sectorWritten.tm.presence = s.tm.presence ∧ s.sectorWritten.tm.courtesy = s.tm.courtesy ∧
    s.sectorWritten.tm.preemptMark = s.tm.preemptMark ∧ s.sectorWritten.tm.peerSeeks = s.tm.peerSeeks ∧
    s.sectorWritten.rdm = s.rdm ∧ s.sectorWritten.out = s.out ∧ s.sectorWritten.pending = s.pending := by
  simp only [State.sectorWritten]
  (repeat' split) <;> simp

@[simp] theorem State.dataCheck_frame (s : State) :
    s.dataCheck.hp.address = s.hp.address ∧ s.dataCheck.hp.adapter = s.hp.adapter ∧
    s.dataCheck.hp.maintaining = s.hp.maintaining ∧ s.dataCheck.hp.refusal = s.hp.refusal ∧
    s.dataCheck.hp.events = s.hp.events ∧ s.dataCheck.hp.mask = s.hp.mask ∧
    s.dataCheck.hp.progress = s.hp.progress ∧ s.dataCheck.hp.setup = s.hp.setup ∧
    s.dataCheck.hp.current = s.hp.current ∧ s.dataCheck.hp.tod = s.hp.tod ∧ s.dataCheck.chains = s.chains ∧
    s.dataCheck.tm.peer = s.tm.peer ∧ s.dataCheck.tm.cylinder = s.tm.cylinder ∧
    s.dataCheck.tm.moving = s.tm.moving ∧ s.dataCheck.tm.presence = s.tm.presence ∧
    s.dataCheck.tm.courtesy = s.tm.courtesy ∧ s.dataCheck.tm.preemptMark = s.tm.preemptMark ∧
    s.dataCheck.tm.peerSeeks = s.tm.peerSeeks ∧ s.dataCheck.rdm = s.rdm ∧ s.dataCheck.out = s.out ∧
    s.dataCheck.pending = s.pending := by
  simp only [State.dataCheck, State.goOn]
  (repeat' split) <;> simp_all

@[simp] theorem State.seekUnanswered_frame (s : State) (x : Exchange) :
    (s.seekUnanswered x).hp = s.hp ∧ (s.seekUnanswered x).chains = s.chains ∧ (s.seekUnanswered x).ec = s.ec ∧
    (s.seekUnanswered x).wq.nextId = s.wq.nextId ∧ (s.seekUnanswered x).te = s.te ∧
    (s.seekUnanswered x).hm = s.hm ∧ (s.seekUnanswered x).tm.own = s.tm.own ∧
    (s.seekUnanswered x).tm.peer = s.tm.peer ∧ (s.seekUnanswered x).tm.presence = s.tm.presence ∧
    (s.seekUnanswered x).tm.courtesy = s.tm.courtesy ∧ (s.seekUnanswered x).tm.preemptMark = s.tm.preemptMark ∧
    (s.seekUnanswered x).tm.peerSeeks = s.tm.peerSeeks ∧ (s.seekUnanswered x).lu = s.lu ∧
    (s.seekUnanswered x).rdm = s.rdm ∧ (s.seekUnanswered x).out = s.out ∧ (s.seekUnanswered x).pending = s.pending := by
  simp only [State.seekUnanswered]
  (repeat' split) <;> simp

@[simp] theorem State.orderUnanswered_frame (s : State) (b : FrameBody) :
    (s.orderUnanswered b).hp.address = s.hp.address ∧ (s.orderUnanswered b).hp.adapter = s.hp.adapter ∧
    (s.orderUnanswered b).hp.maintaining = s.hp.maintaining ∧ (s.orderUnanswered b).hp.refusal = s.hp.refusal ∧
    (s.orderUnanswered b).hp.events = s.hp.events ∧ (s.orderUnanswered b).hp.mask = s.hp.mask ∧
    (s.orderUnanswered b).hp.progress = s.hp.progress ∧ (s.orderUnanswered b).hp.setup = s.hp.setup ∧
    (s.orderUnanswered b).hp.current = s.hp.current ∧ (s.orderUnanswered b).hp.tod = s.hp.tod ∧
    (s.orderUnanswered b).chains = s.chains ∧ (s.orderUnanswered b).tm.peer = s.tm.peer ∧
    (s.orderUnanswered b).tm.cylinder = s.tm.cylinder ∧ (s.orderUnanswered b).tm.moving = s.tm.moving ∧
    (s.orderUnanswered b).tm.presence = s.tm.presence ∧ (s.orderUnanswered b).tm.courtesy = s.tm.courtesy ∧
    (s.orderUnanswered b).tm.preemptMark = s.tm.preemptMark ∧ (s.orderUnanswered b).tm.peerSeeks = s.tm.peerSeeks ∧
    (s.orderUnanswered b).rdm = s.rdm ∧ (s.orderUnanswered b).out = s.out ∧ (s.orderUnanswered b).pending = s.pending := by
  simp only [State.orderUnanswered, State.goOn, State.notDone]
  (repeat' split) <;> simp_all

@[simp] theorem State.orderSilent_frame (s : State) (x : Exchange) :
    (s.orderSilent x).hp.address = s.hp.address ∧ (s.orderSilent x).hp.adapter = s.hp.adapter ∧
    (s.orderSilent x).hp.maintaining = s.hp.maintaining ∧ (s.orderSilent x).hp.refusal = s.hp.refusal ∧
    (s.orderSilent x).hp.mask = s.hp.mask ∧ (s.orderSilent x).hp.progress = s.hp.progress ∧
    (s.orderSilent x).hp.setup = s.hp.setup ∧ (s.orderSilent x).hp.current = s.hp.current ∧
    (s.orderSilent x).hp.tod = s.hp.tod ∧ (s.orderSilent x).chains = s.chains ∧
    (s.orderSilent x).tm.peer = s.tm.peer ∧ (s.orderSilent x).tm.presence = s.tm.presence ∧
    (s.orderSilent x).tm.courtesy = s.tm.courtesy ∧ (s.orderSilent x).tm.preemptMark = s.tm.preemptMark ∧
    (s.orderSilent x).tm.peerSeeks = s.tm.peerSeeks ∧ (s.orderSilent x).out = s.out ∧
    (s.orderSilent x).pending = s.pending := by
  simp only [State.orderSilent, State.notDone]
  (repeat' split) <;> simp_all

@[simp] theorem State.driveHeard_frame (s : State) :
    s.driveHeard.hp = s.hp ∧ s.driveHeard.chains = s.chains ∧ s.driveHeard.ec = s.ec ∧ s.driveHeard.wq = s.wq ∧
    s.driveHeard.te = s.te ∧ s.driveHeard.hm = s.hm ∧ s.driveHeard.tm = s.tm ∧ s.driveHeard.lu = s.lu ∧
    s.driveHeard.rdm.counter = s.rdm.counter ∧ s.driveHeard.rdm.timer = s.rdm.timer ∧
    s.driveHeard.rdm.synthRun = s.rdm.synthRun ∧ s.driveHeard.rdm.revCount = s.rdm.revCount ∧
    s.driveHeard.rdm.lateLeft = s.rdm.lateLeft ∧ s.driveHeard.rdm.lateSubstitute = s.rdm.lateSubstitute ∧
    s.driveHeard.rdm.ready = s.rdm.ready ∧ s.driveHeard.rdm.onCylinder = s.rdm.onCylinder ∧
    s.driveHeard.rdm.drive = s.rdm.drive ∧ s.driveHeard.rdm.recovery = s.rdm.recovery ∧
    s.driveHeard.rdm.resync = s.rdm.resync ∧ s.driveHeard.rdm.slotSynthetic = s.rdm.slotSynthetic ∧
    s.driveHeard.out = s.out ∧ s.driveHeard.pending = s.pending := by
  simp only [State.driveHeard]
  simp

@[simp] theorem State.busyRecord_frame (s : State) (x : Exchange) :
    (s.busyRecord x).hp = s.hp ∧ (s.busyRecord x).chains = s.chains ∧ (s.busyRecord x).ec = s.ec ∧
    (s.busyRecord x).wq.nextId = s.wq.nextId ∧ (s.busyRecord x).te = s.te ∧ (s.busyRecord x).hm = s.hm ∧
    (s.busyRecord x).tm.own = s.tm.own ∧ (s.busyRecord x).tm.peer = s.tm.peer ∧
    (s.busyRecord x).tm.presence = s.tm.presence ∧ (s.busyRecord x).tm.courtesy = s.tm.courtesy ∧
    (s.busyRecord x).tm.preemptMark = s.tm.preemptMark ∧ (s.busyRecord x).tm.peerSeeks = s.tm.peerSeeks ∧
    (s.busyRecord x).lu = s.lu ∧ (s.busyRecord x).rdm = s.rdm ∧ (s.busyRecord x).out = s.out ∧
    (s.busyRecord x).pending = s.pending := by
  simp only [State.busyRecord]
  (repeat' split) <;> simp

@[simp] theorem State.seekTimedOut_frame (s : State) :
    s.seekTimedOut.hp.address = s.hp.address ∧ s.seekTimedOut.hp.adapter = s.hp.adapter ∧
    s.seekTimedOut.hp.maintaining = s.hp.maintaining ∧ s.seekTimedOut.hp.refusal = s.hp.refusal ∧
    s.seekTimedOut.hp.events = s.hp.events ∧ s.seekTimedOut.hp.mask = s.hp.mask ∧
    s.seekTimedOut.hp.progress = s.hp.progress ∧ s.seekTimedOut.hp.setup = s.hp.setup ∧
    s.seekTimedOut.hp.current = s.hp.current ∧ s.seekTimedOut.hp.tod = s.hp.tod ∧
    s.seekTimedOut.chains = s.chains ∧ s.seekTimedOut.tm.peer = s.tm.peer ∧
    s.seekTimedOut.tm.cylinder = s.tm.cylinder ∧ s.seekTimedOut.tm.moving = s.tm.moving ∧
    s.seekTimedOut.tm.presence = s.tm.presence ∧ s.seekTimedOut.tm.courtesy = s.tm.courtesy ∧
    s.seekTimedOut.tm.preemptMark = s.tm.preemptMark ∧ s.seekTimedOut.tm.peerSeeks = s.tm.peerSeeks ∧
    s.seekTimedOut.rdm = s.rdm ∧ s.seekTimedOut.out = s.out ∧ s.seekTimedOut.pending = s.pending := by
  simp only [State.seekTimedOut, State.displace, State.goOn]
  (repeat' split) <;> simp_all

/-! The Chain Unit (Section 3). -/

@[simp] theorem State.callFetch_frame (s : State) (n : Fin 4) :
    (s.callFetch n).hp.address = s.hp.address ∧ (s.callFetch n).hp.adapter = s.hp.adapter ∧
    (s.callFetch n).hp.maintaining = s.hp.maintaining ∧ (s.callFetch n).hp.refusal = s.hp.refusal ∧
    (s.callFetch n).hp.events = s.hp.events ∧ (s.callFetch n).hp.mask = s.hp.mask ∧
    (s.callFetch n).hp.progress = s.hp.progress ∧ (s.callFetch n).hp.setup = s.hp.setup ∧
    (s.callFetch n).hp.current = s.hp.current ∧ (s.callFetch n).hp.heldBack = s.hp.heldBack ∧
    (s.callFetch n).hp.tod = s.hp.tod ∧ (s.callFetch n).ec = s.ec ∧ (s.callFetch n).wq = s.wq ∧
    (s.callFetch n).te = s.te ∧ (s.callFetch n).hm = s.hm ∧ (s.callFetch n).tm = s.tm ∧ (s.callFetch n).lu = s.lu ∧
    (s.callFetch n).rdm = s.rdm ∧ (s.callFetch n).out = s.out ∧ (s.callFetch n).pending = s.pending := by
  simp only [State.callFetch]
  (repeat' split) <;> simp

@[simp] theorem State.clearReason_frame (s : State) (n : Fin 4) (f : FetchWait → FetchWait) :
    (s.clearReason n f).hp.address = s.hp.address ∧ (s.clearReason n f).hp.adapter = s.hp.adapter ∧
    (s.clearReason n f).hp.maintaining = s.hp.maintaining ∧ (s.clearReason n f).hp.refusal = s.hp.refusal ∧
    (s.clearReason n f).hp.events = s.hp.events ∧ (s.clearReason n f).hp.mask = s.hp.mask ∧
    (s.clearReason n f).hp.progress = s.hp.progress ∧ (s.clearReason n f).hp.setup = s.hp.setup ∧
    (s.clearReason n f).hp.current = s.hp.current ∧ (s.clearReason n f).hp.heldBack = s.hp.heldBack ∧
    (s.clearReason n f).hp.tod = s.hp.tod ∧ (s.clearReason n f).ec = s.ec ∧ (s.clearReason n f).wq = s.wq ∧
    (s.clearReason n f).te = s.te ∧ (s.clearReason n f).hm = s.hm ∧ (s.clearReason n f).tm = s.tm ∧
    (s.clearReason n f).lu = s.lu ∧ (s.clearReason n f).rdm = s.rdm ∧ (s.clearReason n f).out = s.out ∧
    (s.clearReason n f).pending = s.pending := by
  simp only [State.clearReason]
  (repeat' split) <;> simp

@[simp] theorem State.setReason_frame (s : State) (n : Fin 4) (f : FetchWait → FetchWait) :
    (s.setReason n f).hp = s.hp ∧ (s.setReason n f).ec = s.ec ∧ (s.setReason n f).wq = s.wq ∧
    (s.setReason n f).te = s.te ∧ (s.setReason n f).hm = s.hm ∧ (s.setReason n f).tm = s.tm ∧
    (s.setReason n f).lu = s.lu ∧ (s.setReason n f).rdm = s.rdm ∧ (s.setReason n f).out = s.out ∧
    (s.setReason n f).pending = s.pending := by
  simp only [State.setReason]
  simp

@[simp] theorem State.withdrawFetch_frame (s : State) (n : Fin 4) :
    (s.withdrawFetch n).hp.address = s.hp.address ∧ (s.withdrawFetch n).hp.adapter = s.hp.adapter ∧
    (s.withdrawFetch n).hp.maintaining = s.hp.maintaining ∧ (s.withdrawFetch n).hp.refusal = s.hp.refusal ∧
    (s.withdrawFetch n).hp.events = s.hp.events ∧ (s.withdrawFetch n).hp.mask = s.hp.mask ∧
    (s.withdrawFetch n).hp.progress = s.hp.progress ∧ (s.withdrawFetch n).hp.setup = s.hp.setup ∧
    (s.withdrawFetch n).hp.current = s.hp.current ∧ (s.withdrawFetch n).hp.heldBack = s.hp.heldBack ∧
    (s.withdrawFetch n).hp.tod = s.hp.tod ∧ (s.withdrawFetch n).chains = s.chains ∧ (s.withdrawFetch n).ec = s.ec ∧
    (s.withdrawFetch n).wq = s.wq ∧ (s.withdrawFetch n).te = s.te ∧ (s.withdrawFetch n).hm = s.hm ∧
    (s.withdrawFetch n).tm = s.tm ∧ (s.withdrawFetch n).lu = s.lu ∧ (s.withdrawFetch n).rdm = s.rdm ∧
    (s.withdrawFetch n).out = s.out ∧ (s.withdrawFetch n).pending = s.pending := by
  simp only [State.withdrawFetch]
  simp

@[simp] theorem State.markDirectOver_frame (s : State) :
    s.markDirectOver.hp = s.hp ∧ s.markDirectOver.chains = s.chains ∧ s.markDirectOver.ec = s.ec ∧
    s.markDirectOver.wq = s.wq ∧ s.markDirectOver.te.phase = s.te.phase ∧
    s.markDirectOver.te.request = s.te.request ∧ s.markDirectOver.te.sector = s.te.sector ∧
    s.markDirectOver.te.target = s.te.target ∧ s.markDirectOver.te.settle = s.te.settle ∧
    s.markDirectOver.te.lastSlip = s.te.lastSlip ∧ s.markDirectOver.te.leadOpen = s.te.leadOpen ∧
    s.markDirectOver.te.suspendAfter = s.te.suspendAfter ∧ s.markDirectOver.te.downAfter = s.te.downAfter ∧
    s.markDirectOver.te.bufA = s.te.bufA ∧ s.markDirectOver.te.bufB = s.te.bufB ∧ s.markDirectOver.hm = s.hm ∧
    s.markDirectOver.tm = s.tm ∧ s.markDirectOver.lu = s.lu ∧ s.markDirectOver.rdm = s.rdm ∧
    s.markDirectOver.out = s.out ∧ s.markDirectOver.pending = s.pending := by
  simp only [State.markDirectOver]
  (repeat' split) <;> simp

@[simp] theorem State.leaveMaintenance_frame (s : State) :
    s.leaveMaintenance.hp.address = s.hp.address ∧ s.leaveMaintenance.hp.refusal = s.hp.refusal ∧
    s.leaveMaintenance.hp.events = s.hp.events ∧ s.leaveMaintenance.hp.mask = s.hp.mask ∧
    s.leaveMaintenance.hp.progress = s.hp.progress ∧ s.leaveMaintenance.hp.setup = s.hp.setup ∧
    s.leaveMaintenance.hp.current = s.hp.current ∧ s.leaveMaintenance.hp.tod = s.hp.tod ∧
    s.leaveMaintenance.wq.nextId = s.wq.nextId ∧ s.leaveMaintenance.te.phase = s.te.phase ∧
    s.leaveMaintenance.te.request = s.te.request ∧ s.leaveMaintenance.te.sector = s.te.sector ∧
    s.leaveMaintenance.te.target = s.te.target ∧ s.leaveMaintenance.te.settle = s.te.settle ∧
    s.leaveMaintenance.te.lastSlip = s.te.lastSlip ∧ s.leaveMaintenance.te.leadOpen = s.te.leadOpen ∧
    s.leaveMaintenance.te.suspendAfter = s.te.suspendAfter ∧ s.leaveMaintenance.te.downAfter = s.te.downAfter ∧
    s.leaveMaintenance.te.bufA = s.te.bufA ∧ s.leaveMaintenance.te.bufB = s.te.bufB ∧
    s.leaveMaintenance.tm = s.tm ∧ s.leaveMaintenance.lu.station = s.lu.station ∧
    s.leaveMaintenance.lu.exchange = s.lu.exchange ∧ s.leaveMaintenance.lu.peerExchange = s.lu.peerExchange ∧
    s.leaveMaintenance.lu.peerSeekFell = s.lu.peerSeekFell ∧ s.leaveMaintenance.lu.backoff = s.lu.backoff ∧
    s.leaveMaintenance.lu.failedHeard = s.lu.failedHeard ∧
    s.leaveMaintenance.lu.collisionCount = s.lu.collisionCount ∧
    s.leaveMaintenance.lu.lastCollided = s.lu.lastCollided ∧ s.leaveMaintenance.lu.armed = s.lu.armed ∧
    s.leaveMaintenance.rdm = s.rdm ∧ s.leaveMaintenance.out = s.out ∧ s.leaveMaintenance.pending = s.pending := by
  simp only [State.leaveMaintenance]
  simp

@[simp] theorem State.endChain_frame (s : State) (n : Fin 4) :
    (s.endChain n).hp.address = s.hp.address ∧ (s.endChain n).hp.refusal = s.hp.refusal ∧
    (s.endChain n).hp.mask = s.hp.mask ∧ (s.endChain n).hp.progress = s.hp.progress ∧
    (s.endChain n).hp.setup = s.hp.setup ∧ (s.endChain n).hp.current = s.hp.current ∧
    (s.endChain n).hp.tod = s.hp.tod ∧ (s.endChain n).wq.nextId = s.wq.nextId ∧
    (s.endChain n).te.phase = s.te.phase ∧ (s.endChain n).te.request = s.te.request ∧
    (s.endChain n).te.sector = s.te.sector ∧ (s.endChain n).te.target = s.te.target ∧
    (s.endChain n).te.settle = s.te.settle ∧ (s.endChain n).te.lastSlip = s.te.lastSlip ∧
    (s.endChain n).te.leadOpen = s.te.leadOpen ∧ (s.endChain n).te.suspendAfter = s.te.suspendAfter ∧
    (s.endChain n).te.downAfter = s.te.downAfter ∧ (s.endChain n).te.bufA = s.te.bufA ∧
    (s.endChain n).te.bufB = s.te.bufB ∧ (s.endChain n).tm = s.tm ∧ (s.endChain n).lu.station = s.lu.station ∧
    (s.endChain n).lu.exchange = s.lu.exchange ∧ (s.endChain n).lu.peerExchange = s.lu.peerExchange ∧
    (s.endChain n).lu.peerSeekFell = s.lu.peerSeekFell ∧ (s.endChain n).lu.backoff = s.lu.backoff ∧
    (s.endChain n).lu.failedHeard = s.lu.failedHeard ∧ (s.endChain n).lu.collisionCount = s.lu.collisionCount ∧
    (s.endChain n).lu.lastCollided = s.lu.lastCollided ∧ (s.endChain n).lu.armed = s.lu.armed ∧
    (s.endChain n).rdm = s.rdm ∧ (s.endChain n).out = s.out ∧ (s.endChain n).pending = s.pending := by
  simp only [State.endChain]
  (repeat' split) <;> simp

@[simp] theorem State.endIfOver_frame (s : State) (n : Fin 4) :
    (s.endIfOver n).hp.address = s.hp.address ∧ (s.endIfOver n).hp.refusal = s.hp.refusal ∧
    (s.endIfOver n).hp.mask = s.hp.mask ∧ (s.endIfOver n).hp.progress = s.hp.progress ∧
    (s.endIfOver n).hp.setup = s.hp.setup ∧ (s.endIfOver n).hp.current = s.hp.current ∧
    (s.endIfOver n).hp.tod = s.hp.tod ∧ (s.endIfOver n).wq.nextId = s.wq.nextId ∧
    (s.endIfOver n).te.phase = s.te.phase ∧ (s.endIfOver n).te.request = s.te.request ∧
    (s.endIfOver n).te.sector = s.te.sector ∧ (s.endIfOver n).te.target = s.te.target ∧
    (s.endIfOver n).te.settle = s.te.settle ∧ (s.endIfOver n).te.lastSlip = s.te.lastSlip ∧
    (s.endIfOver n).te.leadOpen = s.te.leadOpen ∧ (s.endIfOver n).te.suspendAfter = s.te.suspendAfter ∧
    (s.endIfOver n).te.downAfter = s.te.downAfter ∧ (s.endIfOver n).te.bufA = s.te.bufA ∧
    (s.endIfOver n).te.bufB = s.te.bufB ∧ (s.endIfOver n).tm = s.tm ∧ (s.endIfOver n).lu.station = s.lu.station ∧
    (s.endIfOver n).lu.exchange = s.lu.exchange ∧ (s.endIfOver n).lu.peerExchange = s.lu.peerExchange ∧
    (s.endIfOver n).lu.peerSeekFell = s.lu.peerSeekFell ∧ (s.endIfOver n).lu.backoff = s.lu.backoff ∧
    (s.endIfOver n).lu.failedHeard = s.lu.failedHeard ∧ (s.endIfOver n).lu.collisionCount = s.lu.collisionCount ∧
    (s.endIfOver n).lu.lastCollided = s.lu.lastCollided ∧ (s.endIfOver n).lu.armed = s.lu.armed ∧
    (s.endIfOver n).rdm = s.rdm ∧ (s.endIfOver n).out = s.out ∧ (s.endIfOver n).pending = s.pending := by
  simp only [State.endIfOver]
  (repeat' split) <;> simp

@[simp] theorem State.dropHeld_frame (s : State) (n : Fin 4) (st : Status) (f : Option ElementFault) :
    (s.dropHeld n st f).hp.address = s.hp.address ∧ (s.dropHeld n st f).hp.adapter = s.hp.adapter ∧
    (s.dropHeld n st f).hp.maintaining = s.hp.maintaining ∧ (s.dropHeld n st f).hp.refusal = s.hp.refusal ∧
    (s.dropHeld n st f).hp.events = s.hp.events ∧ (s.dropHeld n st f).hp.mask = s.hp.mask ∧
    (s.dropHeld n st f).hp.progress = s.hp.progress ∧ (s.dropHeld n st f).hp.setup = s.hp.setup ∧
    (s.dropHeld n st f).hp.current = s.hp.current ∧ (s.dropHeld n st f).hp.heldBack = s.hp.heldBack ∧
    (s.dropHeld n st f).hp.tod = s.hp.tod ∧ (s.dropHeld n st f).ec = s.ec ∧ (s.dropHeld n st f).wq = s.wq ∧
    (s.dropHeld n st f).te = s.te ∧ (s.dropHeld n st f).hm = s.hm ∧ (s.dropHeld n st f).tm = s.tm ∧
    (s.dropHeld n st f).lu = s.lu ∧ (s.dropHeld n st f).rdm = s.rdm ∧ (s.dropHeld n st f).out = s.out ∧
    (s.dropHeld n st f).pending = s.pending := by
  simp only [State.dropHeld]
  (repeat' split) <;> simp

@[simp] theorem State.shedWork_frame (s : State) (n : Fin 4) (st : Status) (f : Option ElementFault) :
    (s.shedWork n st f).hp.address = s.hp.address ∧ (s.shedWork n st f).hp.adapter = s.hp.adapter ∧
    (s.shedWork n st f).hp.maintaining = s.hp.maintaining ∧ (s.shedWork n st f).hp.refusal = s.hp.refusal ∧
    (s.shedWork n st f).hp.events = s.hp.events ∧ (s.shedWork n st f).hp.mask = s.hp.mask ∧
    (s.shedWork n st f).hp.progress = s.hp.progress ∧ (s.shedWork n st f).hp.setup = s.hp.setup ∧
    (s.shedWork n st f).hp.current = s.hp.current ∧ (s.shedWork n st f).hp.tod = s.hp.tod ∧
    (s.shedWork n st f).wq.nextId = s.wq.nextId ∧ (s.shedWork n st f).te = s.te ∧ (s.shedWork n st f).tm = s.tm ∧
    (s.shedWork n st f).lu.station = s.lu.station ∧ (s.shedWork n st f).lu.exchange = s.lu.exchange ∧
    (s.shedWork n st f).lu.peerExchange = s.lu.peerExchange ∧
    (s.shedWork n st f).lu.peerSeekFell = s.lu.peerSeekFell ∧ (s.shedWork n st f).lu.backoff = s.lu.backoff ∧
    (s.shedWork n st f).lu.failedHeard = s.lu.failedHeard ∧
    (s.shedWork n st f).lu.collisionCount = s.lu.collisionCount ∧
    (s.shedWork n st f).lu.lastCollided = s.lu.lastCollided ∧ (s.shedWork n st f).lu.armed = s.lu.armed ∧
    (s.shedWork n st f).rdm = s.rdm ∧ (s.shedWork n st f).out = s.out ∧ (s.shedWork n st f).pending = s.pending := by
  simp only [State.shedWork]
  simp

@[simp] theorem State.markStopping_frame (s : State) (n : Fin 4) :
    (s.markStopping n).hp = s.hp ∧ (s.markStopping n).ec = s.ec ∧ (s.markStopping n).wq = s.wq ∧
    (s.markStopping n).te = s.te ∧ (s.markStopping n).hm = s.hm ∧ (s.markStopping n).tm = s.tm ∧
    (s.markStopping n).lu = s.lu ∧ (s.markStopping n).rdm = s.rdm ∧ (s.markStopping n).out = s.out ∧
    (s.markStopping n).pending = s.pending := by
  simp only [State.markStopping]
  simp

@[simp] theorem State.stopChain_frame (s : State) (n : Fin 4) :
    (s.stopChain n).hp.address = s.hp.address ∧ (s.stopChain n).hp.refusal = s.hp.refusal ∧
    (s.stopChain n).hp.mask = s.hp.mask ∧ (s.stopChain n).hp.progress = s.hp.progress ∧
    (s.stopChain n).hp.setup = s.hp.setup ∧ (s.stopChain n).hp.current = s.hp.current ∧
    (s.stopChain n).hp.tod = s.hp.tod ∧ (s.stopChain n).wq.nextId = s.wq.nextId ∧
    (s.stopChain n).te.phase = s.te.phase ∧ (s.stopChain n).te.request = s.te.request ∧
    (s.stopChain n).te.sector = s.te.sector ∧ (s.stopChain n).te.target = s.te.target ∧
    (s.stopChain n).te.settle = s.te.settle ∧ (s.stopChain n).te.lastSlip = s.te.lastSlip ∧
    (s.stopChain n).te.leadOpen = s.te.leadOpen ∧ (s.stopChain n).te.suspendAfter = s.te.suspendAfter ∧
    (s.stopChain n).te.downAfter = s.te.downAfter ∧ (s.stopChain n).te.bufA = s.te.bufA ∧
    (s.stopChain n).te.bufB = s.te.bufB ∧ (s.stopChain n).tm = s.tm ∧ (s.stopChain n).lu.station = s.lu.station ∧
    (s.stopChain n).lu.exchange = s.lu.exchange ∧ (s.stopChain n).lu.peerExchange = s.lu.peerExchange ∧
    (s.stopChain n).lu.peerSeekFell = s.lu.peerSeekFell ∧ (s.stopChain n).lu.backoff = s.lu.backoff ∧
    (s.stopChain n).lu.failedHeard = s.lu.failedHeard ∧ (s.stopChain n).lu.collisionCount = s.lu.collisionCount ∧
    (s.stopChain n).lu.lastCollided = s.lu.lastCollided ∧ (s.stopChain n).lu.armed = s.lu.armed ∧
    (s.stopChain n).rdm = s.rdm ∧ (s.stopChain n).out = s.out ∧ (s.stopChain n).pending = s.pending := by
  simp only [State.stopChain]
  (repeat' split) <;> simp

@[simp] theorem State.abortActive_frame (s : State) (n : Fin 4) :
    (s.abortActive n).hp.address = s.hp.address ∧ (s.abortActive n).hp.adapter = s.hp.adapter ∧
    (s.abortActive n).hp.maintaining = s.hp.maintaining ∧ (s.abortActive n).hp.refusal = s.hp.refusal ∧
    (s.abortActive n).hp.events = s.hp.events ∧ (s.abortActive n).hp.mask = s.hp.mask ∧
    (s.abortActive n).hp.progress = s.hp.progress ∧ (s.abortActive n).hp.setup = s.hp.setup ∧
    (s.abortActive n).hp.current = s.hp.current ∧ (s.abortActive n).hp.tod = s.hp.tod ∧
    (s.abortActive n).chains = s.chains ∧ (s.abortActive n).tm.peer = s.tm.peer ∧
    (s.abortActive n).tm.cylinder = s.tm.cylinder ∧ (s.abortActive n).tm.moving = s.tm.moving ∧
    (s.abortActive n).tm.presence = s.tm.presence ∧ (s.abortActive n).tm.courtesy = s.tm.courtesy ∧
    (s.abortActive n).tm.preemptMark = s.tm.preemptMark ∧ (s.abortActive n).tm.peerSeeks = s.tm.peerSeeks ∧
    (s.abortActive n).rdm = s.rdm ∧ (s.abortActive n).out = s.out ∧ (s.abortActive n).pending = s.pending := by
  simp only [State.abortActive]
  (repeat' split) <;> simp

@[simp] theorem State.faultStop_frame (s : State) (x : Completion) :
    (s.faultStop x).hp.address = s.hp.address ∧ (s.faultStop x).hp.refusal = s.hp.refusal ∧
    (s.faultStop x).hp.mask = s.hp.mask ∧ (s.faultStop x).hp.progress = s.hp.progress ∧
    (s.faultStop x).hp.setup = s.hp.setup ∧ (s.faultStop x).hp.current = s.hp.current ∧
    (s.faultStop x).hp.tod = s.hp.tod ∧ (s.faultStop x).wq.nextId = s.wq.nextId ∧
    (s.faultStop x).te.phase = s.te.phase ∧ (s.faultStop x).te.request = s.te.request ∧
    (s.faultStop x).te.sector = s.te.sector ∧ (s.faultStop x).te.target = s.te.target ∧
    (s.faultStop x).te.settle = s.te.settle ∧ (s.faultStop x).te.lastSlip = s.te.lastSlip ∧
    (s.faultStop x).te.leadOpen = s.te.leadOpen ∧ (s.faultStop x).te.suspendAfter = s.te.suspendAfter ∧
    (s.faultStop x).te.downAfter = s.te.downAfter ∧ (s.faultStop x).te.bufA = s.te.bufA ∧
    (s.faultStop x).te.bufB = s.te.bufB ∧ (s.faultStop x).tm = s.tm ∧ (s.faultStop x).lu.station = s.lu.station ∧
    (s.faultStop x).lu.exchange = s.lu.exchange ∧ (s.faultStop x).lu.peerExchange = s.lu.peerExchange ∧
    (s.faultStop x).lu.peerSeekFell = s.lu.peerSeekFell ∧ (s.faultStop x).lu.backoff = s.lu.backoff ∧
    (s.faultStop x).lu.failedHeard = s.lu.failedHeard ∧ (s.faultStop x).lu.collisionCount = s.lu.collisionCount ∧
    (s.faultStop x).lu.lastCollided = s.lu.lastCollided ∧ (s.faultStop x).lu.armed = s.lu.armed ∧
    (s.faultStop x).rdm = s.rdm ∧ (s.faultStop x).out = s.out ∧ (s.faultStop x).pending = s.pending := by
  simp only [State.faultStop]
  (repeat' split) <;> simp

@[simp] theorem State.takeCompletion_frame (s : State) (x : Completion) :
    (s.takeCompletion x).hp.address = s.hp.address ∧ (s.takeCompletion x).hp.refusal = s.hp.refusal ∧
    (s.takeCompletion x).hp.mask = s.hp.mask ∧ (s.takeCompletion x).hp.progress = s.hp.progress ∧
    (s.takeCompletion x).hp.setup = s.hp.setup ∧ (s.takeCompletion x).hp.current = s.hp.current ∧
    (s.takeCompletion x).hp.tod = s.hp.tod ∧ (s.takeCompletion x).wq.nextId = s.wq.nextId ∧
    (s.takeCompletion x).te.phase = s.te.phase ∧ (s.takeCompletion x).te.request = s.te.request ∧
    (s.takeCompletion x).te.sector = s.te.sector ∧ (s.takeCompletion x).te.target = s.te.target ∧
    (s.takeCompletion x).te.settle = s.te.settle ∧ (s.takeCompletion x).te.lastSlip = s.te.lastSlip ∧
    (s.takeCompletion x).te.leadOpen = s.te.leadOpen ∧ (s.takeCompletion x).te.suspendAfter = s.te.suspendAfter ∧
    (s.takeCompletion x).te.downAfter = s.te.downAfter ∧ (s.takeCompletion x).te.bufA = s.te.bufA ∧
    (s.takeCompletion x).te.bufB = s.te.bufB ∧ (s.takeCompletion x).tm = s.tm ∧
    (s.takeCompletion x).lu.station = s.lu.station ∧ (s.takeCompletion x).lu.exchange = s.lu.exchange ∧
    (s.takeCompletion x).lu.peerExchange = s.lu.peerExchange ∧
    (s.takeCompletion x).lu.peerSeekFell = s.lu.peerSeekFell ∧ (s.takeCompletion x).lu.backoff = s.lu.backoff ∧
    (s.takeCompletion x).lu.failedHeard = s.lu.failedHeard ∧
    (s.takeCompletion x).lu.collisionCount = s.lu.collisionCount ∧
    (s.takeCompletion x).lu.lastCollided = s.lu.lastCollided ∧ (s.takeCompletion x).lu.armed = s.lu.armed ∧
    (s.takeCompletion x).rdm = s.rdm ∧ (s.takeCompletion x).out = s.out ∧ (s.takeCompletion x).pending = s.pending := by
  simp only [State.takeCompletion]
  (repeat' split) <;> simp

@[simp] theorem State.silenceChain_frame (s : State) (n : Fin 4) :
    (s.silenceChain n).hp.address = s.hp.address ∧ (s.silenceChain n).hp.adapter = s.hp.adapter ∧
    (s.silenceChain n).hp.maintaining = s.hp.maintaining ∧ (s.silenceChain n).hp.refusal = s.hp.refusal ∧
    (s.silenceChain n).hp.events = s.hp.events ∧ (s.silenceChain n).hp.mask = s.hp.mask ∧
    (s.silenceChain n).hp.progress = s.hp.progress ∧ (s.silenceChain n).hp.setup = s.hp.setup ∧
    (s.silenceChain n).hp.current = s.hp.current ∧ (s.silenceChain n).hp.tod = s.hp.tod ∧
    (s.silenceChain n).wq.nextId = s.wq.nextId ∧ (s.silenceChain n).te = s.te ∧ (s.silenceChain n).tm = s.tm ∧
    (s.silenceChain n).lu.station = s.lu.station ∧ (s.silenceChain n).lu.exchange = s.lu.exchange ∧
    (s.silenceChain n).lu.peerExchange = s.lu.peerExchange ∧
    (s.silenceChain n).lu.peerSeekFell = s.lu.peerSeekFell ∧ (s.silenceChain n).lu.backoff = s.lu.backoff ∧
    (s.silenceChain n).lu.failedHeard = s.lu.failedHeard ∧
    (s.silenceChain n).lu.collisionCount = s.lu.collisionCount ∧
    (s.silenceChain n).lu.lastCollided = s.lu.lastCollided ∧ (s.silenceChain n).lu.armed = s.lu.armed ∧
    (s.silenceChain n).rdm = s.rdm ∧ (s.silenceChain n).out = s.out ∧ (s.silenceChain n).pending = s.pending := by
  simp only [State.silenceChain]
  (repeat' split) <;> simp

@[simp] theorem State.silenceEngine_frame (s : State) :
    s.silenceEngine.hp.address = s.hp.address ∧ s.silenceEngine.hp.adapter = s.hp.adapter ∧
    s.silenceEngine.hp.maintaining = s.hp.maintaining ∧ s.silenceEngine.hp.refusal = s.hp.refusal ∧
    s.silenceEngine.hp.events = s.hp.events ∧ s.silenceEngine.hp.mask = s.hp.mask ∧
    s.silenceEngine.hp.progress = s.hp.progress ∧ s.silenceEngine.hp.setup = s.hp.setup ∧
    s.silenceEngine.hp.current = s.hp.current ∧ s.silenceEngine.hp.tod = s.hp.tod ∧
    s.silenceEngine.chains = s.chains ∧ s.silenceEngine.wq.nextId = s.wq.nextId ∧ s.silenceEngine.tm = s.tm ∧
    s.silenceEngine.lu.station = s.lu.station ∧ s.silenceEngine.lu.exchange = s.lu.exchange ∧
    s.silenceEngine.lu.peerExchange = s.lu.peerExchange ∧ s.silenceEngine.lu.peerSeekFell = s.lu.peerSeekFell ∧
    s.silenceEngine.lu.backoff = s.lu.backoff ∧ s.silenceEngine.lu.failedHeard = s.lu.failedHeard ∧
    s.silenceEngine.lu.collisionCount = s.lu.collisionCount ∧ s.silenceEngine.lu.lastCollided = s.lu.lastCollided ∧
    s.silenceEngine.lu.armed = s.lu.armed ∧ s.silenceEngine.rdm = s.rdm ∧ s.silenceEngine.out = s.out ∧
    s.silenceEngine.pending = s.pending := by
  simp only [State.silenceEngine]
  (repeat' split) <;> simp

@[simp] theorem State.becomeSilenced_frame (s : State) :
    s.becomeSilenced.hp.address = s.hp.address ∧ s.becomeSilenced.hp.refusal = s.hp.refusal ∧
    s.becomeSilenced.hp.mask = s.hp.mask ∧ s.becomeSilenced.hp.progress = s.hp.progress ∧
    s.becomeSilenced.hp.setup = s.hp.setup ∧ s.becomeSilenced.hp.current = s.hp.current ∧
    s.becomeSilenced.hp.tod = s.hp.tod ∧ s.becomeSilenced.wq.nextId = s.wq.nextId ∧ s.becomeSilenced.rdm = s.rdm ∧
    s.becomeSilenced.out = s.out ∧ s.becomeSilenced.pending = s.pending := by
  simp only [State.becomeSilenced]
  simp

end Sys2Proof.Machine
end

