-- ==== Sys2Proof/Laws/Commands.lean ====
section
/-! SUPPORT. What each part of the commands leaves unchanged. -/

namespace Sys2Proof.Machine

open Sys2Proof

/-! Fetched elements (Section 3). -/

@[simp] theorem State.admittedFetch_frame (s : State) (i : ElemInfo) :
    (s.admittedFetch i).hp.address = s.hp.address ∧ (s.admittedFetch i).hp.adapter = s.hp.adapter ∧
    (s.admittedFetch i).hp.maintaining = s.hp.maintaining ∧ (s.admittedFetch i).hp.refusal = s.hp.refusal ∧
    (s.admittedFetch i).hp.events = s.hp.events ∧ (s.admittedFetch i).hp.mask = s.hp.mask ∧
    (s.admittedFetch i).hp.progress = s.hp.progress ∧ (s.admittedFetch i).hp.setup = s.hp.setup ∧
    (s.admittedFetch i).hp.current = s.hp.current ∧ (s.admittedFetch i).hp.heldBack = s.hp.heldBack ∧
    (s.admittedFetch i).hp.tod = s.hp.tod ∧ (s.admittedFetch i).ec = s.ec ∧ (s.admittedFetch i).wq = s.wq ∧
    (s.admittedFetch i).te = s.te ∧ (s.admittedFetch i).hm = s.hm ∧ (s.admittedFetch i).tm = s.tm ∧
    (s.admittedFetch i).lu = s.lu ∧ (s.admittedFetch i).rdm = s.rdm ∧ (s.admittedFetch i).out = s.out ∧
    (s.admittedFetch i).pending = s.pending := by
  simp only [State.admittedFetch]
  (repeat' split) <;> simp

@[simp] theorem State.enqueue_frame (s : State) (r : Request) :
    (s.enqueue r).hp = s.hp ∧ (s.enqueue r).chains = s.chains ∧ (s.enqueue r).ec = s.ec ∧ (s.enqueue r).te = s.te ∧
    (s.enqueue r).hm = s.hm ∧ (s.enqueue r).tm = s.tm ∧ (s.enqueue r).lu = s.lu ∧ (s.enqueue r).rdm = s.rdm ∧
    (s.enqueue r).out = s.out ∧ (s.enqueue r).pending = s.pending := by
  simp only [State.enqueue]
  simp

@[simp] theorem State.admitDirect_frame (s : State) (i : ElemInfo) (k : RequestKind) (e : Element) :
    (s.admitDirect i k e).hp.address = s.hp.address ∧ (s.admitDirect i k e).hp.adapter = s.hp.adapter ∧
    (s.admitDirect i k e).hp.maintaining = s.hp.maintaining ∧ (s.admitDirect i k e).hp.refusal = s.hp.refusal ∧
    (s.admitDirect i k e).hp.events = s.hp.events ∧ (s.admitDirect i k e).hp.mask = s.hp.mask ∧
    (s.admitDirect i k e).hp.progress = s.hp.progress ∧ (s.admitDirect i k e).hp.setup = s.hp.setup ∧
    (s.admitDirect i k e).hp.current = s.hp.current ∧ (s.admitDirect i k e).hp.heldBack = s.hp.heldBack ∧
    (s.admitDirect i k e).hp.tod = s.hp.tod ∧ (s.admitDirect i k e).ec = s.ec ∧ (s.admitDirect i k e).te = s.te ∧
    (s.admitDirect i k e).hm = s.hm ∧ (s.admitDirect i k e).tm = s.tm ∧ (s.admitDirect i k e).lu = s.lu ∧
    (s.admitDirect i k e).rdm = s.rdm ∧ (s.admitDirect i k e).out = s.out ∧
    (s.admitDirect i k e).pending = s.pending := by
  simp only [State.admitDirect]
  simp

@[simp] theorem State.relyOn_frame (s : State) (chain : Fin 4) (k : RequestKind) (start count : Nat)
    (budget : Option Nat) :
    (s.relyOn chain k start count budget).2.hp.address = s.hp.address ∧
    (s.relyOn chain k start count budget).2.hp.adapter = s.hp.adapter ∧
    (s.relyOn chain k start count budget).2.hp.maintaining = s.hp.maintaining ∧
    (s.relyOn chain k start count budget).2.hp.refusal = s.hp.refusal ∧
    (s.relyOn chain k start count budget).2.hp.events = s.hp.events ∧
    (s.relyOn chain k start count budget).2.hp.mask = s.hp.mask ∧
    (s.relyOn chain k start count budget).2.hp.progress = s.hp.progress ∧
    (s.relyOn chain k start count budget).2.hp.setup = s.hp.setup ∧
    (s.relyOn chain k start count budget).2.hp.current = s.hp.current ∧
    (s.relyOn chain k start count budget).2.hp.heldBack = s.hp.heldBack ∧
    (s.relyOn chain k start count budget).2.hp.tod = s.hp.tod ∧
    (s.relyOn chain k start count budget).2.chains = s.chains ∧ (s.relyOn chain k start count budget).2.ec = s.ec ∧
    (s.relyOn chain k start count budget).2.wq.nextId = s.wq.nextId ∧
    (s.relyOn chain k start count budget).2.te = s.te ∧ (s.relyOn chain k start count budget).2.tm = s.tm ∧
    (s.relyOn chain k start count budget).2.lu.station = s.lu.station ∧
    (s.relyOn chain k start count budget).2.lu.exchange = s.lu.exchange ∧
    (s.relyOn chain k start count budget).2.lu.peerExchange = s.lu.peerExchange ∧
    (s.relyOn chain k start count budget).2.lu.peerSeekFell = s.lu.peerSeekFell ∧
    (s.relyOn chain k start count budget).2.lu.backoff = s.lu.backoff ∧
    (s.relyOn chain k start count budget).2.lu.failedHeard = s.lu.failedHeard ∧
    (s.relyOn chain k start count budget).2.lu.collisionCount = s.lu.collisionCount ∧
    (s.relyOn chain k start count budget).2.lu.lastCollided = s.lu.lastCollided ∧
    (s.relyOn chain k start count budget).2.lu.armed = s.lu.armed ∧
    (s.relyOn chain k start count budget).2.rdm = s.rdm ∧ (s.relyOn chain k start count budget).2.out = s.out ∧
    (s.relyOn chain k start count budget).2.pending = s.pending := by
  simp only [State.relyOn]
  split <;> simp

@[simp] theorem State.admitExtent_frame (s : State) (i : ElemInfo) (k : RequestKind) (e : Element) (a : Admission) :
    (s.admitExtent i k e a).ec = s.ec ∧ (s.admitExtent i k e a).te = s.te ∧ (s.admitExtent i k e a).tm = s.tm ∧
    (s.admitExtent i k e a).rdm = s.rdm ∧ (s.admitExtent i k e a).out = s.out ∧
    (s.admitExtent i k e a).pending = s.pending := by
  simp only [State.admitExtent]
  (repeat' split) <;> simp

@[simp] theorem State.completeFull_frame (s : State) (i : ElemInfo) (a : Admission) :
    (s.completeFull i a).hp.address = s.hp.address ∧ (s.completeFull i a).hp.adapter = s.hp.adapter ∧
    (s.completeFull i a).hp.maintaining = s.hp.maintaining ∧ (s.completeFull i a).hp.refusal = s.hp.refusal ∧
    (s.completeFull i a).hp.events = s.hp.events ∧ (s.completeFull i a).hp.mask = s.hp.mask ∧
    (s.completeFull i a).hp.progress = s.hp.progress ∧ (s.completeFull i a).hp.setup = s.hp.setup ∧
    (s.completeFull i a).hp.current = s.hp.current ∧ (s.completeFull i a).hp.heldBack = s.hp.heldBack ∧
    (s.completeFull i a).hp.tod = s.hp.tod ∧ (s.completeFull i a).ec = s.ec ∧ (s.completeFull i a).wq = s.wq ∧
    (s.completeFull i a).te = s.te ∧ (s.completeFull i a).hm = s.hm ∧ (s.completeFull i a).tm = s.tm ∧
    (s.completeFull i a).lu = s.lu ∧ (s.completeFull i a).rdm = s.rdm ∧ (s.completeFull i a).out = s.out ∧
    (s.completeFull i a).pending = s.pending := by
  simp only [State.completeFull]
  simp

@[simp] theorem State.admitDisk_frame (s : State) (i : ElemInfo) (k : RequestKind) (e : Element) :
    (s.admitDisk i k e).te = s.te ∧ (s.admitDisk i k e).tm = s.tm ∧ (s.admitDisk i k e).rdm = s.rdm ∧
    (s.admitDisk i k e).out = s.out ∧ (s.admitDisk i k e).pending = s.pending := by
  simp only [State.admitDisk]
  (repeat' split) <;> simp

@[simp] theorem State.holdBack_frame (s : State) (i : ElemInfo) (e : Element) :
    (s.holdBack i e).hp = s.hp ∧ (s.holdBack i e).ec = s.ec ∧ (s.holdBack i e).wq = s.wq ∧
    (s.holdBack i e).te = s.te ∧ (s.holdBack i e).hm = s.hm ∧ (s.holdBack i e).tm = s.tm ∧
    (s.holdBack i e).lu = s.lu ∧ (s.holdBack i e).rdm = s.rdm ∧ (s.holdBack i e).out = s.out ∧
    (s.holdBack i e).pending = s.pending := by
  simp only [State.holdBack]
  simp

@[simp] theorem State.routeDisk_frame (k : RequestKind) (e : Element) (i : ElemInfo) (s : State) :
    (State.routeDisk k e i s).te = s.te ∧ (State.routeDisk k e i s).tm = s.tm ∧
    (State.routeDisk k e i s).rdm = s.rdm ∧ (State.routeDisk k e i s).out = s.out ∧
    (State.routeDisk k e i s).pending = s.pending := by
  simp only [State.routeDisk]
  (repeat' split) <;> simp

@[simp] theorem State.resumeHeld_frame (s : State) (n : Fin 4) :
    (s.resumeHeld n).te = s.te ∧ (s.resumeHeld n).tm = s.tm ∧ (s.resumeHeld n).rdm = s.rdm ∧
    (s.resumeHeld n).out = s.out ∧ (s.resumeHeld n).pending = s.pending := by
  simp only [State.resumeHeld]
  (repeat' split) <;> simp

@[simp] theorem State.resumeAll_frame (s : State) :
    s.resumeAll.te = s.te ∧ s.resumeAll.tm = s.tm ∧ s.resumeAll.rdm = s.rdm ∧ s.resumeAll.out = s.out ∧
    s.resumeAll.pending = s.pending := by
  simp only [State.resumeAll]
  simp

@[simp] theorem State.routeHold_frame (m : Mode) (e : Element) (i : ElemInfo) (s : State) :
    (State.routeHold m e i s).hp.address = s.hp.address ∧ (State.routeHold m e i s).hp.adapter = s.hp.adapter ∧
    (State.routeHold m e i s).hp.maintaining = s.hp.maintaining ∧
    (State.routeHold m e i s).hp.refusal = s.hp.refusal ∧ (State.routeHold m e i s).hp.events = s.hp.events ∧
    (State.routeHold m e i s).hp.mask = s.hp.mask ∧ (State.routeHold m e i s).hp.progress = s.hp.progress ∧
    (State.routeHold m e i s).hp.setup = s.hp.setup ∧ (State.routeHold m e i s).hp.current = s.hp.current ∧
    (State.routeHold m e i s).hp.heldBack = s.hp.heldBack ∧ (State.routeHold m e i s).hp.tod = s.hp.tod ∧
    (State.routeHold m e i s).wq.nextId = s.wq.nextId ∧ (State.routeHold m e i s).te = s.te ∧
    (State.routeHold m e i s).tm = s.tm ∧ (State.routeHold m e i s).lu.station = s.lu.station ∧
    (State.routeHold m e i s).lu.exchange = s.lu.exchange ∧
    (State.routeHold m e i s).lu.peerExchange = s.lu.peerExchange ∧
    (State.routeHold m e i s).lu.peerSeekFell = s.lu.peerSeekFell ∧
    (State.routeHold m e i s).lu.backoff = s.lu.backoff ∧
    (State.routeHold m e i s).lu.failedHeard = s.lu.failedHeard ∧
    (State.routeHold m e i s).lu.collisionCount = s.lu.collisionCount ∧
    (State.routeHold m e i s).lu.lastCollided = s.lu.lastCollided ∧
    (State.routeHold m e i s).lu.armed = s.lu.armed ∧ (State.routeHold m e i s).rdm = s.rdm ∧
    (State.routeHold m e i s).out = s.out ∧ (State.routeHold m e i s).pending = s.pending := by
  simp only [State.routeHold]
  (repeat' split) <;> simp

@[simp] theorem State.routeUnhold_frame (e : Element) (i : ElemInfo) (s : State) :
    (State.routeUnhold e i s).hp.address = s.hp.address ∧ (State.routeUnhold e i s).hp.adapter = s.hp.adapter ∧
    (State.routeUnhold e i s).hp.maintaining = s.hp.maintaining ∧
    (State.routeUnhold e i s).hp.refusal = s.hp.refusal ∧ (State.routeUnhold e i s).hp.events = s.hp.events ∧
    (State.routeUnhold e i s).hp.mask = s.hp.mask ∧ (State.routeUnhold e i s).hp.progress = s.hp.progress ∧
    (State.routeUnhold e i s).hp.setup = s.hp.setup ∧ (State.routeUnhold e i s).hp.current = s.hp.current ∧
    (State.routeUnhold e i s).hp.heldBack = s.hp.heldBack ∧ (State.routeUnhold e i s).hp.tod = s.hp.tod ∧
    (State.routeUnhold e i s).wq.nextId = s.wq.nextId ∧ (State.routeUnhold e i s).te = s.te ∧
    (State.routeUnhold e i s).tm = s.tm ∧ (State.routeUnhold e i s).lu.station = s.lu.station ∧
    (State.routeUnhold e i s).lu.exchange = s.lu.exchange ∧
    (State.routeUnhold e i s).lu.peerExchange = s.lu.peerExchange ∧
    (State.routeUnhold e i s).lu.peerSeekFell = s.lu.peerSeekFell ∧
    (State.routeUnhold e i s).lu.backoff = s.lu.backoff ∧
    (State.routeUnhold e i s).lu.failedHeard = s.lu.failedHeard ∧
    (State.routeUnhold e i s).lu.collisionCount = s.lu.collisionCount ∧
    (State.routeUnhold e i s).lu.lastCollided = s.lu.lastCollided ∧
    (State.routeUnhold e i s).lu.armed = s.lu.armed ∧ (State.routeUnhold e i s).rdm = s.rdm ∧
    (State.routeUnhold e i s).out = s.out ∧ (State.routeUnhold e i s).pending = s.pending := by
  simp only [State.routeUnhold]
  (repeat' split) <;> simp

@[simp] theorem State.answerInspect_frame (s : State) (i : ElemInfo) (e : Element) (image : List Word)
    (changed : Bool) (place : Option (Table × Nat)) :
    (s.answerInspect i e image changed place).hp.address = s.hp.address ∧
    (s.answerInspect i e image changed place).hp.adapter = s.hp.adapter ∧
    (s.answerInspect i e image changed place).hp.maintaining = s.hp.maintaining ∧
    (s.answerInspect i e image changed place).hp.refusal = s.hp.refusal ∧
    (s.answerInspect i e image changed place).hp.events = s.hp.events ∧
    (s.answerInspect i e image changed place).hp.mask = s.hp.mask ∧
    (s.answerInspect i e image changed place).hp.progress = s.hp.progress ∧
    (s.answerInspect i e image changed place).hp.setup = s.hp.setup ∧
    (s.answerInspect i e image changed place).hp.current = s.hp.current ∧
    (s.answerInspect i e image changed place).hp.heldBack = s.hp.heldBack ∧
    (s.answerInspect i e image changed place).hp.tod = s.hp.tod ∧
    (s.answerInspect i e image changed place).chains = s.chains ∧
    (s.answerInspect i e image changed place).ec = s.ec ∧ (s.answerInspect i e image changed place).wq = s.wq ∧
    (s.answerInspect i e image changed place).te = s.te ∧ (s.answerInspect i e image changed place).hm = s.hm ∧
    (s.answerInspect i e image changed place).tm = s.tm ∧ (s.answerInspect i e image changed place).lu = s.lu ∧
    (s.answerInspect i e image changed place).rdm = s.rdm ∧ (s.answerInspect i e image changed place).out = s.out ∧
    (s.answerInspect i e image changed place).pending = s.pending := by
  simp only [State.answerInspect]
  simp

@[simp] theorem State.inspectDescriptor_frame (e : Element) (i : ElemInfo) (s : State) :
    (State.inspectDescriptor e i s).hp.address = s.hp.address ∧
    (State.inspectDescriptor e i s).hp.adapter = s.hp.adapter ∧
    (State.inspectDescriptor e i s).hp.maintaining = s.hp.maintaining ∧
    (State.inspectDescriptor e i s).hp.refusal = s.hp.refusal ∧
    (State.inspectDescriptor e i s).hp.events = s.hp.events ∧ (State.inspectDescriptor e i s).hp.mask = s.hp.mask ∧
    (State.inspectDescriptor e i s).hp.progress = s.hp.progress ∧
    (State.inspectDescriptor e i s).hp.setup = s.hp.setup ∧
    (State.inspectDescriptor e i s).hp.current = s.hp.current ∧
    (State.inspectDescriptor e i s).hp.heldBack = s.hp.heldBack ∧
    (State.inspectDescriptor e i s).hp.tod = s.hp.tod ∧ (State.inspectDescriptor e i s).chains = s.chains ∧
    (State.inspectDescriptor e i s).wq = s.wq ∧ (State.inspectDescriptor e i s).te = s.te ∧
    (State.inspectDescriptor e i s).hm = s.hm ∧ (State.inspectDescriptor e i s).tm = s.tm ∧
    (State.inspectDescriptor e i s).lu = s.lu ∧ (State.inspectDescriptor e i s).rdm = s.rdm ∧
    (State.inspectDescriptor e i s).out = s.out ∧ (State.inspectDescriptor e i s).pending = s.pending := by
  simp only [State.inspectDescriptor]
  (repeat' split) <;> simp

@[simp] theorem State.inspectLine_frame (e : Element) (i : ElemInfo) (s : State) :
    (State.inspectLine e i s).hp.address = s.hp.address ∧ (State.inspectLine e i s).hp.adapter = s.hp.adapter ∧
    (State.inspectLine e i s).hp.maintaining = s.hp.maintaining ∧
    (State.inspectLine e i s).hp.refusal = s.hp.refusal ∧ (State.inspectLine e i s).hp.events = s.hp.events ∧
    (State.inspectLine e i s).hp.mask = s.hp.mask ∧ (State.inspectLine e i s).hp.progress = s.hp.progress ∧
    (State.inspectLine e i s).hp.setup = s.hp.setup ∧ (State.inspectLine e i s).hp.current = s.hp.current ∧
    (State.inspectLine e i s).hp.heldBack = s.hp.heldBack ∧ (State.inspectLine e i s).hp.tod = s.hp.tod ∧
    (State.inspectLine e i s).chains = s.chains ∧ (State.inspectLine e i s).ec = s.ec ∧
    (State.inspectLine e i s).wq = s.wq ∧ (State.inspectLine e i s).te = s.te ∧
    (State.inspectLine e i s).hm = s.hm ∧ (State.inspectLine e i s).tm = s.tm ∧
    (State.inspectLine e i s).lu.station = s.lu.station ∧ (State.inspectLine e i s).lu.frames = s.lu.frames ∧
    (State.inspectLine e i s).lu.exchange = s.lu.exchange ∧
    (State.inspectLine e i s).lu.peerExchange = s.lu.peerExchange ∧
    (State.inspectLine e i s).lu.peerSeekFell = s.lu.peerSeekFell ∧
    (State.inspectLine e i s).lu.backoff = s.lu.backoff ∧
    (State.inspectLine e i s).lu.failedHeard = s.lu.failedHeard ∧
    (State.inspectLine e i s).lu.lastCollided = s.lu.lastCollided ∧ (State.inspectLine e i s).rdm = s.rdm ∧
    (State.inspectLine e i s).out = s.out ∧ (State.inspectLine e i s).pending = s.pending := by
  simp only [State.inspectLine]
  (repeat' split) <;> simp

@[simp] theorem State.inspectPosition_frame (e : Element) (i : ElemInfo) (s : State) :
    (State.inspectPosition e i s).hp.address = s.hp.address ∧
    (State.inspectPosition e i s).hp.adapter = s.hp.adapter ∧
    (State.inspectPosition e i s).hp.maintaining = s.hp.maintaining ∧
    (State.inspectPosition e i s).hp.refusal = s.hp.refusal ∧
    (State.inspectPosition e i s).hp.events = s.hp.events ∧ (State.inspectPosition e i s).hp.mask = s.hp.mask ∧
    (State.inspectPosition e i s).hp.progress = s.hp.progress ∧
    (State.inspectPosition e i s).hp.setup = s.hp.setup ∧ (State.inspectPosition e i s).hp.current = s.hp.current ∧
    (State.inspectPosition e i s).hp.heldBack = s.hp.heldBack ∧ (State.inspectPosition e i s).hp.tod = s.hp.tod ∧
    (State.inspectPosition e i s).chains = s.chains ∧ (State.inspectPosition e i s).ec = s.ec ∧
    (State.inspectPosition e i s).wq = s.wq ∧ (State.inspectPosition e i s).te = s.te ∧
    (State.inspectPosition e i s).hm = s.hm ∧ (State.inspectPosition e i s).tm.own = s.tm.own ∧
    (State.inspectPosition e i s).tm.peer = s.tm.peer ∧ (State.inspectPosition e i s).tm.cylinder = s.tm.cylinder ∧
    (State.inspectPosition e i s).tm.moving = s.tm.moving ∧
    (State.inspectPosition e i s).tm.presence = s.tm.presence ∧
    (State.inspectPosition e i s).tm.courtesy = s.tm.courtesy ∧
    (State.inspectPosition e i s).tm.preemptMark = s.tm.preemptMark ∧ (State.inspectPosition e i s).lu = s.lu ∧
    (State.inspectPosition e i s).rdm = s.rdm ∧ (State.inspectPosition e i s).out = s.out ∧
    (State.inspectPosition e i s).pending = s.pending := by
  simp only [State.inspectPosition]
  (repeat' split) <;> simp

@[simp] theorem State.routeSelect_frame (e : Element) (i : ElemInfo) (s : State) :
    (State.routeSelect e i s).hp.address = s.hp.address ∧ (State.routeSelect e i s).hp.adapter = s.hp.adapter ∧
    (State.routeSelect e i s).hp.maintaining = s.hp.maintaining ∧
    (State.routeSelect e i s).hp.refusal = s.hp.refusal ∧ (State.routeSelect e i s).hp.events = s.hp.events ∧
    (State.routeSelect e i s).hp.mask = s.hp.mask ∧ (State.routeSelect e i s).hp.progress = s.hp.progress ∧
    (State.routeSelect e i s).hp.setup = s.hp.setup ∧ (State.routeSelect e i s).hp.current = s.hp.current ∧
    (State.routeSelect e i s).hp.heldBack = s.hp.heldBack ∧ (State.routeSelect e i s).hp.tod = s.hp.tod ∧
    (State.routeSelect e i s).chains = s.chains ∧ (State.routeSelect e i s).ec = s.ec ∧
    (State.routeSelect e i s).wq = s.wq ∧ (State.routeSelect e i s).te = s.te ∧
    (State.routeSelect e i s).hm = s.hm ∧ (State.routeSelect e i s).tm = s.tm ∧
    (State.routeSelect e i s).lu = s.lu ∧ (State.routeSelect e i s).rdm = s.rdm ∧
    (State.routeSelect e i s).out = s.out ∧ (State.routeSelect e i s).pending = s.pending := by
  simp only [State.routeSelect]
  simp

@[simp] theorem State.routeClock_frame (e : Element) (i : ElemInfo) (s : State) :
    (State.routeClock e i s).hp.address = s.hp.address ∧ (State.routeClock e i s).hp.adapter = s.hp.adapter ∧
    (State.routeClock e i s).hp.maintaining = s.hp.maintaining ∧
    (State.routeClock e i s).hp.refusal = s.hp.refusal ∧ (State.routeClock e i s).hp.events = s.hp.events ∧
    (State.routeClock e i s).hp.mask = s.hp.mask ∧ (State.routeClock e i s).hp.progress = s.hp.progress ∧
    (State.routeClock e i s).hp.setup = s.hp.setup ∧ (State.routeClock e i s).hp.current = s.hp.current ∧
    (State.routeClock e i s).hp.heldBack = s.hp.heldBack ∧ (State.routeClock e i s).chains = s.chains ∧
    (State.routeClock e i s).ec = s.ec ∧ (State.routeClock e i s).wq = s.wq ∧ (State.routeClock e i s).te = s.te ∧
    (State.routeClock e i s).hm = s.hm ∧ (State.routeClock e i s).tm = s.tm ∧ (State.routeClock e i s).lu = s.lu ∧
    (State.routeClock e i s).rdm = s.rdm ∧ (State.routeClock e i s).out = s.out ∧
    (State.routeClock e i s).pending = s.pending := by
  simp only [State.routeClock]
  (repeat' split) <;> simp

@[simp] theorem State.waitMaintenance_frame (n : Fin 4) (s : State) (m : Fin 4) :
    (State.waitMaintenance n s m).hp.address = s.hp.address ∧
    (State.waitMaintenance n s m).hp.adapter = s.hp.adapter ∧
    (State.waitMaintenance n s m).hp.maintaining = s.hp.maintaining ∧
    (State.waitMaintenance n s m).hp.refusal = s.hp.refusal ∧
    (State.waitMaintenance n s m).hp.events = s.hp.events ∧ (State.waitMaintenance n s m).hp.mask = s.hp.mask ∧
    (State.waitMaintenance n s m).hp.progress = s.hp.progress ∧
    (State.waitMaintenance n s m).hp.setup = s.hp.setup ∧ (State.waitMaintenance n s m).hp.current = s.hp.current ∧
    (State.waitMaintenance n s m).hp.heldBack = s.hp.heldBack ∧ (State.waitMaintenance n s m).hp.tod = s.hp.tod ∧
    (State.waitMaintenance n s m).ec = s.ec ∧ (State.waitMaintenance n s m).wq = s.wq ∧
    (State.waitMaintenance n s m).te = s.te ∧ (State.waitMaintenance n s m).hm = s.hm ∧
    (State.waitMaintenance n s m).tm = s.tm ∧ (State.waitMaintenance n s m).lu = s.lu ∧
    (State.waitMaintenance n s m).rdm = s.rdm ∧ (State.waitMaintenance n s m).out = s.out ∧
    (State.waitMaintenance n s m).pending = s.pending := by
  simp only [State.waitMaintenance]
  (repeat' split) <;> simp

@[simp] theorem State.enterMaintenance_frame (s : State) (n : Fin 4) :
    (s.enterMaintenance n).hp.address = s.hp.address ∧ (s.enterMaintenance n).hp.refusal = s.hp.refusal ∧
    (s.enterMaintenance n).hp.events = s.hp.events ∧ (s.enterMaintenance n).hp.mask = s.hp.mask ∧
    (s.enterMaintenance n).hp.progress = s.hp.progress ∧ (s.enterMaintenance n).hp.setup = s.hp.setup ∧
    (s.enterMaintenance n).hp.current = s.hp.current ∧ (s.enterMaintenance n).hp.heldBack = s.hp.heldBack ∧
    (s.enterMaintenance n).hp.tod = s.hp.tod ∧ (s.enterMaintenance n).ec = s.ec ∧
    (s.enterMaintenance n).wq = s.wq ∧ (s.enterMaintenance n).te = s.te ∧ (s.enterMaintenance n).hm = s.hm ∧
    (s.enterMaintenance n).tm = s.tm ∧ (s.enterMaintenance n).lu = s.lu ∧ (s.enterMaintenance n).rdm = s.rdm ∧
    (s.enterMaintenance n).out = s.out ∧ (s.enterMaintenance n).pending = s.pending := by
  simp only [State.enterMaintenance]
  simp

@[simp] theorem State.routeMaintainOn_frame (i : ElemInfo) (s : State) :
    (State.routeMaintainOn i s).hp.address = s.hp.address ∧ (State.routeMaintainOn i s).hp.refusal = s.hp.refusal ∧
    (State.routeMaintainOn i s).hp.events = s.hp.events ∧ (State.routeMaintainOn i s).hp.mask = s.hp.mask ∧
    (State.routeMaintainOn i s).hp.progress = s.hp.progress ∧ (State.routeMaintainOn i s).hp.setup = s.hp.setup ∧
    (State.routeMaintainOn i s).hp.current = s.hp.current ∧
    (State.routeMaintainOn i s).hp.heldBack = s.hp.heldBack ∧ (State.routeMaintainOn i s).hp.tod = s.hp.tod ∧
    (State.routeMaintainOn i s).ec = s.ec ∧ (State.routeMaintainOn i s).wq = s.wq ∧
    (State.routeMaintainOn i s).te = s.te ∧ (State.routeMaintainOn i s).hm = s.hm ∧
    (State.routeMaintainOn i s).tm = s.tm ∧ (State.routeMaintainOn i s).lu = s.lu ∧
    (State.routeMaintainOn i s).rdm = s.rdm ∧ (State.routeMaintainOn i s).out = s.out ∧
    (State.routeMaintainOn i s).pending = s.pending := by
  simp only [State.routeMaintainOn]
  (repeat' split) <;> simp

@[simp] theorem State.routeMaintainOff_frame (i : ElemInfo) (s : State) :
    (State.routeMaintainOff i s).hp.address = s.hp.address ∧
    (State.routeMaintainOff i s).hp.refusal = s.hp.refusal ∧ (State.routeMaintainOff i s).hp.events = s.hp.events ∧
    (State.routeMaintainOff i s).hp.mask = s.hp.mask ∧ (State.routeMaintainOff i s).hp.progress = s.hp.progress ∧
    (State.routeMaintainOff i s).hp.setup = s.hp.setup ∧ (State.routeMaintainOff i s).hp.current = s.hp.current ∧
    (State.routeMaintainOff i s).hp.tod = s.hp.tod ∧ (State.routeMaintainOff i s).wq.nextId = s.wq.nextId ∧
    (State.routeMaintainOff i s).te.phase = s.te.phase ∧ (State.routeMaintainOff i s).te.request = s.te.request ∧
    (State.routeMaintainOff i s).te.sector = s.te.sector ∧ (State.routeMaintainOff i s).te.target = s.te.target ∧
    (State.routeMaintainOff i s).te.settle = s.te.settle ∧
    (State.routeMaintainOff i s).te.lastSlip = s.te.lastSlip ∧
    (State.routeMaintainOff i s).te.leadOpen = s.te.leadOpen ∧
    (State.routeMaintainOff i s).te.suspendAfter = s.te.suspendAfter ∧
    (State.routeMaintainOff i s).te.downAfter = s.te.downAfter ∧ (State.routeMaintainOff i s).te.bufA = s.te.bufA ∧
    (State.routeMaintainOff i s).te.bufB = s.te.bufB ∧ (State.routeMaintainOff i s).tm = s.tm ∧
    (State.routeMaintainOff i s).lu.station = s.lu.station ∧
    (State.routeMaintainOff i s).lu.exchange = s.lu.exchange ∧
    (State.routeMaintainOff i s).lu.peerExchange = s.lu.peerExchange ∧
    (State.routeMaintainOff i s).lu.peerSeekFell = s.lu.peerSeekFell ∧
    (State.routeMaintainOff i s).lu.backoff = s.lu.backoff ∧
    (State.routeMaintainOff i s).lu.failedHeard = s.lu.failedHeard ∧
    (State.routeMaintainOff i s).lu.collisionCount = s.lu.collisionCount ∧
    (State.routeMaintainOff i s).lu.lastCollided = s.lu.lastCollided ∧
    (State.routeMaintainOff i s).lu.armed = s.lu.armed ∧ (State.routeMaintainOff i s).rdm = s.rdm ∧
    (State.routeMaintainOff i s).out = s.out ∧ (State.routeMaintainOff i s).pending = s.pending := by
  simp only [State.routeMaintainOff]
  (repeat' split) <;> simp

@[simp] theorem State.takeUnexamined_frame (s : State) (i : ElemInfo) :
    (s.takeUnexamined i).hp.address = s.hp.address ∧ (s.takeUnexamined i).hp.adapter = s.hp.adapter ∧
    (s.takeUnexamined i).hp.maintaining = s.hp.maintaining ∧ (s.takeUnexamined i).hp.refusal = s.hp.refusal ∧
    (s.takeUnexamined i).hp.events = s.hp.events ∧ (s.takeUnexamined i).hp.mask = s.hp.mask ∧
    (s.takeUnexamined i).hp.progress = s.hp.progress ∧ (s.takeUnexamined i).hp.setup = s.hp.setup ∧
    (s.takeUnexamined i).hp.current = s.hp.current ∧ (s.takeUnexamined i).hp.heldBack = s.hp.heldBack ∧
    (s.takeUnexamined i).hp.tod = s.hp.tod ∧ (s.takeUnexamined i).chains = s.chains ∧
    (s.takeUnexamined i).ec = s.ec ∧ (s.takeUnexamined i).wq = s.wq ∧ (s.takeUnexamined i).te = s.te ∧
    (s.takeUnexamined i).hm = s.hm ∧ (s.takeUnexamined i).tm = s.tm ∧ (s.takeUnexamined i).lu = s.lu ∧
    (s.takeUnexamined i).rdm = s.rdm ∧ (s.takeUnexamined i).out = s.out ∧ (s.takeUnexamined i).pending = s.pending := by
  simp only [State.takeUnexamined]
  (repeat' split) <;> simp

@[simp] theorem State.takeIllegal_frame (s : State) (i : ElemInfo) :
    (s.takeIllegal i).hp.address = s.hp.address ∧ (s.takeIllegal i).hp.adapter = s.hp.adapter ∧
    (s.takeIllegal i).hp.maintaining = s.hp.maintaining ∧ (s.takeIllegal i).hp.refusal = s.hp.refusal ∧
    (s.takeIllegal i).hp.events = s.hp.events ∧ (s.takeIllegal i).hp.mask = s.hp.mask ∧
    (s.takeIllegal i).hp.progress = s.hp.progress ∧ (s.takeIllegal i).hp.setup = s.hp.setup ∧
    (s.takeIllegal i).hp.current = s.hp.current ∧ (s.takeIllegal i).hp.heldBack = s.hp.heldBack ∧
    (s.takeIllegal i).hp.tod = s.hp.tod ∧ (s.takeIllegal i).chains = s.chains ∧ (s.takeIllegal i).ec = s.ec ∧
    (s.takeIllegal i).wq = s.wq ∧ (s.takeIllegal i).te = s.te ∧ (s.takeIllegal i).hm = s.hm ∧
    (s.takeIllegal i).tm = s.tm ∧ (s.takeIllegal i).lu = s.lu ∧ (s.takeIllegal i).rdm = s.rdm ∧
    (s.takeIllegal i).out = s.out ∧ (s.takeIllegal i).pending = s.pending := by
  simp only [State.takeIllegal]
  (repeat' split) <;> simp

/-! The Line Unit (Section 6). -/

@[simp] theorem State.emitData_frame (s : State) (b : FrameBody) :
    (s.emitData b).hp = s.hp ∧ (s.emitData b).chains = s.chains ∧ (s.emitData b).ec = s.ec ∧
    (s.emitData b).wq = s.wq ∧ (s.emitData b).te = s.te ∧ (s.emitData b).hm = s.hm ∧ (s.emitData b).tm = s.tm ∧
    (s.emitData b).lu = s.lu ∧ (s.emitData b).rdm = s.rdm ∧ (s.emitData b).pending = s.pending := by
  simp only [State.emitData]
  (repeat' split) <;> simp

@[simp] theorem State.startRequest_frame (s : State) (r : Request) :
    (s.startRequest r).hp = s.hp ∧ (s.startRequest r).chains = s.chains ∧ (s.startRequest r).te = s.te ∧
    (s.startRequest r).hm = s.hm ∧ (s.startRequest r).tm = s.tm ∧ (s.startRequest r).lu = s.lu ∧
    (s.startRequest r).rdm = s.rdm ∧ (s.startRequest r).out = s.out ∧ (s.startRequest r).pending = s.pending := by
  simp only [State.startRequest]
  (repeat' split) <;> simp

@[simp] theorem State.reserveBuffer_frame (s : State) (r : Request) :
    (s.reserveBuffer r).hp = s.hp ∧ (s.reserveBuffer r).chains = s.chains ∧ (s.reserveBuffer r).ec = s.ec ∧
    (s.reserveBuffer r).wq = s.wq ∧ (s.reserveBuffer r).hm = s.hm ∧ (s.reserveBuffer r).tm = s.tm ∧
    (s.reserveBuffer r).lu = s.lu ∧ (s.reserveBuffer r).rdm = s.rdm ∧ (s.reserveBuffer r).out = s.out ∧
    (s.reserveBuffer r).pending = s.pending := by
  simp only [State.reserveBuffer]
  (repeat' split) <;> simp

@[simp] theorem State.orderBegins_frame (s : State) :
    s.orderBegins.hp = s.hp ∧ s.orderBegins.chains = s.chains ∧ s.orderBegins.hm = s.hm ∧ s.orderBegins.tm = s.tm ∧
    s.orderBegins.lu = s.lu ∧ s.orderBegins.rdm = s.rdm ∧ s.orderBegins.out = s.out ∧
    s.orderBegins.pending = s.pending := by
  simp only [State.orderBegins]
  (repeat' split) <;> simp

@[simp] theorem State.frameStarted_frame (s : State) (b : FrameBody) :
    (s.frameStarted b).hp = s.hp ∧ (s.frameStarted b).chains = s.chains ∧ (s.frameStarted b).tm.own = s.tm.own ∧
    (s.frameStarted b).tm.peer = s.tm.peer ∧ (s.frameStarted b).tm.cylinder = s.tm.cylinder ∧
    (s.frameStarted b).tm.moving = s.tm.moving ∧ (s.frameStarted b).tm.presence = s.tm.presence ∧
    (s.frameStarted b).tm.courtesy = s.tm.courtesy ∧ (s.frameStarted b).tm.peerSeeks = s.tm.peerSeeks ∧
    (s.frameStarted b).lu = s.lu ∧ (s.frameStarted b).rdm = s.rdm ∧ (s.frameStarted b).out = s.out ∧
    (s.frameStarted b).pending = s.pending := by
  simp only [State.frameStarted]
  (repeat' split) <;> simp

@[simp] theorem State.startFrame_frame (s : State) (i : Nat) (f : Frame) :
    (s.startFrame i f).hp = s.hp ∧ (s.startFrame i f).chains = s.chains ∧ (s.startFrame i f).tm.own = s.tm.own ∧
    (s.startFrame i f).tm.peer = s.tm.peer ∧ (s.startFrame i f).tm.cylinder = s.tm.cylinder ∧
    (s.startFrame i f).tm.moving = s.tm.moving ∧ (s.startFrame i f).tm.presence = s.tm.presence ∧
    (s.startFrame i f).tm.courtesy = s.tm.courtesy ∧ (s.startFrame i f).tm.peerSeeks = s.tm.peerSeeks ∧
    (s.startFrame i f).lu.station = s.lu.station ∧ (s.startFrame i f).lu.peerExchange = s.lu.peerExchange ∧
    (s.startFrame i f).lu.peerSeekFell = s.lu.peerSeekFell ∧
    (s.startFrame i f).lu.collisionCount = s.lu.collisionCount ∧
    (s.startFrame i f).lu.lastCollided = s.lu.lastCollided ∧ (s.startFrame i f).lu.armed = s.lu.armed ∧
    (s.startFrame i f).rdm = s.rdm ∧ (s.startFrame i f).pending = s.pending := by
  simp only [State.startFrame]
  (repeat' split) <;> simp

@[simp] theorem State.startChosen_frame (s : State) :
    s.startChosen.hp = s.hp ∧ s.startChosen.chains = s.chains ∧ s.startChosen.tm.own = s.tm.own ∧
    s.startChosen.tm.peer = s.tm.peer ∧ s.startChosen.tm.cylinder = s.tm.cylinder ∧
    s.startChosen.tm.moving = s.tm.moving ∧ s.startChosen.tm.presence = s.tm.presence ∧
    s.startChosen.tm.courtesy = s.tm.courtesy ∧ s.startChosen.tm.peerSeeks = s.tm.peerSeeks ∧
    s.startChosen.lu.station = s.lu.station ∧ s.startChosen.lu.peerExchange = s.lu.peerExchange ∧
    s.startChosen.lu.peerSeekFell = s.lu.peerSeekFell ∧ s.startChosen.lu.collisionCount = s.lu.collisionCount ∧
    s.startChosen.lu.lastCollided = s.lu.lastCollided ∧ s.startChosen.lu.armed = s.lu.armed ∧
    s.startChosen.rdm = s.rdm ∧ s.startChosen.pending = s.pending := by
  simp only [State.startChosen]
  (repeat' split) <;> simp

@[simp] theorem State.noticeUnanswered_frame (s : State) (b : FrameBody) :
    (s.noticeUnanswered b).hp.address = s.hp.address ∧ (s.noticeUnanswered b).hp.adapter = s.hp.adapter ∧
    (s.noticeUnanswered b).hp.maintaining = s.hp.maintaining ∧ (s.noticeUnanswered b).hp.refusal = s.hp.refusal ∧
    (s.noticeUnanswered b).hp.mask = s.hp.mask ∧ (s.noticeUnanswered b).hp.progress = s.hp.progress ∧
    (s.noticeUnanswered b).hp.setup = s.hp.setup ∧ (s.noticeUnanswered b).hp.current = s.hp.current ∧
    (s.noticeUnanswered b).hp.tod = s.hp.tod ∧ (s.noticeUnanswered b).chains = s.chains ∧
    (s.noticeUnanswered b).tm.peer = s.tm.peer ∧ (s.noticeUnanswered b).tm.cylinder = s.tm.cylinder ∧
    (s.noticeUnanswered b).tm.moving = s.tm.moving ∧ (s.noticeUnanswered b).tm.preemptMark = s.tm.preemptMark ∧
    (s.noticeUnanswered b).tm.peerSeeks = s.tm.peerSeeks ∧ (s.noticeUnanswered b).rdm = s.rdm ∧
    (s.noticeUnanswered b).out = s.out ∧ (s.noticeUnanswered b).pending = s.pending := by
  simp only [State.noticeUnanswered]
  (repeat' split) <;> simp

@[simp] theorem State.noticeSilence_frame (s : State) (f : Frame) :
    (s.noticeSilence f).hp.address = s.hp.address ∧ (s.noticeSilence f).hp.adapter = s.hp.adapter ∧
    (s.noticeSilence f).hp.maintaining = s.hp.maintaining ∧ (s.noticeSilence f).hp.refusal = s.hp.refusal ∧
    (s.noticeSilence f).hp.mask = s.hp.mask ∧ (s.noticeSilence f).hp.progress = s.hp.progress ∧
    (s.noticeSilence f).hp.setup = s.hp.setup ∧ (s.noticeSilence f).hp.current = s.hp.current ∧
    (s.noticeSilence f).hp.tod = s.hp.tod ∧ (s.noticeSilence f).chains = s.chains ∧
    (s.noticeSilence f).tm.peer = s.tm.peer ∧ (s.noticeSilence f).tm.cylinder = s.tm.cylinder ∧
    (s.noticeSilence f).tm.moving = s.tm.moving ∧ (s.noticeSilence f).tm.preemptMark = s.tm.preemptMark ∧
    (s.noticeSilence f).tm.peerSeeks = s.tm.peerSeeks ∧ (s.noticeSilence f).rdm = s.rdm ∧
    (s.noticeSilence f).out = s.out ∧ (s.noticeSilence f).pending = s.pending := by
  simp only [State.noticeSilence]
  (repeat' split) <;> simp

@[simp] theorem State.releaseGone_frame (s : State) (reset : Bool) :
    (s.releaseGone reset).hp = s.hp ∧ (s.releaseGone reset).chains = s.chains ∧ (s.releaseGone reset).ec = s.ec ∧
    (s.releaseGone reset).wq = s.wq ∧ (s.releaseGone reset).te = s.te ∧ (s.releaseGone reset).hm = s.hm ∧
    (s.releaseGone reset).tm.peer = s.tm.peer ∧ (s.releaseGone reset).tm.cylinder = s.tm.cylinder ∧
    (s.releaseGone reset).tm.moving = s.tm.moving ∧ (s.releaseGone reset).tm.presence = s.tm.presence ∧
    (s.releaseGone reset).tm.preemptMark = s.tm.preemptMark ∧ (s.releaseGone reset).tm.peerSeeks = s.tm.peerSeeks ∧
    (s.releaseGone reset).lu = s.lu ∧ (s.releaseGone reset).rdm = s.rdm ∧ (s.releaseGone reset).out = s.out ∧
    (s.releaseGone reset).pending = s.pending := by
  simp only [State.releaseGone]
  (repeat' split) <;> simp

@[simp] theorem State.abandonFrame_frame (s : State) (f : Frame) :
    (s.abandonFrame f).hp.address = s.hp.address ∧ (s.abandonFrame f).hp.adapter = s.hp.adapter ∧
    (s.abandonFrame f).hp.maintaining = s.hp.maintaining ∧ (s.abandonFrame f).hp.refusal = s.hp.refusal ∧
    (s.abandonFrame f).hp.mask = s.hp.mask ∧ (s.abandonFrame f).hp.progress = s.hp.progress ∧
    (s.abandonFrame f).hp.setup = s.hp.setup ∧ (s.abandonFrame f).hp.current = s.hp.current ∧
    (s.abandonFrame f).hp.tod = s.hp.tod ∧ (s.abandonFrame f).chains = s.chains ∧
    (s.abandonFrame f).tm.peer = s.tm.peer ∧ (s.abandonFrame f).tm.cylinder = s.tm.cylinder ∧
    (s.abandonFrame f).tm.moving = s.tm.moving ∧ (s.abandonFrame f).tm.preemptMark = s.tm.preemptMark ∧
    (s.abandonFrame f).tm.peerSeeks = s.tm.peerSeeks ∧ (s.abandonFrame f).rdm = s.rdm ∧
    (s.abandonFrame f).out = s.out ∧ (s.abandonFrame f).pending = s.pending := by
  simp only [State.abandonFrame]
  (repeat' split) <;> simp

@[simp] theorem State.collide_frame (s : State) (i : Nat) (f : Frame) :
    (s.collide i f).hp.address = s.hp.address ∧ (s.collide i f).hp.adapter = s.hp.adapter ∧
    (s.collide i f).hp.maintaining = s.hp.maintaining ∧ (s.collide i f).hp.refusal = s.hp.refusal ∧
    (s.collide i f).hp.mask = s.hp.mask ∧ (s.collide i f).hp.progress = s.hp.progress ∧
    (s.collide i f).hp.setup = s.hp.setup ∧ (s.collide i f).hp.current = s.hp.current ∧
    (s.collide i f).hp.tod = s.hp.tod ∧ (s.collide i f).chains = s.chains ∧ (s.collide i f).tm.peer = s.tm.peer ∧
    (s.collide i f).tm.cylinder = s.tm.cylinder ∧ (s.collide i f).tm.moving = s.tm.moving ∧
    (s.collide i f).tm.preemptMark = s.tm.preemptMark ∧ (s.collide i f).tm.peerSeeks = s.tm.peerSeeks ∧
    (s.collide i f).rdm = s.rdm ∧ (s.collide i f).out = s.out ∧ (s.collide i f).pending = s.pending := by
  simp only [State.collide]
  (repeat' split) <;> simp

@[simp] theorem State.noticeSilent_frame (s : State) (x : Exchange) :
    (s.noticeSilent x).hp.address = s.hp.address ∧ (s.noticeSilent x).hp.adapter = s.hp.adapter ∧
    (s.noticeSilent x).hp.maintaining = s.hp.maintaining ∧ (s.noticeSilent x).hp.refusal = s.hp.refusal ∧
    (s.noticeSilent x).hp.mask = s.hp.mask ∧ (s.noticeSilent x).hp.progress = s.hp.progress ∧
    (s.noticeSilent x).hp.setup = s.hp.setup ∧ (s.noticeSilent x).hp.current = s.hp.current ∧
    (s.noticeSilent x).hp.tod = s.hp.tod ∧ (s.noticeSilent x).chains = s.chains ∧
    (s.noticeSilent x).tm.peer = s.tm.peer ∧ (s.noticeSilent x).tm.cylinder = s.tm.cylinder ∧
    (s.noticeSilent x).tm.moving = s.tm.moving ∧ (s.noticeSilent x).tm.preemptMark = s.tm.preemptMark ∧
    (s.noticeSilent x).tm.peerSeeks = s.tm.peerSeeks ∧ (s.noticeSilent x).rdm = s.rdm ∧
    (s.noticeSilent x).out = s.out ∧ (s.noticeSilent x).pending = s.pending := by
  simp only [State.noticeSilent]
  (repeat' split) <;> simp

@[simp] theorem State.exchangeSilent_frame (s : State) (x : Exchange) :
    (s.exchangeSilent x).hp.address = s.hp.address ∧ (s.exchangeSilent x).hp.adapter = s.hp.adapter ∧
    (s.exchangeSilent x).hp.maintaining = s.hp.maintaining ∧ (s.exchangeSilent x).hp.refusal = s.hp.refusal ∧
    (s.exchangeSilent x).hp.mask = s.hp.mask ∧ (s.exchangeSilent x).hp.progress = s.hp.progress ∧
    (s.exchangeSilent x).hp.setup = s.hp.setup ∧ (s.exchangeSilent x).hp.current = s.hp.current ∧
    (s.exchangeSilent x).hp.tod = s.hp.tod ∧ (s.exchangeSilent x).chains = s.chains ∧
    (s.exchangeSilent x).tm.peer = s.tm.peer ∧ (s.exchangeSilent x).tm.preemptMark = s.tm.preemptMark ∧
    (s.exchangeSilent x).tm.peerSeeks = s.tm.peerSeeks ∧ (s.exchangeSilent x).out = s.out ∧
    (s.exchangeSilent x).pending = s.pending := by
  simp only [State.exchangeSilent]
  (repeat' split) <;> simp

@[simp] theorem State.peerBegins_frame (s : State) :
    s.peerBegins.hp = s.hp ∧ s.peerBegins.chains = s.chains ∧ s.peerBegins.ec = s.ec ∧ s.peerBegins.wq = s.wq ∧
    s.peerBegins.te = s.te ∧ s.peerBegins.hm = s.hm ∧ s.peerBegins.tm = s.tm ∧
    s.peerBegins.lu.station = s.lu.station ∧ s.peerBegins.lu.frames = s.lu.frames ∧
    s.peerBegins.lu.exchange = s.lu.exchange ∧ s.peerBegins.lu.peerExchange = s.lu.peerExchange ∧
    s.peerBegins.lu.peerSeekFell = s.lu.peerSeekFell ∧ s.peerBegins.lu.failedHeard = s.lu.failedHeard ∧
    s.peerBegins.lu.collisionCount = s.lu.collisionCount ∧ s.peerBegins.lu.lastCollided = s.lu.lastCollided ∧
    s.peerBegins.lu.armed = s.lu.armed ∧ s.peerBegins.rdm = s.rdm ∧ s.peerBegins.out = s.out ∧
    s.peerBegins.pending = s.pending := by
  simp only [State.peerBegins]
  simp

@[simp] theorem State.peerStands_frame (s : State) (o : Option PeerOrder) :
    (s.peerStands o).hp = s.hp ∧ (s.peerStands o).chains = s.chains ∧ (s.peerStands o).ec = s.ec ∧
    (s.peerStands o).wq = s.wq ∧ (s.peerStands o).te = s.te ∧ (s.peerStands o).hm = s.hm ∧
    (s.peerStands o).tm = s.tm ∧ (s.peerStands o).lu.station = s.lu.station ∧
    (s.peerStands o).lu.frames = s.lu.frames ∧ (s.peerStands o).lu.exchange = s.lu.exchange ∧
    (s.peerStands o).lu.peerSeekFell = s.lu.peerSeekFell ∧ (s.peerStands o).lu.backoff = s.lu.backoff ∧
    (s.peerStands o).lu.failedHeard = s.lu.failedHeard ∧ (s.peerStands o).lu.collisionCount = s.lu.collisionCount ∧
    (s.peerStands o).lu.lastCollided = s.lu.lastCollided ∧ (s.peerStands o).lu.armed = s.lu.armed ∧
    (s.peerStands o).rdm = s.rdm ∧ (s.peerStands o).out = s.out ∧ (s.peerStands o).pending = s.pending := by
  simp only [State.peerStands]
  simp

@[simp] theorem State.peerHeard_frame (s : State) :
    s.peerHeard.hp.address = s.hp.address ∧ s.peerHeard.hp.adapter = s.hp.adapter ∧
    s.peerHeard.hp.maintaining = s.hp.maintaining ∧ s.peerHeard.hp.refusal = s.hp.refusal ∧
    s.peerHeard.hp.mask = s.hp.mask ∧ s.peerHeard.hp.progress = s.hp.progress ∧ s.peerHeard.hp.setup = s.hp.setup ∧
    s.peerHeard.hp.waiting = s.hp.waiting ∧ s.peerHeard.hp.current = s.hp.current ∧
    s.peerHeard.hp.heldBack = s.hp.heldBack ∧ s.peerHeard.hp.tod = s.hp.tod ∧ s.peerHeard.chains = s.chains ∧
    s.peerHeard.ec = s.ec ∧ s.peerHeard.wq = s.wq ∧ s.peerHeard.te = s.te ∧ s.peerHeard.hm = s.hm ∧
    s.peerHeard.tm.own = s.tm.own ∧ s.peerHeard.tm.peer = s.tm.peer ∧ s.peerHeard.tm.cylinder = s.tm.cylinder ∧
    s.peerHeard.tm.moving = s.tm.moving ∧ s.peerHeard.tm.preemptMark = s.tm.preemptMark ∧
    s.peerHeard.tm.peerSeeks = s.tm.peerSeeks ∧ s.peerHeard.lu.station = s.lu.station ∧
    s.peerHeard.lu.exchange = s.lu.exchange ∧ s.peerHeard.lu.peerExchange = s.lu.peerExchange ∧
    s.peerHeard.lu.peerSeekFell = s.lu.peerSeekFell ∧ s.peerHeard.lu.backoff = s.lu.backoff ∧
    s.peerHeard.lu.failedHeard = s.lu.failedHeard ∧ s.peerHeard.lu.collisionCount = s.lu.collisionCount ∧
    s.peerHeard.lu.lastCollided = s.lu.lastCollided ∧ s.peerHeard.lu.armed = s.lu.armed ∧ s.peerHeard.rdm = s.rdm ∧
    s.peerHeard.out = s.out ∧ s.peerHeard.pending = s.pending := by
  simp only [State.peerHeard]
  (repeat' split) <;> simp

@[simp] theorem State.spoilNotice_frame (s : State) :
    s.spoilNotice.hp.address = s.hp.address ∧ s.spoilNotice.hp.adapter = s.hp.adapter ∧
    s.spoilNotice.hp.maintaining = s.hp.maintaining ∧ s.spoilNotice.hp.refusal = s.hp.refusal ∧
    s.spoilNotice.hp.mask = s.hp.mask ∧ s.spoilNotice.hp.progress = s.hp.progress ∧
    s.spoilNotice.hp.setup = s.hp.setup ∧ s.spoilNotice.hp.current = s.hp.current ∧
    s.spoilNotice.hp.tod = s.hp.tod ∧ s.spoilNotice.chains = s.chains ∧ s.spoilNotice.tm.peer = s.tm.peer ∧
    s.spoilNotice.tm.cylinder = s.tm.cylinder ∧ s.spoilNotice.tm.moving = s.tm.moving ∧
    s.spoilNotice.tm.preemptMark = s.tm.preemptMark ∧ s.spoilNotice.tm.peerSeeks = s.tm.peerSeeks ∧
    s.spoilNotice.rdm = s.rdm ∧ s.spoilNotice.out = s.out ∧ s.spoilNotice.pending = s.pending := by
  simp only [State.spoilNotice]
  (repeat' split) <;> simp

@[simp] theorem State.answer_frame (s : State) (a : AdapterAnswer) :
    (s.answer a).hp = s.hp ∧ (s.answer a).chains = s.chains ∧ (s.answer a).ec = s.ec ∧ (s.answer a).wq = s.wq ∧
    (s.answer a).te = s.te ∧ (s.answer a).hm = s.hm ∧ (s.answer a).tm = s.tm ∧ (s.answer a).lu = s.lu ∧
    (s.answer a).rdm = s.rdm ∧ (s.answer a).pending = s.pending := by
  simp only [State.answer]
  simp

/-! Rotation and drive state (Sections 1, 9). -/

@[simp] theorem State.expire_frame (s : State) (waited : Bool) (id : Nat) :
    (s.expire waited id).hp.address = s.hp.address ∧ (s.expire waited id).hp.adapter = s.hp.adapter ∧
    (s.expire waited id).hp.maintaining = s.hp.maintaining ∧ (s.expire waited id).hp.refusal = s.hp.refusal ∧
    (s.expire waited id).hp.events = s.hp.events ∧ (s.expire waited id).hp.mask = s.hp.mask ∧
    (s.expire waited id).hp.progress = s.hp.progress ∧ (s.expire waited id).hp.setup = s.hp.setup ∧
    (s.expire waited id).hp.current = s.hp.current ∧ (s.expire waited id).hp.tod = s.hp.tod ∧
    (s.expire waited id).chains = s.chains ∧ (s.expire waited id).tm = s.tm ∧
    (s.expire waited id).lu.station = s.lu.station ∧ (s.expire waited id).lu.exchange = s.lu.exchange ∧
    (s.expire waited id).lu.peerExchange = s.lu.peerExchange ∧
    (s.expire waited id).lu.peerSeekFell = s.lu.peerSeekFell ∧ (s.expire waited id).lu.backoff = s.lu.backoff ∧
    (s.expire waited id).lu.failedHeard = s.lu.failedHeard ∧
    (s.expire waited id).lu.collisionCount = s.lu.collisionCount ∧
    (s.expire waited id).lu.lastCollided = s.lu.lastCollided ∧ (s.expire waited id).lu.armed = s.lu.armed ∧
    (s.expire waited id).rdm = s.rdm ∧ (s.expire waited id).out = s.out ∧ (s.expire waited id).pending = s.pending := by
  simp only [State.expire]
  (repeat' split) <;> simp

@[simp] theorem State.engineSlot_frame (s : State) :
    s.engineSlot.hp.address = s.hp.address ∧ s.engineSlot.hp.adapter = s.hp.adapter ∧
    s.engineSlot.hp.maintaining = s.hp.maintaining ∧ s.engineSlot.hp.refusal = s.hp.refusal ∧
    s.engineSlot.hp.events = s.hp.events ∧ s.engineSlot.hp.mask = s.hp.mask ∧
    s.engineSlot.hp.progress = s.hp.progress ∧ s.engineSlot.hp.setup = s.hp.setup ∧
    s.engineSlot.hp.current = s.hp.current ∧ s.engineSlot.hp.tod = s.hp.tod ∧ s.engineSlot.chains = s.chains ∧
    s.engineSlot.tm.peer = s.tm.peer ∧ s.engineSlot.tm.cylinder = s.tm.cylinder ∧
    s.engineSlot.tm.moving = s.tm.moving ∧ s.engineSlot.tm.presence = s.tm.presence ∧
    s.engineSlot.tm.courtesy = s.tm.courtesy ∧ s.engineSlot.tm.preemptMark = s.tm.preemptMark ∧
    s.engineSlot.tm.peerSeeks = s.tm.peerSeeks ∧ s.engineSlot.rdm = s.rdm ∧ s.engineSlot.out = s.out ∧
    s.engineSlot.pending = s.pending := by
  simp only [State.engineSlot]
  (repeat' split) <;> simp

@[simp] theorem State.leadSlotBegins_frame (s : State) :
    s.leadSlotBegins.hp = s.hp ∧ s.leadSlotBegins.chains = s.chains ∧ s.leadSlotBegins.ec = s.ec ∧
    s.leadSlotBegins.wq = s.wq ∧ s.leadSlotBegins.te.phase = s.te.phase ∧
    s.leadSlotBegins.te.request = s.te.request ∧ s.leadSlotBegins.te.sector = s.te.sector ∧
    s.leadSlotBegins.te.target = s.te.target ∧ s.leadSlotBegins.te.settle = s.te.settle ∧
    s.leadSlotBegins.te.lastSlip = s.te.lastSlip ∧ s.leadSlotBegins.te.suspendAfter = s.te.suspendAfter ∧
    s.leadSlotBegins.te.downAfter = s.te.downAfter ∧ s.leadSlotBegins.te.maintenanceOver = s.te.maintenanceOver ∧
    s.leadSlotBegins.te.bufA = s.te.bufA ∧ s.leadSlotBegins.te.bufB = s.te.bufB ∧ s.leadSlotBegins.hm = s.hm ∧
    s.leadSlotBegins.tm = s.tm ∧ s.leadSlotBegins.lu.station = s.lu.station ∧
    s.leadSlotBegins.lu.exchange = s.lu.exchange ∧ s.leadSlotBegins.lu.peerExchange = s.lu.peerExchange ∧
    s.leadSlotBegins.lu.peerSeekFell = s.lu.peerSeekFell ∧ s.leadSlotBegins.lu.backoff = s.lu.backoff ∧
    s.leadSlotBegins.lu.failedHeard = s.lu.failedHeard ∧ s.leadSlotBegins.lu.collisionCount = s.lu.collisionCount ∧
    s.leadSlotBegins.lu.lastCollided = s.lu.lastCollided ∧ s.leadSlotBegins.lu.armed = s.lu.armed ∧
    s.leadSlotBegins.rdm = s.rdm ∧ s.leadSlotBegins.out = s.out ∧ s.leadSlotBegins.pending = s.pending := by
  simp only [State.leadSlotBegins]
  (repeat' split) <;> simp

@[simp] theorem State.orderBeforeExpiry_frame (s : State) (line : LineTime) :
    (s.orderBeforeExpiry line).hp = s.hp ∧ (s.orderBeforeExpiry line).chains = s.chains ∧
    (s.orderBeforeExpiry line).tm.own = s.tm.own ∧ (s.orderBeforeExpiry line).tm.peer = s.tm.peer ∧
    (s.orderBeforeExpiry line).tm.cylinder = s.tm.cylinder ∧ (s.orderBeforeExpiry line).tm.moving = s.tm.moving ∧
    (s.orderBeforeExpiry line).tm.presence = s.tm.presence ∧
    (s.orderBeforeExpiry line).tm.courtesy = s.tm.courtesy ∧
    (s.orderBeforeExpiry line).tm.peerSeeks = s.tm.peerSeeks ∧
    (s.orderBeforeExpiry line).lu.station = s.lu.station ∧
    (s.orderBeforeExpiry line).lu.peerExchange = s.lu.peerExchange ∧
    (s.orderBeforeExpiry line).lu.peerSeekFell = s.lu.peerSeekFell ∧
    (s.orderBeforeExpiry line).lu.collisionCount = s.lu.collisionCount ∧
    (s.orderBeforeExpiry line).lu.lastCollided = s.lu.lastCollided ∧
    (s.orderBeforeExpiry line).lu.armed = s.lu.armed ∧ (s.orderBeforeExpiry line).rdm = s.rdm ∧
    (s.orderBeforeExpiry line).pending = s.pending := by
  simp only [State.orderBeforeExpiry]
  (repeat' split) <;> simp

@[simp] theorem State.queueSlot_frame (s : State) :
    s.queueSlot.hp.address = s.hp.address ∧ s.queueSlot.hp.adapter = s.hp.adapter ∧
    s.queueSlot.hp.maintaining = s.hp.maintaining ∧ s.queueSlot.hp.refusal = s.hp.refusal ∧
    s.queueSlot.hp.events = s.hp.events ∧ s.queueSlot.hp.mask = s.hp.mask ∧
    s.queueSlot.hp.progress = s.hp.progress ∧ s.queueSlot.hp.setup = s.hp.setup ∧
    s.queueSlot.hp.current = s.hp.current ∧ s.queueSlot.hp.tod = s.hp.tod ∧ s.queueSlot.chains = s.chains ∧
    s.queueSlot.tm.peer = s.tm.peer ∧ s.queueSlot.tm.cylinder = s.tm.cylinder ∧
    s.queueSlot.tm.moving = s.tm.moving ∧ s.queueSlot.tm.presence = s.tm.presence ∧
    s.queueSlot.tm.courtesy = s.tm.courtesy ∧ s.queueSlot.tm.preemptMark = s.tm.preemptMark ∧
    s.queueSlot.tm.peerSeeks = s.tm.peerSeeks ∧ s.queueSlot.rdm = s.rdm ∧ s.queueSlot.out = s.out ∧
    s.queueSlot.pending = s.pending := by
  simp only [State.queueSlot]
  simp

@[simp] theorem State.slotEvent_frame (s : State) (synthetic : Bool) (orderFirst : Option LineTime) :
    (s.slotEvent synthetic orderFirst).hp.address = s.hp.address ∧
    (s.slotEvent synthetic orderFirst).hp.adapter = s.hp.adapter ∧
    (s.slotEvent synthetic orderFirst).hp.maintaining = s.hp.maintaining ∧
    (s.slotEvent synthetic orderFirst).hp.refusal = s.hp.refusal ∧
    (s.slotEvent synthetic orderFirst).hp.events = s.hp.events ∧
    (s.slotEvent synthetic orderFirst).hp.mask = s.hp.mask ∧
    (s.slotEvent synthetic orderFirst).hp.progress = s.hp.progress ∧
    (s.slotEvent synthetic orderFirst).hp.setup = s.hp.setup ∧
    (s.slotEvent synthetic orderFirst).hp.current = s.hp.current ∧
    (s.slotEvent synthetic orderFirst).hp.tod = s.hp.tod.pass ∧ (s.slotEvent synthetic orderFirst).chains = s.chains ∧
    (s.slotEvent synthetic orderFirst).tm.peer = s.tm.peer ∧
    (s.slotEvent synthetic orderFirst).tm.cylinder = s.tm.cylinder ∧
    (s.slotEvent synthetic orderFirst).tm.moving = s.tm.moving ∧
    (s.slotEvent synthetic orderFirst).tm.presence = s.tm.presence ∧
    (s.slotEvent synthetic orderFirst).tm.courtesy = s.tm.courtesy ∧
    (s.slotEvent synthetic orderFirst).tm.peerSeeks = s.tm.peerSeeks ∧
    (s.slotEvent synthetic orderFirst).rdm.counter = s.rdm.counter ∧
    (s.slotEvent synthetic orderFirst).rdm.timer = s.rdm.timer ∧
    (s.slotEvent synthetic orderFirst).rdm.synthRun = s.rdm.synthRun ∧
    (s.slotEvent synthetic orderFirst).rdm.revCount = s.rdm.revCount ∧
    (s.slotEvent synthetic orderFirst).rdm.lateLeft = s.rdm.lateLeft ∧
    (s.slotEvent synthetic orderFirst).rdm.lateSubstitute = s.rdm.lateSubstitute ∧
    (s.slotEvent synthetic orderFirst).rdm.ready = s.rdm.ready ∧
    (s.slotEvent synthetic orderFirst).rdm.onCylinder = s.rdm.onCylinder ∧
    (s.slotEvent synthetic orderFirst).rdm.drive = s.rdm.drive ∧
    (s.slotEvent synthetic orderFirst).rdm.recovery = s.rdm.recovery ∧
    (s.slotEvent synthetic orderFirst).rdm.resync = s.rdm.resync ∧
    (s.slotEvent synthetic orderFirst).rdm.silence = s.rdm.silence ∧
    (s.slotEvent synthetic orderFirst).pending = s.pending := by
  simp only [State.slotEvent]
  (repeat' split) <;> simp

@[simp] theorem State.ownRevolution_frame (s : State) :
    s.ownRevolution.hp.address = s.hp.address ∧ s.ownRevolution.hp.adapter = s.hp.adapter ∧
    s.ownRevolution.hp.maintaining = s.hp.maintaining ∧ s.ownRevolution.hp.refusal = s.hp.refusal ∧
    s.ownRevolution.hp.events = s.hp.events ∧ s.ownRevolution.hp.mask = s.hp.mask ∧
    s.ownRevolution.hp.progress = s.hp.progress ∧ s.ownRevolution.hp.setup = s.hp.setup ∧
    s.ownRevolution.hp.current = s.hp.current ∧ s.ownRevolution.hp.tod = s.hp.tod ∧
    s.ownRevolution.chains = s.chains ∧ s.ownRevolution.tm.peer = s.tm.peer ∧
    s.ownRevolution.tm.cylinder = s.tm.cylinder ∧ s.ownRevolution.tm.moving = s.tm.moving ∧
    s.ownRevolution.tm.presence = s.tm.presence ∧ s.ownRevolution.tm.courtesy = s.tm.courtesy ∧
    s.ownRevolution.tm.preemptMark = s.tm.preemptMark ∧ s.ownRevolution.tm.peerSeeks = s.tm.peerSeeks ∧
    s.ownRevolution.lu.station = s.lu.station ∧ s.ownRevolution.lu.exchange = s.lu.exchange ∧
    s.ownRevolution.lu.peerExchange = s.lu.peerExchange ∧ s.ownRevolution.lu.peerSeekFell = s.lu.peerSeekFell ∧
    s.ownRevolution.lu.backoff = s.lu.backoff ∧ s.ownRevolution.lu.failedHeard = s.lu.failedHeard ∧
    s.ownRevolution.lu.collisionCount = s.lu.collisionCount ∧ s.ownRevolution.lu.lastCollided = s.lu.lastCollided ∧
    s.ownRevolution.lu.armed = s.lu.armed ∧ s.ownRevolution.rdm = s.rdm ∧ s.ownRevolution.out = s.out ∧
    s.ownRevolution.pending = s.pending := by
  simp only [State.ownRevolution]
  (repeat' split) <;> simp

@[simp] theorem State.peerRevolution_frame (s : State) :
    s.peerRevolution.hp = s.hp ∧ s.peerRevolution.chains = s.chains ∧ s.peerRevolution.ec = s.ec ∧
    s.peerRevolution.wq.nextId = s.wq.nextId ∧ s.peerRevolution.te = s.te ∧ s.peerRevolution.hm = s.hm ∧
    s.peerRevolution.tm.own = s.tm.own ∧ s.peerRevolution.tm.cylinder = s.tm.cylinder ∧
    s.peerRevolution.tm.moving = s.tm.moving ∧ s.peerRevolution.tm.presence = s.tm.presence ∧
    s.peerRevolution.tm.courtesy = s.tm.courtesy ∧ s.peerRevolution.tm.peerSeeks = s.tm.peerSeeks ∧
    s.peerRevolution.lu.station = s.lu.station ∧ s.peerRevolution.lu.exchange = s.lu.exchange ∧
    s.peerRevolution.lu.peerExchange = s.lu.peerExchange ∧ s.peerRevolution.lu.peerSeekFell = s.lu.peerSeekFell ∧
    s.peerRevolution.lu.backoff = s.lu.backoff ∧ s.peerRevolution.lu.failedHeard = s.lu.failedHeard ∧
    s.peerRevolution.lu.collisionCount = s.lu.collisionCount ∧
    s.peerRevolution.lu.lastCollided = s.lu.lastCollided ∧ s.peerRevolution.lu.armed = s.lu.armed ∧
    s.peerRevolution.rdm = s.rdm ∧ s.peerRevolution.out = s.out ∧ s.peerRevolution.pending = s.pending := by
  simp only [State.peerRevolution]
  (repeat' split) <;> simp

@[simp] theorem State.revolutionEvent_frame (s : State) :
    s.revolutionEvent.hp.address = s.hp.address ∧ s.revolutionEvent.hp.adapter = s.hp.adapter ∧
    s.revolutionEvent.hp.maintaining = s.hp.maintaining ∧ s.revolutionEvent.hp.refusal = s.hp.refusal ∧
    s.revolutionEvent.hp.events = s.hp.events ∧ s.revolutionEvent.hp.mask = s.hp.mask ∧
    s.revolutionEvent.hp.progress = s.hp.progress ∧ s.revolutionEvent.hp.setup = s.hp.setup ∧
    s.revolutionEvent.hp.current = s.hp.current ∧ s.revolutionEvent.hp.tod = s.hp.tod ∧
    s.revolutionEvent.chains = s.chains ∧ s.revolutionEvent.tm.cylinder = s.tm.cylinder ∧
    s.revolutionEvent.tm.moving = s.tm.moving ∧ s.revolutionEvent.tm.presence = s.tm.presence ∧
    s.revolutionEvent.tm.peerSeeks = s.tm.peerSeeks ∧ s.revolutionEvent.lu.station = s.lu.station ∧
    s.revolutionEvent.lu.exchange = s.lu.exchange ∧ s.revolutionEvent.lu.peerExchange = s.lu.peerExchange ∧
    s.revolutionEvent.lu.peerSeekFell = s.lu.peerSeekFell ∧ s.revolutionEvent.lu.backoff = s.lu.backoff ∧
    s.revolutionEvent.lu.failedHeard = s.lu.failedHeard ∧
    s.revolutionEvent.lu.collisionCount = s.lu.collisionCount ∧
    s.revolutionEvent.lu.lastCollided = s.lu.lastCollided ∧ s.revolutionEvent.lu.armed = s.lu.armed ∧
    s.revolutionEvent.out = s.out ∧ s.revolutionEvent.pending = s.pending := by
  simp only [State.revolutionEvent]
  simp

@[simp] theorem State.driveUp_frame (s : State) :
    s.driveUp.hp.address = s.hp.address ∧ s.driveUp.hp.adapter = s.hp.adapter ∧
    s.driveUp.hp.maintaining = s.hp.maintaining ∧ s.driveUp.hp.refusal = s.hp.refusal ∧
    s.driveUp.hp.mask = s.hp.mask ∧ s.driveUp.hp.progress = s.hp.progress ∧ s.driveUp.hp.setup = s.hp.setup ∧
    s.driveUp.hp.waiting = s.hp.waiting ∧ s.driveUp.hp.current = s.hp.current ∧
    s.driveUp.hp.heldBack = s.hp.heldBack ∧ s.driveUp.hp.tod = s.hp.tod ∧ s.driveUp.chains = s.chains ∧
    s.driveUp.wq = s.wq ∧ s.driveUp.te = s.te ∧ s.driveUp.hm = s.hm ∧ s.driveUp.tm = s.tm ∧ s.driveUp.lu = s.lu ∧
    s.driveUp.rdm.counter = s.rdm.counter ∧ s.driveUp.rdm.timer = s.rdm.timer ∧
    s.driveUp.rdm.synthRun = s.rdm.synthRun ∧ s.driveUp.rdm.revCount = s.rdm.revCount ∧
    s.driveUp.rdm.lateLeft = s.rdm.lateLeft ∧ s.driveUp.rdm.lateSubstitute = s.rdm.lateSubstitute ∧
    s.driveUp.rdm.ready = s.rdm.ready ∧ s.driveUp.rdm.onCylinder = s.rdm.onCylinder ∧
    s.driveUp.rdm.recovery = s.rdm.recovery ∧ s.driveUp.rdm.silence = s.rdm.silence ∧
    s.driveUp.rdm.slotSynthetic = s.rdm.slotSynthetic ∧ s.driveUp.out = s.out ∧ s.driveUp.pending = s.pending := by
  simp only [State.driveUp]
  simp

@[simp] theorem State.lateIndex_frame (s : State) :
    s.lateIndex.hp.address = s.hp.address ∧ s.lateIndex.hp.adapter = s.hp.adapter ∧
    s.lateIndex.hp.maintaining = s.hp.maintaining ∧ s.lateIndex.hp.refusal = s.hp.refusal ∧
    s.lateIndex.hp.events = s.hp.events ∧ s.lateIndex.hp.mask = s.hp.mask ∧
    s.lateIndex.hp.progress = s.hp.progress ∧ s.lateIndex.hp.setup = s.hp.setup ∧
    s.lateIndex.hp.current = s.hp.current ∧ s.lateIndex.hp.tod = s.hp.tod ∧ s.lateIndex.chains = s.chains ∧
    s.lateIndex.tm.cylinder = s.tm.cylinder ∧ s.lateIndex.tm.moving = s.tm.moving ∧
    s.lateIndex.tm.presence = s.tm.presence ∧ s.lateIndex.tm.peerSeeks = s.tm.peerSeeks ∧
    s.lateIndex.lu.station = s.lu.station ∧ s.lateIndex.lu.exchange = s.lu.exchange ∧
    s.lateIndex.lu.peerExchange = s.lu.peerExchange ∧ s.lateIndex.lu.peerSeekFell = s.lu.peerSeekFell ∧
    s.lateIndex.lu.backoff = s.lu.backoff ∧ s.lateIndex.lu.failedHeard = s.lu.failedHeard ∧
    s.lateIndex.lu.collisionCount = s.lu.collisionCount ∧ s.lateIndex.lu.lastCollided = s.lu.lastCollided ∧
    s.lateIndex.lu.armed = s.lu.armed ∧ s.lateIndex.out = s.out ∧ s.lateIndex.pending = s.pending := by
  simp only [State.lateIndex]
  (repeat' split) <;> simp

@[simp] theorem State.timelyIndex_frame (s : State) (orderFirst : Option LineTime) :
    (s.timelyIndex orderFirst).hp.address = s.hp.address ∧ (s.timelyIndex orderFirst).hp.adapter = s.hp.adapter ∧
    (s.timelyIndex orderFirst).hp.maintaining = s.hp.maintaining ∧
    (s.timelyIndex orderFirst).hp.refusal = s.hp.refusal ∧ (s.timelyIndex orderFirst).hp.mask = s.hp.mask ∧
    (s.timelyIndex orderFirst).hp.progress = s.hp.progress ∧ (s.timelyIndex orderFirst).hp.setup = s.hp.setup ∧
    (s.timelyIndex orderFirst).hp.current = s.hp.current ∧ (s.timelyIndex orderFirst).hp.tod = s.hp.tod.pass ∧
    (s.timelyIndex orderFirst).chains = s.chains ∧ (s.timelyIndex orderFirst).tm.cylinder = s.tm.cylinder ∧
    (s.timelyIndex orderFirst).tm.moving = s.tm.moving ∧ (s.timelyIndex orderFirst).tm.presence = s.tm.presence ∧
    (s.timelyIndex orderFirst).tm.peerSeeks = s.tm.peerSeeks ∧ (s.timelyIndex orderFirst).pending = s.pending := by
  simp only [State.timelyIndex]
  (repeat' split) <;> simp

@[simp] theorem State.timelySector_frame (s : State) (orderFirst : Option LineTime) :
    (s.timelySector orderFirst).hp.address = s.hp.address ∧ (s.timelySector orderFirst).hp.adapter = s.hp.adapter ∧
    (s.timelySector orderFirst).hp.maintaining = s.hp.maintaining ∧
    (s.timelySector orderFirst).hp.refusal = s.hp.refusal ∧ (s.timelySector orderFirst).hp.events = s.hp.events ∧
    (s.timelySector orderFirst).hp.mask = s.hp.mask ∧ (s.timelySector orderFirst).hp.progress = s.hp.progress ∧
    (s.timelySector orderFirst).hp.setup = s.hp.setup ∧ (s.timelySector orderFirst).hp.current = s.hp.current ∧
    (s.timelySector orderFirst).hp.tod = s.hp.tod.pass ∧ (s.timelySector orderFirst).chains = s.chains ∧
    (s.timelySector orderFirst).tm.cylinder = s.tm.cylinder ∧ (s.timelySector orderFirst).tm.moving = s.tm.moving ∧
    (s.timelySector orderFirst).tm.presence = s.tm.presence ∧
    (s.timelySector orderFirst).tm.peerSeeks = s.tm.peerSeeks ∧ (s.timelySector orderFirst).pending = s.pending := by
  simp only [State.timelySector]
  (repeat' split) <;> simp

@[simp] theorem State.syntheticSlot_frame (s : State) (orderFirst : Option LineTime) :
    (s.syntheticSlot orderFirst).hp.address = s.hp.address ∧
    (s.syntheticSlot orderFirst).hp.adapter = s.hp.adapter ∧
    (s.syntheticSlot orderFirst).hp.maintaining = s.hp.maintaining ∧
    (s.syntheticSlot orderFirst).hp.refusal = s.hp.refusal ∧ (s.syntheticSlot orderFirst).hp.mask = s.hp.mask ∧
    (s.syntheticSlot orderFirst).hp.progress = s.hp.progress ∧ (s.syntheticSlot orderFirst).hp.setup = s.hp.setup ∧
    (s.syntheticSlot orderFirst).hp.current = s.hp.current ∧ (s.syntheticSlot orderFirst).hp.tod = s.hp.tod.pass ∧
    (s.syntheticSlot orderFirst).chains = s.chains ∧ (s.syntheticSlot orderFirst).tm.presence = s.tm.presence ∧
    (s.syntheticSlot orderFirst).tm.peerSeeks = s.tm.peerSeeks ∧ (s.syntheticSlot orderFirst).pending = s.pending := by
  simp only [State.syntheticSlot]
  (repeat' split) <;> simp

@[simp] theorem State.quantum_frame (s : State) :
    s.quantum.hp.address = s.hp.address ∧ s.quantum.hp.adapter = s.hp.adapter ∧
    s.quantum.hp.maintaining = s.hp.maintaining ∧ s.quantum.hp.refusal = s.hp.refusal ∧
    s.quantum.hp.mask = s.hp.mask ∧ s.quantum.hp.progress = s.hp.progress ∧ s.quantum.hp.setup = s.hp.setup ∧
    s.quantum.hp.current = s.hp.current ∧ s.quantum.chains = s.chains ∧ s.quantum.tm.presence = s.tm.presence ∧
    s.quantum.tm.peerSeeks = s.tm.peerSeeks ∧ s.quantum.pending = s.pending := by
  simp only [State.quantum]
  (repeat' split) <;> simp

/-! Parts of the commands, and the idle step. -/

@[simp] theorem State.refuseAction_frame (s : State) (c : RefusalCode) (a : Attention) :
    (s.refuseAction c a).hp.address = s.hp.address ∧ (s.refuseAction c a).hp.adapter = s.hp.adapter ∧
    (s.refuseAction c a).hp.maintaining = s.hp.maintaining ∧ (s.refuseAction c a).hp.mask = s.hp.mask ∧
    (s.refuseAction c a).hp.progress = s.hp.progress ∧ (s.refuseAction c a).hp.setup = s.hp.setup ∧
    (s.refuseAction c a).hp.waiting = s.hp.waiting ∧ (s.refuseAction c a).hp.current = s.hp.current ∧
    (s.refuseAction c a).hp.heldBack = s.hp.heldBack ∧ (s.refuseAction c a).hp.tod = s.hp.tod ∧
    (s.refuseAction c a).chains = s.chains ∧ (s.refuseAction c a).ec = s.ec ∧ (s.refuseAction c a).wq = s.wq ∧
    (s.refuseAction c a).te = s.te ∧ (s.refuseAction c a).hm = s.hm ∧ (s.refuseAction c a).tm = s.tm ∧
    (s.refuseAction c a).lu = s.lu ∧ (s.refuseAction c a).rdm = s.rdm ∧ (s.refuseAction c a).out = s.out ∧
    (s.refuseAction c a).pending = s.pending := by
  simp only [State.refuseAction]
  simp

@[simp] theorem State.beginSetup_frame (s : State) :
    s.beginSetup.hp.address = s.hp.address ∧ s.beginSetup.hp.adapter = s.hp.adapter ∧
    s.beginSetup.hp.maintaining = s.hp.maintaining ∧ s.beginSetup.hp.refusal = s.hp.refusal ∧
    s.beginSetup.hp.events = s.hp.events ∧ s.beginSetup.hp.mask = s.hp.mask ∧ s.beginSetup.hp.setup = s.hp.setup ∧
    s.beginSetup.hp.current = s.hp.current ∧ s.beginSetup.hp.heldBack = s.hp.heldBack ∧
    s.beginSetup.hp.tod = s.hp.tod ∧ s.beginSetup.chains = s.chains ∧ s.beginSetup.ec = s.ec ∧
    s.beginSetup.wq = s.wq ∧ s.beginSetup.te = s.te ∧ s.beginSetup.hm = s.hm ∧ s.beginSetup.tm = s.tm ∧
    s.beginSetup.lu = s.lu ∧ s.beginSetup.rdm = s.rdm ∧ s.beginSetup.out = s.out ∧ s.beginSetup.pending = s.pending := by
  simp only [State.beginSetup]
  simp

@[simp] theorem State.startChain_frame (s : State) (n : Fin 4) (level : Nat) :
    (s.startChain n level).hp.address = s.hp.address ∧ (s.startChain n level).hp.adapter = s.hp.adapter ∧
    (s.startChain n level).hp.maintaining = s.hp.maintaining ∧ (s.startChain n level).hp.refusal = s.hp.refusal ∧
    (s.startChain n level).hp.events = s.hp.events ∧ (s.startChain n level).hp.mask = s.hp.mask ∧
    (s.startChain n level).hp.progress = s.hp.progress ∧ (s.startChain n level).hp.setup = s.hp.setup ∧
    (s.startChain n level).hp.current = s.hp.current ∧ (s.startChain n level).hp.heldBack = s.hp.heldBack ∧
    (s.startChain n level).hp.tod = s.hp.tod ∧ (s.startChain n level).ec = s.ec ∧
    (s.startChain n level).wq = s.wq ∧ (s.startChain n level).te = s.te ∧ (s.startChain n level).hm = s.hm ∧
    (s.startChain n level).tm = s.tm ∧ (s.startChain n level).lu = s.lu ∧ (s.startChain n level).rdm = s.rdm ∧
    (s.startChain n level).out = s.out ∧ (s.startChain n level).pending = s.pending := by
  simp only [State.startChain]
  simp

@[simp] theorem State.decideSetup_frame (s : State) (c : RefusalCode) (place : Option (Table × Nat)) :
    (s.decideSetup c place).hp.address = s.hp.address ∧ (s.decideSetup c place).hp.adapter = s.hp.adapter ∧
    (s.decideSetup c place).hp.maintaining = s.hp.maintaining ∧ (s.decideSetup c place).hp.events = s.hp.events ∧
    (s.decideSetup c place).hp.mask = s.hp.mask ∧ (s.decideSetup c place).hp.setup = s.hp.setup ∧
    (s.decideSetup c place).hp.current = s.hp.current ∧ (s.decideSetup c place).hp.heldBack = s.hp.heldBack ∧
    (s.decideSetup c place).hp.tod = s.hp.tod ∧ (s.decideSetup c place).chains = s.chains ∧
    (s.decideSetup c place).ec = s.ec ∧ (s.decideSetup c place).wq = s.wq ∧ (s.decideSetup c place).te = s.te ∧
    (s.decideSetup c place).hm = s.hm ∧ (s.decideSetup c place).tm = s.tm ∧ (s.decideSetup c place).lu = s.lu ∧
    (s.decideSetup c place).rdm = s.rdm ∧ (s.decideSetup c place).out = s.out ∧
    (s.decideSetup c place).pending = s.pending := by
  simp only [State.decideSetup]
  simp

@[simp] theorem State.setupTenure_frame (s : State) :
    s.setupTenure.hp = s.hp ∧ s.setupTenure.chains = s.chains ∧ s.setupTenure.ec = s.ec ∧ s.setupTenure.wq = s.wq ∧
    s.setupTenure.te = s.te ∧ s.setupTenure.hm = s.hm ∧ s.setupTenure.tm.own = s.tm.own ∧
    s.setupTenure.tm.peer = s.tm.peer ∧ s.setupTenure.tm.cylinder = s.tm.cylinder ∧
    s.setupTenure.tm.moving = s.tm.moving ∧ s.setupTenure.tm.preemptMark = s.tm.preemptMark ∧
    s.setupTenure.tm.peerSeeks = s.tm.peerSeeks ∧ s.setupTenure.lu.station = s.lu.station ∧
    s.setupTenure.lu.exchange = s.lu.exchange ∧ s.setupTenure.lu.peerExchange = s.lu.peerExchange ∧
    s.setupTenure.lu.peerSeekFell = s.lu.peerSeekFell ∧ s.setupTenure.lu.backoff = s.lu.backoff ∧
    s.setupTenure.lu.failedHeard = s.lu.failedHeard ∧ s.setupTenure.lu.collisionCount = s.lu.collisionCount ∧
    s.setupTenure.lu.lastCollided = s.lu.lastCollided ∧ s.setupTenure.lu.armed = s.lu.armed ∧
    s.setupTenure.rdm = s.rdm ∧ s.setupTenure.out = s.out ∧ s.setupTenure.pending = s.pending := by
  simp only [State.setupTenure]
  simp

@[simp] theorem State.offerHello_frame (s : State) :
    s.offerHello.hp = s.hp ∧ s.offerHello.chains = s.chains ∧ s.offerHello.ec = s.ec ∧ s.offerHello.wq = s.wq ∧
    s.offerHello.te = s.te ∧ s.offerHello.hm = s.hm ∧ s.offerHello.tm = s.tm ∧
    s.offerHello.lu.station = s.lu.station ∧ s.offerHello.lu.exchange = s.lu.exchange ∧
    s.offerHello.lu.peerExchange = s.lu.peerExchange ∧ s.offerHello.lu.peerSeekFell = s.lu.peerSeekFell ∧
    s.offerHello.lu.backoff = s.lu.backoff ∧ s.offerHello.lu.failedHeard = s.lu.failedHeard ∧
    s.offerHello.lu.collisionCount = s.lu.collisionCount ∧ s.offerHello.lu.lastCollided = s.lu.lastCollided ∧
    s.offerHello.lu.armed = s.lu.armed ∧ s.offerHello.rdm = s.rdm ∧ s.offerHello.out = s.out ∧
    s.offerHello.pending = s.pending := by
  simp only [State.offerHello]
  (repeat' split) <;> simp

@[simp] theorem State.acceptSetup_frame (s : State) (h : SetupHeader) (placed : List ((Table × Nat) × Image)) :
    (s.acceptSetup h placed).hp.address = s.hp.address ∧
    (s.acceptSetup h placed).hp.maintaining = s.hp.maintaining ∧ (s.acceptSetup h placed).hp.events = s.hp.events ∧
    (s.acceptSetup h placed).hp.mask = s.hp.mask ∧ (s.acceptSetup h placed).hp.current = s.hp.current ∧
    (s.acceptSetup h placed).hp.heldBack = s.hp.heldBack ∧ (s.acceptSetup h placed).hp.tod = s.hp.tod ∧
    (s.acceptSetup h placed).chains = s.chains ∧ (s.acceptSetup h placed).wq = s.wq ∧
    (s.acceptSetup h placed).te = s.te ∧ (s.acceptSetup h placed).hm = s.hm ∧
    (s.acceptSetup h placed).tm.own = s.tm.own ∧ (s.acceptSetup h placed).tm.peer = s.tm.peer ∧
    (s.acceptSetup h placed).tm.cylinder = s.tm.cylinder ∧ (s.acceptSetup h placed).tm.moving = s.tm.moving ∧
    (s.acceptSetup h placed).tm.preemptMark = s.tm.preemptMark ∧
    (s.acceptSetup h placed).tm.peerSeeks = s.tm.peerSeeks ∧ (s.acceptSetup h placed).lu.station = s.lu.station ∧
    (s.acceptSetup h placed).lu.exchange = s.lu.exchange ∧
    (s.acceptSetup h placed).lu.peerExchange = s.lu.peerExchange ∧
    (s.acceptSetup h placed).lu.peerSeekFell = s.lu.peerSeekFell ∧
    (s.acceptSetup h placed).lu.backoff = s.lu.backoff ∧
    (s.acceptSetup h placed).lu.failedHeard = s.lu.failedHeard ∧
    (s.acceptSetup h placed).lu.collisionCount = s.lu.collisionCount ∧
    (s.acceptSetup h placed).lu.lastCollided = s.lu.lastCollided ∧ (s.acceptSetup h placed).lu.armed = s.lu.armed ∧
    (s.acceptSetup h placed).rdm = s.rdm ∧ (s.acceptSetup h placed).out = s.out ∧
    (s.acceptSetup h placed).pending = s.pending := by
  simp only [State.acceptSetup]
  simp

@[simp] theorem State.examineImages_frame (s : State) (h : SetupHeader) (images : List Image) :
    (s.examineImages h images).hp.address = s.hp.address ∧
    (s.examineImages h images).hp.maintaining = s.hp.maintaining ∧
    (s.examineImages h images).hp.events = s.hp.events ∧ (s.examineImages h images).hp.mask = s.hp.mask ∧
    (s.examineImages h images).hp.current = s.hp.current ∧ (s.examineImages h images).hp.heldBack = s.hp.heldBack ∧
    (s.examineImages h images).hp.tod = s.hp.tod ∧ (s.examineImages h images).chains = s.chains ∧
    (s.examineImages h images).wq = s.wq ∧ (s.examineImages h images).te = s.te ∧
    (s.examineImages h images).hm = s.hm ∧ (s.examineImages h images).tm.own = s.tm.own ∧
    (s.examineImages h images).tm.peer = s.tm.peer ∧ (s.examineImages h images).tm.cylinder = s.tm.cylinder ∧
    (s.examineImages h images).tm.moving = s.tm.moving ∧
    (s.examineImages h images).tm.preemptMark = s.tm.preemptMark ∧
    (s.examineImages h images).tm.peerSeeks = s.tm.peerSeeks ∧
    (s.examineImages h images).lu.station = s.lu.station ∧ (s.examineImages h images).lu.exchange = s.lu.exchange ∧
    (s.examineImages h images).lu.peerExchange = s.lu.peerExchange ∧
    (s.examineImages h images).lu.peerSeekFell = s.lu.peerSeekFell ∧
    (s.examineImages h images).lu.backoff = s.lu.backoff ∧
    (s.examineImages h images).lu.failedHeard = s.lu.failedHeard ∧
    (s.examineImages h images).lu.collisionCount = s.lu.collisionCount ∧
    (s.examineImages h images).lu.lastCollided = s.lu.lastCollided ∧
    (s.examineImages h images).lu.armed = s.lu.armed ∧ (s.examineImages h images).rdm = s.rdm ∧
    (s.examineImages h images).out = s.out ∧ (s.examineImages h images).pending = s.pending := by
  simp only [State.examineImages]
  (repeat' split) <;> simp

@[simp] theorem State.examineHeader_frame (s : State) (h : SetupHeader) :
    (s.examineHeader h).hp.address = s.hp.address ∧ (s.examineHeader h).hp.maintaining = s.hp.maintaining ∧
    (s.examineHeader h).hp.events = s.hp.events ∧ (s.examineHeader h).hp.mask = s.hp.mask ∧
    (s.examineHeader h).hp.current = s.hp.current ∧ (s.examineHeader h).hp.heldBack = s.hp.heldBack ∧
    (s.examineHeader h).hp.tod = s.hp.tod ∧ (s.examineHeader h).chains = s.chains ∧ (s.examineHeader h).wq = s.wq ∧
    (s.examineHeader h).te = s.te ∧ (s.examineHeader h).hm = s.hm ∧ (s.examineHeader h).tm.own = s.tm.own ∧
    (s.examineHeader h).tm.peer = s.tm.peer ∧ (s.examineHeader h).tm.cylinder = s.tm.cylinder ∧
    (s.examineHeader h).tm.moving = s.tm.moving ∧ (s.examineHeader h).tm.preemptMark = s.tm.preemptMark ∧
    (s.examineHeader h).tm.peerSeeks = s.tm.peerSeeks ∧ (s.examineHeader h).lu.station = s.lu.station ∧
    (s.examineHeader h).lu.exchange = s.lu.exchange ∧ (s.examineHeader h).lu.peerExchange = s.lu.peerExchange ∧
    (s.examineHeader h).lu.peerSeekFell = s.lu.peerSeekFell ∧ (s.examineHeader h).lu.backoff = s.lu.backoff ∧
    (s.examineHeader h).lu.failedHeard = s.lu.failedHeard ∧
    (s.examineHeader h).lu.collisionCount = s.lu.collisionCount ∧
    (s.examineHeader h).lu.lastCollided = s.lu.lastCollided ∧ (s.examineHeader h).lu.armed = s.lu.armed ∧
    (s.examineHeader h).rdm = s.rdm ∧ (s.examineHeader h).out = s.out ∧ (s.examineHeader h).pending = s.pending := by
  simp only [State.examineHeader]
  (repeat' split) <;> simp

@[simp] theorem State.finishSetup_frame (s : State) (p : SetupProgress) :
    (s.finishSetup p).hp.address = s.hp.address ∧ (s.finishSetup p).hp.adapter = s.hp.adapter ∧
    (s.finishSetup p).hp.maintaining = s.hp.maintaining ∧ (s.finishSetup p).hp.mask = s.hp.mask ∧
    (s.finishSetup p).hp.setup = s.hp.setup ∧ (s.finishSetup p).hp.waiting = s.hp.waiting ∧
    (s.finishSetup p).hp.heldBack = s.hp.heldBack ∧ (s.finishSetup p).hp.tod = s.hp.tod ∧
    (s.finishSetup p).chains = s.chains ∧ (s.finishSetup p).ec = s.ec ∧ (s.finishSetup p).wq = s.wq ∧
    (s.finishSetup p).te = s.te ∧ (s.finishSetup p).hm = s.hm ∧ (s.finishSetup p).tm = s.tm ∧
    (s.finishSetup p).lu = s.lu ∧ (s.finishSetup p).rdm = s.rdm ∧ (s.finishSetup p).pending = s.pending := by
  simp only [State.finishSetup]
  simp

@[simp] theorem State.beginTransfer_frame (s : State) (i : Nat) (t : Transfer) :
    (s.beginTransfer i t).hp.address = s.hp.address ∧ (s.beginTransfer i t).hp.adapter = s.hp.adapter ∧
    (s.beginTransfer i t).hp.maintaining = s.hp.maintaining ∧ (s.beginTransfer i t).hp.refusal = s.hp.refusal ∧
    (s.beginTransfer i t).hp.events = s.hp.events ∧ (s.beginTransfer i t).hp.mask = s.hp.mask ∧
    (s.beginTransfer i t).hp.progress = s.hp.progress ∧ (s.beginTransfer i t).hp.setup = s.hp.setup ∧
    (s.beginTransfer i t).hp.heldBack = s.hp.heldBack ∧ (s.beginTransfer i t).hp.tod = s.hp.tod ∧
    (s.beginTransfer i t).chains = s.chains ∧ (s.beginTransfer i t).ec = s.ec ∧ (s.beginTransfer i t).wq = s.wq ∧
    (s.beginTransfer i t).te = s.te ∧ (s.beginTransfer i t).hm = s.hm ∧ (s.beginTransfer i t).tm = s.tm ∧
    (s.beginTransfer i t).lu = s.lu ∧ (s.beginTransfer i t).rdm = s.rdm ∧ (s.beginTransfer i t).pending = s.pending := by
  simp only [State.beginTransfer]
  simp

@[simp] theorem State.endImage_frame (s : State) :
    s.endImage.hp.address = s.hp.address ∧ s.endImage.hp.adapter = s.hp.adapter ∧
    s.endImage.hp.maintaining = s.hp.maintaining ∧ s.endImage.hp.refusal = s.hp.refusal ∧
    s.endImage.hp.events = s.hp.events ∧ s.endImage.hp.mask = s.hp.mask ∧ s.endImage.hp.progress = s.hp.progress ∧
    s.endImage.hp.setup = s.hp.setup ∧ s.endImage.hp.waiting = s.hp.waiting ∧
    s.endImage.hp.heldBack = s.hp.heldBack ∧ s.endImage.hp.tod = s.hp.tod ∧ s.endImage.chains = s.chains ∧
    s.endImage.ec = s.ec ∧ s.endImage.wq = s.wq ∧ s.endImage.te = s.te ∧ s.endImage.hm = s.hm ∧
    s.endImage.tm = s.tm ∧ s.endImage.lu = s.lu ∧ s.endImage.rdm = s.rdm ∧ s.endImage.pending = s.pending := by
  simp only [State.endImage]
  (repeat' split) <;> simp

@[simp] theorem State.startTransfer_frame (s : State) :
    s.startTransfer.hp.address = s.hp.address ∧ s.startTransfer.hp.adapter = s.hp.adapter ∧
    s.startTransfer.hp.maintaining = s.hp.maintaining ∧ s.startTransfer.hp.refusal = s.hp.refusal ∧
    s.startTransfer.hp.events = s.hp.events ∧ s.startTransfer.hp.mask = s.hp.mask ∧
    s.startTransfer.hp.progress = s.hp.progress ∧ s.startTransfer.hp.setup = s.hp.setup ∧
    s.startTransfer.hp.heldBack = s.hp.heldBack ∧ s.startTransfer.hp.tod = s.hp.tod ∧
    s.startTransfer.chains = s.chains ∧ s.startTransfer.ec = s.ec ∧ s.startTransfer.wq = s.wq ∧
    s.startTransfer.te = s.te ∧ s.startTransfer.hm = s.hm ∧ s.startTransfer.tm = s.tm ∧ s.startTransfer.lu = s.lu ∧
    s.startTransfer.rdm = s.rdm ∧ s.startTransfer.pending = s.pending := by
  simp only [State.startTransfer]
  (repeat' split) <;> simp

@[simp] theorem State.cylinderFalls_frame (s : State) (peerSeek : Bool) :
    (s.cylinderFalls peerSeek).hp = s.hp ∧ (s.cylinderFalls peerSeek).chains = s.chains ∧
    (s.cylinderFalls peerSeek).ec = s.ec ∧ (s.cylinderFalls peerSeek).wq.nextId = s.wq.nextId ∧
    (s.cylinderFalls peerSeek).te = s.te ∧ (s.cylinderFalls peerSeek).hm = s.hm ∧
    (s.cylinderFalls peerSeek).tm.own = s.tm.own ∧ (s.cylinderFalls peerSeek).tm.peer = s.tm.peer ∧
    (s.cylinderFalls peerSeek).tm.presence = s.tm.presence ∧
    (s.cylinderFalls peerSeek).tm.courtesy = s.tm.courtesy ∧
    (s.cylinderFalls peerSeek).tm.preemptMark = s.tm.preemptMark ∧
    (s.cylinderFalls peerSeek).tm.peerSeeks = s.tm.peerSeeks ∧
    (s.cylinderFalls peerSeek).lu.station = s.lu.station ∧ (s.cylinderFalls peerSeek).lu.frames = s.lu.frames ∧
    (s.cylinderFalls peerSeek).lu.exchange = s.lu.exchange ∧
    (s.cylinderFalls peerSeek).lu.peerExchange = s.lu.peerExchange ∧
    (s.cylinderFalls peerSeek).lu.backoff = s.lu.backoff ∧
    (s.cylinderFalls peerSeek).lu.failedHeard = s.lu.failedHeard ∧
    (s.cylinderFalls peerSeek).lu.collisionCount = s.lu.collisionCount ∧
    (s.cylinderFalls peerSeek).lu.lastCollided = s.lu.lastCollided ∧
    (s.cylinderFalls peerSeek).lu.armed = s.lu.armed ∧ (s.cylinderFalls peerSeek).rdm = s.rdm ∧
    (s.cylinderFalls peerSeek).out = s.out ∧ (s.cylinderFalls peerSeek).pending = s.pending := by
  simp only [State.cylinderFalls]
  (repeat' split) <;> simp

@[simp] theorem State.settled_frame (s : State) :
    s.settled.hp.address = s.hp.address ∧ s.settled.hp.adapter = s.hp.adapter ∧
    s.settled.hp.maintaining = s.hp.maintaining ∧ s.settled.hp.refusal = s.hp.refusal ∧
    s.settled.hp.events = s.hp.events ∧ s.settled.hp.mask = s.hp.mask ∧ s.settled.hp.progress = s.hp.progress ∧
    s.settled.hp.setup = s.hp.setup ∧ s.settled.hp.current = s.hp.current ∧ s.settled.hp.tod = s.hp.tod ∧
    s.settled.chains = s.chains ∧ s.settled.tm.peer = s.tm.peer ∧ s.settled.tm.cylinder = s.tm.cylinder ∧
    s.settled.tm.moving = s.tm.moving ∧ s.settled.tm.presence = s.tm.presence ∧
    s.settled.tm.courtesy = s.tm.courtesy ∧ s.settled.tm.preemptMark = s.tm.preemptMark ∧
    s.settled.tm.peerSeeks = s.tm.peerSeeks ∧ s.settled.rdm = s.rdm ∧ s.settled.out = s.out ∧
    s.settled.pending = s.pending := by
  simp only [State.settled]
  (repeat' split) <;> simp

@[simp] theorem State.lastSlot_frame (s : State) (r : Request) :
    (s.lastSlot r).hp.address = s.hp.address ∧ (s.lastSlot r).hp.adapter = s.hp.adapter ∧
    (s.lastSlot r).hp.maintaining = s.hp.maintaining ∧ (s.lastSlot r).hp.refusal = s.hp.refusal ∧
    (s.lastSlot r).hp.events = s.hp.events ∧ (s.lastSlot r).hp.mask = s.hp.mask ∧
    (s.lastSlot r).hp.progress = s.hp.progress ∧ (s.lastSlot r).hp.setup = s.hp.setup ∧
    (s.lastSlot r).hp.current = s.hp.current ∧ (s.lastSlot r).hp.tod = s.hp.tod ∧
    (s.lastSlot r).chains = s.chains ∧ (s.lastSlot r).tm.peer = s.tm.peer ∧
    (s.lastSlot r).tm.cylinder = s.tm.cylinder ∧ (s.lastSlot r).tm.moving = s.tm.moving ∧
    (s.lastSlot r).tm.presence = s.tm.presence ∧ (s.lastSlot r).tm.courtesy = s.tm.courtesy ∧
    (s.lastSlot r).tm.preemptMark = s.tm.preemptMark ∧ (s.lastSlot r).tm.peerSeeks = s.tm.peerSeeks ∧
    (s.lastSlot r).rdm = s.rdm ∧ (s.lastSlot r).out = s.out ∧ (s.lastSlot r).pending = s.pending := by
  simp only [State.lastSlot, State.following]
  (repeat' split) <;> simp_all

@[simp] theorem State.collideChosen_frame (s : State) (p : Frame → Bool) :
    (s.collideChosen p).hp.address = s.hp.address ∧ (s.collideChosen p).hp.adapter = s.hp.adapter ∧
    (s.collideChosen p).hp.maintaining = s.hp.maintaining ∧ (s.collideChosen p).hp.refusal = s.hp.refusal ∧
    (s.collideChosen p).hp.mask = s.hp.mask ∧ (s.collideChosen p).hp.progress = s.hp.progress ∧
    (s.collideChosen p).hp.setup = s.hp.setup ∧ (s.collideChosen p).hp.current = s.hp.current ∧
    (s.collideChosen p).hp.tod = s.hp.tod ∧ (s.collideChosen p).chains = s.chains ∧
    (s.collideChosen p).tm.peer = s.tm.peer ∧ (s.collideChosen p).tm.cylinder = s.tm.cylinder ∧
    (s.collideChosen p).tm.moving = s.tm.moving ∧ (s.collideChosen p).tm.preemptMark = s.tm.preemptMark ∧
    (s.collideChosen p).tm.peerSeeks = s.tm.peerSeeks ∧ (s.collideChosen p).rdm = s.rdm ∧
    (s.collideChosen p).out = s.out ∧ (s.collideChosen p).pending = s.pending := by
  simp only [State.collideChosen]
  (repeat' split) <;> simp

@[simp] theorem State.closeWindow_frame (s : State) (elapsed : Nat) :
    (s.closeWindow elapsed).hp.address = s.hp.address ∧ (s.closeWindow elapsed).hp.adapter = s.hp.adapter ∧
    (s.closeWindow elapsed).hp.maintaining = s.hp.maintaining ∧ (s.closeWindow elapsed).hp.refusal = s.hp.refusal ∧
    (s.closeWindow elapsed).hp.mask = s.hp.mask ∧ (s.closeWindow elapsed).hp.progress = s.hp.progress ∧
    (s.closeWindow elapsed).hp.setup = s.hp.setup ∧ (s.closeWindow elapsed).hp.current = s.hp.current ∧
    (s.closeWindow elapsed).hp.tod = s.hp.tod ∧ (s.closeWindow elapsed).chains = s.chains ∧
    (s.closeWindow elapsed).tm.peer = s.tm.peer ∧ (s.closeWindow elapsed).tm.preemptMark = s.tm.preemptMark ∧
    (s.closeWindow elapsed).tm.peerSeeks = s.tm.peerSeeks ∧ (s.closeWindow elapsed).out = s.out ∧
    (s.closeWindow elapsed).pending = s.pending := by
  simp only [State.closeWindow]
  (repeat' split) <;> simp

@[simp] theorem State.failedFrame_frame (s : State) :
    s.failedFrame.hp = s.hp ∧ s.failedFrame.chains = s.chains ∧ s.failedFrame.ec = s.ec ∧ s.failedFrame.wq = s.wq ∧
    s.failedFrame.te = s.te ∧ s.failedFrame.hm = s.hm ∧ s.failedFrame.tm = s.tm ∧
    s.failedFrame.lu.station = s.lu.station ∧ s.failedFrame.lu.frames = s.lu.frames ∧
    s.failedFrame.lu.exchange = s.lu.exchange ∧ s.failedFrame.lu.peerExchange = s.lu.peerExchange ∧
    s.failedFrame.lu.peerSeekFell = s.lu.peerSeekFell ∧ s.failedFrame.lu.backoff = s.lu.backoff ∧
    s.failedFrame.lu.collisionCount = s.lu.collisionCount ∧ s.failedFrame.lu.lastCollided = s.lu.lastCollided ∧
    s.failedFrame.lu.armed = s.lu.armed ∧ s.failedFrame.rdm = s.rdm ∧ s.failedFrame.out = s.out ∧
    s.failedFrame.pending = s.pending := by
  simp only [State.failedFrame]
  simp

@[simp] theorem State.strayFrame_frame (s : State) (frame : List Word) :
    (s.strayFrame frame).hp.address = s.hp.address ∧ (s.strayFrame frame).hp.adapter = s.hp.adapter ∧
    (s.strayFrame frame).hp.maintaining = s.hp.maintaining ∧ (s.strayFrame frame).hp.refusal = s.hp.refusal ∧
    (s.strayFrame frame).hp.mask = s.hp.mask ∧ (s.strayFrame frame).hp.progress = s.hp.progress ∧
    (s.strayFrame frame).hp.setup = s.hp.setup ∧ (s.strayFrame frame).hp.current = s.hp.current ∧
    (s.strayFrame frame).hp.tod = s.hp.tod ∧ (s.strayFrame frame).chains = s.chains ∧
    (s.strayFrame frame).tm.peer = s.tm.peer ∧ (s.strayFrame frame).tm.preemptMark = s.tm.preemptMark ∧
    (s.strayFrame frame).tm.peerSeeks = s.tm.peerSeeks ∧ (s.strayFrame frame).out = s.out ∧
    (s.strayFrame frame).pending = s.pending := by
  simp only [State.strayFrame, State.driveAnswer, State.peerAnswer]
  (repeat' split) <;> simp_all

@[simp] theorem State.seekAccepted_frame (x : Exchange) (s : State) :
    (State.seekAccepted x s).hp.address = s.hp.address ∧ (State.seekAccepted x s).hp.adapter = s.hp.adapter ∧
    (State.seekAccepted x s).hp.maintaining = s.hp.maintaining ∧
    (State.seekAccepted x s).hp.refusal = s.hp.refusal ∧ (State.seekAccepted x s).hp.events = s.hp.events ∧
    (State.seekAccepted x s).hp.mask = s.hp.mask ∧ (State.seekAccepted x s).hp.progress = s.hp.progress ∧
    (State.seekAccepted x s).hp.setup = s.hp.setup ∧ (State.seekAccepted x s).hp.current = s.hp.current ∧
    (State.seekAccepted x s).hp.tod = s.hp.tod ∧ (State.seekAccepted x s).chains = s.chains ∧
    (State.seekAccepted x s).tm.peer = s.tm.peer ∧ (State.seekAccepted x s).tm.presence = s.tm.presence ∧
    (State.seekAccepted x s).tm.courtesy = s.tm.courtesy ∧
    (State.seekAccepted x s).tm.preemptMark = s.tm.preemptMark ∧
    (State.seekAccepted x s).tm.peerSeeks = s.tm.peerSeeks ∧ (State.seekAccepted x s).rdm = s.rdm ∧
    (State.seekAccepted x s).out = s.out ∧ (State.seekAccepted x s).pending = s.pending := by
  simp only [State.seekAccepted, State.goOn, State.notDone, State.forOwner]
  (repeat' split) <;> simp_all

@[simp] theorem State.ownBusy_frame (x : Exchange) (s : State) :
    (State.ownBusy x s).hp.address = s.hp.address ∧ (State.ownBusy x s).hp.adapter = s.hp.adapter ∧
    (State.ownBusy x s).hp.maintaining = s.hp.maintaining ∧ (State.ownBusy x s).hp.refusal = s.hp.refusal ∧
    (State.ownBusy x s).hp.events = s.hp.events ∧ (State.ownBusy x s).hp.mask = s.hp.mask ∧
    (State.ownBusy x s).hp.progress = s.hp.progress ∧ (State.ownBusy x s).hp.setup = s.hp.setup ∧
    (State.ownBusy x s).hp.current = s.hp.current ∧ (State.ownBusy x s).hp.tod = s.hp.tod ∧
    (State.ownBusy x s).chains = s.chains ∧ (State.ownBusy x s).tm.peer = s.tm.peer ∧
    (State.ownBusy x s).tm.presence = s.tm.presence ∧ (State.ownBusy x s).tm.courtesy = s.tm.courtesy ∧
    (State.ownBusy x s).tm.preemptMark = s.tm.preemptMark ∧ (State.ownBusy x s).tm.peerSeeks = s.tm.peerSeeks ∧
    (State.ownBusy x s).rdm = s.rdm ∧ (State.ownBusy x s).out = s.out ∧ (State.ownBusy x s).pending = s.pending := by
  simp only [State.ownBusy, State.displace, State.notDone, State.forOwner, State.goOn]
  (repeat' split) <;> simp_all

@[simp] theorem State.ownNotReady_frame (x : Exchange) (s : State) :
    (State.ownNotReady x s).hp.address = s.hp.address ∧ (State.ownNotReady x s).hp.adapter = s.hp.adapter ∧
    (State.ownNotReady x s).hp.maintaining = s.hp.maintaining ∧ (State.ownNotReady x s).hp.refusal = s.hp.refusal ∧
    (State.ownNotReady x s).hp.mask = s.hp.mask ∧ (State.ownNotReady x s).hp.progress = s.hp.progress ∧
    (State.ownNotReady x s).hp.setup = s.hp.setup ∧ (State.ownNotReady x s).hp.current = s.hp.current ∧
    (State.ownNotReady x s).hp.tod = s.hp.tod ∧ (State.ownNotReady x s).chains = s.chains ∧
    (State.ownNotReady x s).tm.peer = s.tm.peer ∧ (State.ownNotReady x s).tm.presence = s.tm.presence ∧
    (State.ownNotReady x s).tm.courtesy = s.tm.courtesy ∧
    (State.ownNotReady x s).tm.preemptMark = s.tm.preemptMark ∧
    (State.ownNotReady x s).tm.peerSeeks = s.tm.peerSeeks ∧ (State.ownNotReady x s).out = s.out ∧
    (State.ownNotReady x s).pending = s.pending := by
  simp only [State.ownNotReady]
  simp

@[simp] theorem State.peerNotReady_frame (s : State) :
    s.peerNotReady.hp.address = s.hp.address ∧ s.peerNotReady.hp.adapter = s.hp.adapter ∧
    s.peerNotReady.hp.maintaining = s.hp.maintaining ∧ s.peerNotReady.hp.refusal = s.hp.refusal ∧
    s.peerNotReady.hp.mask = s.hp.mask ∧ s.peerNotReady.hp.progress = s.hp.progress ∧
    s.peerNotReady.hp.setup = s.hp.setup ∧ s.peerNotReady.hp.current = s.hp.current ∧
    s.peerNotReady.hp.tod = s.hp.tod ∧ s.peerNotReady.chains = s.chains ∧ s.peerNotReady.tm.peer = s.tm.peer ∧
    s.peerNotReady.tm.presence = s.tm.presence ∧ s.peerNotReady.tm.courtesy = s.tm.courtesy ∧
    s.peerNotReady.tm.preemptMark = s.tm.preemptMark ∧ s.peerNotReady.tm.peerSeeks = s.tm.peerSeeks ∧
    s.peerNotReady.out = s.out ∧ s.peerNotReady.pending = s.pending := by
  simp only [State.peerNotReady]
  simp

@[simp] theorem State.actualCylinder_frame (c : Word) (s : State) :
    (State.actualCylinder c s).hp = s.hp ∧ (State.actualCylinder c s).chains = s.chains ∧
    (State.actualCylinder c s).ec = s.ec ∧ (State.actualCylinder c s).wq.nextId = s.wq.nextId ∧
    (State.actualCylinder c s).te = s.te ∧ (State.actualCylinder c s).hm = s.hm ∧
    (State.actualCylinder c s).tm.own = s.tm.own ∧ (State.actualCylinder c s).tm.peer = s.tm.peer ∧
    (State.actualCylinder c s).tm.presence = s.tm.presence ∧
    (State.actualCylinder c s).tm.courtesy = s.tm.courtesy ∧
    (State.actualCylinder c s).tm.preemptMark = s.tm.preemptMark ∧
    (State.actualCylinder c s).tm.peerSeeks = s.tm.peerSeeks ∧ (State.actualCylinder c s).lu = s.lu ∧
    (State.actualCylinder c s).rdm = s.rdm ∧ (State.actualCylinder c s).out = s.out ∧
    (State.actualCylinder c s).pending = s.pending := by
  simp only [State.actualCylinder]
  simp

@[simp] theorem State.ownData_frame (words : List Word) (clean : Bool) (s : State) :
    (State.ownData words clean s).hp.address = s.hp.address ∧
    (State.ownData words clean s).hp.adapter = s.hp.adapter ∧
    (State.ownData words clean s).hp.maintaining = s.hp.maintaining ∧
    (State.ownData words clean s).hp.refusal = s.hp.refusal ∧
    (State.ownData words clean s).hp.events = s.hp.events ∧ (State.ownData words clean s).hp.mask = s.hp.mask ∧
    (State.ownData words clean s).hp.progress = s.hp.progress ∧
    (State.ownData words clean s).hp.setup = s.hp.setup ∧ (State.ownData words clean s).hp.current = s.hp.current ∧
    (State.ownData words clean s).hp.tod = s.hp.tod ∧ (State.ownData words clean s).chains = s.chains ∧
    (State.ownData words clean s).tm.peer = s.tm.peer ∧ (State.ownData words clean s).tm.cylinder = s.tm.cylinder ∧
    (State.ownData words clean s).tm.moving = s.tm.moving ∧
    (State.ownData words clean s).tm.presence = s.tm.presence ∧
    (State.ownData words clean s).tm.courtesy = s.tm.courtesy ∧
    (State.ownData words clean s).tm.preemptMark = s.tm.preemptMark ∧
    (State.ownData words clean s).tm.peerSeeks = s.tm.peerSeeks ∧ (State.ownData words clean s).rdm = s.rdm ∧
    (State.ownData words clean s).out = s.out ∧ (State.ownData words clean s).pending = s.pending := by
  simp only [State.ownData, State.notDone]
  (repeat' split) <;> simp_all

@[simp] theorem State.sensed_frame (flags cylinder : Word) (s : State) :
    (State.sensed flags cylinder s).hp = s.hp ∧ (State.sensed flags cylinder s).chains = s.chains ∧
    (State.sensed flags cylinder s).ec = s.ec ∧ (State.sensed flags cylinder s).wq.nextId = s.wq.nextId ∧
    (State.sensed flags cylinder s).te = s.te ∧ (State.sensed flags cylinder s).hm = s.hm ∧
    (State.sensed flags cylinder s).tm.own = s.tm.own ∧ (State.sensed flags cylinder s).tm.peer = s.tm.peer ∧
    (State.sensed flags cylinder s).tm.presence = s.tm.presence ∧
    (State.sensed flags cylinder s).tm.courtesy = s.tm.courtesy ∧
    (State.sensed flags cylinder s).tm.preemptMark = s.tm.preemptMark ∧
    (State.sensed flags cylinder s).tm.peerSeeks = s.tm.peerSeeks ∧ (State.sensed flags cylinder s).lu = s.lu ∧
    (State.sensed flags cylinder s).rdm = s.rdm ∧ (State.sensed flags cylinder s).out = s.out ∧
    (State.sensed flags cylinder s).pending = s.pending := by
  simp only [State.sensed]
  simp

@[simp] theorem State.ownSense_frame (flags cylinder : Word) (x : Exchange) (s : State) :
    (State.ownSense flags cylinder x s).hp.address = s.hp.address ∧
    (State.ownSense flags cylinder x s).hp.adapter = s.hp.adapter ∧
    (State.ownSense flags cylinder x s).hp.maintaining = s.hp.maintaining ∧
    (State.ownSense flags cylinder x s).hp.refusal = s.hp.refusal ∧
    (State.ownSense flags cylinder x s).hp.mask = s.hp.mask ∧
    (State.ownSense flags cylinder x s).hp.progress = s.hp.progress ∧
    (State.ownSense flags cylinder x s).hp.setup = s.hp.setup ∧
    (State.ownSense flags cylinder x s).hp.current = s.hp.current ∧
    (State.ownSense flags cylinder x s).hp.tod = s.hp.tod ∧ (State.ownSense flags cylinder x s).chains = s.chains ∧
    (State.ownSense flags cylinder x s).tm.peer = s.tm.peer ∧
    (State.ownSense flags cylinder x s).tm.presence = s.tm.presence ∧
    (State.ownSense flags cylinder x s).tm.courtesy = s.tm.courtesy ∧
    (State.ownSense flags cylinder x s).tm.preemptMark = s.tm.preemptMark ∧
    (State.ownSense flags cylinder x s).tm.peerSeeks = s.tm.peerSeeks ∧
    (State.ownSense flags cylinder x s).out = s.out ∧ (State.ownSense flags cylinder x s).pending = s.pending := by
  simp only [State.ownSense, State.goOn, State.notDone, State.forOwner]
  (repeat' split) <;> simp_all

@[simp] theorem State.peerSense_frame (flags cylinder : Word) (s : State) :
    (State.peerSense flags cylinder s).hp.address = s.hp.address ∧
    (State.peerSense flags cylinder s).hp.adapter = s.hp.adapter ∧
    (State.peerSense flags cylinder s).hp.maintaining = s.hp.maintaining ∧
    (State.peerSense flags cylinder s).hp.refusal = s.hp.refusal ∧
    (State.peerSense flags cylinder s).hp.mask = s.hp.mask ∧
    (State.peerSense flags cylinder s).hp.progress = s.hp.progress ∧
    (State.peerSense flags cylinder s).hp.setup = s.hp.setup ∧
    (State.peerSense flags cylinder s).hp.current = s.hp.current ∧
    (State.peerSense flags cylinder s).hp.tod = s.hp.tod ∧ (State.peerSense flags cylinder s).chains = s.chains ∧
    (State.peerSense flags cylinder s).tm.peer = s.tm.peer ∧
    (State.peerSense flags cylinder s).tm.presence = s.tm.presence ∧
    (State.peerSense flags cylinder s).tm.courtesy = s.tm.courtesy ∧
    (State.peerSense flags cylinder s).tm.preemptMark = s.tm.preemptMark ∧
    (State.peerSense flags cylinder s).tm.peerSeeks = s.tm.peerSeeks ∧
    (State.peerSense flags cylinder s).out = s.out ∧ (State.peerSense flags cylinder s).pending = s.pending := by
  simp only [State.peerSense]
  (repeat' split) <;> simp

@[simp] theorem State.peerSeekAccepted_frame (s : State) (c : Nat) :
    (s.peerSeekAccepted c).hp.address = s.hp.address ∧ (s.peerSeekAccepted c).hp.adapter = s.hp.adapter ∧
    (s.peerSeekAccepted c).hp.maintaining = s.hp.maintaining ∧ (s.peerSeekAccepted c).hp.refusal = s.hp.refusal ∧
    (s.peerSeekAccepted c).hp.events = s.hp.events ∧ (s.peerSeekAccepted c).hp.mask = s.hp.mask ∧
    (s.peerSeekAccepted c).hp.progress = s.hp.progress ∧ (s.peerSeekAccepted c).hp.setup = s.hp.setup ∧
    (s.peerSeekAccepted c).hp.current = s.hp.current ∧ (s.peerSeekAccepted c).hp.tod = s.hp.tod ∧
    (s.peerSeekAccepted c).chains = s.chains ∧ (s.peerSeekAccepted c).tm.peer = s.tm.peer ∧
    (s.peerSeekAccepted c).tm.presence = s.tm.presence ∧ (s.peerSeekAccepted c).tm.courtesy = s.tm.courtesy ∧
    (s.peerSeekAccepted c).tm.preemptMark = s.tm.preemptMark ∧ (s.peerSeekAccepted c).rdm.counter = s.rdm.counter ∧
    (s.peerSeekAccepted c).rdm.timer = s.rdm.timer ∧ (s.peerSeekAccepted c).rdm.synthRun = s.rdm.synthRun ∧
    (s.peerSeekAccepted c).rdm.revCount = s.rdm.revCount ∧ (s.peerSeekAccepted c).rdm.lateLeft = s.rdm.lateLeft ∧
    (s.peerSeekAccepted c).rdm.lateSubstitute = s.rdm.lateSubstitute ∧
    (s.peerSeekAccepted c).rdm.ready = s.rdm.ready ∧ (s.peerSeekAccepted c).rdm.onCylinder = s.rdm.onCylinder ∧
    (s.peerSeekAccepted c).rdm.drive = s.rdm.drive ∧ (s.peerSeekAccepted c).rdm.recovery = s.rdm.recovery ∧
    (s.peerSeekAccepted c).rdm.resync = s.rdm.resync ∧
    (s.peerSeekAccepted c).rdm.slotSynthetic = s.rdm.slotSynthetic ∧ (s.peerSeekAccepted c).out = s.out ∧
    (s.peerSeekAccepted c).pending = s.pending := by
  simp only [State.peerSeekAccepted, State.following]
  (repeat' split) <;> simp_all

@[simp] theorem State.peerSeekEnds_frame (s : State) (c : Nat) (a : SeekAnswer) :
    (s.peerSeekEnds c a).hp.address = s.hp.address ∧ (s.peerSeekEnds c a).hp.adapter = s.hp.adapter ∧
    (s.peerSeekEnds c a).hp.maintaining = s.hp.maintaining ∧ (s.peerSeekEnds c a).hp.refusal = s.hp.refusal ∧
    (s.peerSeekEnds c a).hp.mask = s.hp.mask ∧ (s.peerSeekEnds c a).hp.progress = s.hp.progress ∧
    (s.peerSeekEnds c a).hp.setup = s.hp.setup ∧ (s.peerSeekEnds c a).hp.current = s.hp.current ∧
    (s.peerSeekEnds c a).hp.tod = s.hp.tod ∧ (s.peerSeekEnds c a).chains = s.chains ∧
    (s.peerSeekEnds c a).tm.peer = s.tm.peer ∧ (s.peerSeekEnds c a).tm.presence = s.tm.presence ∧
    (s.peerSeekEnds c a).tm.courtesy = s.tm.courtesy ∧ (s.peerSeekEnds c a).tm.preemptMark = s.tm.preemptMark ∧
    (s.peerSeekEnds c a).out = s.out ∧ (s.peerSeekEnds c a).pending = s.pending := by
  simp only [State.peerSeekEnds]
  (repeat' split) <;> simp

@[simp] theorem State.seekAfterLoss_frame (s : State) (lost : Bool) :
    (s.seekAfterLoss lost).hp = s.hp ∧ (s.seekAfterLoss lost).chains = s.chains ∧
    (s.seekAfterLoss lost).ec = s.ec ∧ (s.seekAfterLoss lost).wq.nextId = s.wq.nextId ∧
    (s.seekAfterLoss lost).te = s.te ∧ (s.seekAfterLoss lost).hm = s.hm ∧
    (s.seekAfterLoss lost).tm.own = s.tm.own ∧ (s.seekAfterLoss lost).tm.peer = s.tm.peer ∧
    (s.seekAfterLoss lost).tm.presence = s.tm.presence ∧ (s.seekAfterLoss lost).tm.courtesy = s.tm.courtesy ∧
    (s.seekAfterLoss lost).tm.preemptMark = s.tm.preemptMark ∧
    (s.seekAfterLoss lost).tm.peerSeeks = s.tm.peerSeeks ∧ (s.seekAfterLoss lost).lu = s.lu ∧
    (s.seekAfterLoss lost).rdm = s.rdm ∧ (s.seekAfterLoss lost).out = s.out ∧
    (s.seekAfterLoss lost).pending = s.pending := by
  simp only [State.seekAfterLoss]
  (repeat' split) <;> simp

@[simp] theorem State.peerTenure_frame (s : State) (c n : Nat) :
    (s.peerTenure c n).hp.address = s.hp.address ∧ (s.peerTenure c n).hp.adapter = s.hp.adapter ∧
    (s.peerTenure c n).hp.maintaining = s.hp.maintaining ∧ (s.peerTenure c n).hp.refusal = s.hp.refusal ∧
    (s.peerTenure c n).hp.events = s.hp.events ∧ (s.peerTenure c n).hp.mask = s.hp.mask ∧
    (s.peerTenure c n).hp.progress = s.hp.progress ∧ (s.peerTenure c n).hp.setup = s.hp.setup ∧
    (s.peerTenure c n).hp.current = s.hp.current ∧ (s.peerTenure c n).hp.tod = s.hp.tod ∧
    (s.peerTenure c n).chains = s.chains ∧ (s.peerTenure c n).tm.cylinder = s.tm.cylinder ∧
    (s.peerTenure c n).tm.moving = s.tm.moving ∧ (s.peerTenure c n).tm.presence = s.tm.presence ∧
    (s.peerTenure c n).tm.courtesy = s.tm.courtesy ∧ (s.peerTenure c n).tm.peerSeeks = s.tm.peerSeeks ∧
    (s.peerTenure c n).rdm = s.rdm ∧ (s.peerTenure c n).out = s.out ∧ (s.peerTenure c n).pending = s.pending := by
  simp only [State.peerTenure, State.following]
  (repeat' split) <;> simp_all

@[simp] theorem State.hearTenure_frame (c n : Nat) (s : State) :
    (State.hearTenure c n s).hp.address = s.hp.address ∧ (State.hearTenure c n s).hp.adapter = s.hp.adapter ∧
    (State.hearTenure c n s).hp.maintaining = s.hp.maintaining ∧
    (State.hearTenure c n s).hp.refusal = s.hp.refusal ∧ (State.hearTenure c n s).hp.events = s.hp.events ∧
    (State.hearTenure c n s).hp.mask = s.hp.mask ∧ (State.hearTenure c n s).hp.progress = s.hp.progress ∧
    (State.hearTenure c n s).hp.setup = s.hp.setup ∧ (State.hearTenure c n s).hp.current = s.hp.current ∧
    (State.hearTenure c n s).hp.tod = s.hp.tod ∧ (State.hearTenure c n s).chains = s.chains ∧
    (State.hearTenure c n s).tm.cylinder = s.tm.cylinder ∧ (State.hearTenure c n s).tm.moving = s.tm.moving ∧
    (State.hearTenure c n s).tm.presence = s.tm.presence ∧ (State.hearTenure c n s).tm.courtesy = s.tm.courtesy ∧
    (State.hearTenure c n s).tm.peerSeeks = s.tm.peerSeeks ∧ (State.hearTenure c n s).rdm = s.rdm ∧
    (State.hearTenure c n s).pending = s.pending := by
  simp only [State.hearTenure]
  (repeat' split) <;> simp

@[simp] theorem State.hearPreempt_frame (k : ℤ) (s : State) :
    (State.hearPreempt k s).hp.address = s.hp.address ∧ (State.hearPreempt k s).hp.adapter = s.hp.adapter ∧
    (State.hearPreempt k s).hp.maintaining = s.hp.maintaining ∧ (State.hearPreempt k s).hp.refusal = s.hp.refusal ∧
    (State.hearPreempt k s).hp.events = s.hp.events ∧ (State.hearPreempt k s).hp.mask = s.hp.mask ∧
    (State.hearPreempt k s).hp.progress = s.hp.progress ∧ (State.hearPreempt k s).hp.setup = s.hp.setup ∧
    (State.hearPreempt k s).hp.current = s.hp.current ∧ (State.hearPreempt k s).hp.tod = s.hp.tod ∧
    (State.hearPreempt k s).chains = s.chains ∧ (State.hearPreempt k s).tm.peer = s.tm.peer ∧
    (State.hearPreempt k s).tm.cylinder = s.tm.cylinder ∧ (State.hearPreempt k s).tm.moving = s.tm.moving ∧
    (State.hearPreempt k s).tm.presence = s.tm.presence ∧ (State.hearPreempt k s).tm.courtesy = s.tm.courtesy ∧
    (State.hearPreempt k s).tm.preemptMark = s.tm.preemptMark ∧
    (State.hearPreempt k s).tm.peerSeeks = s.tm.peerSeeks ∧ (State.hearPreempt k s).rdm = s.rdm ∧
    (State.hearPreempt k s).pending = s.pending := by
  simp only [State.hearPreempt]
  (repeat' split) <;> simp

@[simp] theorem State.hearClaim_frame (start count : Nat) (m : Mode) (s : State) :
    (State.hearClaim start count m s).hp = s.hp ∧ (State.hearClaim start count m s).chains = s.chains ∧
    (State.hearClaim start count m s).ec = s.ec ∧ (State.hearClaim start count m s).wq = s.wq ∧
    (State.hearClaim start count m s).te = s.te ∧ (State.hearClaim start count m s).hm = s.hm ∧
    (State.hearClaim start count m s).tm = s.tm ∧ (State.hearClaim start count m s).lu = s.lu ∧
    (State.hearClaim start count m s).rdm = s.rdm ∧ (State.hearClaim start count m s).pending = s.pending := by
  simp only [State.hearClaim]
  (repeat' split) <;> simp

@[simp] theorem State.hearFree_frame (start count : Nat) (written : Bool) (s : State) :
    (State.hearFree start count written s).hp.address = s.hp.address ∧
    (State.hearFree start count written s).hp.adapter = s.hp.adapter ∧
    (State.hearFree start count written s).hp.maintaining = s.hp.maintaining ∧
    (State.hearFree start count written s).hp.refusal = s.hp.refusal ∧
    (State.hearFree start count written s).hp.mask = s.hp.mask ∧
    (State.hearFree start count written s).hp.progress = s.hp.progress ∧
    (State.hearFree start count written s).hp.setup = s.hp.setup ∧
    (State.hearFree start count written s).hp.waiting = s.hp.waiting ∧
    (State.hearFree start count written s).hp.current = s.hp.current ∧
    (State.hearFree start count written s).hp.heldBack = s.hp.heldBack ∧
    (State.hearFree start count written s).hp.tod = s.hp.tod ∧
    (State.hearFree start count written s).chains = s.chains ∧ (State.hearFree start count written s).wq = s.wq ∧
    (State.hearFree start count written s).te = s.te ∧ (State.hearFree start count written s).tm = s.tm ∧
    (State.hearFree start count written s).lu.station = s.lu.station ∧
    (State.hearFree start count written s).lu.exchange = s.lu.exchange ∧
    (State.hearFree start count written s).lu.peerExchange = s.lu.peerExchange ∧
    (State.hearFree start count written s).lu.peerSeekFell = s.lu.peerSeekFell ∧
    (State.hearFree start count written s).lu.backoff = s.lu.backoff ∧
    (State.hearFree start count written s).lu.failedHeard = s.lu.failedHeard ∧
    (State.hearFree start count written s).lu.collisionCount = s.lu.collisionCount ∧
    (State.hearFree start count written s).lu.lastCollided = s.lu.lastCollided ∧
    (State.hearFree start count written s).lu.armed = s.lu.armed ∧
    (State.hearFree start count written s).rdm = s.rdm ∧ (State.hearFree start count written s).out = s.out ∧
    (State.hearFree start count written s).pending = s.pending := by
  simp only [State.hearFree]
  (repeat' split) <;> simp

@[simp] theorem State.hearHello_frame (s : State) :
    s.hearHello.hp = s.hp ∧ s.hearHello.chains = s.chains ∧ s.hearHello.ec = s.ec ∧
    s.hearHello.wq.nextId = s.wq.nextId ∧ s.hearHello.te = s.te ∧ s.hearHello.hm = s.hm ∧
    s.hearHello.tm.own = s.tm.own ∧ s.hearHello.tm.cylinder = s.tm.cylinder ∧ s.hearHello.tm.moving = s.tm.moving ∧
    s.hearHello.tm.presence = s.tm.presence ∧ s.hearHello.tm.courtesy = s.tm.courtesy ∧
    s.hearHello.tm.peerSeeks = s.tm.peerSeeks ∧ s.hearHello.lu.station = s.lu.station ∧
    s.hearHello.lu.exchange = s.lu.exchange ∧ s.hearHello.lu.peerExchange = s.lu.peerExchange ∧
    s.hearHello.lu.peerSeekFell = s.lu.peerSeekFell ∧ s.hearHello.lu.backoff = s.lu.backoff ∧
    s.hearHello.lu.failedHeard = s.lu.failedHeard ∧ s.hearHello.lu.collisionCount = s.lu.collisionCount ∧
    s.hearHello.lu.lastCollided = s.lu.lastCollided ∧ s.hearHello.lu.armed = s.lu.armed ∧ s.hearHello.rdm = s.rdm ∧
    s.hearHello.out = s.out ∧ s.hearHello.pending = s.pending := by
  simp only [State.hearHello]
  (repeat' split) <;> simp

@[simp] theorem State.idle_frame (s : State) :
    s.idle.tm.presence = s.tm.presence ∧ s.idle.tm.peerSeeks = s.tm.peerSeeks ∧ s.idle.pending = s.pending := by
  simp only [State.idle]
  (repeat' split) <;> simp

@[simp] theorem State.withFetchWord_frame (s : State) (nbits w : Nat) :
    (s.withFetchWord nbits w).hp = s.hp ∧ (s.withFetchWord nbits w).chains = s.chains ∧
    (s.withFetchWord nbits w).ec = s.ec ∧ (s.withFetchWord nbits w).wq = s.wq ∧
    (s.withFetchWord nbits w).te = s.te ∧ (s.withFetchWord nbits w).hm = s.hm ∧
    (s.withFetchWord nbits w).tm = s.tm ∧ (s.withFetchWord nbits w).lu = s.lu ∧
    (s.withFetchWord nbits w).rdm = s.rdm ∧ (s.withFetchWord nbits w).out = s.out := by
  simp only [State.withFetchWord]
  (repeat' split) <;> simp

end Sys2Proof.Machine
end

