-- ==== Sys2Proof/Laws/Cases.lean ====
section
/-! SUPPORT. What each operation that goes on by one of several ways can answer, said once: one equation per case; the
station clash, the least slack and the RELEASE that must stand, in words of the spec. -/

namespace Sys2Proof.Machine

open Sys2Proof

/-! The step. -/

theorem step_of_cons {s : State} {c : Instr} {rest : List Instr} (h : s.pending = c :: rest) :
    step s = exec c { s with pending := rest } := by simp [step, h]

theorem step_of_nil {s : State} (h : s.pending = []) : step s = .next s.idle := by simp [step, h]

theorem State.idle_cases (s : State) :
    s.idle = s.begin.resumeAll ∧ s.begin.resumeDue = true ∨
      s.idle = s.begin.endImage.startTransfer ∧ s.begin.resumeDue = false ∧ s.begin.transferDue = true ∨
      s.idle = s.begin.quantum ∧ s.begin.resumeDue = false ∧ s.begin.transferDue = false := by
  simp only [State.idle]
  repeat' split
  all_goals simp_all

/-! Fetched elements. -/

theorem State.takeElement_of_no_fetch {s : State} {k : ElementKind} {e : Element} {run : ElemInfo → State → State}
    (h : ∀ n, s.hp.current ≠ some (.fetch n)) : s.takeElement k e run = s := by
  simp only [State.takeElement]

theorem State.takeElement_of_fetch {s : State} {n : Fin 4} {k : ElementKind} {e : Element}
    {run : ElemInfo → State → State} (h : s.hp.current = some (.fetch n)) :
    let i := elemInfo n (s.chain n).next k e
    let t := s.endTransfer.onChain n fun c => { c with inFlight := c.inFlight + 1, next := c.next + 16 }
    s.takeElement k e run =
      if (s.chain n).state ≠ .running then t.takeUnexamined i
      else if legalFields k e = false then t.takeIllegal i
      else if runCondition e.condition (s.chain n).flags = false then
        t.completePlain i .skipped none (selectorPlace (s.chain n) k e)
      else run i t := by
  simp [State.takeElement, h]

/-! The engine goes on, or gives its request up. -/

theorem State.goOn_cases (s : State) (k : State → State) :
    s.goOn k = s.suspend.engineIdled ∧ s.te.suspendAfter = true ∨ s.goOn k = k s ∧ s.te.suspendAfter = false := by
  simp only [State.goOn]
  split <;> simp_all

theorem State.select_cases (s : State) :
    s.select = s ∧ s.te.phase ≠ .idle ∨
      s.te.phase = .idle ∧ (s.select = s.formEligible ∧ s.formEligible.choice = none ∨
        ∃ r, s.formEligible.choice = some r ∧ s.select = s.formEligible.takeRequest r) := by
  simp only [State.select]
  repeat' split
  all_goals simp_all

theorem State.slip_cases (s : State) (cause : SlipCause) :
    s.slip cause = s ∧ s.activeRequest = none ∨
      ∃ r, s.activeRequest = some r ∧
        (8 ≤ r.slips ∧ s.slip cause =
            (s.withdraw FrameBody.isTransfer).endRequest .fault (some cause.fault) false ∨
          r.slips < 8 ∧ s.slip cause =
            ((((s.withdraw FrameBody.isTransfer).onRequest r.id fun x => { x with slips := x.slips + 1 }).onTe fun t =>
              { t with lastSlip := cause }).goOn fun s => s.setPhase .leadWait)) := by
  simp only [State.slip]
  split
  · simp_all
  · rename_i r h
    refine .inr ⟨r, h, ?_⟩
    by_cases h8 : 8 ≤ r.slips
    · simp [h8]
    · simp [h8]; omega

theorem State.displace_cases (s : State) (k : State → State) :
    s.displace k = s ∧ s.activeRequest = none ∨
      ∃ r, s.activeRequest = some r ∧
        (3 ≤ r.displacements ∧ s.displace k = s.endRequest .fault (some .positionerLost) false ∨
          r.displacements < 3 ∧
            let t := s.onRequest r.id fun x => { x with displacements := x.displacements + 1 }
            s.displace k = if t.tm.own.isHolding then t.goOn k else t.suspend.engineIdled) := by
  simp only [State.displace]
  split
  · simp_all
  · rename_i r h
    refine .inr ⟨r, h, ?_⟩
    by_cases h3 : 3 ≤ r.displacements
    · simp [h3]
    · simp [h3]; omega

theorem State.handBack_cases (s : State) (q : Request → RequestState) :
    s.handBack q = s.idleEngine ∧ s.activeRequest = none ∨
      ∃ r, s.activeRequest = some r ∧
        (s.mayNotReturn r = true ∧ s.handBack q = s.finish .aborted none false ∨
          s.mayNotReturn r = false ∧ s.handBack q = (s.onRequest r.id fun x => { x with state := q x }).idleEngine) := by
  simp only [State.handBack]
  repeat' split
  all_goals simp_all

theorem State.notDone_cases (s : State) (k : State → State) :
    s.notDone k = s ∧ s.activeRequest = none ∨
      ∃ r, s.activeRequest = some r ∧
        (r.state = .ending ∧ s.notDone k = s.releaseReceiving.endRequest .aborted none false ∨
          r.state ≠ .ending ∧ s.releaseReceiving.te.downAfter = true ∧
            s.notDone k = s.releaseReceiving.endRequest .fault (some .driveDown) false ∨
          r.state ≠ .ending ∧ s.releaseReceiving.te.downAfter = false ∧ s.notDone k = k s.releaseReceiving) := by
  simp only [State.notDone]
  repeat' split
  all_goals simp_all

/-! The line. -/

theorem State.startChosen_cases (s : State) :
    s.startChosen = s ∧ s.chosen = none ∨ ∃ i f, s.chosen = some (i, f) ∧ s.startChosen = s.startFrame i f := by
  simp only [State.startChosen]
  split <;> simp_all

theorem State.noticeSilence_cases (s : State) (f : Frame) :
    f.silences = 0 ∧ s.tm.presence ≠ .absent ∧
        s.noticeSilence f =
          (s.onLu fun l => { l with frames := { f with silences := 1, collisions := 0 } :: l.frames }).settleAsk f.body ∨
      (f.silences ≠ 0 ∨ s.tm.presence = .absent) ∧ s.noticeSilence f = s.noticeUnanswered f.body := by
  simp only [State.noticeSilence]
  split <;> rename_i h
  · simp [h]
  · refine .inr ⟨?_, rfl⟩
    by_cases h0 : f.silences = 0
    · exact .inr (by simpa [h0] using h)
    · exact .inl h0

theorem State.settleAsk_cases (s : State) (b : FrameBody) :
    s.settleAsk b = s ∨
      ∃ c, b = .tenure c ∧ s.tm.own.isHolding = true ∧ s.te.phase = .tenureWait ∧ s.te.target.cylinder ≠ c ∧
        s.settleAsk b = s.reposition := by
  simp only [State.settleAsk]
  repeat' split
  all_goals simp_all

theorem State.peerNotice_of_listening {s : State} (takesAnswer : Bool) (act : State → State)
    (h : s.peerBegins.listens = true) : s.peerNotice takesAnswer act = act s.peerBegins.peerPresent.spoilNotice := by
  have : s.peerBegins.peerPresent.spoilNotice.listens = true := by
    simp only [State.listens] at h ⊢
    simpa using h
  simp_all [State.peerNotice, State.peerHeard]

theorem State.peerNotice_of_deaf {s : State} (takesAnswer : Bool) (act : State → State)
    (h : s.peerBegins.listens = false) (hx : s.lu.exchange = none) :
    s.peerNotice takesAnswer act = if takesAnswer then s.peerBegins.peerStands none else s.peerBegins := by
  simp_all [State.peerNotice, State.peerHeard, State.spoilNotice, State.peerBegins]

theorem State.spoilNotice_of_none {s : State} (h : ∀ x ∈ s.lu.exchange, x.frame.body.isAnswered = false) :
    s.spoilNotice = s := by
  simp only [State.spoilNotice]
  split
  · rfl
  · rename_i x hx
    simp [h x hx]

theorem State.driveAnswer_of_own {s : State} {x : Exchange} (fits : FrameBody → Bool) (fitsPeer : PeerOrder → Bool)
    (own : Exchange → State → State) (peer : State → State) (h : s.lu.exchange = some x)
    (ho : x.frame.body.isOrder = true) (hf : fits x.frame.body = true) (hd : x.discarded = false) :
    s.driveAnswer fits fitsPeer own peer = own x s.endExchange.driveHeard := by
  simp [State.driveAnswer, h, ho, hf, hd]

theorem State.driveAnswer_of_peer {s : State} {p : PeerExchange} {o : PeerOrder} (fits : FrameBody → Bool)
    (fitsPeer : PeerOrder → Bool) (own : Exchange → State → State) (peer : State → State) (h : s.lu.exchange = none)
    (hp : s.lu.peerExchange = some p) (ho : p.order = some o) (hf : fitsPeer o = true) :
    s.driveAnswer fits fitsPeer own peer = peer (s.onLu fun l => { l with peerExchange := none }).driveHeard := by
  obtain ⟨_, _, _⟩ := p
  simp_all [State.driveAnswer]

theorem State.earlyAnswer_cases (s : State) (fits : FrameBody → Bool) (fitsPeer : PeerOrder → Bool)
    (own : Exchange → State → State) (peer : State → State) :
    s.earlyAnswer fits fitsPeer own peer = s ∧ s.lu.pastEarly = true ∨
      s.earlyAnswer fits fitsPeer own peer = s.driveAnswer fits fitsPeer own peer ∧ s.lu.pastEarly = false := by
  simp only [State.earlyAnswer]
  split <;> simp_all

/-! Acts that may leave the engine idle. -/

theorem State.following_cases (s : State) (act : State → State) :
    s.following act = (act s).engineIdled ∧ s.te.phase ≠ .idle ∧ (act s).te.phase = .idle ∨
      s.following act = act s ∧ (s.te.phase = .idle ∨ (act s).te.phase ≠ .idle) := by
  simp only [State.following]
  split <;> simp_all
  by_cases h : s.te.phase = .idle <;> simp_all

/-! Windows. -/

theorem State.closeWindow_of_own {s : State} {x : Exchange} (elapsed : Nat) (h : s.lu.exchange = some x) :
    s.closeWindow elapsed =
      if x.ends elapsed then s.exchangeSilent x
      else if earlyCloses x.frame.body.isTransfer x.earlyOver elapsed then
        s.onLu fun l => { l with exchange := some { x with earlyOver := true } }
      else s := by
  simp [State.closeWindow, h]

/-! The station clash. -/

theorem State.clashes_iff (s : State) (frame : List Word) :
    s.clashes frame = true ↔
      frameValid frame = true ∧
        (1 ≤ frameKind frame ∧ frameKind frame ≤ 5 ∨ 16 ≤ frameKind frame ∧ frameKind frame ≤ 27) ∧
        frameSource frame = (if s.lu.station then 1 else 0) ∧ ∀ x ∈ s.lu.exchange, x.frame.body ≠ .release := by
  simp only [State.clashes, State.sending, adapterKind]
  cases h : s.lu.exchange with
  | none => simp [and_assoc]
  | some x =>
    have : x.frame.body.isRelease = false ↔ x.frame.body ≠ .release := by
      cases x.frame.body <;> simp [FrameBody.isRelease]
    simp [and_assoc, this]

/-! The least slack. -/

theorem leastOf_le (l : List (Option Int)) (k : Int) :
    (∃ a, leastOf l = some a ∧ a ≤ k) ↔ ∃ x ∈ l, ∃ a, x = some a ∧ a ≤ k := by
  induction l with
  | nil => simp [leastOf]
  | cons x l ih =>
    simp only [List.mem_cons, exists_eq_or_imp, ← ih]
    simp only [leastOf, List.foldr_cons] at *
    generalize List.foldr slackMin none l = y
    cases x <;> cases y <;> simp [slackMin, slackLt]
    split <;> simp_all <;> omega

theorem State.leastSlackAt_le (s : State) (c : Nat) (k : Int) :
    (∃ a, s.leastSlackAt c = some a ∧ a ≤ k) ↔
      ∃ r ∈ s.wq.records,
        (r.state = .active ∨
          (r.state = .holdWait ∨ r.state = .ready ∨ r.state = .blocked) ∧ (s.nextTarget r).cylinder = c) ∧
        ∃ a, s.slackOf r = some a ∧ a ≤ k := by
  simp only [State.leastSlackAt, leastOf_le, List.mem_map, List.mem_filter]
  constructor
  · rintro ⟨x, ⟨r, ⟨hr, hp⟩, rfl⟩, a, ha, hk⟩
    exact ⟨r, hr, by simpa [Request.queued, or_assoc] using hp, a, ha, hk⟩
  · rintro ⟨r, hr, hp, a, ha, hk⟩
    exact ⟨_, ⟨r, ⟨hr, by simpa [Request.queued, or_assoc] using hp⟩, rfl⟩, a, ha, hk⟩

theorem State.slackOf_le (s : State) (r : Request) (k : Int) :
    (∃ a, s.slackOf r = some a ∧ a ≤ k) ↔
      ∃ b, r.budget = some b ∧
        (b : Int) - (span s.cfg.interleave (r.count - r.done) + (if r.started then 0 else r.cost) : Nat) ≤ k := by
  simp only [State.slackOf]
  cases r.budget with
  | none => simp
  | some b =>
    cases r.started <;> simp
    omega

/-! The RELEASE. -/

/-- R137: after `offerRelease` a RELEASE stands wherever one must. -/
theorem State.offerRelease_stands (s : State) : ReleaseStands s.offerRelease := by
  simp only [State.offerRelease]
  split
  · simp only [State.offerReleaseOnce]
    split
    · rename_i h2
      intro _ _ _ _
      simp only [LineUnit.isPending, Bool.or_eq_true, List.any_eq_true] at h2
      rcases h2 with ⟨f, hf, h⟩ | h
      · refine .inl ⟨f, hf, ?_⟩
        revert h
        cases f.body <;> simp [FrameBody.isRelease]
      · exact .inr h
    · intro _ _ _ ha
      refine .inl ?_
      simp only [State.offer] at ha ⊢
      split
      · rename_i h
        exact absurd h (by rwa [if_pos h] at ha)
      · simp [State.onLu]
  · rename_i h
    intro h1 h2 h3 _
    simp [h1, h2, h3] at h

end Sys2Proof.Machine
end

