-- ==== Sys2Proof/Laws/Suspension.lean ====
section
/-! SUPPORT. What becomes of the engine's request when it is suspended (R85, R97): it stands where it stood, READY or
chosen again, or it leaves ABORTED; and what follows an idle engine leaves of a record, of the engine and of the completions
asked, said once. -/

namespace Sys2Proof.Machine

open Sys2Proof

/-! What hold operations leave of the queue (R70): requests in HOLD-WAIT may have been woken, nothing else. -/

/-- A record in HOLD-WAIT that `p` picks is READY (R70). -/
def Request.woken (p : Request → Bool) (r : Request) : Request :=
  if r.state == .holdWait && p r then { r with state := .ready } else r

@[simp] theorem Request.woken_id (p : Request → Bool) (r : Request) : (r.woken p).id = r.id := by
  simp only [Request.woken]; split <;> rfl

theorem Request.woken_of_ne {r : Request} (p : Request → Bool) (h : r.state ≠ .holdWait) : r.woken p = r := by
  simp [Request.woken, h]

@[simp] theorem Request.woken_none : Request.woken (fun _ => false) = (fun r => r) := by
  funext r; simp [Request.woken]

theorem Request.woken_woken (p q : Request → Bool) (r : Request) :
    (r.woken p).woken q = r.woken fun r => p r || q r := by
  by_cases h : r.state = .holdWait
  · by_cases hp : p r = true <;> simp [Request.woken, h, hp]
  · simp [Request.woken, h]

/-- The records of `t` are those of `s` in their order, but that some in HOLD-WAIT are READY (R70). -/
def Woken (s t : State) : Prop := ∃ p, t.wq.records = s.wq.records.map (Request.woken p)

theorem Woken.of_eq {s t : State} (h : t.wq = s.wq) : Woken s t :=
  ⟨fun _ => false, by simp [h]⟩

theorem Woken.refl (s : State) : Woken s s := .of_eq rfl

theorem Woken.trans {s t u : State} (h : Woken s t) (k : Woken t u) : Woken s u := by
  obtain ⟨p, hp⟩ := h
  obtain ⟨q, hq⟩ := k
  exact ⟨fun r => p r || q r, by simp [hq, hp, Function.comp_def, Request.woken_woken]⟩

theorem Woken.foldl {β : Type} {f : State → β → State} (h : ∀ s b, Woken s (f s b)) (l : List β) (s : State) :
    Woken s (l.foldl f s) := by
  induction l generalizing s with
  | nil => exact .refl s
  | cons b l ih => exact (h s b).trans (ih _)

/-- The names stand in their order. -/
theorem Woken.ids {s t : State} (h : Woken s t) : t.wq.records.map Request.id = s.wq.records.map Request.id := by
  obtain ⟨p, hp⟩ := h
  simp [hp, Function.comp_def]

/-- A record that is not in HOLD-WAIT stands unchanged. -/
theorem Woken.mem {s t : State} (h : Woken s t) {r : Request} (hr : r ∈ s.wq.records) (hs : r.state ≠ .holdWait) :
    r ∈ t.wq.records := by
  obtain ⟨p, hp⟩ := h
  exact hp ▸ List.mem_map.mpr ⟨r, hr, r.woken_of_ne p hs⟩

theorem State.onHm_woken (s : State) (f : HoldManager → HoldManager) : Woken s (s.onHm f) := .of_eq rfl

theorem State.onEntry_woken (s : State) (id : Nat) (f : HoldEntry → HoldEntry) : Woken s (s.onEntry id f) := .of_eq rfl

theorem State.completeHold_woken (s : State) (e : HoldEntry) (st : Status) (f : Option ElementFault) (p : Bool) :
    Woken s (s.completeHold e st f p) := .of_eq (by simp)

theorem State.completeUnhold_woken (s : State) (e : HoldEntry) : Woken s (s.completeUnhold e) := .of_eq (by simp)

theorem State.wakeRequests_woken (s : State) (id : Nat) : Woken s (s.wakeRequests id) :=
  ⟨fun r => r.hold == some id, by simp [State.wakeRequests, Request.woken]⟩

theorem State.becomeHeld_woken (s : State) (id : Nat) (silent : Bool) : Woken s (s.becomeHeld id silent) := by
  simp only [State.becomeHeld]
  split
  · exact .refl s
  · exact ((State.onEntry_woken _ _ _).trans (State.wakeRequests_woken _ _)).trans (State.completeHold_woken _ _ _ _ _)

theorem State.joinList_woken (s : State) (e : HoldEntry) : Woken s (s.joinList e) := by
  simp only [State.joinList]
  split
  · exact (State.onHm_woken _ _).trans (State.becomeHeld_woken _ _ _)
  · exact .of_eq (by simp)

theorem State.recheckLine_woken (s : State) : Woken s s.recheckLine := by
  refine .foldl (fun s e => ?_) _ _
  simp only [State.recheckEntry]
  split
  · exact .refl s
  · exact (State.onHm_woken _ _).trans (State.joinList_woken _ _)

theorem State.removeEntry_woken (s : State) (e : HoldEntry) : Woken s (s.removeEntry e) := by
  simp only [State.removeEntry]
  split
  · exact .trans (.of_eq (by split <;> simp)) (State.recheckLine_woken _)
  · exact .of_eq (by split <;> simp)

theorem State.endReference_woken (s : State) (id : Nat) : Woken s (s.endReference id) := by
  simp only [State.endReference]
  repeat' split
  · exact .refl s
  · exact ((State.onEntry_woken _ _ _).trans (State.removeEntry_woken _ _)).trans (State.completeUnhold_woken _ _)
  · exact .of_eq (by simp)
  · exact .of_eq (by simp)

/-! Completion writes asked stay asked. -/

theorem mem_asked {s : State} {c : Completion} :
    c ∈ asked s ↔ .completion c ∈ s.hp.waiting ∨ ∃ id, (id, c) ∈ s.hp.heldBack := by
  simp only [asked, List.mem_append, List.mem_filterMap, List.mem_map, Prod.exists, exists_eq_right]
  refine or_congr ⟨?_, fun h => ⟨_, h, rfl⟩⟩ Iff.rfl
  rintro ⟨x, hx, h⟩
  cases x <;> simp_all

/-- What was asked in `s` is asked in `t`. -/
def Asks (s t : State) : Prop := ∀ c ∈ asked s, c ∈ asked t

theorem Asks.of_eq {s t : State} (h : t.hp.waiting = s.hp.waiting) (k : t.hp.heldBack = s.hp.heldBack) : Asks s t := by
  simp [Asks, mem_asked, h, k]

theorem Asks.refl (s : State) : Asks s s := fun _ h => h

theorem Asks.trans {s t u : State} (h : Asks s t) (k : Asks t u) : Asks s u := fun c hc => k c (h c hc)

theorem Asks.foldl {β : Type} {f : State → β → State} (h : ∀ s b, Asks s (f s b)) (l : List β) (s : State) :
    Asks s (l.foldl f s) := by
  induction l generalizing s with
  | nil => exact .refl s
  | cons b l ih => exact (h s b).trans (ih _)

theorem State.onHm_asks (s : State) (f : HoldManager → HoldManager) : Asks s (s.onHm f) := .of_eq rfl rfl

theorem State.onEntry_asks (s : State) (id : Nat) (f : HoldEntry → HoldEntry) : Asks s (s.onEntry id f) := .of_eq rfl rfl

theorem State.askTransfer_asks (s : State) (t : Transfer) : Asks s (s.askTransfer t) := by
  simp only [Asks, mem_asked, State.askTransfer, State.onHp]
  rintro c (h | h)
  · exact .inl (List.mem_append_left _ h)
  · exact .inr h

theorem State.complete_asks (s : State) (c : Completion) : Asks s (s.complete c) := State.askTransfer_asks _ _

theorem State.completeAfterData_asks (s : State) (id : Nat) (c : Completion) :
    Asks s (s.completeAfterData id c) ∧ c ∈ asked (s.completeAfterData id c) := by
  simp only [State.completeAfterData]
  split
  · refine ⟨fun x hx => ?_, mem_asked.mpr (.inr ⟨id, by simp [State.onHp]⟩)⟩
    rcases mem_asked.mp hx with h | ⟨i, h⟩
    · exact mem_asked.mpr (.inl h)
    · exact mem_asked.mpr (.inr ⟨i, by simp [State.onHp, h]⟩)
  · exact ⟨State.complete_asks _ _, mem_asked.mpr (.inl (by simp [State.complete, State.askTransfer, State.onHp]))⟩

theorem State.completeHold_asks (s : State) (e : HoldEntry) (st : Status) (f : Option ElementFault) (p : Bool) :
    Asks s (s.completeHold e st f p) := by
  simp only [State.completeHold]
  split
  · exact .refl s
  · exact State.complete_asks _ _

theorem State.becomeHeld_asks (s : State) (id : Nat) (silent : Bool) : Asks s (s.becomeHeld id silent) := by
  simp only [State.becomeHeld]
  split
  · exact .refl s
  · exact .trans (.of_eq (by simp) (by simp)) (State.completeHold_asks _ _ _ _ _)

theorem State.joinList_asks (s : State) (e : HoldEntry) : Asks s (s.joinList e) := by
  simp only [State.joinList]
  split
  · exact (State.onHm_asks _ _).trans (State.becomeHeld_asks _ _ _)
  · exact .of_eq (by simp) (by simp)

theorem State.recheckLine_asks (s : State) : Asks s s.recheckLine := by
  refine .foldl (fun s e => ?_) _ _
  simp only [State.recheckEntry]
  split
  · exact .refl s
  · exact (State.onHm_asks _ _).trans (State.joinList_asks _ _)

theorem State.removeEntry_asks (s : State) (e : HoldEntry) : Asks s (s.removeEntry e) := by
  simp only [State.removeEntry]
  split
  · exact (Asks.of_eq (by split <;> simp) (by split <;> simp)).trans (State.recheckLine_asks _)
  · exact .of_eq (by split <;> simp) (by split <;> simp)

theorem State.completeUnhold_asks (s : State) (e : HoldEntry) : Asks s (s.completeUnhold e) := by
  simp only [State.completeUnhold]
  split
  · exact .refl s
  · exact State.complete_asks _ _

theorem State.endReference_asks (s : State) (id : Nat) : Asks s (s.endReference id) := by
  simp only [State.endReference]
  repeat' split
  · exact .refl s
  · exact ((State.onEntry_asks _ _ _).trans (State.removeEntry_asks _ _)).trans (State.completeUnhold_asks _ _)
  · exact .of_eq (by simp) (by simp)
  · exact .of_eq (by simp) (by simp)

theorem State.discardBuf_asks (s : State) (n : BufferName) : Asks s (s.discardBuf n) := by
  simp only [State.discardBuf]
  repeat' split
  case h_5.isFalse =>
    intro c hc
    rcases mem_asked.mp hc with h | ⟨i, h⟩
    · exact mem_asked.mpr (.inl (by simp [State.onHp, Transfer.loads, h]))
    · exact mem_asked.mpr (.inr ⟨i, by simpa using h⟩)
  all_goals exact .of_eq (by simp) (by simp)

theorem State.idleEngine_asks (s : State) : Asks s s.idleEngine := by
  simp only [State.idleEngine, State.discardData]
  exact (Asks.of_eq (by simp) (by simp)).trans
    ((State.discardBuf_asks _ _).trans ((State.discardBuf_asks _ _).trans (.of_eq rfl rfl)))

/-! A request leaves the queue (R71). -/

/-- All that `leaveQueue` does to the queue and the completions asked. -/
theorem State.leaveQueue_leaves (s : State) (r : Request) (st : Status) (f : Option ElementFault) (m p : Bool) :
    Asks s (s.leaveQueue r st f m p) ∧ CompletionAsked (s.leaveQueue r st f m p) r st f ∧
      ∃ t, Woken s t ∧ (s.leaveQueue r st f m p).wq.records = t.wq.records.filter fun q => q.id != r.id := by
  let c : Completion := { s.outcome r.elem st f (outcomeBits st m r.late r.changedOut r.shortOut p) r.done r.extent with
    asksNext := !r.elem.last && !r.elem.stream }
  let a := s.completeAfterData r.id c
  let b := match r.hold with
    | none => a
    | some id => a.endReference id
  let d := match r.kind, r.extent with
    | .append, some (t, n) => b.onDescriptor t n fun d => d.returned r.id (r.count - r.done)
    | _, _ => b
  have h1 := State.completeAfterData_asks s r.id c
  have h2 : Asks a b ∧ Woken a b := by
    simp only [b]
    split
    · exact ⟨.refl _, .refl _⟩
    · exact ⟨State.endReference_asks _ _, State.endReference_woken _ _⟩
  have h3 : d.hp = b.hp ∧ d.wq = b.wq := by simp only [d]; split <;> simp
  have h4 : Asks b (d.dropRequest r.id) := .of_eq (by simp [h3]) (by simp [h3])
  refine ⟨h1.1.trans (h2.1.trans h4), ⟨c, h4 c (h2.1 c h1.2), ?_⟩, d, ?_, rfl⟩
  · simp [c, State.outcome, outcomeBits]
  · exact .trans (.of_eq (by simp [a])) (h2.2.trans (.of_eq h3.2))

/-! Selection after a request has gone back (R82, R85). -/

theorem State.loadOne_te (s : State) (r : Request) :
    (s.loadOne r).te.request = s.te.request ∧ (s.loadOne r).te.phase = s.te.phase ∧
      (s.loadOne r).te.maintenanceOver = s.te.maintenanceOver ∧ (s.loadOne r).te.target = s.te.target := by
  simp only [State.loadOne]
  repeat' split
  · rename_i n _ _ _
    cases n <;> simp [State.setBuf, Engine.setBuf]
  · simp

theorem State.loadAhead_te (s : State) :
    s.loadAhead.te.request = s.te.request ∧ s.loadAhead.te.phase = s.te.phase ∧
      s.loadAhead.te.maintenanceOver = s.te.maintenanceOver ∧ s.loadAhead.te.target = s.te.target := by
  simp only [State.loadAhead]
  repeat' split
  · simp
  · simp [State.loadOne_te]
  · simp

/-- Positioning suspends the request, or leaves the queue as it is with the engine at work on its request (R93). -/
theorem State.positionAt_cases (s : State) :
    s.positionAt = s.suspend ∨
      s.positionAt.wq = s.wq ∧ s.positionAt.te.request = s.te.request ∧ s.positionAt.te.phase ≠ .idle := by
  have hl : s.enterLead.te.phase = .leadWait := by simp [State.enterLead]
  have hs : s.enterSettle.te.phase = .settle := by simp [State.enterSettle]
  have hw : s.waitTenure.te.phase = .tenureWait := by
    simp only [State.waitTenure, State.askTenure, State.reannounce]
    repeat' split
    all_goals simp [State.setPhase]
  have hp : (s.setPhase .tenureWait).te.phase = .tenureWait := by simp [State.setPhase]
  simp only [State.positionAt]
  repeat' split
  all_goals first | exact .inl rfl | simp [hl, hs, hw, hp]

/-- An engine gone IDLE has no request and no order pending (R97). -/
def EngineFree (s : State) : Prop :=
  s.te.request = none ∧ s.te.phase = .idle ∧ ∀ f ∈ s.lu.frames, f.body.isOrder = false

theorem State.idleEngine_free (s : State) : EngineFree s.idleEngine := by
  refine ⟨by simp [State.idleEngine], by simp [State.idleEngine], fun f hf => ?_⟩
  simp only [State.idleEngine, State.onTe, State.discardData_frame, State.withdraw, State.onLu, List.mem_filter] at hf
  simpa using hf.2

/-- Nothing keeps a request from going back to the queue: its chain is not STOPPING, and it is not DIRECT outside
MAINTENANCE (R65, R85). -/
def MayWait (s : State) (r : Request) : Prop :=
  (s.chain r.elem.chain).state ≠ .stopping ∧ (r.isDirect = true → s.hp.adapter = .maintenance)

theorem WorkQueue.find_of_mem {q : WorkQueue} {r : Request} (hq : (q.records.map Request.id).Nodup)
    (hr : r ∈ q.records) : q.find r.id = some r := by
  simp only [WorkQueue.find]
  cases h : q.records.find? fun x => x.id == r.id with
  | none => simpa using List.find?_eq_none.mp h r hr
  | some x =>
    have hx := List.mem_of_find?_eq_some h
    have hi : x.id = r.id := by simpa using List.find?_some h
    rw [List.inj_on_of_nodup_map hq hx hr hi]

theorem WorkQueue.find_mem {q : WorkQueue} {r : Request} {id : Nat} (h : q.find id = some r) :
    r ∈ q.records ∧ r.id = id :=
  ⟨List.mem_of_find?_eq_some h, by simpa using List.find?_some h⟩

theorem State.activeRequest_mem {s : State} {r : Request} (h : s.activeRequest = some r) :
    r ∈ s.wq.records ∧ s.te.request = some r.id := by
  simp only [State.activeRequest] at h
  split at h
  · cases h
  · rename_i id hid
    exact ⟨(WorkQueue.find_mem h).1, by rw [hid, (WorkQueue.find_mem h).2]⟩

theorem WorkQueue.modify_ids (q : WorkQueue) (id : Nat) {f : Request → Request} (hf : ∀ r, (f r).id = r.id) :
    (q.modify id f).records.map Request.id = q.records.map Request.id := by
  simp only [WorkQueue.modify, List.map_map]
  refine List.map_congr_left fun r _ => ?_
  simp only [Function.comp_apply]
  split <;> simp [hf]

theorem WorkQueue.mem_modify_of_ne {q : WorkQueue} {r : Request} {id : Nat} (f : Request → Request) (hr : r ∈ q.records)
    (hi : r.id ≠ id) : r ∈ (q.modify id f).records :=
  List.mem_map.mpr ⟨r, hr, by simp [hi]⟩

theorem WorkQueue.mem_modify {q : WorkQueue} {r : Request} (f : Request → Request) (hr : r ∈ q.records) :
    f r ∈ (q.modify r.id f).records :=
  List.mem_map.mpr ⟨r, hr, by simp⟩

/-- A suspension leaves the engine free, keeps the names in their order, and leaves every record that is not the
engine's, in HOLD-WAIT or not to be kept, where it is (R85). -/
theorem State.suspend_queue (s : State) {r : Request} (hr : r ∈ s.wq.records) (hs : r.state ≠ .holdWait)
    (hi : s.te.request ≠ some r.id) :
    EngineFree s.suspend ∧ (s.suspend.wq.records.map Request.id).Sublist (s.wq.records.map Request.id) ∧
      r ∈ s.suspend.wq.records := by
  rcases s.handBack_cases fun _ => .ready with ⟨h, _⟩ | ⟨q, hq, ⟨_, h⟩ | ⟨_, h⟩⟩ <;> rw [State.suspend, h]
  · exact ⟨State.idleEngine_free _, by simp, by simpa⟩
  · have hn : r.id ≠ q.id := fun e => hi (e ▸ (State.activeRequest_mem hq).2)
    simp only [State.finish, hq]
    obtain ⟨_, _, t, ht, hl⟩ := s.leaveQueue_leaves q .aborted none false (s.hm.peerSilent q.hold)
    refine ⟨State.idleEngine_free _, ?_, ?_⟩ <;>
      simp only [State.idleEngine_frame, State.completeRequest, hl]
    · rw [← ht.ids]
      exact List.filter_sublist.map _
    · exact List.mem_filter.mpr ⟨ht.mem hr hs, by simpa using hn⟩
  · have hn : r.id ≠ q.id := fun e => hi (e ▸ (State.activeRequest_mem hq).2)
    refine ⟨State.idleEngine_free _, ?_, ?_⟩ <;> simp only [State.idleEngine_frame, State.onRequest, State.onWq_wq]
    · rw [WorkQueue.modify_ids _ _ (by simp)]
    · exact WorkQueue.mem_modify_of_ne _ hr hn

/-- A suspension of the engine's request, where it may return, leaves it READY at its place (R85). -/
theorem State.suspend_request (s : State) {r : Request} (ha : s.activeRequest = some r)
    (hm : s.mayNotReturn r = false) :
    EngineFree s.suspend ∧ s.suspend.wq.records.map Request.id = s.wq.records.map Request.id ∧
      { r with state := .ready } ∈ s.suspend.wq.records := by
  rcases s.handBack_cases fun _ => .ready with ⟨_, h⟩ | ⟨q, hq, h⟩
  · simp [h] at ha
  obtain rfl : r = q := by simpa [ha] using hq
  rcases h with ⟨h, _⟩ | ⟨_, h⟩
  · simp [hm] at h
  rw [State.suspend, h]
  have hr := (State.activeRequest_mem ha).1
  refine ⟨State.idleEngine_free _, ?_, ?_⟩ <;> simp only [State.idleEngine_frame, State.onRequest, State.onWq_wq]
  · rw [WorkQueue.modify_ids _ _ (by simp)]
  · exact WorkQueue.mem_modify (fun x : Request => { x with state := .ready }) hr

/-- What selection may change of a record (R82). -/
def Afresh (r u : Request) : Prop :=
  u = { r with state := u.state, cost := u.cost, slack := u.slack, urgent := u.urgent }

theorem firstLeast_mem {lt : Request → Request → Bool} {l : List Request} {r : Request} (h : firstLeast lt l = some r) :
    r ∈ l := by
  induction l generalizing r with
  | nil => cases h
  | cons a l ih =>
    simp only [firstLeast] at h
    split at h
    · cases h; simp
    · rename_i b hb
      split at h <;> cases h <;> simp [ih hb]

theorem State.choice_mem {s : State} {r : Request} (h : s.choice = some r) :
    r ∈ s.wq.records ∧ s.eligible r = true := by
  simp only [State.choice, choose] at h
  refine List.mem_filter.mp ?_
  repeat' split at h
  · cases h; exact List.mem_of_mem_filter (firstLeast_mem ‹_›)
  · cases h; exact List.mem_of_mem_filter (firstLeast_mem ‹_›)
  · exact firstLeast_mem h

theorem State.formEligible_ids (s : State) :
    s.formEligible.wq.records.map Request.id = s.wq.records.map Request.id := by
  simp only [State.formEligible, State.onWq_wq, List.map_map]
  refine List.map_congr_left fun x _ => ?_
  simp only [Function.comp_apply]
  split <;> rfl

/-- The request of an engine that has gone IDLE, READY again, stands READY or has been chosen again (R82, R85). -/
theorem State.select_returns {s : State} {r : Request} (hq : (s.wq.records.map Request.id).Nodup)
    (hr : r ∈ s.wq.records) (hs : r.state = .ready) (hm : MayWait s r) (hf : EngineFree s) :
    Returned s s.select r ∧ (s.select.te.request = none ∨ s.select.te.phase ≠ .idle) := by
  obtain ⟨hf1, hf2, hf3⟩ := hf
  -- the records as selection has formed them
  have hids := s.formEligible_ids
  obtain ⟨v, hv, hva, hvs⟩ : ∃ v ∈ s.formEligible.wq.records, Afresh r v ∧ v.state = .ready := by
    refine ⟨_, List.mem_map.mpr ⟨r, hr, rfl⟩, ?_⟩
    split
    · simp [Afresh, State.withCost, State.withSlack, hs]
    · exact ⟨rfl, hs⟩
  have hvi : v.id = r.id := by rw [hva]
  have hve : v.elem = r.elem ∧ v.kind = r.kind := by rw [hva]; exact ⟨rfl, rfl⟩
  rcases s.select_cases with ⟨_, h⟩ | ⟨_, ⟨h, _⟩ | ⟨q, hc, h⟩⟩
  · exact absurd hf2 h
  · rw [h]
    exact ⟨⟨⟨v, hv, .inl ⟨hvs, by simp [hf1]⟩, hva⟩, by rw [hids], fun _ => by simpa using ⟨hf2, hf3⟩⟩, by simp [hf1]⟩
  rw [h]
  have hqm := (State.choice_mem hc).1
  generalize hw : s.formEligible = w at *
  have hwc : w.chains = s.chains ∧ w.hp = s.hp := by simp [← hw]
  -- the record taken
  generalize ht : ((w.onRequest q.id fun x => { x with state := .active }).onTe fun t => { t with
    request := some q.id
    sector := q.done
    target := (w.onRequest q.id fun x => { x with state := .active }).nextTarget q
    lastSlip := .none
    maintenanceOver := false }).loadAhead = t
  have hte : t.te.request = some q.id ∧ t.te.maintenanceOver = false := by
    rw [← ht]; simp [State.loadAhead_te]
  have htw : t.wq = w.wq.modify q.id fun x => { x with state := .active } := by rw [← ht]; simp [State.onRequest]
  have htc : t.chains = s.chains ∧ t.hp.adapter = s.hp.adapter := by rw [← ht]; simp [hwc]
  have htq : ({ q with state := .active } : Request) ∈ t.wq.records := by
    rw [htw]; exact WorkQueue.mem_modify (fun x : Request => { x with state := .active }) hqm
  have hti : t.wq.records.map Request.id = s.wq.records.map Request.id := by
    rw [htw, WorkQueue.modify_ids _ _ (by simp), hids]
  have hta : t.activeRequest = some { q with state := .active } := by
    simp only [State.activeRequest, hte.1]
    exact WorkQueue.find_of_mem (by rwa [hti]) htq
  have hpos : w.takeRequest q = (t.onTe fun e => { e with sector := q.done, target := t.nextTarget { q with
      state := .active } }).positionAt := by
    simp only [State.takeRequest, ht, State.position, hta]
  generalize hp : (t.onTe fun e => { e with sector := q.done, target := t.nextTarget { q with state := .active } }) = p
    at hpos
  have hpw : p.wq = t.wq ∧ p.te.request = t.te.request ∧ p.te.maintenanceOver = t.te.maintenanceOver ∧
      p.chains = t.chains ∧ p.hp = t.hp := by rw [← hp]; simp
  rw [hpos]
  by_cases hqr : q.id = r.id
  · -- the request itself has been chosen
    obtain rfl : q = v := List.inj_on_of_nodup_map (by rwa [hids]) hqm hv (by rw [hqr, hvi])
    have hact : Afresh r { q with state := .active } := by rw [Afresh, hva]
    rcases p.positionAt_cases with hsus | ⟨h1, h2, h3⟩
    · have hmay : p.mayNotReturn { q with state := .active } = false := by
        have hst : (p.chain q.elem.chain).state ≠ .stopping := by
          simpa [State.chain, hpw.2.2.2.1, htc.1, hve.1] using hm.1
        simp only [State.mayNotReturn, Bool.or_eq_false_iff, Bool.and_eq_false_iff]
        refine ⟨by simpa using hst, ?_⟩
        by_cases hd : r.isDirect = true
        · right; simp [hpw, hte, htc, hm.2 hd]
        · left; simpa [Request.isDirect, hve.2] using hd
      obtain ⟨e1, e2, e3⟩ := p.suspend_request (r := { q with state := .active })
        (by simpa [State.activeRequest, hpw.1, hpw.2.1] using hta) hmay
      rw [hsus]
      refine ⟨⟨⟨_, e3, .inl ⟨rfl, by simp [e1.1]⟩, ?_⟩, by rw [e2, hpw.1, hti], fun _ => e1.2⟩, .inl e1.1⟩
      rw [hva]
    · refine ⟨⟨⟨_, by rw [h1, hpw.1]; exact htq, .inr ⟨rfl, by rw [h2, hpw.2.1, hte.1, hqr]⟩, hact⟩,
        by rw [h1, hpw.1, hti], fun h0 => ?_⟩, .inr h3⟩
      simp [h2, hpw.2.1, hte.1] at h0
  · -- another has been chosen
    have hvt : v ∈ p.wq.records := by
      rw [hpw.1, htw]; exact WorkQueue.mem_modify_of_ne _ hv (by rw [hvi]; exact Ne.symm hqr)
    rcases p.positionAt_cases with hsus | ⟨h1, h2, h3⟩
    · obtain ⟨e1, e2, e3⟩ := p.suspend_queue hvt (by simp [hvs]) (by rw [hpw.2.1, hte.1, hvi]; simpa using hqr)
      rw [hsus]
      exact ⟨⟨⟨v, e3, .inl ⟨hvs, by simp [e1.1]⟩, hva⟩, by rw [← hti, ← hpw.1]; exact e2, fun _ => e1.2⟩, .inl e1.1⟩
    · refine ⟨⟨⟨v, by rwa [h1], .inl ⟨hvs, by rw [h2, hpw.2.1, hte.1]; simpa using hqr⟩, hva⟩,
        by rw [h1, hpw.1, hti], fun h0 => ?_⟩, .inr h3⟩
      simp [h2, hpw.2.1, hte.1] at h0

theorem State.offerRelease_frames (s : State) :
    ∀ f ∈ s.offerRelease.lu.frames, f ∈ s.lu.frames ∨ f.body = .release := by
  simp only [State.offerRelease, State.offerReleaseOnce, State.offer]
  repeat' split
  all_goals simp +contextual [State.onLu, or_imp]

/-- What follows an engine that has gone IDLE leaves a READY request READY, or has chosen it again (R82, R85, R136). -/
theorem State.engineIdled_returns {s : State} {r : Request} (hq : (s.wq.records.map Request.id).Nodup)
    (hr : r ∈ s.wq.records) (hs : r.state = .ready) (hm : MayWait s r) (hf : EngineFree s) :
    Returned s s.engineIdled r := by
  obtain ⟨⟨h1, h2, h3⟩, h4⟩ := State.select_returns hq hr hs hm hf
  rw [State.engineIdled]
  generalize s.select = t at h1 h2 h3 h4
  have htest : t.idleTenureTest.te = t.te ∧ t.idleTenureTest.wq = t.wq ∧
      ∀ f ∈ t.idleTenureTest.lu.frames, f ∈ t.lu.frames ∨ f.body = .release := by
    simp only [State.idleTenureTest]
    split
    · rename_i h
      have hn : t.te.request = none := by
        rcases h4 with h4 | h4
        · exact h4
        · simp [h4] at h
      simp only [State.endTenure]
      split
      · rename_i c n _
        have hsame : ((t.setOwn (.ending c n)).withdraw FrameBody.isTenure).suspendAfterExchange =
            (t.setOwn (.ending c n)).withdraw FrameBody.isTenure := by
          simp [State.suspendAfterExchange, State.activeRequest, hn]
        rw [hsame]
        refine ⟨by simp, by simp, fun f hf => ?_⟩
        refine (State.offerRelease_frames _ f hf).imp_left fun h => ?_
        simp only [State.withdraw, State.onLu] at h
        simpa using List.mem_of_mem_filter h
      · exact ⟨rfl, rfl, fun _ => .inl⟩
    · exact ⟨rfl, rfl, fun _ => .inl⟩
  refine ⟨by simpa [htest.1, htest.2.1] using h1, by simpa [htest.2.1] using h2, fun h => ?_⟩
  obtain ⟨h5, h6⟩ := h3 (by simpa [htest.1] using h)
  refine ⟨by simpa [htest.1] using h5, fun f hf => ?_⟩
  rcases State.offerRelease_frames _ f hf with hf | hf
  · rcases htest.2.2 f hf with hf | hf
    · exact h6 f hf
    · simp [hf, FrameBody.isOrder]
  · simp [hf, FrameBody.isOrder]

/-! What follows an idle engine, whatever its request: completions asked stay asked, no record comes. -/

/-- Completions asked stay asked, and the names of the queue are some of those before, in their order. -/
def Sheds (s t : State) : Prop :=
  Asks s t ∧ (t.wq.records.map Request.id).Sublist (s.wq.records.map Request.id)

theorem Sheds.of_eq {s t : State} (h : t.hp.waiting = s.hp.waiting) (k : t.hp.heldBack = s.hp.heldBack)
    (q : t.wq.records.map Request.id = s.wq.records.map Request.id) : Sheds s t := ⟨.of_eq h k, by rw [q]⟩

theorem Sheds.refl (s : State) : Sheds s s := .of_eq rfl rfl rfl

theorem Sheds.trans {s t u : State} (h : Sheds s t) (k : Sheds t u) : Sheds s u :=
  ⟨h.1.trans k.1, k.2.trans h.2⟩

theorem Sheds.asked {s t : State} (h : Sheds s t) {r : Request} {st : Status} {f : Option ElementFault}
    (hc : CompletionAsked s r st f) : CompletionAsked t r st f := by
  obtain ⟨c, hc, h'⟩ := hc
  exact ⟨c, h.1 c hc, h'⟩

theorem Sheds.left {s t : State} (h : Sheds s t) {id : Nat} (hl : Left s id) : Left t id := by
  intro r hr e
  obtain ⟨x, hx, hi⟩ := List.mem_map.mp (h.2.subset (List.mem_map.mpr ⟨r, hr, rfl⟩))
  exact hl x hx (hi.trans e)

theorem State.onTe_sheds (s : State) (f : Engine → Engine) : Sheds s (s.onTe f) := .of_eq rfl rfl rfl

theorem State.onRequest_sheds (s : State) (id : Nat) {f : Request → Request} (hf : ∀ r, (f r).id = r.id) :
    Sheds s (s.onRequest id f) := .of_eq rfl rfl (WorkQueue.modify_ids _ _ hf)

theorem State.offerRelease_sheds (s : State) : Sheds s s.offerRelease := .of_eq (by simp) (by simp) (by simp)

theorem State.idleEngine_sheds (s : State) : Sheds s s.idleEngine := ⟨s.idleEngine_asks, by simp⟩

/-- The engine's request that ends leaves the queue with its completion asked, and the engine is free (R110). -/
theorem State.finish_leaves {s : State} {r : Request} (ha : s.activeRequest = some r) (st : Status)
    (f : Option ElementFault) (m : Bool) :
    Sheds s (s.finish st f m) ∧ CompletionAsked (s.finish st f m) r st f ∧ Left (s.finish st f m) r.id ∧
      EngineFree (s.finish st f m) := by
  obtain ⟨h1, h2, t, ht, hl⟩ := s.leaveQueue_leaves r st f m (s.hm.peerSilent r.hold)
  simp only [State.finish, ha]
  have hs : Sheds s (s.completeRequest r st f m) :=
    ⟨h1, by rw [State.completeRequest, hl, ← ht.ids]; exact List.filter_sublist.map _⟩
  have hi := (s.completeRequest r st f m).idleEngine_sheds
  refine ⟨hs.trans hi, hi.asked h2, hi.left fun q hq => ?_, State.idleEngine_free _⟩
  rw [State.completeRequest, hl] at hq
  simpa using (List.mem_filter.mp hq).2

theorem State.suspend_sheds (s : State) : Sheds s s.suspend := by
  rcases s.handBack_cases fun _ => .ready with ⟨h, _⟩ | ⟨r, hr, ⟨_, h⟩ | ⟨_, h⟩⟩ <;> rw [State.suspend, h]
  · exact s.idleEngine_sheds
  · exact (State.finish_leaves hr _ _ _).1
  · have h1 : Sheds s (s.onRequest r.id fun x => { x with state := .ready }) := s.onRequest_sheds r.id fun _ => rfl
    exact h1.trans (State.idleEngine_sheds _)

theorem State.positionAt_sheds (s : State) : Sheds s s.positionAt := by
  simp only [State.positionAt]
  repeat' split
  all_goals first | exact s.suspend_sheds | exact .of_eq (by simp) (by simp) (by simp)

theorem State.loadAhead_sheds (s : State) : Sheds s s.loadAhead := by
  have h1 : ∀ (u : State) r, Sheds u (u.loadOne r) := by
    intro u r
    simp only [State.loadOne]
    split
    · exact .trans (.of_eq (by simp) (by simp) (by simp)) ⟨State.askTransfer_asks _ _, by simp⟩
    · exact .refl u
  simp only [State.loadAhead]
  repeat' split
  · exact .refl s
  · exact (h1 _ _).trans (h1 _ _)
  · exact .refl s

theorem State.position_sheds (s : State) : Sheds s s.position := by
  simp only [State.position]
  split
  · exact .refl s
  · rename_i r _
    have h1 : Sheds s (s.onTe fun t => { t with sector := r.done, target := s.nextTarget r }) := s.onTe_sheds _
    exact h1.trans (State.positionAt_sheds _)

theorem State.takeRequest_sheds (s : State) (q : Request) : Sheds s (s.takeRequest q) := by
  have h1 : Sheds s (s.onRequest q.id fun x => { x with state := .active }) := s.onRequest_sheds q.id fun _ => rfl
  simp only [State.takeRequest]
  generalize (s.onRequest q.id fun x => { x with state := .active }) = u at *
  exact (h1.trans (u.onTe_sheds _)).trans ((State.loadAhead_sheds _).trans (State.position_sheds _))

theorem State.select_sheds (s : State) : Sheds s s.select := by
  rcases s.select_cases with ⟨h, _⟩ | ⟨_, ⟨h, _⟩ | ⟨q, _, h⟩⟩ <;> rw [h]
  · exact .refl s
  · exact .of_eq rfl rfl s.formEligible_ids
  · have h1 : Sheds s s.formEligible := .of_eq rfl rfl s.formEligible_ids
    exact h1.trans (State.takeRequest_sheds _ q)

theorem State.suspendAfterExchange_sheds (s : State) : Sheds s s.suspendAfterExchange := by
  simp only [State.suspendAfterExchange]
  repeat' split
  · exact .refl s
  · exact .refl s
  · exact .of_eq rfl rfl rfl
  · exact s.suspend_sheds

theorem State.endTenure_sheds (s : State) : Sheds s s.endTenure := by
  simp only [State.endTenure]
  split
  · rename_i c n _
    have h1 : Sheds s ((s.setOwn (.ending c n)).withdraw FrameBody.isTenure) := .of_eq rfl rfl rfl
    exact (h1.trans (State.suspendAfterExchange_sheds _)).trans (State.offerRelease_sheds _)
  · exact .refl s

theorem State.engineIdled_sheds (s : State) : Sheds s s.engineIdled := by
  refine (s.select_sheds.trans ?_).trans (State.offerRelease_sheds _)
  simp only [State.idleTenureTest]
  split
  · exact State.endTenure_sheds _
  · exact .refl _

/-- The engine's request is suspended, and what follows is done (R85, R97): the whole of it. -/
theorem State.suspend_engineIdled {s : State} {r : Request} (hq : (s.wq.records.map Request.id).Nodup)
    (ha : s.activeRequest = some r) : SuspendedAs s s.suspend.engineIdled r r := by
  have hi := s.suspend.engineIdled_sheds
  simp only [SuspendedAs]
  split
  · rename_i hm
    have h : s.suspend = s.finish .aborted none false := by simp [State.suspend, State.handBack, ha, hm]
    obtain ⟨_, h1, h2, _⟩ := State.finish_leaves ha .aborted none false
    rw [← h] at h1 h2
    exact ⟨hi.asked h1, hi.left h2⟩
  · rename_i hm
    obtain ⟨e1, e2, e3⟩ := s.suspend_request ha (by simpa using hm)
    have hw : MayWait s.suspend { r with state := .ready } := by
      simp only [State.mayNotReturn, Bool.or_eq_true, not_or] at hm
      refine ⟨by simpa [State.chain] using hm.1, fun hd => ?_⟩
      have := hm.2
      simp_all [Request.isDirect]
    obtain ⟨⟨u, h1, h2, h3⟩, h4, h5⟩ := State.engineIdled_returns (by rwa [e2]) e3 rfl hw e1
    exact ⟨⟨u, h1, h2, h3⟩, by rwa [e2] at h4, h5⟩

end Sys2Proof.Machine
end

