-- ==== Sys2Proof/Tests/Slice0.lean ====
section
/-! SUPPORT. Tests. Expected results come from the tables, worked cases and rules of the spec named beside them. A
`witness` theorem shows states and operands that meet the hypotheses of the statement it is named after. -/

namespace Sys2Proof.Tests

open Sys2Proof Sys2Proof.Machine

/-! Helpers. -/

/-- The state a command leaves. -/
def after (c : Instr) (s : State) : State :=
  match exec c s with
  | .next t => t
  | _ => s

/-- An element of a kind code with words 0 (options), 1, 2, 3, 4; its buffer word is 0. -/
def element (kind options w1 w2 w3 w4 : Nat) : Element :=
  ⟨word (4096 * kind + options), word w1, word w2, word w3, word w4, 0, 0, 0, 0, 0, 0, 0⟩

/-- Descriptors: FIXED 0..99, WORKING 100..199, a full LOG of ten sectors, a LOG with WRAP at its last sector. -/
def privTable : List Descriptor :=
  [⟨.fixed, 3, 0, 99, false, 0, false, false, false, false, 0, none⟩,
    ⟨.working, 3, 100, 99, false, 0, false, false, false, false, 0, none⟩,
    ⟨.log, 3, 200, 9, false, 10, false, false, false, false, 0, none⟩,
    ⟨.log, 3, 300, 9, true, 9, false, false, false, false, 0, none⟩]

/-- The null descriptor, and a WORKING descriptor of level 1 on blocks 400 to 499. -/
def commTable : List Descriptor :=
  [.empty, ⟨.working, 1, 400, 99, false, 0, false, false, true, false, 0, none⟩]

/-- A configured adapter with an idle Chain Unit: drive UP, slot 5, positioner on cylinder 0, peer PRESENT. -/
def up : State :=
  { State.powerUp false true [] with
    hp := { HostPort.reset .powerUp with adapter := .running, setup := some ⟨3, 2, 4, 20, true⟩ }
    ec := ⟨4, 2, privTable, commTable⟩
    tm := { TenureManager.reset with cylinder := some 0, presence := .present }
    rdm := { Monitor.reset true true with counter := some 5, drive := .up } }

/-- Chain 0 RUNNING with nothing in flight. -/
def running : State := { up with chains := up.chains.set 0 { Chain.reset with state := .running, next := 1000 } }

/-- The fetch of chain 0 is under way. -/
def fetching : State := { running with hp := { running.hp with current := some (.fetch 0) } }

/-- A request of chain 0 on the Private WORKING descriptor, sectors 0 to 2 of it, with one element in flight. -/
def request (id : Nat) (k : RequestKind) (st : RequestState) : Request :=
  { newRequest id ⟨0, 900, .disk k, false, false, false⟩ k (element 2 0 256 0 3 0) (some (.priv, 1)) 100 3 0 false false
      none st with state := st }

/-- A running adapter with one request in the queue, ACTIVE. -/
def active (r : Request) : State :=
  { running with
    wq := ⟨[r], r.id + 1⟩
    te := { Engine.reset with phase := .leadWait, request := some r.id, target := ⟨1, 1, 0⟩ }
    tm := { running.tm with own := .holding 1 4, cylinder := some 1 } }

/-- An exchange of the engine's order for the request. -/
def serving (b : FrameBody) (r : Request) : State :=
  { active r with
    te := { (active r).te with phase := .exchange }
    lu := { (active r).lu with exchange := some ⟨⟨b, 0, 0, false⟩, some r.id, true, false, false, false, false⟩ } }

/-- The request of `serving` with its counts: `done` of three sectors. -/
def doing (k : RequestKind) (n : Nat) : Request := { request 0 k .active with done := n }

/-- The exchange of an order of the one request, as `serving` builds it. -/
def order (b : FrameBody) : Exchange := ⟨⟨b, 0, 0, false⟩, some 0, true, false, false, false, false⟩

/-- The exchange of a notice. -/
def noticing (b : FrameBody) (s : State) : State :=
  { s with lu := { s.lu with exchange := some ⟨⟨b, 0, 0, false⟩, none, false, false, false, false, false⟩ } }

/-- A hold entry of chain 0 on blocks 400 to 403. -/
def entry (st : HoldState) (origin : Origin) : HoldEntry :=
  ⟨0, 400, 4, .exclusive, 0, origin, st, true, false, false, 0, none, 0, none, none⟩

/-- One entry on the Hold List. -/
def holding (y : HoldEntry) (s : State) : State := { s with hm := ⟨[y], [], y.id + 1⟩ }

theorem test_states_meet_the_laws :
    [up, running, fetching, active (request 0 .write .active), serving (.write ⟨1, 1, 0⟩) (request 0 .write .active),
      holding (entry .held .explicit) running].all (fun s =>
        decide (TenureExclusive s ∧ QueueBounded s ∧ HoldListSound s ∧ LineCountsInRange s ∧ MonitorInRange s.rdm ∧
          NamesFresh s)) = true := by decide

/-- A pulse with no order in hand. -/
def pulse : Pulse := ⟨none, false⟩

/-! Well-formedness: each check refuses an ill-formed command and takes a well-formed one. -/

/-- ACTION codes (11.2): the row's own code is asked. -/
theorem test_wellFormed_action :
    [Instr.setup 0x2000, .startChain 0x1000, .abortChain 0x4000, .illegalAction 0x1000, .illegalAction 0x2000,
        .illegalAction 0x3000].all (fun c => !c.wellFormed) = true ∧
      [Instr.setup 0x1000, .startChain 0x2013, .abortChain 0x3030, .illegalAction 0x4000, .illegalAction 0].all
        Instr.wellFormed = true := by decide

/-- Kind codes of the elements (11.3): each row refuses the next kind's code and takes its own. -/
theorem test_wellFormed_kind :
    [Instr.read (element 2 0 0 0 1 0), .write (element 3 0 0 0 1 0), .append (element 4 0 0 0 1 0),
        .compare (element 5 0 0 0 1 0), .scan (element 6 0 0 0 1 0), .holdShared (element 7 0 0 0 1 0),
        .holdExclusive (element 8 0 0 0 1 0), .unhold (element 9 0 0 0 1 0), .select (element 10 0 0 0 0 0),
        .inspectDescriptor (element 10 0 0 1 0 0), .inspectDescriptor (element 11 0 0 0 0 0),
        .inspectLineRecord (element 10 0 0 2 0 0), .inspectLineRecord (element 9 0 0 1 0 0),
        .inspectPositionRecord (element 10 0 0 0 0 0), .inspectPositionRecord (element 9 0 0 2 0 0),
        .setClock (element 12 0 0 0 0 0), .maintainOn (element 12 0 0 2 0 0), .maintainOn (element 13 0 0 1 0 0),
        .maintainOff (element 12 0 0 1 0 0), .maintainOff (element 13 0 0 2 0 0), .directRead (element 14 0 0 0 0 0),
        .directWrite (element 15 0 0 0 0 0), .illegalElement (element 1 0 0 0 1 0)].all (fun c => !c.wellFormed) = true ∧
      [Instr.read (element 1 0 0 0 1 0), .write (element 2 0 0 0 1 0), .append (element 3 0 0 0 1 0),
        .compare (element 4 0 0 0 1 0), .scan (element 5 0 0 0 1 0), .holdShared (element 6 0 0 0 1 0),
        .holdExclusive (element 7 0 0 0 1 0), .unhold (element 8 0 0 0 1 0), .select (element 9 0 0 0 0 0),
        .inspectDescriptor (element 10 0 0 0 0 0), .inspectLineRecord (element 10 0 0 1 0 0),
        .inspectPositionRecord (element 10 0 0 2 0 0), .setClock (element 11 0 0 0 0 0),
        .maintainOn (element 12 0 0 1 0 0), .maintainOff (element 12 0 0 2 0 0), .directRead (element 13 0 0 0 0 0),
        .directWrite (element 14 0 0 0 0 0), .illegalElement (element 15 0 0 0 0 0),
        .illegalElement (element 0 0 0 0 0 0)].all Instr.wellFormed = true := by decide

/-- Numbers of places, words and images. -/
theorem test_wellFormed_counts :
    [Instr.setupImagesRead (List.replicate 64 ⟨0, 0, 0, 0⟩), .bufferLoaded (List.replicate 127 0), .requestExpiry 16,
        .holdWaitExpiry 16, .holdBudgetExpiry 28, .reclaim 8].all (fun c => !c.wellFormed) = true ∧
      [Instr.setupImagesRead (List.replicate 63 ⟨0, 0, 0, 0⟩), .bufferLoaded (List.replicate 128 0), .requestExpiry 15,
        .holdWaitExpiry 15, .holdBudgetExpiry 27, .reclaim 7].all Instr.wellFormed = true := by decide +kernel

/-- Contents of frames heard, at the ends of the ranges of R114, and frames that fail or pass their check. -/
theorem test_wellFormed_frames :
    [Instr.wrongCylinder 400, .data (List.replicate 127 0) 0, .data (List.replicate 128 0) 2, .senseReply 4 0,
        .senseReply 3 400, .peerSeek 400 .accepted false, .peerTenureHeard 400 1, .peerTenureHeard 0 0,
        .peerTenureHeard 0 16, .peerPreemptHeard 0, .peerPreemptHeard (-1265), .peerClaimHeard 0 0,
        .peerClaimHeard 0 65, .peerClaimHeard 31999 2, .peerClaimHeard 0 0x101, .peerFreeHeard 31999 2,
        .peerFreeHeard 0 0x8000, .clash 16, .frameCheckFailed [27, -27], .stationClash [27, 0],
        .stationClash [0x8006, -0x8006]].all (fun c => !c.wellFormed) = true ∧
      [Instr.wrongCylinder 399, .data (List.replicate 128 0) 1, .senseReply 3 399, .peerSeek 399 .accepted false,
        .peerTenureHeard 399 15, .peerPreemptHeard (-1), .peerPreemptHeard (-1264), .peerClaimHeard 31999 1,
        .peerClaimHeard 0 0x8040, .peerFreeHeard 31936 64, .clash 0, .clash 15, .frameCheckFailed [27, 0],
        .stationClash [27, -27]].all Instr.wellFormed = true := by decide +kernel

/-! Section 1: tables and worked cases. -/

/-- The table of R2, and the full track with I = 3. -/
theorem test_interleave_table :
    [1, 3, 7, 9, 11, 13, 17, 19].map (fun i => (List.range 6).map (slotOfLogical i)) =
      [[0, 1, 2, 3, 4, 5], [0, 3, 6, 9, 12, 15], [0, 7, 14, 1, 8, 15], [0, 9, 18, 7, 16, 5], [0, 11, 2, 13, 4, 15],
        [0, 13, 6, 19, 12, 5], [0, 17, 14, 11, 8, 5], [0, 19, 18, 17, 16, 15]] ∧
    (List.range 20).map (slotOfLogical 3) = [0, 3, 6, 9, 12, 15, 18, 1, 4, 7, 10, 13, 16, 19, 2, 5, 8, 11, 14, 17] := by
  decide

/-- The table of R12. -/
theorem test_seek_estimate_table :
    [0, 1, 10, 11, 20, 91, 100, 191, 200, 391, 399].map (seekEstimate (some 0)) =
      [0, 7, 7, 8, 8, 16, 16, 26, 26, 46, 46] ∧ seekEstimate none 17 = 46 := by decide

/-- The table of R14. -/
theorem test_rotational_wait_table :
    [0, 1, 2, 3, 18, 19].map (rotationalWait (some 0) 0) = [20, 1, 2, 3, 18, 19] := by decide

/-- The table of R17. -/
theorem test_budget_table :
    [0, 1, 2, 3, 30, 100, 65535].map budgetOf = [none, some 1, some 1, some 2, some 24, some 80, some 52428] := by decide

/-- Case 1 of 1.6: block 12,445 with I = 3, positioner on 140, slot 11. -/
theorem test_case1 :
    (List.range 4).map (fun i => targetOf 3 (12445 + i)) = [⟨155, 2, 15⟩, ⟨155, 2, 18⟩, ⟨155, 2, 1⟩, ⟨155, 2, 4⟩] ∧
      seekEstimate (some 140) 155 = 8 ∧ rotationalWait (some 11) 8 15 = 16 ∧
      costAt (some 140) (some 11) ⟨155, 2, 15⟩ = 24 ∧ span 3 4 = 10 := by decide

/-- Case 2 of 1.6: the costs at the slots 11 to 15. -/
theorem test_case2 :
    [11, 12, 13].map (fun s => costAt (some 140) (some s) ⟨155, 2, 15⟩) = [24, 23, 22] ∧
      [14, 15].map (fun s => costAt (some 155) (some s) ⟨155, 2, 15⟩) = [1, 20] := by decide

/-- Case 3 of 1.6: five sectors from block 2,398 with I = 7, positioner UNKNOWN, slot 3. -/
theorem test_case3 :
    (List.range 5).map (fun i => targetOf 7 (2398 + i)) =
      [⟨29, 3, 6⟩, ⟨29, 3, 13⟩, ⟨30, 0, 0⟩, ⟨30, 0, 7⟩, ⟨30, 0, 14⟩] ∧
      costAt none (some 3) ⟨29, 3, 6⟩ = 63 ∧ span 7 5 = 29 ∧ span 7 3 = 15 := by decide

/-! The pulse sequences of 1.3: counter, synthetic-run count, revolution count, late window open, drive state. -/

/-- What the tables of 1.3 show of the monitor. -/
def shown (s : State) : Option Nat × Nat × Nat × Bool × DriveState :=
  (s.rdm.counter, s.rdm.synthRun, s.rdm.revCount, decide (0 < s.rdm.lateLeft), s.rdm.drive)

/-- The drive UP at a slot. -/
def atSlot (n synth : Nat) : State :=
  { up with rdm := { up.rdm with counter := some n, revCount := n, synthRun := synth } }

/-- A missing INDEX: SECTOR, synthetic slot, window close, SECTOR. -/
theorem test_missing_index :
    shown (after (.sectorPulse pulse) (atSlot 18 0)) = (some 19, 0, 19, false, .up) ∧
      shown (after (.syntheticSlot none) (atSlot 19 0)) = (some 0, 1, 0, true, .up) ∧
      shown (after .lateWindowClose (after (.syntheticSlot none) (atSlot 19 0))) = (some 0, 1, 0, false, .up) ∧
      shown (after (.sectorPulse pulse) (atSlot 0 1)) = (some 1, 0, 1, false, .up) := by decide

/-- A late INDEX: the substitute stood for the revolution event. -/
theorem test_late_index :
    shown (after (.indexPulse pulse) (after (.syntheticSlot none) (atSlot 19 0))) = (some 0, 0, 0, false, .up) := by
  decide

/-- A stopping spindle: the first, the sixteenth and the twentieth synthetic slot. -/
theorem test_stopping_spindle :
    shown (after (.syntheticSlot none) (atSlot 4 0)) = (some 5, 1, 5, true, .up) ∧
      shown (after (.syntheticSlot none) (atSlot 19 15)) = (some 0, 16, 0, true, .up) ∧
      shown (after (.syntheticSlot none) (atSlot 3 19)) = (none, 20, 4, true, .down) ∧
      shown (after (.syntheticSlot none) (after (.syntheticSlot none) (atSlot 3 19))) = (none, 20, 5, true, .down) := by
  decide

/-! Words of Section 11, written out from their layouts. -/

/-- Frames of 11.7: header with source and kind, content, check word that makes the sum zero. -/
theorem test_frame_words :
    frameWords true 27 [] = [0x401B, 0xBFE5] ∧ frameWords false 1 [399] = [1, 399, 0xFE70] ∧
      frameWords false 2 ((FrameBody.read ⟨155, 2, 15⟩).content 4) = [2, 155, 0x0F02, 0xF061] ∧
      (FrameBody.claim 7 12445 4 .exclusive).content 4 = [12445, 0x8004] ∧ (FrameBody.preempt (-3)).content 4 = [0xFFFD] ∧
      (FrameBody.tenure 29).content 4 = [29, 4] := by decide

/-- STATE right after power-up reset with the strap open: UNCONFIGURED, NONE, presence UNKNOWN, drive not up; and of a
RUNNING adapter with chain 0 RUNNING, drive UP, peer PRESENT (11.2). -/
theorem test_state_word : stateWord State.reset = 0 ∧ stateWord running = 0x401A := by decide

/-- A completion area (11.4): FAULT, OFFSET LIMIT, done count 3, F set, Common index 2, UNSET stamp. -/
theorem test_completion_words :
    Completion.words ⟨⟨0, 0, .disk .read, false, false, false⟩, .fault, some .offsetLimit,
      ⟨true, false, false, false, false, false⟩, 3, some (.common, 2), ⟨true, 0, 0, 0, 0⟩, .byKind, true, none, false,
      false⟩ = [0x8703, 0x8302, 0x8000, 0] := by decide

/-- The position record of `running` (11.6): no tenure, no peer record (fields that do not apply are 0, R145), positioner
on 0, slot 5, UP. -/
theorem test_position_record : positionRecord running = [0, 0, 0x0014, 0] := by decide

/-! Witnesses: queue, host words, setup, chains. -/

/-- Sixteen READY requests. -/
def full (s : State) : State := { s with wq := ⟨(List.range 16).map fun i => request i .write .ready, 16⟩ }

/-- Chain 0 holds a READ back because the queue was full. -/
def resuming : State :=
  { running with chains := running.chains.set 0 { running.chain 0 with
      held := some ⟨⟨0, 900, .disk .read, false, false, false⟩, element 1 0 0 5 3 0⟩
      wait := ⟨true, false, false, false⟩ } }

theorem witness_EmptyQueueStepPassesTime :
    (resuming.pending = [] ∧ (resuming.chain 0).held ≠ none ∧ resuming.wq.records.length < 16) ∧
      (let s := { running with hp := { running.hp with waiting := [.fetch 0] } };
        s.pending = [] ∧ (∀ n, (s.chain n).held = none) ∧ s.hp.current = none ∧ s.hp.waiting ≠ []) ∧
      (let s := { running with hp := { running.hp with current := some (.image 7 [1]) } };
        s.pending = [] ∧ (∀ n, (s.chain n).held = none) ∧ s.hp.current = some (.image 7 [1])) ∧
      (let s := { up with rdm := { up.rdm with timer := 201 } };
        s.pending = [] ∧ (∀ n, (s.chain n).held = none) ∧ s.hp.current = none ∧ s.hp.waiting = [] ∧
          s.hp.tod.running = false ∧
          s.rdm.lateLeft = 0 ∧ s.rdm.lateSubstitute = false ∧ 200 < s.rdm.timer) ∧
      (let s := full resuming;
        s.pending = [] ∧ (s.chain 0).held ≠ none ∧ 16 ≤ s.wq.records.length ∧ 200 < s.rdm.timer ∧ s.hp.current = none ∧
          s.hp.waiting = []) ∧
      (let s := { up with
          rdm := { up.rdm with timer := 150, lateLeft := 100 }
          hp := { up.hp with tod := ⟨true, 23, 59, 59, 9, 200, .past⟩ } };
        s.pending = [] ∧ (∀ n, (s.chain n).held = none) ∧ s.rdm.timer ≤ 200 ∧ s.hp.current = none ∧ s.hp.waiting = [] ∧
          (match step s with
            | .next t => decide ((t.rdm.counter, t.rdm.timer, t.rdm.lateLeft) = (some 6, 12450, 3075) ∧
                t.hp.tod = ⟨true, 0, 0, 0, 0, 1000000, .past⟩)
            | _ => false) = true) := by decide

/-- The clock one tenth before midnight (R182). -/
def midnight : State := { up with hp := { up.hp with tod := ⟨true, 23, 59, 59, 9, 1, .past⟩ } }

theorem witness_HostWordsAndClockTick :
    midnight.hp.tod.InRange ∧ midnight.hp.tod.running = true ∧ up.hp.tod.InRange ∧ up.hp.tod.running = false ∧
      (after .todAdvance midnight).hp.tod = ⟨true, 0, 0, 0, 0, 1000000, .advanced⟩ := by decide

/-- A setup at address 64 whose header has been read: two Private positions, one Common. -/
def setupHeader : SetupHeader := ⟨3, 2, 4, 20, 1, 2, 1⟩

/-- The setup in progress with a transfer of it under way. -/
def settingUp (t : Transfer) : State :=
  { State.powerUp false true [] with
    hp := { HostPort.reset .powerUp with current := some t, progress := some ⟨64, some setupHeader, .none, none⟩ } }

/-- Two images: FIXED level 1 base 0 limit 99; LOG with WRAP, base 31,990, limit 9, fill 9. -/
def images : List Image := [⟨0x2800, 0, 99, 0⟩, ⟨0x6400, 31990, 9, 9⟩]

/-- The result word of a refusal FILL MARK OUT OF RANGE at Common index 31: 15 in bits 15 to 11, present, Common. -/
theorem witness_SetupBeginsAndEnds :
    (let s := { settingUp .setupResult with hp := { (settingUp .setupResult).hp with
        progress := some ⟨64, none, .fillMark, some (.common, 31)⟩ } };
      s.hp.current = some .setupResult ∧ s.hp.progress = some ⟨64, none, .fillMark, some (.common, 31)⟩ ∧
        (31 : Nat) < 32 ∧ (after .setupResultWritten s).out = [.hostWrite [(64, 0x7B1F)]]) ∧ Quiet up := by decide

theorem witness_StartChainIsRefusedOrMakesTheRecord :
    ((3 : Fin 4).val = (0x2032 : Word).toNat / 16 % 4) ∧ ((after (.startChain 0x2032) up).chain 3).level = 2 ∧
      (after (.startChain 0x2000) running).hp.refusal = .slotBusy := by decide

/-- Chain 0 with a HOLD that waits in the line for a place, its range covered by HELD SHARED entries, and with a queued
READ whose implicit entry takes the eighth place. -/
def waitingHold : State :=
  let y : Nat → HoldEntry := fun i => { entry .held .explicit with id := i, mode := .shared, chain := 1 }
  { running with
    wq := ⟨[{ request 0 .read .ready with hold := some 7 }], 1⟩
    hm := ⟨(List.range 7).map y ++ [{ y 7 with origin := .implicit, chain := 0, refs := 1 }],
      [{ y 8 with state := .pending, chain := 0, holdElem := some (⟨0, 900, .hold .shared, false, false, false⟩, .common, 1) }],
      9⟩ }

/-- The HOLD that waits when its chain is aborted ends ABORTED and its entry is removed, although the place that the
abort frees would have made it HELD (R50, R54, R156). -/
theorem test_abort_of_a_waiting_hold :
    NamesFresh waitingHold ∧ (waitingHold.chain 0).state = .running ∧ waitingHold.hp.progress = none ∧
      (let t := after (.abortChain 0x3000) waitingHold;
        (asked t).map (fun c => (c.info.kind, c.status)) = [(.disk .read, .aborted), (.hold .shared, .aborted)] ∧
          ((t.hm.list ++ t.hm.line).map fun z => z.id) = List.range 7) := by decide

theorem witness_AbortChainStopsTheChain :
    ((0 : Fin 4).val = (0x3000 : Word).toNat / 16 % 4) ∧
      ((settingUp .setupHeader).hp.progress ≠ none ∧ NamesFresh (settingUp .setupHeader)) ∧
      (up.hp.progress = none ∧ (up.chain 0).state = .idle ∧ NamesFresh up) ∧
      (let r := request 0 .write .ready;
        let s := { active r with te := Engine.reset };
        NamesFresh s ∧ s.hp.progress = none ∧ (s.chain 0).state = .running ∧ r.elem.chain = 0 ∧ r.queued = true) ∧
      (let r := request 0 .write .active;
        NamesFresh (active r) ∧ (active r).activeRequest = some r ∧ (active r).exchangeInProgress = false) ∧
      (let r := request 0 .write .active;
        let s := serving (.write ⟨1, 1, 0⟩) r;
        NamesFresh s ∧ s.activeRequest = some r ∧ s.exchangeInProgress = true) := by decide

/-- R48, R54, R55: nothing in flight ends the chain at once, a fetch under way leaves it STOPPING, a held element ends. -/
theorem witness_AbortChainStopsTheChain_ended :
    ((running.chain 0).state = .running ∧ (running.chain 0).inFlight = 0 ∧ running.hp.current ≠ some (.fetch 0) ∧
      NamesFresh running ∧ ((after (.abortChain 0x3000) running).chain 0).state = .ended ∧
      (after (.abortChain 0x3000) running).hp.events = 1) ∧
      (fetching.hp.current = some (.fetch 0) ∧ ((after (.abortChain 0x3000) fetching).chain 0).state = .stopping) ∧
      ((resuming.chain 0).held ≠ none ∧ NamesFresh resuming ∧
        (asked (after (.abortChain 0x3000) resuming)).map (fun c => (c.status, c.place)) =
          [(.aborted, some (.priv, 0))]) := by decide

/-- The end of chain 0 with an explicit entry of it on the list: MAINTENANCE is left by it, chain 1 waiting. -/
def lastEntry (a : AdapterState) (s : State) : State :=
  let s := holding { entry .held .explicit with written := true } s
  { s with
    hp := { s.hp with adapter := a, maintaining := if a = .maintenance then some 0 else none }
    chains := s.chains.set 1 { Chain.reset with
      state := .running
      wait := ⟨false, false, false, a = .maintenance⟩
      fetchDue := a = .maintenance } }

/-- R56, R65: what the end of a chain leaves: no entry of it, its FREE with the written flag unless SILENCED, no
MAINTENANCE of it, and the fetch of a chain that waited for that. -/
def endShown (t : State) : List HoldEntry × List FrameBody × AdapterState × List Transfer :=
  (t.hm.list ++ t.hm.line, t.lu.frames.map Frame.body, t.hp.adapter, t.hp.waiting)

theorem witness_AbortChainStopsTheChain_entries :
    (NamesFresh (lastEntry .maintenance running) ∧ (lastEntry .maintenance running).hp.maintaining = some 0) ∧
      endShown (after (.abortChain 0x3000) (lastEntry .maintenance running)) =
        ([], [.free 400 4 true], .running, [.fetch 1]) ∧
      endShown (after (.abortChain 0x3000) (lastEntry .silenced running)) = ([], [], .silenced, []) := by decide

theorem witness_SetupRecordIsExaminedInOrder :
    (settingUp .setupHeader).hp.current = some .setupHeader ∧ (settingUp .setupHeader).hp.progress ≠ none ∧
      (after (.setupHeaderRead { setupHeader with interleave := 5, tenure := 0 }) (settingUp .setupHeader)).hp.refusal =
        .interleave ∧
      (after (.setupHeaderRead { setupHeader with options := 2, commSize := 0 }) (settingUp .setupHeader)).hp.refusal =
        .unassignedValue := by decide

theorem witness_SetupImagesAreExaminedOrLoaded :
    (let s := settingUp .setupImages;
      s.hp.current = some .setupImages ∧ s.hp.progress = some ⟨64, some setupHeader, .none, none⟩ ∧ s.tm.own = .none ∧
        setupHeader.privSize.toNat ≤ 32 ∧ 1 ≤ setupHeader.commSize.toNat ∧ setupHeader.commSize.toNat ≤ 32 ∧
        images.length = setupHeader.privSize.toNat + setupHeader.commSize.toNat - 1) ∧
      (∀ i ∈ images, i.check .priv = none) ∧
      (let broken : Image := ⟨0x6400, 31990, 9, 10⟩;
        [broken, ⟨0, 0, 0, 0⟩].length = 2 ∧ broken.check .priv = some .fillMark ∧ (⟨0, 0, 0, 0⟩ : Image).check .priv = none ∧
        (⟨0x2800, 31990, 10, 0⟩ : Image).check .priv = some .beyondVolume) := by decide

theorem witness_TransferOfHighestRankBegins :
    (let s := { fetching with hp := { fetching.hp with waiting := [.fetch 1] } };
      s.hp.current = some (.fetch 0) ∧ after .dmaTransferStart s = s) ∧
      (let w : List Transfer := [.setupHeader, .fetch 1, .fetch 0, .image 7 [1, 2], .load .a 5];
        let s := { running with hp := { running.hp with waiting := w } };
        s.hp.waiting[4]? = some (.load .a 5) ∧ s.hp.current = none ∧
          (∀ u ∈ w.take 4, servedBefore (.load .a 5) u = true) ∧ ∀ u ∈ w, servedBefore u (.load .a 5) = false) ∧
      (let s := { running with hp := { running.hp with current := some (.image 0xFFFF [1, 2]), waiting := [.fetch 1] } };
        s.hp.current = some (.image 0xFFFF [1, 2]) ∧
          (after .dmaTransferStart s).out.head? = some (.hostWrite [(0xFFFF, 1), (0, 2)]) ∧
          (after .dmaTransferStart s).hp.current = some (.fetch 1)) ∧
      addressesFrom 0xFFFE 4 = [0xFFFE, 0xFFFF, 0, 1] := by
  decide

/-- A completion of chain 0. -/
def ending (st : Status) (f : Option ElementFault) (last : Bool) : Completion :=
  { plainCompletion running 0 (.disk .read) (element 1 (if last then 128 else 0) 0 0 1 0) st f none with
    info := ⟨0, 900, .disk .read, last, false, false⟩ }

/-- Its write under way, `k` elements in flight. -/
def writing (c : Completion) (k : Nat) : State :=
  { running with
    chains := running.chains.set 0 { running.chain 0 with inFlight := k }
    hp := { running.hp with current := some (.completion c) } }

theorem witness_FlagsFollowTheTable :
    (ending .done none false).status ≠ .skipped ∧ (ending .done none false).effect = .byKind ∧
      flagsAfter ⟨true, true, true, true, true, true⟩ (ending .done none false) =
        ⟨false, true, false, false, false, false⟩ ∧
      flagsAfter ⟨false, true, false, true, true, true⟩ { ending .fault none false with effect := .onlyF } =
        ⟨true, true, false, true, true, true⟩ ∧
      (let s := { fetching with ec := fetching.ec.markAll };
        Runs s 0 (.inspect .lineRecord) (element 10 0 0 0x8001 0 0) ∧
          Runs s 0 (.inspect .positionRecord) (element 10 0 0 2 0 0)) ∧
      (let b := { request 0 .write .holdWait with budget := some 1 };
        (asked (after (.holdWaitExpiry 0) { running with wq := ⟨[b], 1⟩ })).map (fun c => (c.status, c.bits.l, c.bits.f)) =
          [(.expired, true, false)]) := by decide

theorem witness_CompletionIsTakenByTheChain :
    (let s := writing (ending .done none false) 1;
      s.hp.current = some (.completion (ending .done none false)) ∧ (s.chain 0).state = .running ∧
        (s.chain 0).endNoted = false ∧ (ending .done none false).asksNext = true ∧
        (s.chain 0).wait = ⟨false, false, false, false⟩ ∧ (s.chain 0).fetchDue = false ∧ .fetch 0 ∉ s.hp.waiting) ∧
      (let s := writing (ending .fault (some .dataCheck) false) 1;
        (s.chain 0).inFlight ≤ 1 ∧ ((after .completionWritten s).chain 0).state = .ended ∧
          (after .completionWritten s).hp.events = 0x011) ∧
      (let s := writing (ending .done none true) 1;
        (s.chain 0).inFlight ≤ 1 ∧ (s.chain 0).state = .running ∧
          ((after .completionWritten s).chain 0).state = .ended) := by decide

/-- Chain 0 with a queued READ, a HOLD that waits on a claimed entry, an element held back and a fetch asked, before a
HOLD-WAIT request of chain 1; a completion of it is being written, two more elements are in flight. -/
def laden (c : Completion) : State :=
  { writing c 3 with
    chains := running.chains.set 0 { resuming.chain 0 with inFlight := 3, wait := ⟨true, true, false, false⟩, fetchDue := true }
    hp := { running.hp with current := some (.completion c), waiting := [.fetch 0] }
    wq := ⟨[request 0 .read .ready, { request 1 .read .holdWait with elem := ⟨1, 500, .disk .read, false, false, false⟩ }], 2⟩
    hm := ⟨[{ entry .claiming .explicit with
      holdElem := some (⟨0, 932, .hold .exclusive, false, false, false⟩, .common, 1) }], [], 1⟩ }

/-- R54, R87: a fault stop ends what waits of its chain, and leaves the request of another. -/
theorem witness_CompletionIsTakenByTheChain_stop :
    let s := laden (ending .fault (some .dataCheck) false);
    NamesFresh s ∧ (s.chain 0).state = .running ∧
      (let t := after .completionWritten s;
        (t.chain 0).state = .stopping ∧ (t.chain 0).held = none ∧ (t.chain 0).wait = noWait ∧ (t.chain 0).fetchDue = false ∧
          .fetch 0 ∉ t.hp.waiting ∧
          (asked t).map (fun c => (c.info.addr, c.status)) = [(900, .aborted), (900, .aborted), (932, .aborted)] ∧
          t.hm.list = [] ∧ t.lu.frames.map Frame.body = [.free 400 4 false] ∧
          t.wq.records.map Request.state = [.holdWait] ∧ t.te = s.te) := by decide

/-- R56, R65: the last completion of a chain ends it, and with it its explicit entries and its MAINTENANCE. -/
theorem witness_CompletionIsTakenByTheChain_ended :
    ∀ x ∈ [(AdapterState.maintenance, [FrameBody.free 400 4 true], AdapterState.running, [Transfer.fetch 1]),
        (.running, [.free 400 4 true], .running, []), (.silenced, [], .silenced, [])],
      let s := lastEntry x.1 (writing (ending .done none true) 1);
      NamesFresh s ∧ (s.chain 0).inFlight ≤ 1 ∧ (∀ r ∈ s.wq.records, r.elem.chain ≠ 0) ∧
        ((after .completionWritten s).chain 0).state = .ended ∧
        endShown (after .completionWritten s) = ([], x.2.1, x.2.2.1, x.2.2.2) := by decide

/-- R49: the completion of a HOLD ends the reason hold waiting, that of an UNHOLD unhold waiting; the fetch is asked, or
due while the reason maintenance stands. -/
theorem witness_CompletionIsTakenByTheChain_reasons :
    ∀ u ∈ [false, true], ∀ m ∈ [false, true],
      let c := { ending .done none false with endsHoldWait := !u, endsUnholdWait := u };
      let s := writing c 1;
      let s := { s with chains := s.chains.set 0 { s.chain 0 with wait := ⟨false, !u, u, m⟩ } };
      s.hp.current = some (.completion c) ∧ (s.chain 0).state = .running ∧ (s.chain 0).endNoted = false ∧
        ((after .completionWritten s).chain 0).wait = ⟨false, false, false, m⟩ ∧
        ((after .completionWritten s).chain 0).fetchDue = m ∧
        (after .completionWritten s).hp.waiting = if m then [] else [.fetch 0] := by decide

/-- A completion write is cut short before its last word, a setup result is not written (R177, R184). -/
theorem witness_ResetsLeaveTheirValues :
    (let c := ending .done none false;
      let s := writing c 1;
      s.hp.current = some (.completion c) ∧ (after (.ioReset 4) s).out = [.hostWrite (wordsAt 912 (c.words.take 3))] ∧
        (after (.ioReset 0) s).out = []) ∧
      ((settingUp .setupResult).hp.current = some .setupResult ∧
        (after (.ioReset 1) (settingUp .setupResult)).out = []) ∧ up.hp.current = none := by decide

/-- Buffer A with a transfer of it under way. -/
def moving (t : Transfer) (b : SectorBuffer) : State :=
  { active (request 0 .write .active) with
    hp := { running.hp with current := some t, heldBack := [(7, ending .done none true)] }
    te := { (active (request 0 .write .active)).te with bufA := b } }

theorem witness_BuffersAreLoadedAndUnloaded :
    ((moving (.load .a 0) ⟨.loading, 0, [], 0, false⟩).hp.current = some (.load .a 0) ∧
      (List.replicate 128 (7 : Word)).length = 128) ∧
      (moving (.load .a 0) ⟨.loading, 0, [], 7, true⟩).te.bufA.discarded = true ∧
      (moving (.unload .a 128) ⟨.unloading, 0, [1, 2], 7, false⟩).hp.current = some (.unload .a 128) ∧
      Transfer.completion (ending .done none true) ∈
        (after .bufferUnloaded (moving (.unload .a 128) ⟨.unloading, 0, [1, 2], 7, false⟩)).hp.waiting := by decide +kernel

/-- An open lead slot with no order offered, the sector in hand 0, buffer A in a transfer. -/
def opened (k : RequestKind) (t : Transfer) (b : SectorBuffer) : State :=
  let s := active (request 0 k .active)
  { s with hp := { s.hp with current := some t }, te := { s.te with leadOpen := true, bufA := b } }

/-- R98, R100: a freed buffer loads the sector the other does not hold, from its place; the buffer that becomes ready
in an open lead slot has the order offered. -/
theorem witness_BuffersAreLoadedAndUnloaded_again :
    (let s := moving (.unload .a 128) ⟨.unloading, 0, [1, 2], 7, false⟩;
      let s := { s with te := { s.te with bufB := ⟨.loaded, 0, [1], 0, false⟩ } };
      (s.activeRequest.any fun r => decide (sectorDue s.te r s.te.bufB = some 1)) = true ∧
        (after .bufferUnloaded s).te.bufA = ⟨.loading, 1, [], 0, false⟩ ∧
        .load .a 128 ∈ (after .bufferUnloaded s).hp.waiting) ∧
      (let s := moving (.unload .a 128) ⟨.unloading, 0, [1, 2], 7, false⟩;
        let s := { s with te := { s.te with sector := 2, bufB := ⟨.loaded, 2, [1], 0, false⟩ } };
        (s.activeRequest.any fun r => decide (sectorDue s.te r s.te.bufB = none)) = true ∧
          (after .bufferUnloaded s).te.bufA = .empty) ∧
      (let s := opened .write (.load .a 0) ⟨.loading, 0, [], 0, false⟩;
        s.activeRequest = some (request 0 .write .active) ∧ s.te.leadOpen = true ∧ s.lu.frames = [] ∧
          ((after (.bufferLoaded (List.replicate 128 7)) s).lu.frames.map fun f => f.body) = [.write ⟨1, 1, 0⟩]) ∧
      (let s := opened .read (.unload .a 128) ⟨.unloading, 1, [1, 2], 7, false⟩;
        s.activeRequest = some (request 0 .read .active) ∧
          ((after .bufferUnloaded s).lu.frames.map fun f => f.body) = [.read ⟨1, 1, 0⟩]) := by decide +kernel

/-! Witnesses: fetched elements. -/

theorem witness_ElementsNotCarriedOutComplete :
    (let s := { fetching with chains := fetching.chains.set 0 { fetching.chain 0 with state := .stopping } };
      s.hp.current = some (.fetch 0) ∧ (s.chain 0).state ≠ .running ∧ s.hp.adapter ≠ .silenced ∧
        elementOf (.read (element 1 0 0 0 1 0)) = some (.disk .read, element 1 0 0 0 1 0)) ∧
      ((fetching.chain 0).state = .running ∧ legalFields (.disk .read) (element 1 0 0 0 65 0) = false) ∧
      elementOf (.illegalElement (element 15 0 0 0 0 0)) = some (.unassigned, element 15 0 0 0 0 0) ∧
      (legalFields (.disk .read) (element 1 0x300 0 0 1 0) = true ∧
        runCondition (element 1 0x300 0 0 1 0).condition (fetching.chain 0).flags = false) := by decide

theorem test_legal_fields_at_their_ends :
    legalFields (.disk .read) (element 1 0xDF8 0xFF00 0xFFFF 64 0xFFFF) = true ∧
      legalFields (.disk .read) (element 1 0xE00 0 0 1 0) = false ∧ legalFields (.disk .read) (element 1 0 1 0 1 0) = false ∧
      legalFields (.disk .directRead) (element 13 0 0 399 0x1303 0) = true ∧
      legalFields (.disk .directRead) (element 13 0 0 400 0 0) = false ∧
      legalFields (.disk .directRead) (element 13 0 0 0 0x1400 0) = false ∧
      legalFields (.disk .scan) (element 5 0 0 0 0x601 0) = true ∧ legalFields (.disk .scan) (element 5 0 0 0 0x701 0) = false ∧
      legalFields .setClock (element 11 0 0 0x1F3F 0x3F0F 0) = true ∧ legalFields .select (element 9 16 0 0 0 0) = false ∧
      legalFields (.inspect .lineRecord) (element 10 8 0 0x8001 0 0) = true ∧
      legalFields (.inspect .lineRecord) (element 10 0 0x100 1 0 0) = false ∧
      legalFields .maintain (element 12 0 0 3 0 0) = false := by decide

/-- Each check in its order: null selector, index, EMPTY (in a table with an EMPTY position), level, kind; then the
sixth, at the ends of its ranges. -/
theorem witness_ExtentChecksFaultInOrder :
    (Runs fetching 0 (.disk .read) (element 1 0 0x8000 0 1 0) ∧ fetching.wq.records.length < 16) ∧
      firstCheckFailed fetching 0 (.disk .read) (element 1 0 0x8000 0 1 0) = some .nullSelector ∧
      firstCheckFailed fetching 0 (.disk .read) (element 1 0 0x8200 0 1 0) = some .indexLimit ∧
      firstCheckFailed { fetching with ec := { fetching.ec with privSize := 5 } } 0 (.disk .read) (element 1 0 0x400 0 1 0) =
        some .emptyDescriptor ∧
      firstCheckFailed fetching 0 (.disk .read) (element 1 0 0xC100 0 1 0) = some .level ∧
      firstCheckFailed fetching 0 (.disk .write) (element 2 0 0 0 1 0) = some .kind ∧
      firstCheckFailed fetching 0 (.disk .read) (element 1 0 0 0 1 0) = none ∧
      (Runs (full fetching) 0 (.hold .shared) (element 6 0 0x8200 0 4 0) ∧ 16 ≤ (full fetching).wq.records.length ∧
        (asked (after (.holdShared (element 6 0 0x8200 0 4 0)) (full fetching))).map (fun x => x.fault) =
          [some .indexLimit]) ∧
      Runs fetching 0 .unhold (element 8 0 0x8100 99 1 0) ∧ firstCheckFailed fetching 0 .unhold (element 8 0 0x8100 99 1 0) = none ∧
      (let fault := fun c => (asked (after c fetching)).map fun x => x.fault;
        fault (.read (element 1 0 0 100 1 0)) = [some .offsetLimit] ∧ fault (.read (element 1 0 0 99 1 0)) = [] ∧
        fault (.write (element 2 0 256 100 1 0)) = [some .offsetLimit] ∧
        fault (.write (element 2 0 256 99 2 0)) = [some .extentLimit] ∧ fault (.write (element 2 0 256 99 1 0)) = [] ∧
        fault (.unhold (element 8 0 0x8100 100 1 0)) = [some .offsetLimit]) := by decide

theorem witness_PrivateAndDirectRequestsAreAdmitted :
    (Admissible fetching 0 .read (element 1 64 0 98 64 30) ∧
      (selectorOf fetching 0 (.disk .read) (element 1 64 0 98 64 30)).table = .priv ∧
      admission (descriptorFor fetching 0 (.disk .read) (element 1 64 0 98 64 30)) .read 98 64 = some (98, 2, true)) ∧
      (Admissible fetching 0 .append (element 3 0 768 0 4 0) ∧
        (let d := descriptorFor fetching 0 (.disk .append) (element 3 0 768 0 4 0);
          d.wrap = true ∧ d.fill ≤ d.limit ∧ admission d .append 0 4 = some (309, 4, false))) ∧
      (Admissible fetching 0 .append (element 3 0 512 0 4 0) ∧
        (let d := descriptorFor fetching 0 (.disk .append) (element 3 0 512 0 4 0);
          d.wrap = false ∧ d.limit + 1 ≤ d.fill + d.reserved)) ∧
      (Runs fetching 0 (.disk .directRead) (element 13 0 0 399 0x1303 0) ∧ fetching.hp.maintaining ≠ some 0) ∧
      (let s := { fetching with hp := { fetching.hp with adapter := .maintenance, maintaining := some 0 } };
        Runs s 0 (.disk .directWrite) (element 14 0 0 0 0 0) ∧ s.hp.maintaining = some 0 ∧ s.wq.records.length < 16) := by
  decide

theorem witness_CommonRequestTakesAHoldReference :
    (let s := holding (entry .held .explicit) fetching;
      let e := element 2 0 0x8100 0 4 0;
      Admissible s 0 .write e ∧ NamesFresh s ∧ s.hp.adapter ≠ .silenced ∧ (selectorOf s 0 (.disk .write) e).table = .common ∧
        admission (descriptorFor s 0 (.disk .write) e) .write 0 4 = some (400, 4, false) ∧
        CoversRequest (entry .held .explicit) 0 .write 400 4 ∧ ¬ CoversRequest (entry .held .explicit) 0 .write 400 5) ∧
      (let e := element 2 0 0x8100 0 4 0;
        Admissible fetching 0 .write e ∧ NamesFresh fetching ∧ fetching.hm.list = [] ∧
          placedState fetching (implicitEntry fetching 0 .write 400 4 none) = .claiming ∧
          ((after (.write e) fetching).lu.frames.map fun f => f.body) = [.claim 0 400 4 .exclusive]) := by decide

theorem witness_FullQueueHoldsTheElement :
    (Runs (full fetching) 0 (.disk .read) (element 1 0 0 0 1 0) ∧ 16 ≤ (full fetching).wq.records.length) ∧
      (let s := resuming;
        let h : HeldElement := ⟨⟨0, 900, .disk .read, false, false, false⟩, element 1 0 0 5 3 0⟩;
        (s.chain 0).held = some h ∧ legalFields (.disk .read) h.words = true ∧
          (∀ m, m ≠ 0 → (s.chain m).held = none) ∧ (s.chain 0).fetchDue = false ∧ (s.chain 0).state = .running ∧
          s.hp.current ≠ some (.fetch 0) ∧ s.wq.records.length < 16 ∧
          firstCheckFailed s 0 (.disk .read) (element 1 0 0 5 3 0) = none ∧
          admission (descriptorFor s 0 (.disk .read) (element 1 0 0 5 3 0)) .read 5 3 = some (5, 3, false)) ∧
      (let h : HeldElement := ⟨⟨0, 900, .disk .directRead, false, false, false⟩, element 13 0 0 399 0x1303 0⟩;
        let s := { resuming with
          chains := (resuming.chains.set 0 { resuming.chain 0 with held := some h }).set 1 (resuming.chain 0)
          wq := ⟨(List.range 15).map fun i => request i .write .ready, 15⟩ };
        (s.chain 0).held = some h ∧ (s.chain 1).held ≠ none ∧ legalFields (.disk .directRead) h.words = true ∧
          (s.chain 0).state = .running ∧ s.wq.records.length = 15 ∧
          (after .heldElementResume s).wq.records.length = 16 ∧ ((after .heldElementResume s).chain 1).held ≠ none) ∧
      (let e := element 2 0 0x8100 0 4 0;
        let s := { resuming with chains := resuming.chains.set 0 { resuming.chain 0 with
          next := 916
          inFlight := 1
          held := some ⟨⟨0, 900, .disk .write, false, false, false⟩, e⟩ } };
        s.hp.current = none ∧ legalFields (.disk .write) e = true ∧ runCondition e.condition (s.chain 0).flags = true ∧
          infoOf { s with chains := s.chains.set 0 { s.chain 0 with next := 900 } } 0 (.disk .write) e =
            ⟨0, 900, .disk .write, false, false, false⟩ ∧
          ((after .heldElementResume s).hm.list.map fun y => y.start) = [400]) := by decide

/-- HELD at once under a HELD SHARED entry that covers it, CLAIMING on an empty list, PENDING behind a conflict. -/
theorem witness_HoldMakesAnExplicitEntry :
    (let e := element 6 0 0x8100 0 4 0;
      let y := { entry .held .explicit with mode := .shared };
      let s := holding y fetching;
      Runs s 0 (.hold .shared) e ∧ NamesFresh s ∧ firstCheckFailed s 0 (.hold .shared) e = none ∧ s.hp.adapter ≠ .silenced ∧
        e.offset ≤ (descriptorFor s 0 (.hold .shared) e).limit ∧
        placedState s (explicitEntry s 0 .shared e 400 4 ⟨.common, 1, 0⟩) = .held) ∧
      (let e := element 7 0 0x8100 99 64 0;
        Runs fetching 0 (.hold .exclusive) e ∧ NamesFresh fetching ∧ firstCheckFailed fetching 0 (.hold .exclusive) e = none ∧
          e.offset ≤ (descriptorFor fetching 0 (.hold .exclusive) e).limit ∧
          placedState fetching (explicitEntry fetching 0 .exclusive e 499 1 ⟨.common, 1, 0⟩) = .claiming) ∧
      (let s := holding (entry .held .explicit) fetching;
        placedState s (explicitEntry s 0 .exclusive (element 7 0 0x8100 3 4 0) 403 4 ⟨.common, 1, 0⟩) = .pending) := by
  decide

theorem witness_UnholdRemovesTheEntry :
    (let e := element 8 0 0x8100 0 4 0;
      let y := entry .held .explicit;
      let s := holding y fetching;
      Runs s 0 .unhold e ∧ NamesFresh s ∧ firstCheckFailed s 0 .unhold e = none ∧
        e.offset ≤ (descriptorFor s 0 .unhold e).limit ∧ y.origin = .explicit ∧ y.chain = 0 ∧ y.start = 400 ∧ y.count = 4 ∧
        y.refs = 0 ∧ y.claimed = true ∧ (after (.unhold e) s).hm.list = []) ∧
      (let s := holding { entry .held .explicit with refs := 1 } fetching;
        Runs s 0 .unhold (element 8 0 0x8100 0 4 0) ∧ NamesFresh s ∧
          ((after (.unhold (element 8 0 0x8100 0 4 0)) s).chain 0).wait.unholdWaiting = true) ∧
      (asked (after (.unhold (element 8 0 0x8100 0 5 0)) (holding (entry .held .explicit) fetching))).map
        (fun c => c.fault) = [some .noHold] := by decide

/-- R151: the pending line after a removal. The first entry is covered and HELD, its HOLD done; the second is CLAIMING;
the third overlaps the second and stays. -/
theorem witness_UnholdRemovesTheEntry_line :
    let y : Nat → Nat → Nat → Mode → HoldState → HoldEntry := fun i b n m st =>
      { entry st .explicit with id := i, start := b, count := n, mode := m, claimed := false };
    let s := { fetching with hm := ⟨[y 0 400 4 .exclusive .held, { y 1 410 4 .shared .held with silent := true }],
      [{ y 2 410 2 .shared .pending with holdElem := some (⟨1, 900, .hold .shared, false, false, false⟩, .common, 1) },
        y 3 400 1 .exclusive .pending, y 4 400 2 .exclusive .pending], 5⟩ };
    let t := after (.unhold (element 8 0 0x8100 0 4 0)) s;
    Runs s 0 .unhold (element 8 0 0x8100 0 4 0) ∧ NamesFresh s ∧
      (t.hm.list.map fun z => (z.id, z.state, z.silent)) =
        [(1, .held, true), (2, .held, true), (3, .claiming, false)] ∧
      (t.hm.line.map fun z => (z.id, z.state)) = [(4, .pending)] ∧
      (t.lu.frames.map fun f => f.body) = [.claim 3 400 1 .exclusive] ∧
      ((asked t).map fun c => (c.info.chain, c.status, c.done, c.bits.p)) = [(1, .done, 2, true), (0, .done, 4, false)] := by
  decide

theorem witness_SelectClockAndInspectComplete :
    (Runs fetching 0 .select (element 9 0 0xFF00 0 0 0) ∧ Runs fetching 0 .setClock (element 11 0 0 0x173B 0x3B09 0) ∧
      (after (.setClock (element 11 0 0 0x173B 0x3B09 0)) fetching).hp.tod = ⟨true, 23, 59, 59, 9, 1000000, .loaded⟩ ∧
      Runs fetching 0 .setClock (element 11 0 0 0x1800 0 0) ∧
      (after (.setClock (element 11 0 0 0x1800 0 0)) fetching).hp.tod.running = false) ∧
      (Runs fetching 0 (.inspect .descriptor) (element 10 0 0x8100 0x8000 0 0) ∧
        firstCheckFailed fetching 0 (.inspect .descriptor) (element 10 0 0x8100 0x8000 0 0) = none) ∧
      Runs fetching 0 (.inspect .lineRecord) (element 10 0 0 0x8001 0 0) ∧
      Runs fetching 0 (.inspect .positionRecord) (element 10 0 0 0x8002 0 0) := by decide

/-- R182: an advance due with a load has the same result in either order; the first one after it falls 100 ms later. -/
theorem test_set_clock_and_an_advance :
    let set := Instr.setClock (element 11 0 0 0x173B 0x3B09 0);
    let s := { fetching with hp := { fetching.hp with tod := ⟨true, 1, 2, 3, 4, 500, .past⟩ } };
    after set (after .todAdvance s) = after .todAdvance (after set s) ∧
      (after .todAdvance (after set s)).hp.tod = ⟨true, 23, 59, 59, 9, 1000000, .advanced⟩ ∧
      (after .todAdvance (after (.sectorPulse pulse) (after set s))).hp.tod = ⟨true, 0, 0, 0, 0, 1000000, .advanced⟩ := by
  decide

/-- R50, R30: a DONE HOLD or UNHOLD has the count of its range as its done count, cut at the end of the extent. -/
theorem test_hold_done_counts :
    (let y := { entry .held .explicit with mode := .shared, start := 498, count := 2 };
      let s := holding y fetching;
      (asked (after (.holdShared (element 6 0 0x8100 98 4 0)) s)).map (fun c => (c.status, c.done)) = [(.done, 2)] ∧
        (asked (after (.unhold (element 8 0 0x8100 98 4 0)) s)).map (fun c => (c.status, c.done)) = [(.done, 2)]) ∧
      (let y := { entry .claiming .explicit with
          holdElem := some (⟨0, 900, .hold .exclusive, false, false, false⟩, .common, 1) };
        (asked (after .grant (noticing (.claim 0 400 4 .exclusive) (holding y running)))).map (fun c => (c.status, c.done)) =
          [(.done, 4)]) := by decide

/-- Chain 0 maintains, with a DIRECT request queued; chain 1 waits for the end of maintenance. -/
def maintaining : State :=
  { fetching with
    hp := { fetching.hp with adapter := .maintenance, maintaining := some 0 }
    chains := fetching.chains.set 1 { Chain.reset with
      state := .running, wait := ⟨false, false, false, true⟩, fetchDue := true }
    wq := ⟨[request 0 .directRead .ready], 1⟩ }

theorem witness_MaintenanceIsEnteredAndLeft :
    (Runs fetching 0 .maintain (element 12 0 0 1 0 0) ∧ fetching.cfg.maintenance = true ∧ (fetching.chain 0).level = 0 ∧
      fetching.hp.maintaining = none) ∧
      (Runs maintaining 0 .maintain (element 12 0 0 1 0 0) ∧ maintaining.hp.maintaining = some 0) ∧
      (let s := { fetching with chains := fetching.chains.set 0 { fetching.chain 0 with level := 1 } };
        Runs s 0 .maintain (element 12 0 0 1 0 0) ∧ s.hp.maintaining ≠ some 0 ∧ (s.chain 0).level ≠ 0) ∧
      (Runs fetching 0 .maintain (element 12 0 0 2 0 0) ∧ fetching.hp.maintaining ≠ some 0) ∧
      (Runs maintaining 0 .maintain (element 12 0 0 2 0 0) ∧ maintaining.hp.adapter = .maintenance ∧ NamesFresh maintaining ∧
        (∀ r ∈ maintaining.wq.records, r.isDirect = true ∧ r.queued = true ∧ r.hold = none) ∧
        (maintaining.chain 1).state = .running ∧ (maintaining.chain 1).fetchDue = true) ∧
      (let r := request 0 .directRead .active;
        let s := { maintaining with
          wq := ⟨[r], 1⟩
          te := { Engine.reset with phase := .leadWait, request := some 0, target := ⟨1, 1, 0⟩ } };
        NamesFresh s ∧ s.activeRequest = some r ∧
          (after (.maintainOff (element 12 0 0 2 0 0)) s).te.maintenanceOver = true) := by decide

/-! Witnesses: rotation, the drive, expiries. -/

theorem witness_PulsesMoveTheMonitor :
    (up.rdm.revCount ≤ 19 ∧ up.rdm.lateLeft = 0 ∧ up.rdm.synthRun ≠ 19) ∧
      (let s := { up with rdm := { up.rdm with lateLeft := 1, lateSubstitute := true, revCount := 19 } };
        s.rdm.revCount ≤ 19 ∧ 0 < s.rdm.lateLeft ∧ s.rdm.lateSubstitute = true) ∧
      (let s := { up with rdm := { up.rdm with lateLeft := 3125 } };
        0 < s.rdm.lateLeft ∧ s.rdm.lateSubstitute = false) ∧
      (let s := serving (.write ⟨1, 1, 0⟩) (request 0 .write .active);
        let s := { s with lu := { s.lu with exchange := s.lu.exchange.map fun x => { x with slotBegun := false } } };
        ((after (.sectorPulse ⟨none, true⟩) s).lu.exchange.map fun x => x.slotBegun) = some false ∧
          ((after (.sectorPulse ⟨none, false⟩) s).lu.exchange.map fun x => x.slotBegun) = some true) := by decide

/-- Four requests with one slot of budget left: started, DROP, CARRY ON, HOLD-WAIT. -/
def budgets : State :=
  { running with wq := ⟨[{ request 0 .write .ready with budget := some 1, started := true },
      { request 1 .write .ready with budget := some 1 },
      { request 2 .write .ready with budget := some 1, lateAction := .carryOn },
      { request 3 .read .holdWait with budget := some 1, lateAction := .carryOn }], 4⟩ }

/-- What a state shows of its queue: name, budget, late mark. -/
def queueShown (s : State) : List (Nat × Option Nat × Bool) := s.wq.records.map fun r => (r.id, r.budget, r.late)

theorem witness_SlotEventCountsBudgets :
    (NamesFresh budgets ∧ budgets.rdm.lateLeft = 0 ∧ budgets.te.phase = .idle ∧ budgets.te.request = none ∧
      ∀ r ∈ budgets.wq.records, r.budget = some 1 ∧ r.queued = true) ∧
      queueShown (after (.sectorPulse pulse) budgets) = [(0, some 0, true), (2, some 0, true)] ∧
      queueShown (after (.sectorPulse pulse) { budgets with wq := ⟨[{ request 0 .write .ready with budget := some 2 }], 1⟩ }) =
        [(0, some 1, false)] := by decide

/-- R75, R76: at a slot event a started or CARRY ON request stays, with its counts, and so does the request whose order is
on the line. -/
theorem witness_SlotEventCountsBudgets_stays :
    (let r := { request 0 .write .blocked with budget := some 1, started := true, done := 1, slips := 2 };
      let s := { running with
        wq := ⟨[r, { request 1 .write .ready with budget := some 1, lateAction := .carryOn }], 2⟩
        tm := { up.tm with peer := some ⟨some 3, 4⟩ } };
      NamesFresh s ∧ s.rdm.lateLeft = 0 ∧ s.te.request = none ∧ s.mayNotReturn r = false ∧
        (after (.sectorPulse pulse) s).wq.records.map (fun u => (u.id, u.state, u.late, u.done, u.slips)) =
          [(0, .blocked, true, 1, 2), (1, .blocked, true, 0, 0)]) ∧
      ∀ st ∈ [RequestState.active, .ending],
        let r := { doing .write 1 with state := st, budget := some 1, started := true };
        let s := serving (.write ⟨1, 1, 0⟩) r;
        NamesFresh s ∧ s.activeRequest = some r ∧ s.te.phase = .exchange ∧ s.exchangeInProgress = true ∧
          (after (.sectorPulse pulse) s).wq.records.map (fun u => (u.state, u.late, u.done)) = [(st, true, 1)] := by decide

/-- A queue before an engine that is IDLE, the counter at a slot, the positioner on a cylinder, with the tenure given. -/
def choosing (l : List Request) (slot cylinder : Nat) (own : OwnTenure) : State :=
  { running with
    wq := ⟨l, 9⟩
    rdm := { up.rdm with counter := some slot }
    tm := { up.tm with own := own, cylinder := some cylinder } }

/-- No request; the tiers of R83 (URGENT, slack below the margin, least cost); how the engine begins (R91, R95, R100). -/
theorem witness_SlotEventSelectsByTiers :
    (∀ x ∈ [([], 5, 0, OwnTenure.none), ([request 0 .write .ready], 5, 0, .none), ([request 0 .write .ready], 5, 1, .none),
        ([request 0 .read .ready], 18, 1, .holding 1 4)],
      let s := choosing x.1 x.2.1 x.2.2.1 x.2.2.2;
      SlotTo s (.sectorPulse pulse) (x.2.1 + 1) ∧ NamesFresh s ∧ s.te.phase = .idle ∧ s.te.request = none) ∧
      (let t := after (.sectorPulse pulse) (choosing [request 0 .write .ready] 5 0 .none);
        t.te.phase = .tenureWait ∧ t.tm.own = .asking 1 ∧ (t.lu.frames.map fun f => f.body) = [.tenure 1]) ∧
      (let t := after (.sectorPulse pulse) (choosing [request 0 .write .ready] 5 1 .none);
        t.te.phase = .leadWait ∧ t.te.leadOpen = false ∧ t.te.target = ⟨1, 1, 0⟩) ∧
      (let s := choosing [request 0 .write .ready] 5 1 (.holding 1 4);
        let t := after (.sectorPulse pulse) { s with tm := { s.tm with moving := true } };
        t.te.phase = .settle ∧ t.te.settle = 0) ∧
      (let t := after (.sectorPulse pulse) (choosing [request 0 .read .ready] 18 1 (.holding 1 4));
        t.te.leadOpen = true ∧ (t.lu.frames.map fun f => f.body) = [.read ⟨1, 1, 0⟩]) ∧
      (let near := fun (i b : Nat) => { request i .write .ready with budget := some b };
        let taken := fun l => (after (.sectorPulse pulse) (choosing l 5 1 .none)).te.request;
        let cheap := { request 0 .read .ready with firstBlock := 96 };
        taken [request 1 .write .ready, cheap] = some 0 ∧ taken [cheap, near 1 40, near 2 3] = some 2 ∧
          taken [cheap, near 1 40] = some 1 ∧ taken [cheap, near 1 400] = some 0) := by decide

/-- R97: with neither tenure standing and the positioner moving the one selected is suspended at once. R98: one whose
sectors come from the host loads the sector in hand and the next. -/
theorem witness_SlotEventSelectsByTiers_begins :
    (let s := choosing [request 0 .write .ready] 5 1 .none;
      let s := { s with tm := { s.tm with moving := true } };
      SlotTo s (.sectorPulse pulse) 6 ∧ NamesFresh s ∧ s.te.phase = .idle ∧ s.te.request = none ∧ s.tm.peer = none ∧
        (after (.sectorPulse pulse) s).te.phase = .idle ∧
        ((after (.sectorPulse pulse) s).wq.records.map fun r => r.state) = [.ready]) ∧
      (let t := after (.sectorPulse pulse) (choosing [{ request 0 .write .ready with done := 1 }] 5 1 .none);
        t.te.bufA = ⟨.loading, 1, [], 0, false⟩ ∧ t.te.bufB = ⟨.loading, 2, [], 0, false⟩ ∧
          t.hp.waiting = [.load .a 128, .load .b 256]) := by decide

/-- The engine at the lead slot of ⟨1, 1, 0⟩: the counter, the lead slot open, the slips so far, buffer A, frames. -/
def leading (slot : Nat) (opened : Bool) (slips : Nat) (b : SectorBuffer) (l : List Frame) : State :=
  let s := active { request 0 .write .active with slips := slips }
  { s with
    rdm := { s.rdm with counter := some slot }
    te := { s.te with leadOpen := opened, bufA := b }
    lu := { s.lu with frames := l } }

/-- A loaded buffer for sector 0 of request 0, and the order of that sector. -/
def loaded : SectorBuffer := ⟨.loaded, 0, [1, 2], 0, false⟩

/-- The WRITE order of the sector in hand, offered. -/
def writeOrder : Frame := ⟨.write ⟨1, 1, 0⟩, 0, 0, false⟩

/-- The peer holds cylinder 3; a request waits BLOCKED, with the budget given. -/
def pressed (budget : Nat) (l : List Frame) : State :=
  { running with
    wq := ⟨[{ request 0 .write .blocked with budget := some budget }], 1⟩
    tm := { up.tm with peer := some ⟨some 3, 3⟩ }
    lu := { up.lu with frames := l } }

/-- The lead slot begins; with the buffer loaded the order is offered, with none it is not (R100). -/
theorem witness_SlotEventLeadSlotAndPreempt :
    ∀ x ∈ [(loaded, [writeOrder]), (SectorBuffer.empty, [])],
      let s := leading 18 false 0 x.1 [];
      SlotTo s (.sectorPulse pulse) 19 ∧ NamesFresh s ∧ s.te.phase = .leadWait ∧
        s.activeRequest = some (request 0 .write .active) ∧ s.te.suspendAfter = false ∧ s.hp.adapter ≠ .silenced ∧
        s.rdm.revCount < 19 ∧ (after (.sectorPulse pulse) s).lu.frames = x.2 := by decide

/-- The lead slot ends, at a SECTOR or an INDEX. -/
theorem witness_SlotEventLeadSlotAndPreempt_slip :
    ∀ c ∈ [Instr.sectorPulse pulse, .indexPulse pulse], ∀ k ∈ [0, 8],
      let s := leading 19 true k loaded [writeOrder];
      SlotTo s c 0 ∧ NamesFresh s ∧ s.activeRequest = some { request 0 .write .active with slips := k } := by decide

/-- R101: the slip by LINE or for want of a buffer, and the ninth. -/
theorem test_slips :
    (let t := after (.sectorPulse pulse) (leading 19 true 0 loaded [writeOrder]);
      t.te.lastSlip = .line ∧ t.lu.frames = [] ∧ (t.wq.records.map fun r => r.slips) = [1]) ∧
      (after (.indexPulse pulse) (leading 19 true 7 .empty [])).te.lastSlip = .buffer ∧
      ((asked (after (.sectorPulse pulse) (leading 19 true 8 .empty []))).map fun c => c.fault) = [some .hostOverrun] ∧
      ((asked (after (.sectorPulse pulse) (leading 19 true 8 loaded [writeOrder]))).map fun c => c.fault) = [some .line] := by
  decide

/-- R141: the PREEMPT carries the least slack of the URGENT requests BLOCKED; it is refreshed, withdrawn, not renewed. -/
theorem test_preempt_at_a_slot_event :
    let shown := fun s => (after (.sectorPulse pulse) s).lu.frames.map fun f => f.body;
    let old : Frame := ⟨.preempt (-1), 0, 0, false⟩;
    shown (pressed 3 []) = [.preempt (-19)] ∧ shown (pressed 3 [old]) = [.preempt (-19)] ∧ shown (pressed 400 [old]) = [] ∧
      shown { pressed 3 [] with tm := { (pressed 3 []).tm with preemptMark := true } } = [] := by decide

/-- R136, R137 at a slot event: no request needs the positioner; one does, while MAINTENANCE keeps it from selection. -/
theorem witness_SlotEventLeadSlotAndPreempt_tenure :
    (let s := choosing [] 5 1 (.holding 1 4);
      s.rdm.revCount < 19 ∧ s.rdm.synthRun ≠ 19 ∧ s.te.phase = .idle ∧ ¬ SomeNeeds s ∧
        (after (.sectorPulse pulse) s).tm.own = .ending 1 4 ∧
        ((after (.sectorPulse pulse) s).lu.frames.map fun f => f.body) = [.release]) ∧
      (let s := choosing [request 0 .write .ready] 5 1 (.holding 1 4);
        let t := after (.sectorPulse pulse) { s with hp := { s.hp with adapter := .maintenance, maintaining := some 1 } };
        SomeNeeds t ∧ t.te.phase = .idle ∧ t.tm.own = .holding 1 4 ∧ t.lu.frames = []) := by decide

theorem witness_RevolutionEventCounts :
    (up.rdm.lateLeft = 0 ∧ NamesFresh up) ∧
      (∀ k ∈ [2, 3], ∀ c ∈ [Instr.indexPulse pulse, .sectorPulse pulse, .syntheticSlot none],
        let s := holding { entry .refused .implicit with refusalRevs := k } (atSlot 19 0);
        NamesFresh s ∧ s.rdm.lateLeft = 0 ∧ 19 ≤ s.rdm.revCount ∧ s.hp.adapter ≠ .silenced ∧
          ((after c s).hm.list.map fun z => (z.state, z.refusalRevs)) =
            [if k = 2 then (.refused, 3) else (.claiming, 0)] ∧
          (after c s).lu.frames.length = k - 2 ∧ (after c s).rdm.revCount = 0) ∧
      (let s := { up with
          rdm := { up.rdm with lateLeft := 3125, lateSubstitute := false }
          tm := { up.tm with own := .holding 1 2, courtesy := true } };
        NamesFresh s ∧ s.rdm.lateSubstitute = false ∧ (after (.indexPulse pulse) s).tm.own = .holding 1 1) ∧
      (let s := { active (request 0 .write .active) with tm := { up.tm with own := .holding 1 2 } };
        s.rdm.lateLeft = 0 ∧ (after (.indexPulse pulse) s).tm.own = .holding 1 1 ∧
          (after (.indexPulse pulse) (after (.indexPulse pulse) s)).tm.own = .ending 1 0) ∧
      (let s := { up with tm := { up.tm with peer := some ⟨some 3, 2⟩ } };
        (after (.indexPulse pulse) s).tm.peer = some ⟨some 3, 1⟩ ∧
          (after (.indexPulse pulse) (after (.indexPulse pulse) s)).tm.peer = none) ∧
      (let s := { up with rdm := { Monitor.reset false true with ready := true, recovery := 2 } };
        s.rdm.drive = .down ∧ s.rdm.ready = true ∧ s.rdm.lateLeft = 0 ∧
          (after (.indexPulse pulse) s).rdm.recovery = 3 ∧
          (after (.indexPulse pulse) (after (.indexPulse pulse) s)).rdm.drive = .resync) := by decide

theorem witness_DriveIsLostAndReturns :
    (let s := { active (request 0 .write .active) with rdm := { up.rdm with synthRun := 19 } };
      s.rdm.drive ≠ .down ∧ s.rdm.synthRun = 19 ∧ s.activeRequest = some (request 0 .write .active) ∧
        s.exchangeInProgress = false) ∧
      (let s := { up with rdm := { Monitor.reset false true with ready := true, recovery := 3 } };
        s.rdm.drive = .down ∧ s.rdm.ready = true ∧ s.rdm.recovery = 3) ∧
      (let s := { up with rdm := { up.rdm with drive := .resync, resync := .counting, counter := some 19, revCount := 19 } };
        s.rdm.lateLeft = 0 ∧ s.rdm.drive = .resync ∧ s.rdm.resync = .counting ∧ s.rdm.counter = some 19 ∧
          shown (after (.indexPulse pulse) s) = (some 0, 0, 0, false, .up) ∧
          (after (.indexPulse pulse) s).hp.events = 0x240 ∧
          ((after (.indexPulse pulse) s).ec.priv.all fun d => d.changed) = true) := by decide

/-- An engine in SETTLE with the count given. -/
def settling (r : Request) (k : Nat) : State :=
  { active r with te := { (active r).te with phase := .settle, settle := k } }

theorem witness_OnCylinderMovesTheRecord :
    (let r := request 0 .write .active;
      let s := settling r 5;
      s.te.phase = .settle ∧ s.activeRequest = some r ∧ s.tm.own.isHolding = true ∧
        s.tm.cylinder = some (s.nextTarget r).cylinder ∧ (after .onCylinderRise s).te.phase = .leadWait) ∧
      (after (.onCylinderFall false) up).tm.cylinder = none ∧ (after (.onCylinderFall true) up).tm.cylinder = some 0 := by
  decide

theorem witness_BudgetsExpire :
    (NamesFresh budgets ∧ (budgets.wq.records[3]?).map (fun r => (r.state, r.budget)) = some (.holdWait, some 1) ∧
      (budgets.wq.records[0]?).map (fun r => (r.state, r.started)) = some (.ready, true) ∧
      (budgets.wq.records[1]?).map (fun r => (r.started, r.lateAction)) = some (false, .drop)) ∧
      (NamesFresh running ∧ running.wq.records[0]? = none) ∧
      (let y := { entry .pending .explicit with budget := some 1 };
        let s := { running with hm := ⟨[], [y], 1⟩ };
        NamesFresh s ∧ s.hp.adapter ≠ .silenced ∧ (s.hm.list ++ s.hm.line)[0]? = some y ∧ y.state ≠ .held) ∧
      (let y := { entry .claiming .explicit with budget := some 1 };
        NamesFresh (holding y running) ∧ (holding y running).hm.list[0]? = some y) ∧
      (let y := { entry .refused .implicit with refusalRevs := 3 };
        (holding y running).hm.list[0]? = some y ∧ NamesFresh (holding y running)) := by decide

/-- R75, R76: started, and CARRY ON, at its place in its state with the LATE mark. -/
theorem witness_BudgetsExpire_stays :
    ∀ i ∈ [0, 2], (after (.requestExpiry i) budgets).wq.records =
      budgets.wq.records.modify i fun r => { r with budget := some 0, late := true } := by decide

theorem witness_SeekTimeoutAndTenureExpiry :
    (∀ k ∈ [0, 2, 3],
      let r := { request 0 .write .active with displacements := k };
      let s := settling r 63;
      s.te.phase = .settle ∧ s.te.settle = 63 ∧ s.activeRequest = some r ∧ r.state = .active ∧ s.te.suspendAfter = false ∧
        s.hp.adapter ≠ .silenced ∧ (s.wq.records.map Request.id).Nodup ∧ s.tm.own.isHolding = true) ∧
      (let r := request 0 .write .active;
        let s := { settling r 63 with tm := { up.tm with own := .none } };
        s.activeRequest = some r ∧ s.tm.own.isHolding = false ∧ s.mayNotReturn r = false) ∧
      (let s := { active (request 0 .write .active) with tm := { up.tm with own := .holding 1 1 } };
        s.activeRequest = some (request 0 .write .active) ∧ s.exchangeInProgress = false ∧ s.tm.own = .holding 1 1 ∧
          s.mayNotReturn (request 0 .write .active) = false) ∧
      (let s := { up with tm := { up.tm with peer := some ⟨none, 1⟩ } };
        s.tm.peer = some ⟨none, 1⟩) := by decide

/-- R135, R137: the tenure runs out with the engine IDLE. -/
theorem witness_SeekTimeoutAndTenureExpiry_release :
    let s := { up with tm := { up.tm with own := .holding 1 1 } };
    s.te.phase = .idle ∧ s.lu.tenureStands = false ∧ (after .ownTenureExpiry s).tm.own = .ending 1 0 ∧
      ((after .ownTenureExpiry s).lu.frames.map fun f => f.body) = [.release] := by decide

/-- R85, R97: a request riding along is suspended by its seek timeout: READY at its place with its counts. -/
theorem witness_SeekTimeoutAndTenureExpiry_riding :
    let r := { doing .write 1 with displacements := 2, started := true };
    let s := { settling r 63 with tm := { up.tm with peer := some ⟨some 1, 4⟩, cylinder := some 1, moving := true } };
    s.te.settle = 63 ∧ s.activeRequest = some r ∧ s.te.suspendAfter = false ∧ s.tm.own.isHolding = false ∧
      s.mayNotReturn r = false ∧ (after .seekTimeout s).wq.records = [{ r with state := .ready, displacements := 3 }] ∧
      (after .seekTimeout s).te.request = none := by decide

/-! Witnesses: this adapter's frames. -/

/-- Pending frames, with the backoff given. -/
def offering (l : List FrameBody) (backoff : Nat) (s : State) : State :=
  { s with lu := { s.lu with frames := l.map fun b => ⟨b, 0, 0, false⟩, backoff := backoff } }

theorem witness_ArbiterStartsTheHighestRank :
    (let r := request 0 .write .active;
      let s := offering [.hello, .tenure 1, .write ⟨1, 1, 0⟩] 3 (active r);
      s.lu.frames[2]? = some ⟨.write ⟨1, 1, 0⟩, 0, 0, false⟩ ∧ 2 + s.lu.backoff ≤ 5 ∧ s.lu.exchange = none ∧
        s.lu.peerExchange = none ∧ s.mayStart ⟨.write ⟨1, 1, 0⟩, 0, 0, false⟩ = true ∧
        (∀ g ∈ s.lu.frames, FrameBody.rank (.write ⟨1, 1, 0⟩) ≤ g.body.rank) ∧
        (∀ g ∈ s.lu.frames.take 2, FrameBody.rank (.write ⟨1, 1, 0⟩) < g.body.rank) ∧ s.activeRequest = some r ∧
        (after (.exchangeStart ⟨4, 0⟩) s).lu.exchange = none ∧ (after (.exchangeStart ⟨5, 0⟩) s).lu.exchange ≠ none) ∧
      (let s := { offering [.claim 0 400 4 .exclusive] 0 (holding (entry .claiming .explicit) up) with
          lu := { up.lu with failedHeard := true, frames := [⟨.claim 0 400 4 .exclusive, 3, 1, false⟩] } };
        s.lu.failedHeard = true ∧ (after (.exchangeStart ⟨6, 6⟩) s).lu.exchange = none ∧
          ((after (.exchangeStart ⟨7, 7⟩) s).lu.exchange.map fun x => x.frame.collisions) = some 0) ∧
      (let s := offering [.hello, .preempt (-3)] 0 up;
        s.lu.frames[1]? = some ⟨.preempt (-3), 0, 0, false⟩ ∧ 2 + s.lu.backoff ≤ 2 ∧ s.lu.exchange = none ∧
          s.lu.peerExchange = none ∧ (after (.exchangeStart ⟨2, 0⟩) s).out = [.frame [19, 0xFFFD, 0xFFF0]]) ∧
      (let s := offering [.release] 0 { up with tm := { up.tm with courtesy := true } };
        s.mayStart ⟨.tenure 1, 0, 0, false⟩ = false ∧ s.mayStart ⟨.release, 0, 0, false⟩ = true) := by decide

/-- R99: the READ takes buffer B where A is not EMPTY. R138: a TENURE waits in the courtesy wait, a HELLO goes. -/
theorem witness_ArbiterStartsTheHighestRank_buffer :
    (let s := offering [.read ⟨1, 1, 0⟩] 0 (active (doing .read 1));
      let s := { s with te := { s.te with bufA := ⟨.unloading, 0, [1], 0, false⟩ } };
      s.activeRequest = some (doing .read 1) ∧ (s.te.buf .b).state = .empty ∧
        (after (.exchangeStart ⟨2, 0⟩) s).te.bufB = ⟨.receiving, 1, [], 0, false⟩ ∧
        (after (.exchangeStart ⟨2, 0⟩) s).te.bufA = s.te.bufA) ∧
      (let s := offering [.tenure 1, .hello] 0 { up with tm := { up.tm with courtesy := true } };
        (after (.exchangeStart ⟨2, 0⟩) s).out = [.frame (frameWords false 27 [])] ∧
          ((after (.exchangeStart ⟨2, 0⟩) s).lu.frames.map fun f => f.body) = [.tenure 1]) := by decide

/-- R114, R133, R134: an ask carries T, a tenure announced again its revolutions left; 0 for one ENDING with none left
(log 42). -/
theorem witness_ArbiterStartsTheHighestRank_tenure :
    ∀ x ∈ [(OwnTenure.asking 5, (4 : Word)), (.holding 1 15, 15), (.holding 1 1, 1), (.ending 1 2, 2), (.ending 1 0, 0)],
      let s := offering [.tenure 5, .hello] 0 { up with tm := { up.tm with own := x.1 } };
      s.lu.frames[0]? = some ⟨.tenure 5, 0, 0, false⟩ ∧ s.lu.exchange = none ∧ s.lu.peerExchange = none ∧
        s.mayStart ⟨.tenure 5, 0, 0, false⟩ = true ∧ s.cfg.tenure = 4 ∧
        (after (.exchangeStart ⟨2, 0⟩) s).out = [.frame [16, 5, x.2, -(21 + x.2)]] := by decide

/-- The table of R122: the backoffs of both stations at the counts 1 to 7, and the eighth collision abandons. -/
theorem witness_CollisionsBackOffAndAbandon :
    (let s := fun (station : Bool) (k : Nat) =>
        { up with lu := { up.lu with station := station, frames := [⟨.hello, k - 1, 0, false⟩] } };
      ((List.range 7).map fun k => (after (.collision ⟨2, 0⟩) (s false (k + 1))).lu.backoff) = [1, 4, 3, 8, 5, 12, 7] ∧
      ((List.range 7).map fun k => (after (.collision ⟨2, 0⟩) (s true (k + 1))).lu.backoff) = [2, 2, 6, 4, 10, 6, 14] ∧
      (after (.collision ⟨2, 0⟩) (s false 8)).lu.frames = [] ∧ (after (.frameAbandoned ⟨2, 0⟩) (s false 7)).lu.frames ≠ [] ∧
      (after (.frameAbandoned ⟨2, 0⟩) (s false 8)).hp.events = 0x100) ∧
      (let s := { up with lu := { up.lu with frames := [⟨.release, 7, 0, false⟩] }, tm := { up.tm with own := .ending 1 0 } };
        s.lu.frames[0]? = some ⟨.release, 7, 0, false⟩ ∧ s.mayStart ⟨.release, 7, 0, false⟩ = true ∧
          s.tm.own.isEnding = true) ∧
      (∀ b ∈ [FrameBody.tenure 3, .preempt (-1), .claim 0 400 4 .exclusive], ∀ n ∈ [0, 1],
        ∀ o ∈ [OwnTenure.asking 3, .holding 1 2, .ending 1 2],
        let s := { holding (entry .claiming .explicit) up with
          lu := { up.lu with frames := [⟨.hello, 0, 0, false⟩, ⟨b, 7, n, false⟩] }
          tm := { up.tm with own := o } };
        s.lu.frames[1]? = some ⟨b, 7, n, false⟩ ∧ s.mayStart ⟨b, 7, n, false⟩ = true ∧ s.hp.adapter ≠ .silenced ∧
          b.isAnswered = true ∧ (∀ g ∈ s.lu.frames, b.rank ≤ g.body.rank) ∧ b.rank < FrameBody.rank .hello ∧
          (∀ g ∈ (abandoned s 1 ⟨b, 7, n, false⟩).lu.frames, g.body.isTenure = false) ∧
          s.hm.find 0 = some (entry .claiming .explicit) ∧
          ((after (.collision ⟨2, 0⟩) s).lu.frames.map fun f => (f.body, f.collisions, f.silences)) =
            if n = 0 then [(b, 0, 1), (.hello, 0, 0)]
            else if b.isTenure && o.isEnding then [(.hello, 0, 0), (.release, 0, 0)] else [(.hello, 0, 0)]) ∧
      (let s := { active (request 0 .read .active) with lu := { up.lu with frames := [⟨.sense, 7, 0, false⟩] } };
        s.activeRequest = some (request 0 .read .active) ∧ FrameBody.isOrder .sense = true ∧
          (after (.collision ⟨2, 0⟩) s).lu.frames.all (fun f => !f.body.isOrder) = true) := by decide

theorem witness_NoticesThatChangeNoRecordEnd :
    (let s := noticing .release { up with tm := { up.tm with own := .ending 1 0 } };
      s.lu.exchange = some ⟨⟨.release, 0, 0, false⟩, none, false, false, false, false, false⟩ ∧
        (after .releaseSent s).tm.own = .none ∧ (after .releaseSent s).tm.courtesy = true) ∧
      Noticing (noticing (.preempt (-1)) up) ⟨⟨.preempt (-1), 0, 0, false⟩, none, false, false, false, false, false⟩ ∧
      (∀ n ∈ [0, 1],
        let x : Exchange := ⟨⟨.preempt (-1), 2, n, false⟩, none, false, false, false, false, false⟩;
        let s := { up with lu := { up.lu with exchange := some x } };
        Noticing s x ∧ x.frame.silences = n ∧ (after .peerReleaseHeard s).lu.exchange = none ∧
          (after .peerReleaseHeard s).lu.frames.length = 1 - n ∧
          (after .peerReleaseHeard s).tm.presence = (if n = 0 then .present else .absent)) ∧
      (State.reset.hp.adapter = .unconfigured ∧ State.reset.lu.exchange = none ∧
        (after (.peerTenureHeard 399 15) State.reset).lu.peerExchange = some ⟨none, false, false⟩ ∧
        (after (.exchangeStart ⟨9, 9⟩) (after (.peerPreemptHeard (-1264)) State.reset)).lu.peerExchange ≠ none) := by
  decide

theorem witness_WindowsCloseAsSilences :
    (let s := serving (.read ⟨1, 1, 0⟩) (request 0 .read .active);
      (∀ x ∈ s.lu.exchange, x.window = 5 ∧ x.frame.body.isTransfer = true ∧ x.earlyOver = false ∧ x.slotBegun = true ∧
        x.frame.body.isOrder = true ∧ x.discarded = false ∧ x.lost = false ∧ x.request = some 0) ∧ s.rdm.silence = 0 ∧
        s.rdm.drive = .up ∧
        (after (.answerWindowClose 5) s).lu.exchange = some { order (.read ⟨1, 1, 0⟩) with earlyOver := true } ∧
        (after (.answerWindowClose 5) (after (.answerWindowClose 5) s)).lu.exchange = none) ∧
      (let s := { serving (.read ⟨1, 1, 0⟩) (request 0 .read .active) with rdm := { up.rdm with silence := 2 } };
        s.activeRequest = some (request 0 .read .active) ∧ s.rdm.silence = 2 ∧ s.rdm.drive ≠ .down ∧
          (after (.answerWindowClose 4) s).lu.exchange ≠ none) ∧
      (∀ b ∈ [false, true], let s := { up with lu := { up.lu with peerExchange := some ⟨some .write, true, b⟩ } };
        s.lu.exchange = none ∧ (∀ p ∈ s.lu.peerExchange, p.window = 48 ∧ p.order = some .write ∧ p.earlyOver = b) ∧
          (after (.answerWindowClose 48) s).lu.peerExchange = if b then none else some ⟨some .write, true, true⟩) ∧
      (let s := noticing (.tenure 3) { up with tm := { up.tm with own := .asking 3, presence := .absent } };
        (∀ x ∈ s.lu.exchange, x.window = 5 ∧ x.frame.body.isAnswered = true ∧ x.discarded = false ∧
          x.frame.silences = 0) ∧ s.tm.own = .asking 3 ∧ s.rdm.drive = .up ∧ s.tm.courtesy = false ∧
          (after (.answerWindowClose 5) s).tm.own = .holding 3 4) ∧
      (let s := noticing (.claim 0 400 4 .exclusive) (holding (entry .claiming .explicit) up);
        s.tm.presence ≠ .absent ∧ s.hm.find 0 = some (entry .claiming .explicit)) ∧
      (let s := { up with lu := { up.lu with
          exchange := some ⟨⟨.claim 0 400 4 .exclusive, 0, 1, false⟩, none, false, false, false, false, false⟩ } };
        (∀ x ∈ s.lu.exchange, x.frame.silences ≠ 0) ∧ (after (.answerWindowClose 5) s).tm.presence = .absent ∧
          (after (.answerWindowClose 5) s).hp.events = 0x080) := by decide

/-- R116: before its slot begins the window of a READ stands at 63 quanta, where the early one alone closes, and ends
the exchange at 64. R101, R104: the silence below the third is a slip of cause LINE, its RECEIVING buffer EMPTY; the
ninth ends the request. -/
theorem witness_WindowsCloseAsSilences_slip :
    ∀ k ∈ [7, 8], let r := { request 0 .read .active with slips := k };
      let x : Exchange := ⟨⟨.read ⟨1, 1, 0⟩, 0, 0, false⟩, some 0, false, false, false, false, false⟩;
      let u := serving (.read ⟨1, 1, 0⟩) r;
      let s := { u with
        te := { u.te with bufA := ⟨.receiving, 0, [], 0, false⟩ }
        lu := { u.lu with exchange := some x } };
      let t := after (.answerWindowClose 64) s;
      Serving s x r ∧ x.window = 64 ∧ (s.wq.records.map Request.id).Nodup ∧ s.rdm.silence < 2 ∧
        (after (.answerWindowClose 63) s).lu.exchange = some { x with earlyOver := true } ∧ t.lu.exchange = none ∧
        t.rdm.silence = 1 ∧
        if k = 7 then t.te.phase = .leadWait ∧ t.te.lastSlip = .line ∧ t.te.bufA = .empty ∧
          t.wq.records = [{ r with slips := 8 }]
        else t.wq.records = [] ∧ (asked t).map (fun c => c.fault) = [some .line] := by decide

/-- R95, R96: a SEEK or SENSE silent below the third time, and the slot event that offers it again, a revolution event
among them. R132: ON CYLINDER fell in the SEEK exchange. -/
theorem witness_WindowsCloseAsSilences_again :
    ∀ b ∈ [FrameBody.seek 1, .sense], ∀ fell ∈ [false, true], ∀ c ∈ [Instr.sectorPulse pulse, .indexPulse pulse],
      let r := request 0 .write .active;
      let x := { order b with cylinderFell := fell };
      let u := serving b r;
      let s := { u with
        te := { u.te with phase := if b.isSeek then .seek else .sense }
        lu := { u.lu with exchange := some x }
        rdm := { u.rdm with counter := some 19 } };
      let t := after (.answerWindowClose 5) s;
      Serving s x r ∧ x.window = 5 ∧ t.te = s.te ∧ t.lu.frames = [] ∧
        t.tm.cylinder = (if b.isSeek && fell then none else some 1) ∧
        SlotTo t c 0 ∧ t.exchangeInProgress = false ∧ t.hp.adapter ≠ .silenced ∧ t.tm.own = .holding 1 4 ∧
        ((after c t).lu.frames.map fun f => f.body) = [b] := by decide

/-- R95: a tenure HOLDING at another cylinder, or none, has no SEEK offered again. -/
theorem witness_WindowsCloseAsSilences_tenure_gone :
    ∀ o ∈ [OwnTenure.none, .holding 2 2], let u := active (request 0 .write .active);
      let s := { u with te := { u.te with phase := .seek }, tm := { u.tm with own := o } };
      SlotTo s (.sectorPulse pulse) 6 ∧ s.exchangeInProgress = false ∧ s.te.phase = .seek ∧
        (∀ f ∈ s.lu.frames, f.body.isSeek = false) ∧ s.te.target.cylinder = 1 ∧
        (after (.sectorPulse pulse) s).te.phase ≠ .seek := by decide

/-- R133, R134, R136: notices decided unanswered at the second silence, the drive UP or DOWN. -/
theorem witness_WindowsCloseAsSilences_unanswered :
    ∀ d ∈ [DriveState.up, .down], ∀ y ∈ [(OwnTenure.asking 5, if d = .up then OwnTenure.holding 5 4 else .ending 5 4),
        (.holding 1 3, .holding 5 3), (.ending 1 0, .ending 5 0)],
      let u := active (request 0 .write .active);
      let x : Exchange := ⟨⟨.tenure 5, 0, 1, false⟩, none, false, false, false, false, false⟩;
      let s := { u with
        te := { u.te with phase := .tenureWait, target := ⟨5, 0, 0⟩ }
        tm := { u.tm with own := y.1 }
        rdm := { u.rdm with drive := d }
        lu := { u.lu with exchange := some x } };
      let t := after (.answerWindowClose 5) s;
      x.window = 5 ∧ x.frame.body.isAnswered = true ∧ x.frame.silences ≠ 0 ∧ s.hp.adapter ≠ .silenced ∧
        t.tm.own = y.2 ∧ (y.1.isHolding = true → (t.lu.frames.map fun f => f.body) = [.seek 5]) := by decide

/-- R133, R134: a re-announcement of cylinder 5 is silent once while the engine waits with an ask for cylinder 1: the
TENURE is sent again for cylinder 1; with the positioner there meanwhile the engine goes to its lead slot. -/
theorem test_ask_during_a_reannouncement :
    ∀ x ∈ [(some 7, FrameBody.tenure 1, Phase.tenureWait), (some 1, .tenure 5, .leadWait)],
      let r := request 0 .write .active;
      let s := noticing (.tenure 5) { active r with
        te := { (active r).te with phase := .tenureWait }
        tm := { up.tm with own := .holding 7 3, cylinder := x.1 } };
      let t := after (.answerWindowClose 5) s;
      askedElsewhere s (.tenure 5) = true ∧ s.activeRequest = some r ∧
        (t.lu.frames.map fun f => (f.body, f.silences)) = [(x.2.1, 1)] ∧ t.te.phase = x.2.2 := by decide

/-- R125, R156: the CLAIM of an entry removed in its exchange runs on. Its first silence makes it pending again, and an
answer changes no entry. -/
theorem test_claim_of_a_removed_entry :
    (let s := noticing (.claim 0 400 4 .exclusive) (holding (entry .claiming .explicit) fetching);
      let t := after (.unhold (element 8 0 0x8100 0 4 0)) s;
      t.hm.list = [] ∧ t.lu.exchange = s.lu.exchange ∧
        ((after (.answerWindowClose 5) t).lu.frames.map fun f => (f.body, f.silences)) =
          [(.claim 0 400 4 .exclusive, 1), (.free 400 4 false, 0)] ∧
        (after .grant t).hm.list = [] ∧ (after .grant t).lu.exchange = none) := by decide

theorem witness_BadFramesAndTheStationClash :
    (frameValid [27, 0] = false ∧ frameValid [27, -27] = true) ∧
      (frameValid [0x801B, -0x801B] = true ∧ frameSource [0x801B, -0x801B] = 2 ∧ adapterKind 27 = true ∧
        (let s := serving (.read ⟨1, 1, 0⟩) (request 0 .read .active);
          s.lu.exchange = some (order (.read ⟨1, 1, 0⟩)) ∧ s.rdm.silence < 2 ∧
            (after (.frameCheckFailed [0x801B, -0x801B]) s).rdm.silence = 1)) ∧
      (frameValid [0x4008, -0x4008] = true ∧ frameSource [0x4008, -0x4008] = 1 ∧ frameKind [0x4008, -0x4008] = 8 ∧
        (let s := noticing (.preempt (-1)) { up with tm := { up.tm with presence := .absent } };
          Noticing s ⟨⟨.preempt (-1), 0, 0, false⟩, none, false, false, false, false, false⟩ ∧
            (after (.frameCheckFailed [0x4008, -0x4008]) s).tm.presence = .present ∧
            ((after (.frameCheckFailed [0x4008, -0x4008]) s).lu.frames.map fun f => f.silences) = [1])) ∧
      (frameValid [0x401B, -0x401B] = true ∧ frameSource [0x401B, -0x401B] = 1 ∧ up.lu.station = false ∧
        after (.stationClash [0x401B, -0x401B]) up = up ∧ after (.stationClash [27, 0]) up = up ∧
        (after (.stationClash [27, -27]) (noticing .release up)).hp.adapter = .running) ∧
      (∀ l ∈ [[(5 : Word), -5], [25, -25], [16, 399, 15, -430]], frameValid l = true ∧ frameSource l = 0 ∧
        (after (.stationClash l) (noticing (.preempt (-1)) up)).hp.adapter = .silenced) ∧
      (let r := request 0 .write .ready;
        let s := { active r with te := Engine.reset };
        s.lu.station = false ∧ s.lu.exchange = none ∧ frameKind [27, -27] = 27 ∧ frameSource [27, -27] = 0 ∧
          s.hp.adapter ≠ .silenced ∧ (s.wq.records.map Request.id).Nodup ∧
          (s.chain 0).state = .running ∧ r.queued = true) ∧
      (let y := { entry .pending .explicit with
          holdElem := some (⟨0, 900, .hold .exclusive, false, false, false⟩, .common, 1) };
        let s := { running with hm := ⟨[], [y], 1⟩ };
        s.lu.station = false ∧ s.lu.exchange = none ∧ y.chain = 0 ∧ y.holdElem ≠ none ∧
          ((asked (after (.stationClash [27, -27]) s)).map fun c => c.fault) = [some .silenced]) ∧
      (let r := request 0 .write .active;
        (active r).lu.exchange = none ∧ (active r).activeRequest = some r) := by decide

/-- R55 to R57: the entry to SILENCED ends a chain with nothing in flight and leaves one with a fetch under way STOPPING;
held elements and waiting HOLDs go, and the explicit entries of the chain that ends. -/
theorem witness_BadFramesAndTheStationClash_chains :
    (let t := after (.stationClash [27, -27]) (lastEntry .running resuming);
      (t.chain 0).state = .ended ∧ (t.chain 1).state = .ended ∧ t.hp.events = 0x103 ∧ t.hm.list = [] ∧ t.lu.frames = [] ∧
        (asked t).map (fun c => (c.status, c.fault, c.place)) = [(.fault, some .silenced, some (.priv, 0))]) ∧
      (let t := after (.stationClash [27, -27]) fetching;
        (t.chain 0).state = .stopping ∧ t.hp.events = 0x100) ∧
      (let s := laden (ending .done none false);
        let t := after (.stationClash [27, -27]) s;
        NamesFresh s ∧ (t.chain 0).state = .stopping ∧ t.hm.list = [] ∧
          (asked t).map (fun c => (c.info.addr, c.fault)) =
            [(932, some .silenced), (900, some .silenced), (900, some .silenced)]) := by decide

/-! Witnesses: the drive's answers. -/

theorem witness_SeekIsAcceptedOrBusy :
    (Serving (serving (.seek 1) (request 0 .write .active)) (order (.seek 1)) (request 0 .write .active) ∧
      ((serving (.seek 1) (request 0 .write .active)).wq.records.map Request.id).Nodup) ∧
      (∀ k ∈ [2, 3], let r := { request 0 .write .active with displacements := k };
        Serving (serving (.write ⟨1, 1, 0⟩) r) (order (.write ⟨1, 1, 0⟩)) r ∧
          (serving (.write ⟨1, 1, 0⟩) r).tm.own.isHolding = true) := by decide

/-- An exchange of the engine's order for a request that rides along on the peer's tenure at its cylinder. -/
def riding (b : FrameBody) (r : Request) : State :=
  { serving b r with tm := { up.tm with peer := some ⟨some 1, 4⟩, cylinder := some 1 } }

/-- The chain of the request is STOPPING. -/
def stopped (s : State) : State := { s with chains := s.chains.set 0 { s.chain 0 with state := .stopping } }

/-- R85, R97, R105: BUSY and WRONG CYLINDER suspend a request that rides along: READY at its place with its counts, chosen
again where the positioner is found at its cylinder, ABORTED where its chain is STOPPING. -/
theorem witness_SeekIsAcceptedOrBusy_riding :
    let r := { doing .write 1 with displacements := 2, started := true, slips := 3 };
    let b := FrameBody.write ⟨1, 1, 0⟩;
    let s := riding b r;
    Serving s (order b) r ∧ s.tm.own.isHolding = false ∧ s.mayNotReturn r = false ∧ (stopped s).mayNotReturn r = true ∧
      (∀ c ∈ [Instr.busy, .wrongCylinder 3],
        (after c s).wq.records = [{ r with state := .ready, displacements := 3 }] ∧ (after c s).te.request = none ∧
          (asked (after c (stopped s))).map (fun x => (x.status, x.done)) = [(.aborted, 1)] ∧
          (after c (stopped s)).wq.records = []) ∧
      (after (.wrongCylinder 1) s).wq.records.map (fun u => (u.state, u.displacements, u.slips, u.done)) =
        [(.active, 3, 3, 1)] := by decide

/-- The peer's order exchange. -/
def peerOrder (o : PeerOrder) : State := { up with lu := { up.lu with peerExchange := some ⟨some o, true, false⟩ } }

/-- An early answer after the close of its window is none (R116, R119): BUSY, NOT READY, MISSED, WRONG CYLINDER. -/
theorem test_late_early_answers :
    (let s := serving (.write ⟨1, 1, 0⟩) (request 0 .write .active);
      let late := { s with lu := { s.lu with exchange := some { order (.write ⟨1, 1, 0⟩) with earlyOver := true } } };
      [Instr.busy, .notReady, .missed, .wrongCylinder 3].all (fun c =>
        decide (after c late = late ∧ (after c s).lu.exchange = none)) = true) ∧
      (let s := { up with lu := { up.lu with peerExchange := some ⟨some .write, true, true⟩ } };
        [Instr.notReady, .wrongCylinder 3].all (fun c => decide (after c s = s)) = true) := by decide

theorem witness_SectorIsDone :
    (∀ k ∈ [RequestKind.write, .directWrite], ∀ n ∈ [0, 2], let r := doing k n;
      Serving (serving (.write ⟨1, 1, 0⟩) r) (order (.write ⟨1, 1, 0⟩)) r ∧
        (n = 2 → r.isDirect = true → r.count ≤ r.done + 1) ∧
        ((serving (.write ⟨1, 1, 0⟩) r).chain 0).state = .running ∧
        ((serving (.write ⟨1, 1, 0⟩) r).ec.get .priv 1).kind ≠ .empty) ∧
      (∀ k ∈ [RequestKind.read, .compare, .scan], let r := doing k 0;
        Serving (serving (.read ⟨1, 1, 0⟩) r) (order (.read ⟨1, 1, 0⟩)) r ∧ r.kind.writes = false) ∧
      (∀ n ∈ [0, 2], let r := { doing .append n with extent := some (.priv, 3) };
        Serving (serving (.write ⟨1, 1, 0⟩) r) (order (.write ⟨1, 1, 0⟩)) r ∧
          (∀ q ∈ (serving (.write ⟨1, 1, 0⟩) r).wq.records,
            ((serving (.write ⟨1, 1, 0⟩) r).chain q.elem.chain).state = .running) ∧
          ((serving (.write ⟨1, 1, 0⟩) r).ec.get .priv 3).owner = none ∧
          ((serving (.write ⟨1, 1, 0⟩) r).ec.get .priv 3).fill = 9) ∧
      (let r := { doing .append 0 with extent := some (.priv, 3) };
        let t := after .written (serving (.write ⟨1, 1, 0⟩) r);
        (t.ec.get .priv 3).fill = 0 ∧ (t.ec.get .priv 3).wrappedEver = true ∧ (t.ec.get .priv 3).written = true) := by
  decide

/-- R158: the written flag at a sector that is done, and in the FREE after the last one. R98, R99: the sector received
goes to its place, that of a SCAN nowhere; a buffer written out loads the sector after the next. -/
theorem witness_SectorIsDone_holds_and_buffers :
    (let s := fun (n : Nat) =>
        let r := { doing .write n with extent := some (.common, 1), hold := some 0, firstBlock := 400 };
        holding { entry .held .implicit with refs := 1 } (serving (.write ⟨1, 1, 0⟩) r);
      NamesFresh (s 0) ∧ ((after .written (s 0)).hm.list.map fun y => (y.written, y.refs)) = [(true, 1)] ∧
        (after .written (s 2)).hm.list = [] ∧
        (after .written (s 2)).lu.frames.any (fun f => f.body == .free 400 4 true) = true) ∧
      (∀ k ∈ [RequestKind.read, .scan],
        let s := serving (.read ⟨1, 1, 0⟩) (doing k 1);
        let s := { s with te := { s.te with bufB := ⟨.receiving, 1, [], 0, false⟩ } };
        let t := after (.data (List.replicate 128 7) 0) s;
        (s.te.buf .b).state = .receiving ∧ (s.te.buf .a).state ≠ .receiving ∧
          t.te.bufB.state = (if k = .read then .unloading else .empty) ∧
          (.unload .b 128 ∈ t.hp.waiting ↔ k = .read)) ∧
      (let s := serving (.write ⟨1, 1, 0⟩) (doing .write 0);
        let s := { s with te := { s.te with bufA := ⟨.loaded, 0, [1], 0, false⟩, bufB := ⟨.loaded, 1, [2], 0, false⟩ } };
        s.te.sector = 0 ∧ s.tm.own.isHolding = true ∧ (after .written s).te.bufA = ⟨.loading, 2, [], 0, false⟩ ∧
          (after .written s).hp.waiting = [.load .a 256]) := by decide +kernel

theorem witness_OrdersFail :
    up.rdm.drive ≠ .down ∧
      (let r := request 0 .read .active;
        Serving (serving (.read ⟨1, 1, 0⟩) r) (order (.read ⟨1, 1, 0⟩)) r ∧
          (serving (.read ⟨1, 1, 0⟩) r).rdm.drive ≠ .down) ∧
      ((peerOrder .write).lu.exchange = none ∧ (peerOrder .write).lu.peerExchange = some ⟨some .write, true, false⟩) ∧
      (∀ k ∈ [7, 8], let r := { doing .write 0 with slips := k };
        Serving (serving (.write ⟨1, 1, 0⟩) r) (order (.write ⟨1, 1, 0⟩)) r ∧
          ((serving (.write ⟨1, 1, 0⟩) r).wq.records.map Request.id).Nodup) ∧
      (∀ k ∈ [1, 2], let r := { doing .read 0 with retries := k };
        Serving (serving (.read ⟨1, 1, 0⟩) r) (order (.read ⟨1, 1, 0⟩)) r ∧
          (serving (.read ⟨1, 1, 0⟩) r).cfg.retryLimit = 2) ∧
      (List.replicate 128 (0 : Word)).length = 128 := by decide +kernel

/-- The exchange of an order of a request that will not go on: ENDING, or the drive lost. -/
def finishing (b : FrameBody) (r : Request) (lost : Bool) : State :=
  let s := serving b r
  { s with
    te := { s.te with downAfter := r.state = .active }
    lu := { s.lu with exchange := some { order b with lost := lost } } }

theorem witness_ExchangesOfEndingRequestsEnd :
    ∀ b ∈ [FrameBody.seek 1, .write ⟨1, 1, 0⟩, .read ⟨1, 1, 0⟩, .sense], ∀ st ∈ [RequestState.active, .ending],
      ∀ lost ∈ [false, true],
        let r := { doing (if b.isRead then .read else .write) 0 with state := st };
        let x := { order b with lost := lost };
        Finishing (finishing b r lost) x r ∧ ((finishing b r lost).wq.records.map Request.id).Nodup ∧ EarlyOpen x ∧
          (finishing b r lost).rdm.silence < 2 := by decide

/-- R111: the sector made counts. R112, R166: the silence of a SEEK that saw the drive lost. -/
theorem test_exchanges_that_end :
    (let r := { doing .append 0 with extent := some (.priv, 3), state := .ending };
      let t := after .written (finishing (.write ⟨1, 1, 0⟩) r false);
      (asked t).map (fun c => (c.status, c.done)) = [(.aborted, 1)] ∧ (t.ec.get .priv 3).fill = 0) ∧
      (let s := finishing (.seek 1) (doing .write 0) true;
        (after (.answerWindowClose 5) s).tm.cylinder = none ∧ (after (.answerWindowClose 5) s).rdm = s.rdm ∧
          (asked (after (.answerWindowClose 5) s)).map (fun c => c.fault) = [some .driveDown]) := by decide

/-- R97: a suspension taken during the exchange takes effect at its end, the answer's effect on the sector first. -/
theorem witness_ExchangesOfEndingRequestsEnd_suspending :
    (∀ b ∈ [FrameBody.seek 1, .write ⟨1, 1, 0⟩, .read ⟨1, 1, 0⟩, .sense],
      let r := doing (if b.isRead then .read else .write) 0;
      let s := { riding b r with te := { (riding b r).te with suspendAfter := true } };
      Suspending s (order b) r ∧ (s.wq.records.map Request.id).Nodup ∧ EarlyOpen (order b) ∧ s.rdm.silence < 2 ∧
        r.done + 1 < r.count ∧ r.retries < s.cfg.retryLimit) ∧
      (let s := riding (.write ⟨1, 1, 0⟩) (doing .write 0);
        let s := { s with te := { s.te with suspendAfter := true }, tm := { s.tm with moving := true } };
        (after .written s).wq.records = [{ doing .write 1 with state := .ready }] ∧
          (after .missed s).wq.records = [{ doing .write 0 with state := .ready, slips := 1 }]) := by decide

theorem witness_DriveTellsItsCylinder :
    ((399 : Word).toNat ≤ 399 ∧ (3 : Word).toNat ≤ 3) ∧
      (∀ k ∈ [2, 3], let r := { doing .write 0 with displacements := k };
        Serving (serving (.write ⟨1, 1, 0⟩) r) (order (.write ⟨1, 1, 0⟩)) r ∧
          (serving (.write ⟨1, 1, 0⟩) r).mayNotReturn r = false) ∧
      Serving (serving .sense (doing .write 0)) (order .sense) (doing .write 0) ∧
      (∀ b ∈ [FrameBody.sense, .seek 1],
        let s := { serving b (doing .write 0) with te := { (serving b (doing .write 0)).te with
          phase := if b.isSeek then .seek else .sense } };
        Serving s (order b) (doing .write 0) ∧ s.rdm.silence < 2 ∧
          (after (.wrongCylinder 399) s).rdm.silence = 1 ∧ (after (.wrongCylinder 399) s).tm = s.tm) ∧
      (∀ o ∈ [PeerOrder.read, .write, .writeData, .sense], (peerOrder o).lu.exchange = none ∧
        (peerOrder o).lu.peerExchange = some ⟨some o, true, false⟩) ∧
      (after (.senseReply 2 399) (peerOrder .sense)).tm.cylinder = some 399 ∧
      (after (.senseReply 2 399) (peerOrder .sense)).tm.moving = true := by decide

/-- The peer's SENSE in exchange, the drive in the state given. -/
def peerSensing (d : DriveState) : State :=
  { peerOrder .sense with rdm := { up.rdm with drive := d, silence := 1 } }

/-- R132, R163: a SENSE REPLY to the peer saying not ready, the drive UP and DOWN already. -/
theorem witness_DriveTellsItsCylinder_not_ready :
    (1 : Word).getLsbD 1 = false ∧
      (after (.senseReply 1 399) (peerSensing .up)).rdm.drive = .down ∧
      (after (.senseReply 1 399) (peerSensing .up)).tm.cylinder = none ∧
      (after (.senseReply 1 399) (peerSensing .up)).hp.events = 0x200 ∧
      (after (.senseReply 0 399) (peerSensing .down)).tm = (peerSensing .down).tm ∧
      (after (.senseReply 0 399) (peerSensing .down)).hp = (peerSensing .down).hp ∧
      (after (.senseReply 0 399) (peerSensing .down)).lu.peerExchange = none := by decide

/-! Witnesses: the peer's frames. -/

theorem witness_PeerOrdersAreFollowed :
    Hears up ∧ (399 < (400 : Word).toNat ∧ (399 : Word).toNat ≤ 399) ∧
      (let s := { active (request 0 .write .active) with tm := { up.tm with own := .none } };
        Hears s ∧ s.activeRequest = some (request 0 .write .active) ∧ s.tm.own.isHolding = false ∧
          s.exchangeInProgress = false) ∧
      (let s := { up with tm := { up.tm with peerSeeks := 255 } };
        Hears s ∧ (after (.peerSeek 399 .accepted false) s).tm.peerSeeks = 255) ∧
      (let t := after (.peerSeek 399 .accepted true) up;
        t.tm.cylinder = none ∧ t.tm.moving = false ∧ t.tm.peerSeeks = 1) ∧
      (let s := { running with wq := ⟨[request 0 .write .ready], 1⟩ };
        Hears s ∧ s.te.phase = .idle ∧ s.te.request = none ∧ (after (.peerSeek 1 .accepted false) s).te = s.te) := by
  decide

/-- R85, R97: a SEEK of the peer ACCEPTED suspends a request without own tenure, at once, or at the end of its exchange;
an ENDING request is left to that end. -/
theorem witness_PeerOrdersAreFollowed_riding :
    let r := { doing .write 1 with displacements := 2, started := true };
    let t := after (.peerSeek 1 .accepted false);
    (let s := { riding .sense r with lu := up.lu };
      Hears s ∧ s.exchangeInProgress = false ∧ s.mayNotReturn r = false ∧
        (t s).wq.records = [{ r with state := .ready }] ∧ (t s).te.request = none ∧
        (asked (t (stopped s))).map (fun x => x.status) = [.aborted]) ∧
      (let s := riding (.write ⟨1, 1, 0⟩) r;
        Hears s ∧ s.exchangeInProgress = true ∧ (t s).te.suspendAfter = true ∧ (t s).wq.records = [r]) ∧
      (let s := riding (.write ⟨1, 1, 0⟩) { r with state := .ending };
        Hears s ∧ (t s).te = s.te) := by decide

theorem witness_PeerTenureIsAnswered :
    ∀ o ∈ [OwnTenure.none, .asking 3, .holding 3 2, .ending 3 1],
      let s := { up with tm := { up.tm with own := o } };
      Hears s ∧ s.tm.own = o ∧ (399 : Word).toNat ≤ 399 ∧ 1 ≤ (1 : Word).toNat ∧ (15 : Word).toNat ≤ 15 ∧
        s.te.phase = .idle ∧ s.te.request = none := by decide

/-- R85, R97: a re-announcement at another cylinder suspends a request that rides along; at its own it goes on. -/
theorem witness_PeerTenureIsAnswered_riding :
    let r := { doing .write 1 with displacements := 2, started := true };
    let s := { riding .sense r with lu := up.lu };
    Hears s ∧ s.activeRequest = some r ∧ s.te.target.cylinder = 1 ∧ s.exchangeInProgress = false ∧
      s.mayNotReturn r = false ∧ (after (.peerTenureHeard 1 3) s).te = s.te ∧
      (after (.peerTenureHeard 3 3) { s with tm := { s.tm with moving := true } }).wq.records = [{ r with state := .ready }] ∧
      (asked (after (.peerTenureHeard 3 3) (stopped s))).map (fun x => x.status) = [.aborted] ∧
      (after (.peerTenureHeard 3 3) (riding (.write ⟨1, 1, 0⟩) r)).te.suspendAfter = true := by decide

/-- R86, R94: the ask of an engine that waits is refused by the peer's TENURE: its request is BLOCKED, READY if started,
ABORTED where it may not return. -/
theorem witness_PeerTenureIsAnswered_asking :
    ∀ b ∈ [false, true],
      let r := { request 0 .write .active with started := b };
      let s := { active r with
        te := { (active r).te with phase := .tenureWait }
        tm := { up.tm with own := .asking 1 }
        lu := { up.lu with frames := [⟨.tenure 1, 2, 1, false⟩] } };
      let t := after (.peerTenureHeard 3 3);
      Hears s ∧ s.activeRequest = some r ∧ s.mayNotReturn r = false ∧ (s.wq.records.map Request.id).Nodup ∧
        (t s).wq.records.map Request.state = [if b then .ready else .blocked] ∧ (t s).te.request = none ∧
        (t s).lu.frames = [] ∧ (stopped s).mayNotReturn r = true ∧
        (asked (t (stopped s))).map (fun x => x.status) = [.aborted] ∧ (t (stopped s)).wq.records = [] := by decide

theorem witness_PeerPreemptIsAnswered :
    (∀ o ∈ [OwnTenure.none, .asking 3, .holding 1 2, .ending 3 1],
      let s := { up with tm := { up.tm with own := o } };
      Hears s ∧ s.tm.own = o ∧ s.hp.adapter ≠ .silenced ∧ s.lu.frames.all (fun f => !f.body.isRelease) = true ∧
        s.lu.inExchange FrameBody.isRelease = false) ∧
      (-1264 ≤ (-1264 : Word).toInt ∧ (-1 : Word).toInt ≤ -1) ∧
      (let s := { active { request 0 .write .active with budget := some 0 } with lu := up.lu };
        Hears s ∧ s.tm.own = .holding 1 4 ∧
          (after (.peerPreemptHeard (-7)) s).tm.own = .holding 1 4 ∧ (after (.peerPreemptHeard (-8)) s).tm.own = .ending 1 4) ∧
      (∀ b ∈ [false, true],
        let r := { request 0 .write .active with started := b };
        let s := { active r with
          te := { (active r).te with phase := .tenureWait }
          tm := { up.tm with own := .asking 1 }
          lu := { up.lu with frames := [⟨.tenure 1, 2, 1, false⟩] } };
        Hears s ∧ s.tm.own = .asking 1 ∧ s.te.phase = .tenureWait ∧ s.activeRequest = some r ∧ r.state = .active ∧
          s.mayNotReturn r = false ∧ (∀ q ∈ s.wq.records, q.state ≠ .ready) ∧
          s.lu.inExchange FrameBody.isRelease = false ∧ (s.wq.records.map Request.id).Nodup ∧
          (after (.peerPreemptHeard (-1)) s).tm.own = (if b then .asking 1 else .none)) := by
  decide

/-- R18, R80, R142: whose slack is compared, at the tenure's cylinder 1 with interleave 3 and three sectors, span 7: the
ACTIVE request's on any cylinder, started or with its cost, and a queued one's there; not a BLOCKED one's elsewhere, nor
one's without a budget. -/
theorem test_slacks_compared :
    let kept := fun (r : Request) (k : Word) =>
      (after (.peerPreemptHeard k) { active r with wq := ⟨[r], 1⟩ }).tm.own = .holding 1 4;
    let r := { request 0 .read .active with budget := some 3, cost := 10, started := true };
    (kept r (-4) ∧ ¬ kept r (-5)) ∧ (kept { r with started := false } (-14) ∧ ¬ kept { r with started := false } (-15)) ∧
      kept { r with firstBlock := 400 } (-4) ∧ ¬ kept { r with budget := none } (-1) ∧
      (∀ st ∈ [RequestState.holdWait, .ready, .blocked], kept { r with state := st } (-4) ∧
        ¬ kept { r with state := st, firstBlock := 400 } (-1)) := by decide

theorem witness_PeerNoticesOfRangesAndRelease :
    (let s := holding (entry .held .explicit) up;
      Hears s ∧ NamesFresh s ∧ s.hp.adapter ≠ .silenced ∧
        (after (.peerClaimHeard 403 1) s).out = [.frame (frameWords false 24 [])] ∧
        (after (.peerClaimHeard 404 1) s).out = [.frame (frameWords false 23 [])]) ∧
      ((1 : Word).toNat / 128 % 256 = 0 ∧ 1 ≤ (1 : Word).toNat % 128 ∧ (31999 : Word).toNat + 1 ≤ 32000) ∧
      ((0x8040 : Word).toNat / 128 % 256 = 0 ∧ (0x8040 : Word).toNat % 128 ≤ 64 ∧ (31936 : Word).toNat + 64 ≤ 32000) ∧
      (let s := holding (entry .refused .implicit) up;
        Hears s ∧ NamesFresh s ∧ ((after (.peerFreeHeard 403 0x8001) s).hm.list.map fun y => y.state) = [.claiming] ∧
          (after (.peerFreeHeard 403 0x8001) s).hp.events = 0x020) ∧
      (let s := { up with tm := { up.tm with peer := some ⟨some 3, 2⟩, preemptMark := true } };
        Hears s ∧ s.tm.peer = some ⟨some 3, 2⟩) ∧
      (let s := { up with tm := { up.tm with own := .holding 3 2 } };
        Hears s ∧ s.tm.peer = none ∧ TenureExclusive s ∧ s.lu.tenureStands = false ∧
          (after .peerHelloHeard s).lu.frames = [⟨.tenure 3, 0, 0, false⟩] ∧ (after .peerReleaseHeard s).lu.frames = []) := by
  decide +kernel

theorem witness_TenureNoticesAreSettled :
    ∀ o ∈ [OwnTenure.asking 3, .holding 3 2, .ending 3 1],
      let s := noticing (.tenure 3) { up with tm := { up.tm with own := o } };
      Noticing s ⟨⟨.tenure 3, 0, 0, false⟩, none, false, false, false, false, false⟩ ∧ s.tm.own = o ∧ s.rdm.drive = .up ∧
        (15 : Word).toNat ≤ 15 := by decide

/-- An engine that waits for tenure with its request, which stands before a BLOCKED one and a READY one. -/
def waitingTenure (r : Request) (own : OwnTenure) (drive : DriveState) : State :=
  let u := active r
  noticing (.tenure 1) { u with
    wq := ⟨[r, request 1 .write .blocked, request 2 .write .ready], 3⟩
    te := { u.te with phase := .tenureWait }
    tm := { up.tm with own := own }
    rdm := { up.rdm with drive := drive } }

/-- R94, R136: with the drive not UP an ask answered ACK is ENDING at once; after a CLASH the ask is refused. -/
theorem witness_TenureNoticesAreSettled_refused :
    ∀ b ∈ [false, true], ∀ d ∈ [DriveState.down, .resync],
      let r := { request 0 .write .active with started := b };
      let s := waitingTenure r (.asking 1) d;
      let u := waitingTenure r (.asking 1) .up;
      Noticing s ⟨⟨.tenure 1, 0, 0, false⟩, none, false, false, false, false, false⟩ ∧ s.rdm.drive ≠ .up ∧
        s.activeRequest = some r ∧ s.mayNotReturn r = false ∧
        (after .ack s).tm.own = .ending 1 4 ∧ ((after .ack s).lu.frames.map fun f => f.body) = [.release] ∧
        (after .ack s).wq.records[0]? = some { r with state := .ready } ∧
        u.te.phase = .tenureWait ∧ u.activeRequest = some r ∧ u.mayNotReturn r = false ∧
        (u.wq.records.map Request.id).Nodup ∧ (∀ q ∈ u.wq.records, NeedsSeek u q) ∧
        (after (.clash 0) u).te.phase = .idle ∧
        ((after (.clash 0) u).wq.records.map fun q => q.state) = [if b then .ready else .blocked, .blocked, .blocked] := by
  decide

/-- R65, R85, R87: the request of a chain that is STOPPING does not return: it is ABORTED by the ACK and by the CLASH. -/
theorem witness_TenureNoticesAreSettled_aborted :
    let r := request 0 .write .active;
    let s := waitingTenure r (.asking 1) .down;
    let s := { s with chains := s.chains.set 0 { s.chain 0 with state := .stopping } };
    s.activeRequest = some r ∧ s.mayNotReturn r = true ∧
      ∀ c ∈ [Instr.ack, .clash 15], (asked (after c s)).map (fun c => c.status) = [.aborted] ∧
        (after c s).wq.records.length = 2 := by decide

theorem witness_ClaimsAreGrantedOrRefused :
    ∀ b ∈ [none, some 1, some 0],
      let y := { entry .claiming .explicit with budget := b };
      let s := noticing (.claim 0 400 4 .exclusive) (holding y up);
      Noticing s ⟨⟨.claim 0 400 4 .exclusive, 0, 0, false⟩, none, false, false, false, false, false⟩ ∧ NamesFresh s ∧
        y ∈ s.hm.list ∧ y.id = 0 ∧ s.hp.adapter ≠ .silenced ∧ (after .grant s).hm.list.map (fun z => z.state) = [.held] ∧
        (after .refuse s).hm.list.map (fun z => z.state) = (if b = some 0 then [] else [.refused]) ∧
        (after .refuse { s with hm := ⟨[{ y with origin := .implicit }], [], 1⟩ }).hm.list.map (fun z => z.state) =
          [.refused] := by
  decide

/-! Witnesses: numbers, encodings, laws. -/

theorem witness_BlocksAndBudgetsOfSection1 :
    interleaveAllowed 19 = true ∧ targetOf 19 31999 = ⟨399, 3, 1⟩ ∧ interleaveAllowed 1 = true ∧ targetOf 1 0 = ⟨0, 0, 0⟩ := by
  decide

/-- R16, R18: three sectors at I = 3 with cost 5 and budget 10, none and one of them written; a DIRECT request. -/
theorem test_span_and_slack :
    (let r := { request 0 .write .ready with budget := some 10, cost := 5 };
      running.slackOf r = some (-2) ∧ running.slackOf { r with done := 1, started := true } = some 6) ∧
      (let r := { request 0 .directRead .ready with count := 1, budget := some 10, cost := 5 };
        r.isDirect = true ∧ running.slackOf r = some 4) ∧ span 19 64 = 1198 := by decide

theorem witness_SeekEstimateAndRotationalWait :
    (0 : Nat) ≤ 399 ∧ (0 : Nat) ≠ 399 ∧ seekEstimate (some 0) 399 = 46 ∧ ((19 + 0 + 1) % 20 = 0) ∧
      rotationalWait (some 19) 0 0 = 1 ∧ rotationalWait (some 19) 0 19 = 20 ∧
      (let s := { active (request 0 .write .active) with rdm := Monitor.reset false false };
        s.rdm.counter = none) := by decide

/-- Bodies at the ends of their ranges. -/
theorem witness_SentFramesAreValidAndExact :
    (∀ c ∈ [0, 399], frameValid (frameWords true 1 ((FrameBody.seek c).content 1)) = true) ∧
      (∀ k ∈ [(-1264 : Int), -1], frameValid (frameWords false 19 ((FrameBody.preempt k).content 1)) = true) ∧
      (∀ r ∈ [1, 15], frameValid (frameWords false 16 ((FrameBody.tenure 399).content r)) = true) ∧
      frameValid (frameWords false 2 ((FrameBody.read ⟨399, 3, 19⟩).content 1)) = true ∧
      frameValid (frameWords false 22 ((FrameBody.claim 0 31936 64 .exclusive).content 1)) = true ∧
      frameValid (frameWords false 26 ((FrameBody.free 31999 1 true).content 1)) = true := by decide

theorem witness_WordsAndImagesShowTheirFields :
    (let d : Descriptor := ⟨.log, 3, 31990, 9, true, 9, false, false, false, true, 0, none⟩;
      d.image = [0x7E00, 31990, 9, 9] ∧ d.level ≤ 3 ∧ d.base < 65536 ∧ d.limit < 65536 ∧ d.fill < 65536 ∧
        d.kind ≠ .empty) ∧
      (let d : Descriptor := ⟨.fixed, 0, 0, 31999, false, 0, false, false, false, false, 0, none⟩;
        d.image = [0x2000, 0, 31999, 0] ∧ d.fill = 0 ∧ d.wrap = false ∧ d.wrappedEver = false) ∧
      (let c := { ending .done none true with place := some (.common, 31), done := 64, stamp := ⟨false, 23, 59, 59, 9⟩ };
      c.done ≤ 64 ∧ (∀ x ∈ c.place, x.2 < 32) ∧ c.stamp.hours ≤ 23 ∧ c.stamp.minutes ≤ 59 ∧ c.stamp.seconds ≤ 59 ∧
        c.stamp.tenths ≤ 9 ∧ c.words = [0x0040, 0x031F, 0x173B, 0x3B09]) ∧
      (let s := { up with
          lu := { up.lu with collisionCount := 255, lastCollided := 27, station := true }
          tm := { up.tm with own := .holding 399 15, cylinder := some 399, peerSeeks := 255 }
          rdm := { up.rdm with counter := some 19, synthRun := 20, silence := 2 } };
        s.lu.collisionCount ≤ 255 ∧ s.lu.lastCollided ≤ 27 ∧ lineRecord s = [255, 27, 0x000B, 0] ∧
          (∀ c ∈ s.tm.cylinder, c ≤ 399) ∧ (∀ c ∈ s.rdm.counter, c ≤ 19) ∧ s.tm.own.fields.2.1 ≤ 15 ∧
          positionRecord s = [0xBD8F, 0, 0xC7CC, 0xFFA4]) ∧
      (let s := { up with tm := { up.tm with peer := some ⟨none, 15⟩ } };
        (∀ p ∈ s.tm.peer, p.revolutions ≤ 15) ∧ (positionRecord s)[1]? = some 0xF9FF) := by decide

/-- The marks in an image (11.5): accessed, written and changed in bits 8, 7 and 6 of its first word. -/
theorem test_marks_in_images :
    [(true, false, false), (false, true, false), (false, false, true)].map (fun m =>
      (⟨.working, 1, 7, 5, false, 0, m.1, m.2.1, m.2.2, false, 0, none⟩ : Descriptor).image) =
      [[0x4900, 7, 5, 0], [0x4880, 7, 5, 0], [0x4840, 7, 5, 0]] := by decide

/-- For the laws kept by every step: a state that meets them and takes a step. -/
theorem witness_laws_kept :
    (let s := { holding (entry .held .explicit) (serving (.write ⟨1, 1, 0⟩) (request 0 .write .active)) with
        pending := [.written] };
      TenureExclusive s ∧ QueueBounded s ∧ HoldListSound s ∧ LineCountsInRange s ∧ MonitorInRange s.rdm ∧ NamesFresh s ∧
        (match step s with | .next t => decide (t.lu.exchange = none ∧ t.pending = []) | _ => false) = true) := by decide

/-- A LOG with WRAP at its last sector, three sectors of it promised, the first of them written. -/
def appending : State :=
  { serving (.write ⟨1, 1, 0⟩) { doing .append 0 with extent := some (.priv, 3) } with
    pending := [.written]
    ec := up.ec.modify .priv 3 fun d => { d with reserved := 3 } }

/-- R32, R34: the sector written leaves two promised, and the mark at 0. -/
theorem witness_StepKeepsTheLogsSound :
    NamesFresh appending ∧ LogsSound appending ∧
      (match step appending with
        | .next t => decide ((t.ec.get .priv 3).fill = 0 ∧ (t.ec.get .priv 3).reserved = 2)
        | _ => false) = true :=
  ⟨by decide, ⟨by decide, by decide, by decide, by decide⟩, by decide⟩

/-- The block takes no program word: the table gives no bits (log 25). -/
theorem test_no_table_word : decodeTableWord 16 0x1234 = none ∧ State.reset.withFetchWord 16 0x1234 = State.reset := by decide

end Sys2Proof.Tests
end

section
/-! Section 1.4: the seek estimate, the rotational wait, and the cost that adds them. -/

namespace Sys2Proof.Machine

/-! The seek estimate (R12): what it is at a given distance. -/

theorem seekDistance_some_eq {p c d : Nat} (h : d = p - c ∧ c < p ∨ d = c - p ∧ p < c) :
    seekDistance (some p) c = d := by
  rcases h with ⟨hd, hlt⟩ | ⟨hd, hlt⟩ <;> simp only [seekDistance] <;> omega

theorem seekDistance_some_pos {p c : Nat} (h : p ≠ c) : 0 < seekDistance (some p) c := by
  simp only [seekDistance]
  omega

theorem seekDistance_some_le {p c : Nat} (hp : p ≤ 399) (hc : c ≤ 399) : seekDistance (some p) c ≤ 399 := by
  simp only [seekDistance]
  omega

theorem seekEstimate_of_seekDistance_pos {positioner : Option Nat} {c : Nat} (h : 0 < seekDistance positioner c) :
    seekEstimate positioner c = 6 + (seekDistance positioner c + 9) / 10 :=
  if_neg (Nat.ne_of_gt h)

@[simp] theorem seekEstimate_self (p : Nat) : seekEstimate (some p) p = 0 := by
  simp [seekEstimate, seekDistance]

/-- An UNKNOWN positioner is 399 cylinders away: 6 slots and 40 tens begun. -/
@[simp] theorem seekEstimate_unknown (c : Nat) : seekEstimate none c = 46 := by
  simp [seekEstimate, seekDistance]

/-- One slot for each ten cylinders of distance begun: the estimate less 6 is the distance over 10, rounded up. -/
theorem seekEstimate_counts_tens_begun {positioner : Option Nat} {c : Nat} (h : 0 < seekDistance positioner c) :
    6 * 10 + seekDistance positioner c ≤ 10 * seekEstimate positioner c ∧
      10 * seekEstimate positioner c < 6 * 10 + seekDistance positioner c + 10 := by
  rw [seekEstimate_of_seekDistance_pos h]
  omega

theorem seekEstimate_range {positioner : Option Nat} {c : Nat} (hpos : 0 < seekDistance positioner c)
    (hle : seekDistance positioner c ≤ 399) :
    7 ≤ seekEstimate positioner c ∧ seekEstimate positioner c ≤ 46 := by
  have htens := seekEstimate_counts_tens_begun hpos
  omega

/-! The rotational wait (R14): the one number of slots, 1 to 20, from the arrival slot to the sector's slot. -/

@[simp] theorem rotationalWait_unsynced (k p : Nat) : rotationalWait none k p = 20 := rfl

theorem rotationalWait_some (s k p : Nat) :
    rotationalWait (some s) k p = (p + 39 - (s + k) % 20) % 20 + 1 := rfl

theorem one_le_rotationalWait (counter : Option Nat) (k p : Nat) : 1 ≤ rotationalWait counter k p := by
  cases counter with
  | none => simp
  | some s => simp [rotationalWait_some]

theorem rotationalWait_le (counter : Option Nat) (k p : Nat) : rotationalWait counter k p ≤ 20 := by
  cases counter with
  | none => simp
  | some s =>
    rw [rotationalWait_some]
    exact Nat.mod_lt _ (by decide)

theorem arrival_add_rotationalWait (s k : Nat) {p : Nat} (hp : p < 20) :
    (s + k + rotationalWait (some s) k p) % 20 = p := by
  rw [rotationalWait_some]
  omega

theorem rotationalWait_unique {s k p w : Nat} (hp : p < 20) (hpos : 1 ≤ w) (hle : w ≤ 20)
    (h : (s + k + w) % 20 = p) : rotationalWait (some s) k p = w := by
  have hsum := arrival_add_rotationalWait s k hp
  have hone := one_le_rotationalWait (some s) k p
  have htwenty := rotationalWait_le (some s) k p
  omega

/-! The cost of a request (R15), and a request while the counter is UNSYNCED. -/

theorem State.costOf_eq (s : State) (r : Request) :
    s.costOf r = seekEstimate s.tm.cylinder (s.nextTarget r).cylinder +
      rotationalWait s.rdm.counter (seekEstimate s.tm.cylinder (s.nextTarget r).cylinder) (s.nextTarget r).slot := rfl

/-- The cost reads the cylinder of the positioner record and not its moving flag (R12). -/
theorem State.costOf_moving (s : State) (r : Request) (b : Bool) :
    State.costOf { s with tm := { s.tm with moving := b } } r = s.costOf r := rfl

theorem State.eligible_of_unsynced {s : State} (r : Request) (h : s.rdm.counter = none) : s.eligible r = false := by
  simp [State.eligible, h]

theorem State.costOf_of_unknown_unsynced {s : State} (r : Request) (hcounter : s.rdm.counter = none)
    (hcylinder : s.tm.cylinder = none) : s.costOf r = 66 := by
  rw [State.costOf_eq, hcounter, hcylinder, seekEstimate_unknown, rotationalWait_unsynced]

/-- Settles O53: the estimate by its distance, the wait by its uniqueness, the cost by its two parts. -/
theorem seekEstimateAndRotationalWait : Obligations.SeekEstimateAndRotationalWait := by
  refine ⟨⟨fun p c => ⟨seekEstimate_self p, seekEstimate_unknown c, ?tens, ?range⟩,
    fun s r b => ⟨s.costOf_eq r, s.costOf_moving r b⟩⟩, ?wait, ?unsynced⟩
  case tens =>
    intro hne d hd
    obtain rfl := seekDistance_some_eq hd
    exact seekEstimate_counts_tens_begun (seekDistance_some_pos hne)
  case range =>
    intro hne hp hc
    exact seekEstimate_range (seekDistance_some_pos hne) (seekDistance_some_le hp hc)
  case wait =>
    intro s k p _ hp
    refine ⟨rotationalWait_unsynced k p, one_le_rotationalWait _ k p, rotationalWait_le _ k p,
      arrival_add_rotationalWait s k hp, fun hlead => ?lead, fun hslot => ?slot⟩
    case lead => exact rotationalWait_unique hp le_rfl (by decide) hlead
    case slot => exact rotationalWait_unique hp (by decide) le_rfl (by rwa [Nat.add_mod_right])
  case unsynced =>
    intro s r hcounter
    exact ⟨State.eligible_of_unsynced r hcounter, State.costOf_of_unknown_unsynced r hcounter⟩

end Sys2Proof.Machine
end

section
/-! Section 10.2: the read of ATTENTION (R175), the MASK write (R176), and what the resets leave of both (R184). -/

namespace Sys2Proof.Machine

open Sys2Proof

/-! SUMMARY, and the word a read of ATTENTION returns (R175). -/

theorem HostPort.summary_iff (h : HostPort) :
    h.summary = true ↔ ∃ i, i < 12 ∧ h.events.getLsbD i = true ∧ h.mask.getLsbD i = true := by
  have hzero : h.events &&& h.mask = 0 ↔ ∀ i, i < 12 → (h.events &&& h.mask).getLsbD i = false := by
    simp [BitVec.eq_of_getLsbD_eq_iff]
  rw [HostPort.summary, bne_iff_ne, ne_eq, hzero]
  simp

@[simp] theorem HostPort.summary_of_no_event (h : HostPort) : { h with events := 0 }.summary = false := by
  simp [HostPort.summary]

theorem attentionWord_of_summary {h : HostPort} (hsum : h.summary = true) :
    attentionWord h = BitVec.ofNat 16 (2 ^ 15 + h.events.toNat) := by
  rw [Nat.add_comm, attentionWord, word, putFlag, if_pos hsum]

theorem attentionWord_of_not_summary {h : HostPort} (hsum : h.summary = false) :
    attentionWord h = BitVec.ofNat 16 h.events.toNat := by
  simp [attentionWord, word, putFlag, hsum]

theorem getLsbD_attentionWord_of_lt (h : HostPort) {i : Nat} (hi : i < 15) :
    (attentionWord h).getLsbD i = h.events.getLsbD i := by
  have hlt : i < 16 := by omega
  cases hsum : h.summary with
  | false => simp [attentionWord_of_not_summary hsum, hlt]
  | true =>
    rw [attentionWord_of_summary hsum, BitVec.getLsbD_ofNat, Nat.testBit_two_pow_add_gt hi, BitVec.testBit_toNat]
    simp [hlt]

theorem getLsbD_attentionWord_fifteen (h : HostPort) : (attentionWord h).getLsbD 15 = h.summary := by
  cases hsum : h.summary with
  | false => simp [attentionWord_of_not_summary hsum]
  | true =>
    rw [attentionWord_of_summary hsum, BitVec.getLsbD_ofNat, Nat.testBit_two_pow_add_eq, BitVec.testBit_toNat]
    simp

/-! An attention raised (R175). -/

theorem Attention.bit_lt (a : Attention) : a.bit < 12 := by
  cases a with
  | chain n => exact Nat.lt_trans n.isLt (by decide)
  | _ => decide

/-- The attention whose bit a place holds: the layout of 11.2 read backward. -/
def Attention.ofBit : Nat → Attention
  | 4 => .fault
  | 5 => .changed
  | 6 => .volume
  | 7 => .peer
  | 8 => .line
  | 9 => .drive
  | 10 => .refused
  | 11 => .setup
  | n => .chain (Fin.ofNat 4 n)

theorem Attention.ofBit_bit (a : Attention) : Attention.ofBit a.bit = a := by
  cases a with
  | chain n => revert n; decide
  | _ => rfl

theorem Attention.bit_injective : Function.Injective Attention.bit :=
  Function.LeftInverse.injective Attention.ofBit_bit

theorem State.raise_eq (s : State) (a : Attention) :
    s.raise a = { s with hp := { s.hp with events := s.hp.events ||| BitVec.twoPow 12 a.bit } } := rfl

theorem getLsbD_or_twoPow (events : BitVec 12) (a : Attention) {i : Nat} (hi : i < 12) :
    (events ||| BitVec.twoPow 12 a.bit).getLsbD i = (events.getLsbD i || i == a.bit) := by
  simp [hi, Bool.beq_eq_decide_eq]

/-! The commands (R175, R176). -/

theorem exec_attentionRead (s : State) :
    exec .attentionRead s =
      .next { s with out := [.hostRead (attentionWord s.hp)], hp := { s.hp with events := 0 } } := rfl

theorem exec_maskWrite (v : Word) (s : State) :
    exec (.maskWrite v) s = .next { s with out := [], hp := { s.hp with mask := maskAfter s.hp.mask v } } := rfl

/-- A raise moves the event bits and a MASK write the mask bits, so the two commute. -/
theorem exec_maskWrite_raise (v : Word) (s : State) (a : Attention) :
    exec (.maskWrite v) (s.raise a) =
      .next (State.raise { s with out := [], hp := { s.hp with mask := maskAfter s.hp.mask v } } a) := rfl

theorem maskAfter_of_top {v : Word} (mask : BitVec 12) (htop : v.getLsbD 15 = true) :
    maskAfter mask v = mask ||| v.truncate 12 := if_pos htop

theorem maskAfter_of_not_top {v : Word} (mask : BitVec 12) (htop : v.getLsbD 15 = false) :
    maskAfter mask v = mask &&& ~~~(v.truncate 12) := if_neg (ne_true_of_eq_false htop)

theorem getLsbD_maskAfter (mask : BitVec 12) (v : Word) {i : Nat} (hi : i < 12) :
    (maskAfter mask v).getLsbD i = if v.getLsbD i then v.getLsbD 15 else mask.getLsbD i := by
  cases htop : v.getLsbD 15 with
  | false =>
    rw [maskAfter_of_not_top mask htop]
    cases hbit : v.getLsbD i <;> simp [hi, hbit]
  | true =>
    rw [maskAfter_of_top mask htop]
    cases hbit : v.getLsbD i <;> simp [hi, hbit]

/-! The resets (R184). -/

theorem exec_powerUpReset_clears_attention (strap ready : Bool) (s : State) :
    ∃ t, exec (.powerUpReset strap ready) s = .next t ∧ t.hp.events = 0 ∧ t.hp.mask = 0 :=
  ⟨_, rfl, rfl, rfl⟩

theorem exec_ioReset_clears_attention (reached : Nat) (s : State) :
    ∃ t, exec (.ioReset reached) s = .next t ∧ t.hp.events = 0 ∧ t.hp.mask = 0 :=
  ⟨_, rfl, rfl, rfl⟩

/-- Settles O6: the mask after the write bit by bit, SUMMARY formed from it, and the raise that commutes with it. -/
theorem maskWriteSetsOrClears : Obligations.MaskWriteSetsOrClears := by
  refine ⟨fun v s => ⟨maskAfter s.hp.mask v, exec_maskWrite v s, fun i => getLsbD_maskAfter s.hp.mask v,
    HostPort.summary_iff _, exec_maskWrite_raise v s⟩, ?powerUp, ?ioReset⟩
  case powerUp =>
    intro strap ready s
    exact (exec_powerUpReset_clears_attention strap ready s).imp fun _ ⟨hexec, _, hmask⟩ => ⟨hexec, hmask⟩
  case ioReset =>
    intro reached s
    exact (exec_ioReset_clears_attention reached s).imp fun _ ⟨hexec, _, hmask⟩ => ⟨hexec, hmask⟩

/-- Settles O7: the word a read returns bit by bit, the event bits after a raise, and the one after the other. -/
theorem attentionReadReturnsAndClears : Obligations.AttentionReadReturnsAndClears := by
  refine ⟨?read, HostPort.summary_iff, ?raise, fun a b => ⟨a.bit_lt, fun h => Attention.bit_injective h⟩, ?powerUp,
    ?ioReset⟩
  case read =>
    intro s
    refine ⟨attentionWord s.hp, exec_attentionRead s, fun i hi => getLsbD_attentionWord_of_lt s.hp (by omega), ?spare,
      by rw [getLsbD_attentionWord_fifteen], s.hp.summary_of_no_event⟩
    case spare =>
      intro i hge hlt
      rw [getLsbD_attentionWord_of_lt s.hp hlt, BitVec.getLsbD_of_ge _ _ hge]
  case raise =>
    intro s a
    have hraised : (s.raise a).hp.events.getLsbD a.bit = true := by
      rw [State.raise_eq, getLsbD_or_twoPow _ _ a.bit_lt]
      simp
    refine ⟨_, State.raise_eq s a, fun i => getLsbD_or_twoPow s.hp.events a, _, _, exec_attentionRead _, rfl, ?_, rfl⟩
    rw [getLsbD_attentionWord_of_lt _ (Nat.lt_trans a.bit_lt (by decide)), hraised]
  case powerUp =>
    intro strap ready s
    exact (exec_powerUpReset_clears_attention strap ready s).imp fun _ ⟨hexec, hevents, _⟩ => ⟨hexec, hevents⟩
  case ioReset =>
    intro reached s
    exact (exec_ioReset_clears_attention reached s).imp fun _ ⟨hexec, hevents, _⟩ => ⟨hexec, hevents⟩

end Sys2Proof.Machine
end

section
/-! Sections 0.6, 10.1, 10.5 and 10.6: the step, the device words, the clock's advance, and what the resets leave. -/

namespace Sys2Proof.Machine

open Sys2Proof

/-! The step (0.6). -/

/-- Settles O1: a queue with a front command runs it. -/
theorem stepRunsTheFrontCommand : Obligations.StepRunsTheFrontCommand :=
  fun _ _ => step_of_cons rfl

/-! The advance of the clock (R182). -/

/-- An advance of a running clock adds one tenth of a second, modulo a day (R182). -/
theorem Tod.advance_of_running {t : Tod} (hrange : t.InRange) (hrun : t.running = true) :
    t.advance.total = (t.total + 1) % 864000 ∧ t.advance.InRange ∧ t.advance.running = true ∧
      t.advance.left = 1000000 ∧ t.advance.moment = .advanced := by
  obtain ⟨hhours, hminutes, hseconds, htenths⟩ := hrange
  simp only [Tod.advance, hrun, Tod.total, Tod.InRange]
  simp only [Bool.not_true, Bool.false_eq_true, if_false]
  split
  case isTrue => simp only [and_true]; omega
  case isFalse =>
    split
    case isTrue => simp only [and_true]; omega
    case isFalse =>
      split
      case isTrue => simp only [and_true]; omega
      case isFalse => split <;> simp only [and_true] <;> omega

theorem Tod.due_of_stopped {t : Tod} (hrun : t.running = false) : t.due = t := by
  simp [Tod.due, Tod.advance, hrun]

theorem Tod.due_of_not_loaded {t : Tod} (hmoment : t.moment ≠ .loaded) : t.due = t.advance := by
  simp [Tod.due, hmoment]

theorem Tod.due_of_loaded {t : Tod} (hrun : t.running = true) (hmoment : t.moment = .loaded) :
    t.due = { t with moment := .advanced } := by
  simp [Tod.due, hrun, hmoment]

theorem exec_todAdvance (s : State) :
    exec .todAdvance s = .next { s with out := [], hp := { s.hp with tod := s.hp.tod.due } } := rfl

/-- Settles O5: each device word by its own equation, and the clock by the three ways an advance can fall. -/
theorem hostWordsAndClockTick : Obligations.HostWordsAndClockTick := by
  refine ⟨fun s => ⟨fun _ => rfl, fun _ _ => rfl, fun _ => rfl⟩, fun s hrange => ⟨?stopped, ?running, ?loaded⟩⟩
  case stopped =>
    intro hrun
    rw [exec_todAdvance, Tod.due_of_stopped hrun]
  case running =>
    intro hrun hmoment
    exact ⟨_, by rw [exec_todAdvance, Tod.due_of_not_loaded hmoment], Tod.advance_of_running hrange hrun⟩
  case loaded =>
    intro hrun hmoment
    rw [exec_todAdvance, Tod.due_of_loaded hrun hmoment]

/-! The resets (R184). -/

theorem Extents.reset_get (x : Table) (i : Nat) : Extents.reset.get x i = .empty := by
  have hgetD : (List.replicate Config.tablePositions Descriptor.empty).getD i .empty = .empty := by
    simp only [List.getD_eq_getElem?_getD, List.getElem?_replicate]
    split <;> rfl
  cases x <;> exact hgetD

theorem Four.get_reset (n : Fin 4) : (⟨Chain.reset, .reset, .reset, .reset⟩ : Four Chain).get n = .reset := by
  revert n
  decide

/-- What power-up reset leaves (10.6). -/
theorem State.powerUp_afterReset (strap ready : Bool) (q : List Instr) :
    AfterReset (.powerUp strap ready q) strap ⟨false, 0, 0, 0, 0, 1000000, .past⟩ ready [] where
  hostPort := rfl
  chains n := Four.get_reset n
  sizes := ⟨rfl, rfl⟩
  tables := Extents.reset_get
  queue := rfl
  engine := ⟨rfl, rfl, rfl, rfl, rfl, rfl⟩
  holds := ⟨rfl, rfl⟩
  tenure := rfl
  line := ⟨rfl, rfl, rfl⟩
  collisions := ⟨rfl, rfl, rfl⟩
  rotation := ⟨rfl, rfl, rfl, rfl, rfl⟩
  drive := ⟨rfl, rfl, rfl, rfl⟩

/-- Settles O4: the values by `State.powerUp_afterReset`, the laws by evaluation of the one state. -/
theorem resetStateMeetsTheLaws : Obligations.ResetStateMeetsTheLaws :=
  ⟨State.powerUp_afterReset false false [], by decide, by decide, by decide, by decide, by decide, by decide,
    ⟨by decide, by decide, by decide, by decide⟩⟩

theorem OwnTenure.released_iff (o : OwnTenure) :
    o.released = true ↔ o.isHolding = true ∨ o.isEnding = true := by
  cases o <;> simp [OwnTenure.released, OwnTenure.isHolding, OwnTenure.isEnding]

/-- The reset notices (R129, R161). -/
theorem State.resetNotices_eq (s : State) :
    s.resetNotices =
      if s.hp.adapter = .silenced then []
      else (if s.tm.own.isHolding = true ∨ s.tm.own.isEnding = true then [⟨.release, 0, 0, true⟩] else []) ++
        (s.hm.list.filter fun e => e.claimed).map fun e => ⟨.free e.start e.count e.written, 0, 0, true⟩ := by
  simp only [State.resetNotices, OwnTenure.released_iff]
  rfl

/-- A completion write cut short has put out nothing or one to three of its four words (R181; log 18). -/
theorem State.cutShort_of_completion {s : State} {c : Completion} (reached : Nat)
    (hcurrent : s.hp.current = some (.completion c)) :
    s.cutShort reached = [] ∨ ∃ n, 1 ≤ n ∧ n ≤ 3 ∧
      s.cutShort reached = [.hostWrite (wordsAt (c.info.addr + 12) (c.words.take n))] := by
  have hlength : c.words.length = 4 := rfl
  simp only [State.cutShort, hcurrent, Option.bind_some, State.writeOf, hlength]
  split
  case isTrue => exact .inl rfl
  case isFalse hne => exact .inr ⟨min reached (4 - 1), by omega, by omega, rfl⟩

/-- A cut-short setup result write, of one word, has put out nothing (R181). -/
theorem State.cutShort_of_setupResult {s : State} (reached : Nat) (hcurrent : s.hp.current = some .setupResult) :
    s.cutShort reached = [] := by
  simp only [State.cutShort, hcurrent, Option.bind_some, State.writeOf]
  cases s.hp.progress <;> simp

/-- Settles O3: power-up by `State.powerUp_afterReset`, the I/O reset block by block. -/
theorem resetsLeaveTheirValues : Obligations.ResetsLeaveTheirValues := by
  refine ⟨fun strap ready s => ⟨_, rfl, State.powerUp_afterReset strap ready _, rfl, rfl, rfl, rfl⟩,
    fun reached s => ⟨_, rfl, ?after, ?exchange, rfl, rfl, rfl, ?quiet, ?completion⟩⟩
  case after =>
    exact {
      hostPort := rfl
      chains := fun n => Four.get_reset n
      sizes := ⟨rfl, rfl⟩
      tables := Extents.reset_get
      queue := rfl
      engine := ⟨rfl, rfl, rfl, rfl, rfl, rfl⟩
      holds := ⟨rfl, rfl⟩
      tenure := rfl
      line := ⟨rfl, s.resetNotices_eq, rfl⟩
      collisions := ⟨rfl, rfl, rfl⟩
      rotation := ⟨rfl, rfl, rfl, rfl, rfl⟩
      drive := ⟨rfl, rfl, rfl, rfl⟩ }
  case exchange =>
    intro x hx
    obtain ⟨y, _, rfl⟩ := Option.mem_map.mp hx
    rfl
  case quiet =>
    rintro (hcurrent | hcurrent)
    · simp [State.cutShort, hcurrent]
    · exact State.cutShort_of_setupResult reached hcurrent
  case completion => exact fun c hcurrent => State.cutShort_of_completion reached hcurrent

end Sys2Proof.Machine
end

section
/-! Sections 0.6, 3.2, 10.3 and 10.4: the step on an empty queue, SETUP, START CHAIN, and the DMA engine. -/

namespace Sys2Proof.Machine

open Sys2Proof

/-! Chains and slots, one by one. -/

theorem Four.exists_get {α : Type} (x : Four α) (p : α → Prop) :
    (∃ n, p (x.get n)) ↔ p x.n0 ∨ p x.n1 ∨ p x.n2 ∨ p x.n3 := by
  simp [Fin.exists_fin_succ, Four.get]

theorem Four.forall_get {α : Type} (x : Four α) (p : α → Prop) :
    (∀ n, p (x.get n)) ↔ p x.n0 ∧ p x.n1 ∧ p x.n2 ∧ p x.n3 := by
  simp [Fin.forall_fin_succ, Four.get]

@[simp] theorem Four.get_set_same {α : Type} (x : Four α) (n : Fin 4) (a : α) : (x.set n a).get n = a := by
  fin_cases n <;> rfl

theorem Four.get_set_ne {α : Type} (x : Four α) {n m : Fin 4} (a : α) (h : m ≠ n) : (x.set n a).get m = x.get m := by
  fin_cases n <;> fin_cases m <;> first | rfl | exact absurd rfl h

@[simp] theorem Four.set_set {α : Type} (x : Four α) (n : Fin 4) (a b : α) : (x.set n a).set n b = x.set n b := by
  fin_cases n <;> rfl

@[simp] theorem Four.set_get {α : Type} (x : Four α) (n : Fin 4) : x.set n (x.get n) = x := by
  fin_cases n <;> rfl

theorem Chain.runs_iff (c : Chain) : c.runs = true ↔ c.state = .running ∨ c.state = .stopping := by
  simp [Chain.runs]

/-! The step on an empty queue (log 3). -/

theorem State.anyHeld_iff (s : State) : s.anyHeld = true ↔ ∃ n, (s.chain n).held ≠ none := by
  simp only [State.chain, Four.exists_get s.chains fun c => c.held ≠ none]
  simp [State.anyHeld, Option.isSome_iff_ne_none, or_assoc]

theorem State.resumeDue_iff (s : State) :
    s.resumeDue = true ↔ (∃ n, (s.chain n).held ≠ none) ∧ s.wq.records.length < 16 := by
  simp [State.resumeDue, State.anyHeld_iff]

theorem State.transferDue_iff (s : State) :
    s.transferDue = true ↔ s.hp.current = none ∧ s.hp.waiting ≠ [] ∨ ∃ a w, s.hp.current = some (.image a w) := by
  simp only [State.transferDue]
  cases h : s.hp.current with
  | none => simp
  | some t => cases t <;> simp [Transfer.isImage]

theorem Tod.advance_after_pass {t : Tod} (hrun : t.running = true) :
    ({ t with moment := .past } : Tod).advance = t.advance := by
  simp [Tod.advance, hrun]

theorem State.quantum_of_timer {s : State} (h : 200 < s.rdm.timer) :
    s.quantum = { s with
      hp := { s.hp with tod := s.hp.tod.quantum }
      rdm := { s.rdm.lateQuantum with timer := s.rdm.timer - 200 } } := by
  have htimer : s.rdm.lateQuantum.timer = s.rdm.timer := by
    simp only [Monitor.lateQuantum]
    split <;> rfl
  simp [State.quantum, htimer, h, State.onHp, State.onRdm]

theorem State.quantum_of_underflow {s : State} (h : s.rdm.timer ≤ 200) :
    s.quantum =
      (State.syntheticSlot { s with hp := { s.hp with tod := s.hp.tod.quantum }, rdm := s.rdm.lateQuantum } none).onRdm
        fun m => { m with timer := m.timer - (200 - s.rdm.timer), lateLeft := m.lateLeft - (200 - s.rdm.timer) } := by
  have htimer : s.rdm.lateQuantum.timer = s.rdm.timer := by
    simp only [Monitor.lateQuantum]
    split <;> rfl
  simp [State.quantum, htimer, h, State.onHp, State.onRdm]

theorem Tod.quantum_of_stopped {t : Tod} (hrun : t.running = false) : t.quantum = t := by simp [Tod.quantum, hrun]

theorem Tod.quantum_of_more {t : Tod} (hrun : t.running = true) (hleft : 200 < t.left) :
    t.quantum = { t with left := t.left - 200, moment := .past } := by
  simp [Tod.quantum, hrun, hleft, Tod.pass]

/-- The last quantum of the interval is an advance, one that no load is due with. -/
theorem Tod.quantum_of_last {t : Tod} (hrun : t.running = true) (hleft : ¬ 200 < t.left) :
    t.quantum = ({ t with moment := .past } : Tod).due := by
  rw [Tod.due_of_not_loaded (by simp), Tod.advance_after_pass hrun]
  simp [Tod.quantum, hrun, hleft]

theorem Monitor.lateQuantum_eq (m : Monitor) :
    m.lateQuantum = if 200 < m.lateLeft then { m with lateLeft := m.lateLeft - 200 }
      else { m with lateLeft := 0, lateSubstitute := false } := by
  simp only [Monitor.lateQuantum]
  by_cases h : 200 < m.lateLeft
  · rw [if_neg (Nat.not_le.mpr h), if_pos h]
  · rw [if_pos (Nat.not_lt.mp h), if_neg h]

/-- Settles O2: the three ways of `State.idle`, and the quantum by what is left on the slot timer. -/
theorem emptyQueueStepPassesTime : Obligations.EmptyQueueStepPassesTime := by
  intro s hempty stuck free clocked
  have hclocked : clocked =
      { s with out := [], hp := { s.hp with tod := s.hp.tod.quantum }, rdm := s.rdm.lateQuantum } := by
    simp only [clocked, exec_todAdvance, Monitor.lateQuantum_eq]
    cases hrun : s.hp.tod.running with
    | false => rw [Tod.quantum_of_stopped hrun, if_pos rfl]
    | true =>
      by_cases hleft : 200 < s.hp.tod.left
      · rw [Tod.quantum_of_more hrun hleft, if_neg (by simp), if_pos hleft, hrun]
      · rw [Tod.quantum_of_last hrun hleft, if_neg (by simp), if_neg hleft, hrun]
  have resumes : s.begin.resumeDue = s.resumeDue := rfl
  have transfers : s.begin.transferDue = s.transferDue := rfl
  have stands_still (hstuck : stuck) : s.begin.resumeDue = false := by
    rw [resumes, Bool.eq_false_iff, ne_eq, s.resumeDue_iff]
    rintro ⟨⟨n, hn⟩, hlt⟩
    rcases hstuck with hnone | hfull
    · exact hn (hnone n)
    · omega
  have idle_quantum (hstuck : stuck) (hfree : free) : s.idle = s.begin.quantum := by
    obtain ⟨hwaiting, himage⟩ := hfree
    have htransfer : s.begin.transferDue = false := by
      rw [transfers, Bool.eq_false_iff, ne_eq, s.transferDue_iff]
      rintro (⟨hnone, hne⟩ | ⟨a, w, h⟩)
      · exact hne (hwaiting hnone)
      · exact himage a w h
    simp [State.idle, stands_still hstuck, htransfer]
  rw [hclocked, step_of_nil hempty]
  refine ⟨?resume, ?transfer, ?passes, ?underflows⟩
  case resume =>
    intro hheld hlt
    rw [State.idle, if_pos (resumes.trans (s.resumeDue_iff.mpr ⟨hheld, hlt⟩))]
    rfl
  case transfer =>
    intro hstuck hdue
    rw [State.idle, stands_still hstuck, if_neg (by simp), if_pos (transfers.trans (s.transferDue_iff.mpr hdue))]
    rfl
  case passes =>
    intro hstuck hfree htimer
    rw [idle_quantum hstuck hfree, State.quantum_of_timer (s := s.begin) htimer]
    rfl
  case underflows =>
    intro hstuck hfree htimer
    exact ⟨_, rfl, by rw [idle_quantum hstuck hfree, State.quantum_of_underflow (s := s.begin) htimer]; rfl⟩

@[simp] theorem State.begin_chain (s : State) (n : Fin 4) : s.begin.chain n = s.chain n := rfl

/-! SETUP (R173, R179, R181). -/

theorem State.quiet_iff (s : State) : s.quiet = true ↔ Quiet s := by
  have hchains : (∀ n, (s.chain n).state ≠ .running ∧ (s.chain n).state ≠ .stopping) ↔
      (s.chains.n0.runs || s.chains.n1.runs || s.chains.n2.runs || s.chains.n3.runs) = false := by
    simp only [State.chain, Four.forall_get s.chains fun c => c.state ≠ .running ∧ c.state ≠ .stopping]
    simp [Chain.runs, and_assoc]
  simp only [Quiet, hchains, State.quiet]
  simp [and_assoc]

theorem State.mayBeginSetup_iff (s : State) :
    s.mayBeginSetup = true ↔ s.hp.adapter = .unconfigured ∨ s.hp.adapter = .running ∧ Quiet s := by
  simp only [State.mayBeginSetup, Bool.or_eq_true, Bool.and_eq_true, State.quiet_iff, beq_iff_eq]

theorem RefusalCode.code_le (c : RefusalCode) : c.code ≤ 18 := by cases c <;> decide

theorem placeField_eq (x : Table × Nat) (h : x.2 < 32) :
    placeField (some x) = 512 + (if x.1 = .common then 256 else 0) + x.2 := by
  obtain ⟨t, i⟩ := x
  have hmod : i % 32 = i := Nat.mod_eq_of_lt h
  cases t <;> simp [placeField, put, Table.code, hmod]

theorem placeField_lt (p : Option (Table × Nat)) : placeField p < 1024 := by
  rcases p with _ | ⟨_ | _, i⟩ <;> simp only [placeField, put, Table.code] <;> omega

theorem SetupProgress.resultWord_toNat (p : SetupProgress) :
    p.resultWord.toNat = p.code.code * 2048 + placeField p.place := by
  have hcode := p.code.code_le
  have hplace := placeField_lt p.place
  simp only [SetupProgress.resultWord, word, put, BitVec.toNat_ofNat]
  omega

/-- Settles O8: the condition of SETUP by `State.mayBeginSetup_iff`, the result word as the number it spells. -/
theorem setupBeginsAndEnds : Obligations.SetupBeginsAndEnds := by
  refine ⟨fun a s => ?begins, fun p s hcurrent hprogress hplace => ⟨p.resultWord, ?ends, ?code, ?none, ?place⟩⟩
  case begins =>
    have hmay : s.begin.mayBeginSetup = s.mayBeginSetup := rfl
    by_cases hcan : s.hp.progress = none ∧ (s.hp.adapter = .unconfigured ∨ s.hp.adapter = .running ∧ Quiet s)
    · have hyes : s.mayBeginSetup = true := s.mayBeginSetup_iff.mpr hcan.2
      have hbegun : (s.begin.hp.progress.isSome || !s.begin.mayBeginSetup) = false := by
        rw [hmay, hyes, show s.begin.hp.progress = none from hcan.1]
        rfl
      simp only [if_pos hcan, exec, execSetup, hbegun]
      rfl
    · have hno : ¬ (s.hp.progress = none ∧ s.mayBeginSetup = true) := by rwa [s.mayBeginSetup_iff]
      have hrefused : (s.begin.hp.progress.isSome || !s.begin.mayBeginSetup) = true := by
        rw [hmay]
        cases hp : s.hp.progress with
        | some _ => simp [State.begin, hp]
        | none => simpa [State.begin, hp] using hno
      simp only [if_neg hcan, exec, execSetup, hrefused, if_true]
      rfl
  case ends =>
    simp only [exec, execSetupResultWritten, State.begin, hcurrent, hprogress, if_true]
    rfl
  all_goals have hnat := p.resultWord_toNat
  all_goals have hlt := placeField_lt p.place
  case code => omega
  case none =>
    intro hnone
    rw [hnat, hnone]
    simp [placeField]
  case place =>
    intro x hx
    rw [← placeField_eq x (hplace x hx), ← hx]
    omega

/-! START CHAIN (R42, R44, R63, R173). -/

theorem actionSlot_eq {a : Word} {n : Fin 4} (h : n.val = a.toNat / 16 % 4) : actionSlot a = n := Fin.ext h.symm

theorem actionLevel_eq (a : Word) : actionLevel a = a.toNat % 4 := by simp [actionLevel, field]

theorem State.callFetch_of_wait {s : State} {n : Fin 4} (hrun : (s.chain n).state = .running)
    (hwait : (s.chain n).wait.any = true) : s.callFetch n = s.onChain n fun c => { c with fetchDue := true } := by
  simp [State.callFetch, hrun, hwait]

theorem State.callFetch_of_no_wait {s : State} {n : Fin 4} (hrun : (s.chain n).state = .running)
    (hwait : (s.chain n).wait.any = false) :
    s.callFetch n =
      if .fetch n ∈ s.hp.waiting ∨ s.hp.current = some (.fetch n) then s else s.askTransfer (.fetch n) := by
  simp [State.callFetch, hrun, hwait]

theorem State.chain_onChain_same (s : State) (n : Fin 4) (f : Chain → Chain) :
    (s.onChain n f).chain n = f (s.chain n) := by
  simp [State.onChain, State.chain]

theorem State.chain_onChain_ne (s : State) {n m : Fin 4} (f : Chain → Chain) (h : m ≠ n) :
    (s.onChain n f).chain m = s.chain m := by
  simp [State.onChain, State.chain, Four.get_set_ne _ _ h]

theorem State.onChain_eq (s : State) (n : Fin 4) (f : Chain → Chain) :
    s.onChain n f = { s with chains := s.chains.set n (f (s.chain n)) } := rfl

/-- An accepted START in MAINTENANCE, of a chain that does not maintain: its fetch is due (R63). -/
theorem State.startChain_of_maintenance {s : State} {n : Fin 4} (level : Nat)
    (h : s.hp.adapter = .maintenance ∧ s.hp.maintaining ≠ some n) :
    s.startChain n level =
      { s with chains := s.chains.set n { startedChain level s.hp.address true with fetchDue := true } } := by
  have hwaits : (s.hp.adapter == .maintenance && s.hp.maintaining != some n) = true := by simpa using h
  simp only [State.startChain, hwaits]
  rw [State.callFetch_of_wait (by rw [State.chain_onChain_same]; rfl) (by rw [State.chain_onChain_same]; rfl)]
  simp [State.onChain_eq, State.chain]

/-- Any other accepted START asks the first fetch (R42, R44). -/
theorem State.startChain_of_free {s : State} {n : Fin 4} (level : Nat)
    (h : ¬ (s.hp.adapter = .maintenance ∧ s.hp.maintaining ≠ some n)) :
    s.startChain n level =
      { s with
        chains := s.chains.set n (startedChain level s.hp.address false)
        hp := { s.hp with
          waiting := if .fetch n ∈ s.hp.waiting ∨ s.hp.current = some (.fetch n) then s.hp.waiting
            else s.hp.waiting ++ [.fetch n] } } := by
  have hwaits : (s.hp.adapter == .maintenance && s.hp.maintaining != some n) = false := by
    rw [Bool.eq_false_iff]
    simpa using h
  simp only [State.startChain, hwaits]
  rw [State.callFetch_of_no_wait (by rw [State.chain_onChain_same]; rfl) (by rw [State.chain_onChain_same]; rfl)]
  simp only [State.onChain_eq, State.askTransfer, State.onHp]
  by_cases hasked : .fetch n ∈ s.hp.waiting ∨ s.hp.current = some (.fetch n) <;> simp [hasked]

/-- Settles O9: the refusals in their order, then the two ways an accepted START goes. -/
theorem startChainIsRefusedOrMakesTheRecord : Obligations.StartChainIsRefusedOrMakesTheRecord := by
  intro a n s hslot
  simp only [exec, execStartChain, actionSlot_eq hslot, actionLevel_eq, s.begin_frame, s.begin_chain]
  congr 1
  by_cases hbusy : s.hp.progress ≠ none
  · rw [if_pos (Option.isSome_iff_ne_none.mpr hbusy), if_pos hbusy]; rfl
  rw [if_neg hbusy, if_neg (by simpa using hbusy)]
  by_cases hunconf : s.hp.adapter = .unconfigured
  · rw [if_pos hunconf, if_pos hunconf]; rfl
  rw [if_neg hunconf, if_neg hunconf]
  by_cases hsilent : s.hp.adapter = .silenced
  · rw [if_pos hsilent, if_pos hsilent]; rfl
  rw [if_neg hsilent, if_neg hsilent]
  by_cases hruns : (s.chain n).state = .running ∨ (s.chain n).state = .stopping
  · rw [if_pos hruns, if_pos ((Chain.runs_iff _).mpr hruns)]; rfl
  rw [if_neg hruns, if_neg (fun h => hruns ((Chain.runs_iff _).mp h))]
  by_cases hmaint : s.hp.adapter = .maintenance ∧ s.hp.maintaining ≠ some n
  · rw [if_pos hmaint, State.startChain_of_maintenance (s := s.begin) _ hmaint]; rfl
  · rw [if_neg hmaint, State.startChain_of_free (s := s.begin) _ hmaint]; rfl

/-! The DMA engine (R177, R178). -/

theorem servedBefore_iff (t u : Transfer) : servedBefore t u = true ↔ t.order < u.order := by
  cases t <;> cases u <;> simp [servedBefore, transferRank, Transfer.order] <;> omega

theorem nextTransfer_mem {l : List Transfer} {i : Nat} {t : Transfer} (h : nextTransfer l = some (i, t)) : t ∈ l := by
  induction l generalizing i with
  | nil => simp [nextTransfer] at h
  | cons x rest ih =>
    simp only [nextTransfer] at h
    split at h
    next => simp_all
    next j u hnext =>
      split at h
      next => simp_all
      next => simp only [Option.some.injEq, Prod.mk.injEq] at h; obtain ⟨-, rfl⟩ := h; exact List.mem_cons_of_mem _ (ih hnext)

/-- The transfer that begins is the first of those of least order (R177). -/
theorem nextTransfer_eq {l : List Transfer} {i : Nat} {t : Transfer} (hi : l[i]? = some t)
    (hfirst : ∀ j < i, ∀ u, l[j]? = some u → t.order < u.order) (hleast : ∀ u ∈ l, t.order ≤ u.order) :
    nextTransfer l = some (i, t) := by
  induction l generalizing i with
  | nil => simp at hi
  | cons x rest ih =>
    cases i with
    | zero =>
      obtain rfl : x = t := by simpa using hi
      simp only [nextTransfer]
      split
      next => rfl
      next j u hnext => rw [if_pos (hleast u (List.mem_cons_of_mem _ (nextTransfer_mem hnext)))]
    | succ i =>
      have hrest : nextTransfer rest = some (i, t) :=
        ih (by simpa using hi) (fun j hj u hu => hfirst (j + 1) (by omega) u (by simpa using hu))
          fun u hu => hleast u (List.mem_cons_of_mem _ hu)
      have hx : ¬ x.order ≤ t.order := Nat.not_le.mpr (hfirst 0 (by omega) x rfl)
      simp [nextTransfer, hrest, hx]

theorem toNat_add_one (a : Word) : (a + 1).toNat = (a.toNat + 1) % 65536 := by simp [BitVec.toNat_add]

/-- The addresses of R178: each lies one past the one before, modulo 65,536. -/
theorem addressesFrom_spec (a : Word) (n : Nat) :
    (addressesFrom a n).length = n ∧
      ∀ i < n, (addressesFrom a n)[i]?.map BitVec.toNat = some ((a.toNat + i) % 65536) := by
  induction n generalizing a with
  | zero => simp [addressesFrom]
  | succ n ih =>
    obtain ⟨hlength, hget⟩ := ih (a + 1)
    refine ⟨by simpa [addressesFrom] using hlength, fun i hi => ?_⟩
    cases i with
    | zero => simp [addressesFrom, Nat.mod_eq_of_lt a.isLt]
    | succ i =>
      simp only [addressesFrom, List.getElem?_cons_succ, hget i (by omega), toNat_add_one]
      congr 1
      omega

theorem wordsAt_spec (a : Word) (l : List Word) :
    (wordsAt a l).length = l.length ∧
      ∀ (i : Nat) (w : Word), l[i]? = some w →
        (wordsAt a l)[i]?.map (fun x => (x.1.toNat, x.2)) = some ((a.toNat + i) % 65536, w) := by
  induction l generalizing a with
  | nil => simp [wordsAt]
  | cons x rest ih =>
    obtain ⟨hlength, hget⟩ := ih (a + 1)
    refine ⟨by simpa [wordsAt] using hlength, fun i w hw => ?_⟩
    cases i with
    | zero =>
      obtain rfl : x = w := by simpa using hw
      simp [wordsAt, Nat.mod_eq_of_lt a.isLt]
    | succ i =>
      simp only [wordsAt, List.getElem?_cons_succ, hget i w (by simpa using hw), toNat_add_one]
      congr 2
      omega

theorem State.endImage_of_other {s : State} (h : ∀ a w, s.hp.current ≠ some (.image a w)) : s.endImage = s := by
  simp only [State.endImage]

theorem State.endImage_of_image {s : State} {a : Word} {w : List Word} (h : s.hp.current = some (.image a w)) :
    s.endImage = { s with out := s.out ++ [.hostWrite (wordsAt a w)], hp := { s.hp with current := none } } := by
  simp only [State.endImage, h]
  rfl

/-- With the engine free the waiting transfer of highest rank begins (R177). -/
theorem State.startTransfer_eq {s : State} {i : Nat} {t : Transfer} (hfree : s.hp.current = none)
    (hi : s.hp.waiting[i]? = some t) (hfirst : ∀ j < i, ∀ u, s.hp.waiting[j]? = some u → servedBefore t u = true)
    (hleast : ∀ u ∈ s.hp.waiting, servedBefore u t = false) : s.startTransfer = s.beginTransfer i t := by
  have hnext : nextTransfer s.hp.waiting = some (i, t) := by
    refine nextTransfer_eq hi (fun j hj u hu => (servedBefore_iff t u).mp (hfirst j hj u hu)) fun u hu => ?_
    have hnot := hleast u hu
    rw [Bool.eq_false_iff, ne_eq, servedBefore_iff] at hnot
    omega
  simp [State.startTransfer, hfree, hnext]

/-- What a transfer that begins puts out: the addresses it reads (R177, R178). -/
theorem State.readOf_eq (s : State) (t : Transfer) :
    s.readOf t = match t, s.hp.progress with
      | .load _ a, _ => [.hostFetch (addressesFrom a 128)]
      | .fetch n, _ => [.hostFetch (addressesFrom (s.chain n).next 12)]
      | .setupHeader, some p => [.hostFetch (addressesFrom (p.address + 1) 7)]
      | .setupImages, some ⟨a, some h, _, _⟩ =>
        [.hostFetch (addressesFrom (a + 8) (4 * (h.privSize.toNat + h.commSize.toNat - 1)))]
      | _, _ => [] := by
  cases t with
  | setupHeader => simp only [State.readOf]; cases s.hp.progress <;> rfl
  | setupImages => rcases hp : s.hp.progress with _ | ⟨a, _ | h, c, x⟩ <;> simp [State.readOf, hp, SetupHeader.imageCount]
  | _ => rfl

/-- Settles O13: an image write ended first, then the transfer of highest rank by `State.startTransfer_eq`. -/
theorem transferOfHighestRankBegins : Obligations.TransferOfHighestRankBegins := by
  refine ⟨fun s => ⟨?idle, ?busy, ?image, ?begins⟩, addressesFrom_spec, wordsAt_spec⟩
  case idle =>
    intro hfree hwaiting
    have hend : s.begin.endImage = s.begin := State.endImage_of_other (by simp [State.begin, hfree])
    simp only [exec, execDmaTransferStart, hend]
    simp [State.startTransfer, State.begin, hfree, hwaiting, nextTransfer]
  case busy =>
    intro u hcurrent hu
    have hend : s.begin.endImage = s.begin := State.endImage_of_other (by simpa [State.begin, hcurrent] using hu)
    simp only [exec, execDmaTransferStart, hend]
    simp [State.startTransfer, State.begin, hcurrent]
  case image =>
    intro a w hcurrent hwaiting
    simp only [exec, execDmaTransferStart]
    rw [State.endImage_of_image (s := s.begin) hcurrent]
    simp [State.startTransfer, State.begin, hwaiting, nextTransfer]
  case begins =>
    intro i t hi hcurrent hfirst hleast
    rcases hcurrent with hfree | ⟨a, w, himage⟩
    · have hend : s.begin.endImage = s.begin := State.endImage_of_other (by simp [State.begin, hfree])
      simp only [exec, execDmaTransferStart, hend, hfree]
      rw [State.startTransfer_eq (s := s.begin) hfree hi hfirst hleast]
      simp only [State.beginTransfer, State.readOf_eq]
      rfl
    · simp only [exec, execDmaTransferStart, himage]
      rw [State.endImage_of_image (s := s.begin) himage]
      rw [State.startTransfer_eq (i := i) (t := t) (by rfl) (by exact hi) (by exact hfirst) (by exact hleast)]
      simp only [State.beginTransfer, State.readOf_eq]
      rfl

end Sys2Proof.Machine
end

section
/-! The laws of the device that every step keeps (R66, R122, R124 to R126, R131, R147; log 17): one relation between a
state and a later one, and the acts of one block that stand in it. -/

namespace Sys2Proof.Machine

open Sys2Proof

-- One proof at a time: proofs elaborated together wait for one another on threads of their own, which the check's
-- memory limit counts.
set_option Elab.async false

/-- The laws of R66, R122, R124 to R126, R131 and R147 that hold of `s` hold of `t`. -/
structure KeepsLaws (s t : State) : Prop where
  tenure : TenureExclusive s → TenureExclusive t
  bounded : QueueBounded s → QueueBounded t
  holds : HoldListSound s → HoldListSound t
  line : LineCountsInRange s → LineCountsInRange t
  monitor : MonitorInRange s.rdm → MonitorInRange t.rdm

/-- These laws, and that names are given once (log 17). -/
structure Keeps (s t : State) : Prop extends KeepsLaws s t where
  names : NamesFresh s → NamesFresh t

theorem KeepsLaws.refl (s : State) : KeepsLaws s s := ⟨id, id, id, id, id⟩

theorem KeepsLaws.trans {s t u : State} (h : KeepsLaws s t) (k : KeepsLaws t u) : KeepsLaws s u where
  tenure := k.tenure ∘ h.tenure
  bounded := k.bounded ∘ h.bounded
  holds := k.holds ∘ h.holds
  line := k.line ∘ h.line
  monitor := k.monitor ∘ h.monitor

theorem Keeps.refl (s : State) : Keeps s s := ⟨.refl s, id⟩

theorem Keeps.trans {s t u : State} (h : Keeps s t) (k : Keeps t u) : Keeps s u :=
  ⟨h.toKeepsLaws.trans k.toKeepsLaws, k.names ∘ h.names⟩

theorem KeepsLaws.foldl {β : Type} {f : State → β → State} (h : ∀ s b, KeepsLaws s (f s b)) (l : List β) (s : State) :
    KeepsLaws s (l.foldl f s) := by
  induction l generalizing s with
  | nil => exact .refl s
  | cons b l ih => exact (h s b).trans (ih _)

theorem Keeps.foldl {β : Type} {f : State → β → State} (h : ∀ s b, Keeps s (f s b)) (l : List β) (s : State) :
    Keeps s (l.foldl f s) := by
  induction l generalizing s with
  | nil => exact .refl s
  | cons b l ih => exact (h s b).trans (ih _)

/-! The blocks the laws do not look at. -/

/-- The laws look at the Tenure Manager's two records, the queue, the holds, the line and the monitor alone. -/
theorem Keeps.of_same {s t : State} (hown : t.tm.own = s.tm.own) (hpeer : t.tm.peer = s.tm.peer) (hwq : t.wq = s.wq)
    (hhm : t.hm = s.hm) (hlu : t.lu = s.lu) (hrdm : t.rdm = s.rdm) : Keeps s t where
  tenure h := by rw [TenureExclusive, hpeer, hown]; exact h
  bounded h := by rw [QueueBounded, hwq]; exact h
  names h := by rw [NamesFresh, hwq, hhm]; exact h
  holds h := by rw [HoldListSound, hhm]; exact h
  line h := by rw [LineCountsInRange, hlu]; exact h
  monitor h := by rw [hrdm]; exact h

theorem State.begin_keeps (s : State) : Keeps s s.begin := .of_same rfl rfl rfl rfl rfl rfl
theorem State.emit_keeps (s : State) (o : Output) : Keeps s (s.emit o) := .of_same rfl rfl rfl rfl rfl rfl
theorem State.appendOut_keeps (s : State) (l : List Output) : Keeps s (s.appendOut l) := .of_same rfl rfl rfl rfl rfl rfl
theorem State.onHp_keeps (s : State) (f : HostPort → HostPort) : Keeps s (s.onHp f) := .of_same rfl rfl rfl rfl rfl rfl
theorem State.onEc_keeps (s : State) (f : Extents → Extents) : Keeps s (s.onEc f) := .of_same rfl rfl rfl rfl rfl rfl
theorem State.onTe_keeps (s : State) (f : Engine → Engine) : Keeps s (s.onTe f) := .of_same rfl rfl rfl rfl rfl rfl
theorem State.onChain_keeps (s : State) (n : Fin 4) (f : Chain → Chain) : Keeps s (s.onChain n f) :=
  .of_same rfl rfl rfl rfl rfl rfl
theorem State.onDescriptor_keeps (s : State) (t : Table) (i : Nat) (f : Descriptor → Descriptor) :
    Keeps s (s.onDescriptor t i f) := s.onEc_keeps _
theorem State.raise_keeps (s : State) (a : Attention) : Keeps s (s.raise a) := s.onHp_keeps _
theorem State.askTransfer_keeps (s : State) (t : Transfer) : Keeps s (s.askTransfer t) := s.onHp_keeps _
theorem State.complete_keeps (s : State) (c : Completion) : Keeps s (s.complete c) := s.askTransfer_keeps _

/-! The Tenure Manager, the line and the monitor, each under its own law. -/

theorem State.onTm_keeps {s : State} {f : TenureManager → TenureManager}
    (h : TenureExclusive s → TenureExclusive (s.onTm f)) : Keeps s (s.onTm f) :=
  { Keeps.refl s with tenure := h }

theorem State.onLu_keeps {s : State} {f : LineUnit → LineUnit}
    (h : LineCountsInRange s → LineCountsInRange (s.onLu f)) : Keeps s (s.onLu f) :=
  { Keeps.refl s with line := h }

theorem State.onRdm_keeps {s : State} {f : Monitor → Monitor}
    (h : MonitorInRange s.rdm → MonitorInRange (f s.rdm)) : Keeps s (s.onRdm f) :=
  { Keeps.refl s with monitor := h }

/-- A frame as it is offered. -/
theorem Frame.countsInRange_new (b : FrameBody) (reset : Bool) : Frame.CountsInRange ⟨b, 0, 0, reset⟩ :=
  ⟨Nat.zero_le _, Nat.zero_le _⟩

theorem State.offer_keeps (s : State) (b : FrameBody) : Keeps s (s.offer b) := by
  simp only [State.offer]
  split
  · exact .refl s
  · refine State.onLu_keeps fun ⟨hframes, hexchange, hcount⟩ => ⟨?_, hexchange, hcount⟩
    intro f hf
    rcases List.mem_append.mp hf with hf | hf
    · exact hframes f hf
    · exact List.mem_singleton.mp hf ▸ Frame.countsInRange_new b false

theorem State.withdraw_keeps (s : State) (p : FrameBody → Bool) : Keeps s (s.withdraw p) :=
  State.onLu_keeps fun ⟨hframes, hexchange, hcount⟩ =>
    ⟨fun f hf => hframes f (List.mem_of_mem_filter hf), hexchange, hcount⟩

/-! The Work Queue. -/

/-- Records changed each at its place, name and hold kept. -/
theorem State.mapRecords_keeps (s : State) {f : Request → Request} (hid : ∀ r, (f r).id = r.id)
    (hhold : ∀ r, (f r).hold = r.hold) : Keeps s (s.onWq fun q => { q with records := q.records.map f }) where
  tenure := id
  bounded h := by simpa [QueueBounded] using h
  holds := id
  line := id
  monitor := id
  names := by
    rintro ⟨⟨hnodup, hlt⟩, hentries, hrefs⟩
    refine ⟨⟨?_, ?_⟩, hentries, ?_⟩
    · simpa [Function.comp_def, hid] using hnodup
    · simpa [hid] using hlt
    · simpa [hhold] using hrefs

theorem State.onRequest_keeps (s : State) (id : Nat) {f : Request → Request}
    (hid : ∀ r, (f r).id = r.id := by exact fun _ => rfl) (hhold : ∀ r, (f r).hold = r.hold := by exact fun _ => rfl) :
    Keeps s (s.onRequest id f) :=
  s.mapRecords_keeps (fun r => by split <;> simp [hid]) fun r => by split <;> simp [hhold]

theorem State.dropRequest_keeps (s : State) (name : Nat) : Keeps s (s.dropRequest name) where
  tenure := id
  bounded h := (List.length_filter_le _ _).trans h
  holds := id
  line := id
  monitor := id
  names := by
    rintro ⟨⟨hnodup, hlt⟩, hentries, hrefs⟩
    exact ⟨⟨hnodup.sublist (List.filter_sublist.map _), fun r hr => hlt r (List.mem_of_mem_filter hr)⟩, hentries,
      fun r hr => hrefs r (List.mem_of_mem_filter hr)⟩

theorem State.enqueue_keeps {s : State} {r : Request} (hroom : s.wq.records.length < 16) (hid : r.id = s.wq.nextId)
    (hhold : NamesFresh s → ∀ i ∈ r.hold, i < s.hm.nextId) : Keeps s (s.enqueue r) where
  tenure := id
  bounded _ := by
    simp only [QueueBounded, State.enqueue, State.onWq_wq, List.length_append, List.length_cons, List.length_nil]
    omega
  holds := id
  line := id
  monitor := id
  names := by
    intro hfresh
    obtain ⟨⟨hnodup, hlt⟩, hentries, hrefs⟩ := id hfresh
    have hnew : (s.withCost r).id = s.wq.nextId := hid
    refine ⟨⟨?_, ?_⟩, hentries, ?_⟩
    · simp only [State.enqueue, State.onWq_wq, List.map_append, List.map_cons, List.map_nil]
      refine hnodup.append (List.nodup_singleton _) fun i hi hi' => ?_
      obtain ⟨q, hq, rfl⟩ := List.mem_map.mp hi
      exact (hlt q hq).ne ((List.mem_singleton.mp hi').trans hnew)
    · intro q hq
      rcases List.mem_append.mp hq with hq | hq
      · exact (hlt q hq).trans (Nat.lt_succ_self _)
      · exact List.mem_singleton.mp hq ▸ hnew ▸ Nat.lt_succ_self _
    · intro q hq
      rcases List.mem_append.mp hq with hq | hq
      · exact hrefs q hq
      · exact List.mem_singleton.mp hq ▸ hhold hfresh

theorem State.wakeRequests_keeps (s : State) (id : Nat) : Keeps s (s.wakeRequests id) :=
  s.mapRecords_keeps (fun r => by split <;> rfl) fun r => by split <;> rfl

theorem State.reviewed_id (s : State) (r : Request) : (s.reviewed r).id = r.id := by
  simp only [State.reviewed]
  repeat' split
  all_goals rfl

theorem State.reviewed_hold (s : State) (r : Request) : (s.reviewed r).hold = r.hold := by
  simp only [State.reviewed]
  repeat' split
  all_goals rfl

theorem State.formed_id (s : State) (r : Request) : (s.formed r).id = r.id := by
  simp only [State.formed]
  split <;> rfl

theorem State.formed_hold (s : State) (r : Request) : (s.formed r).hold = r.hold := by
  simp only [State.formed]
  split <;> rfl

theorem State.review_keeps (s : State) : Keeps s s.review := s.mapRecords_keeps s.reviewed_id s.reviewed_hold

theorem State.countBudgets_keeps (s : State) : Keeps s s.countBudgets :=
  s.mapRecords_keeps (fun _ => rfl) fun _ => rfl

theorem State.formSlacks_keeps (s : State) : Keeps s s.formSlacks := s.mapRecords_keeps s.formed_id s.formed_hold

theorem State.formEligible_keeps (s : State) : Keeps s s.formEligible :=
  s.mapRecords_keeps (fun r => by split <;> rfl) fun r => by split <;> rfl

/-! The Hold Manager: entries changed in place. -/

/-- The entry keeps its name, its range and its mode. -/
def HoldEntry.SameRange (e x : HoldEntry) : Prop :=
  x.id = e.id ∧ x.start = e.start ∧ x.count = e.count ∧ x.mode = e.mode

theorem HoldEntry.SameRange.compatible {a b x y : HoldEntry} (hx : a.SameRange x) (hy : b.SameRange y)
    (h : Compatible a b) : Compatible x y := by
  obtain ⟨-, hxs, hxc, hxm⟩ := hx
  obtain ⟨-, hys, hyc, hym⟩ := hy
  simpa only [Compatible, hxs, hxc, hxm, hys, hyc, hym] using h

/-- Names are fresh again where queue and names of entries are as before. -/
theorem NamesFresh.of_ids {s t : State} (h : NamesFresh s) (hwq : t.wq = s.wq) (hnext : t.hm.nextId = s.hm.nextId)
    (hids : ((t.hm.list ++ t.hm.line).map HoldEntry.id).Perm ((s.hm.list ++ s.hm.line).map HoldEntry.id)) :
    NamesFresh t := by
  obtain ⟨hqueue, ⟨hnodup, hlt⟩, hrefs⟩ := h
  have hall : ∀ i ∈ (t.hm.list ++ t.hm.line).map HoldEntry.id, i < t.hm.nextId := by
    intro i hi
    obtain ⟨e, he, rfl⟩ := List.mem_map.mp (hids.mem_iff.mp hi)
    exact hnext ▸ hlt e he
  rw [NamesFresh, hwq]
  exact ⟨hqueue, ⟨hids.nodup_iff.mpr hnodup, fun e he => hall _ (List.mem_map_of_mem he)⟩, hnext ▸ hrefs⟩

theorem State.mapEntries_keeps (s : State) {f g : HoldEntry → HoldEntry} (hf : ∀ e : HoldEntry, e.SameRange (f e))
    (hg : ∀ e : HoldEntry, e.SameRange (g e)) :
    Keeps s (s.onHm fun h => { h with list := h.list.map f, line := h.line.map g }) where
  tenure := id
  bounded := id
  holds h := ⟨by simpa using h.1, List.pairwise_map.mpr (h.2.imp fun k => (hf _).compatible (hf _) k)⟩
  line := id
  monitor := id
  names h := h.of_ids rfl rfl (by simp [Function.comp_def, (hf _).1, (hg _).1])

theorem State.onEntry_keeps (s : State) (id : Nat) {f : HoldEntry → HoldEntry}
    (hf : ∀ e : HoldEntry, e.SameRange (f e) := by exact fun _ => ⟨rfl, rfl, rfl, rfl⟩) : Keeps s (s.onEntry id f) := by
  have hif : ∀ e : HoldEntry, e.SameRange (if e.id == id then f e else e) := by
    intro e
    split
    · exact hf e
    · exact ⟨rfl, rfl, rfl, rfl⟩
  exact s.mapEntries_keeps hif hif

theorem State.completeHold_keeps (s : State) (e : HoldEntry) (st : Status) (f : Option ElementFault) (p : Bool) :
    Keeps s (s.completeHold e st f p) := by
  grind only [State.completeHold, Keeps.refl, State.complete_keeps]

theorem State.completeUnhold_keeps (s : State) (e : HoldEntry) : Keeps s (s.completeUnhold e) := by
  grind only [State.completeUnhold, Keeps.refl, State.complete_keeps]

theorem State.becomeHeld_keeps (s : State) (id : Nat) (silent : Bool) : Keeps s (s.becomeHeld id silent) := by
  simp only [State.becomeHeld]
  split
  · exact .refl s
  · exact .trans (s.onEntry_keeps id) (.trans (State.wakeRequests_keeps _ id) (State.completeHold_keeps _ _ _ _ _))

/-! The Hold Manager: entries that join the list (R147, R150, R151). -/

theorem HoldManager.conflicts_eq_false {h : HoldManager} {e : HoldEntry} :
    h.conflicts e = false ↔ h.list.length < 8 ∧ ∀ x ∈ h.list, Compatible x e := by
  have hcompatible : ∀ x : HoldEntry,
      (overlap x.start x.count e.start e.count && (x.mode == .exclusive || e.mode == .exclusive)) = false ↔
        Compatible x e := by
    intro x
    simp only [Compatible]
    cases overlap x.start x.count e.start e.count <;> cases x.mode <;> cases e.mode <;> simp
  simp only [HoldManager.conflicts, Bool.or_eq_false_iff, List.any_eq_false, Bool.not_eq_true, hcompatible]
  simp

/-- An entry joins the list where it conflicts with none. -/
theorem State.appendEntry_keepsLaws {s : State} {e : HoldEntry} (hfits : s.hm.conflicts e = false) :
    KeepsLaws s (s.onHm fun h => { h with list := h.list ++ [{ e with state := .claiming }] }) := by
  obtain ⟨hroom, hcompatible⟩ := HoldManager.conflicts_eq_false.mp hfits
  refine { KeepsLaws.refl s with holds := fun ⟨_, hpairwise⟩ => ⟨?_, ?_⟩ }
  · simp only [State.onHm_hm, List.length_append, List.length_cons, List.length_nil]
    omega
  · refine List.pairwise_append.mpr ⟨hpairwise, List.pairwise_singleton _ _, fun x hx y hy => ?_⟩
    exact List.mem_singleton.mp hy ▸ hcompatible x hx

theorem State.joinList_keepsLaws {s : State} {e : HoldEntry} (hfits : s.hm.conflicts e = false) :
    KeepsLaws s (s.joinList e) := by
  refine (State.appendEntry_keepsLaws hfits).trans ?_
  simp only [State.joinList]
  split
  · exact (State.becomeHeld_keeps _ _ _).toKeepsLaws
  · exact (State.offer_keeps _ _).toKeepsLaws

/-- Entries leave the list or the line. -/
theorem State.filterEntries_keepsLaws (s : State) (p q : HoldEntry → Bool) :
    KeepsLaws s (s.onHm fun h => { h with list := h.list.filter p, line := h.line.filter q }) :=
  { KeepsLaws.refl s with
    holds := fun ⟨hlength, hpairwise⟩ => ⟨(List.length_filter_le _ _).trans hlength, hpairwise.filter p⟩ }

theorem State.recheckEntry_keepsLaws (s : State) (e : HoldEntry) : KeepsLaws s (s.recheckEntry e) := by
  simp only [State.recheckEntry]
  split
  case isTrue => exact .refl s
  case isFalse hfits =>
    have hline : KeepsLaws s (s.onHm fun h => { h with line := h.line.filter fun x => x.id != e.id }) :=
      { KeepsLaws.refl s with }
    exact hline.trans (State.joinList_keepsLaws (Bool.eq_false_iff.mpr hfits))

theorem State.recheckLine_keepsLaws (s : State) : KeepsLaws s s.recheckLine :=
  KeepsLaws.foldl State.recheckEntry_keepsLaws _ s

/-! The Hold Manager: names (log 17). -/

/-- The names of the entries on the list and in the line. -/
def HoldManager.ids (h : HoldManager) : List Nat := (h.list ++ h.line).map HoldEntry.id

theorem HoldManager.modify_ids (h : HoldManager) (id : Nat) {f : HoldEntry → HoldEntry} (hf : ∀ e, (f e).id = e.id) :
    (h.modify id f).list.map HoldEntry.id = h.list.map HoldEntry.id ∧
      (h.modify id f).line.map HoldEntry.id = h.line.map HoldEntry.id ∧ (h.modify id f).nextId = h.nextId := by
  have hif : ∀ e : HoldEntry, (if e.id == id then f e else e).id = e.id := fun e => by split <;> simp [hf]
  simp only [HoldManager.modify, List.map_map, Function.comp_def, hif, and_self]

theorem State.becomeHeld_ids (s : State) (id : Nat) (silent : Bool) :
    (s.becomeHeld id silent).hm.list.map HoldEntry.id = s.hm.list.map HoldEntry.id ∧
      (s.becomeHeld id silent).hm.line.map HoldEntry.id = s.hm.line.map HoldEntry.id ∧
      (s.becomeHeld id silent).hm.nextId = s.hm.nextId := by
  simp only [State.becomeHeld]
  split
  · exact ⟨rfl, rfl, rfl⟩
  · simp only [State.completeHold_frame, State.wakeRequests_frame]
    exact s.hm.modify_ids id fun _ => rfl

theorem State.joinList_ids (s : State) (e : HoldEntry) :
    (s.joinList e).hm.list.map HoldEntry.id = s.hm.list.map HoldEntry.id ++ [e.id] ∧
      (s.joinList e).hm.line.map HoldEntry.id = s.hm.line.map HoldEntry.id ∧
      (s.joinList e).hm.nextId = s.hm.nextId := by
  simp only [State.joinList]
  split
  · simpa using State.becomeHeld_ids (s.onHm fun h => { h with list := h.list ++ [{ e with state := .claiming }] }) e.id _
  · simp

theorem State.joinList_names (s : State) (e : HoldEntry) (h : NamesFresh s)
    (hid : e.id < s.hm.nextId) (hnew : e.id ∉ s.hm.ids) : NamesFresh (s.joinList e) := by
  obtain ⟨hlist, hline, hnext⟩ := s.joinList_ids e
  have happended : NamesFresh (s.onHm fun h => { h with list := h.list ++ [{ e with state := .claiming }] }) := by
    obtain ⟨hqueue, ⟨hnodup, hlt⟩, hrefs⟩ := h
    have hperm : ((s.hm.list ++ [{ e with state := .claiming }] ++ s.hm.line).map HoldEntry.id).Perm
        (e.id :: (s.hm.list ++ s.hm.line).map HoldEntry.id) := by
      simp
    refine ⟨hqueue, ⟨hperm.nodup_iff.mpr (List.nodup_cons.mpr ⟨hnew, hnodup⟩), fun x hx => ?_⟩, hrefs⟩
    have hmem := hperm.mem_iff.mp (List.mem_map_of_mem (f := HoldEntry.id) hx)
    rcases List.mem_cons.mp hmem with hx | hx
    · exact hx ▸ hid
    · obtain ⟨y, hy, hxy⟩ := List.mem_map.mp hx
      exact hxy ▸ hlt y hy
  refine Keeps.names ?_ happended
  simp only [State.joinList]
  split
  · exact State.becomeHeld_keeps _ _ _
  · exact State.offer_keeps _ _

theorem State.recheckEntry_names {s : State} {e : HoldEntry} (h : NamesFresh s)
    (he : e.id ∈ s.hm.line.map HoldEntry.id) :
    NamesFresh (s.recheckEntry e) ∧
      ∀ i ∈ s.hm.line.map HoldEntry.id, i ≠ e.id → i ∈ (s.recheckEntry e).hm.line.map HoldEntry.id := by
  simp only [State.recheckEntry]
  split
  · exact ⟨h, fun _ hi _ => hi⟩
  · obtain ⟨hqueue, ⟨hnodup, hlt⟩, hrefs⟩ := h
    obtain ⟨x, hx, hxe⟩ := List.mem_map.mp he
    have hsub : (s.hm.list ++ s.hm.line.filter fun x => x.id != e.id).Sublist (s.hm.list ++ s.hm.line) :=
      List.filter_sublist.append_left _
    have hnames : NamesFresh (s.onHm fun h => { h with line := h.line.filter fun x => x.id != e.id }) :=
      ⟨hqueue, ⟨hnodup.sublist (hsub.map _), fun y hy => hlt y (hsub.subset hy)⟩, hrefs⟩
    refine ⟨State.joinList_names _ _ hnames ?_ ?_, fun i hi hne => ?_⟩
    · exact hxe ▸ hlt x (List.mem_append_right _ hx)
    · simp only [HoldManager.ids, List.map_append, List.mem_append, not_or, State.onHm_hm]
      rw [List.map_append, List.nodup_append] at hnodup
      exact ⟨fun hmem => hnodup.2.2 _ hmem _ he rfl, by simp⟩
    · obtain ⟨hlist, hline, hnext⟩ :=
        State.joinList_ids (s.onHm fun h => { h with line := h.line.filter fun x => x.id != e.id }) e
      rw [hline]
      obtain ⟨y, hy, rfl⟩ := List.mem_map.mp hi
      exact List.mem_map_of_mem (List.mem_filter.mpr ⟨hy, by simpa using hne⟩)

theorem State.recheckLine_names {s : State} (h : NamesFresh s) : NamesFresh s.recheckLine := by
  have hfold : ∀ (l : List HoldEntry) (t : State), NamesFresh t → (l.map HoldEntry.id).Nodup →
      (∀ e ∈ l, e.id ∈ t.hm.line.map HoldEntry.id) → NamesFresh (l.foldl State.recheckEntry t) := by
    intro l
    induction l with
    | nil => exact fun t ht _ _ => ht
    | cons e l ih =>
      intro t ht hnodup hmem
      obtain ⟨hnext, hstay⟩ := State.recheckEntry_names ht (hmem e List.mem_cons_self)
      rw [List.map_cons, List.nodup_cons] at hnodup
      refine ih _ hnext hnodup.2 fun x hx => hstay _ (hmem x (List.mem_cons_of_mem _ hx)) fun heq => ?_
      exact hnodup.1 (heq ▸ List.mem_map_of_mem hx)
  refine hfold _ s h ?_ fun e he => List.mem_map_of_mem he
  exact h.2.1.1.sublist ((List.sublist_append_right _ _).map _)

theorem State.recheckLine_keeps (s : State) : Keeps s s.recheckLine := ⟨s.recheckLine_keepsLaws, State.recheckLine_names⟩

theorem State.filterEntries_keeps (s : State) (p : HoldEntry → Bool) :
    Keeps s (s.onHm fun h => { h with list := h.list.filter p, line := h.line.filter p }) := by
  refine ⟨s.filterEntries_keepsLaws p p, fun ⟨hqueue, ⟨hnodup, hlt⟩, hrefs⟩ => ?_⟩
  have hsub : (s.hm.list.filter p ++ s.hm.line.filter p).Sublist (s.hm.list ++ s.hm.line) :=
    List.filter_sublist.append List.filter_sublist
  exact ⟨hqueue, ⟨hnodup.sublist (hsub.map _), fun y hy => hlt y (hsub.subset hy)⟩, hrefs⟩

theorem State.settleClaim_keeps (s : State) (id : Nat) : Keeps s (s.settleClaim id) := s.withdraw_keeps _

theorem State.removeEntry_keeps (s : State) (e : HoldEntry) : Keeps s (s.removeEntry e) := by
  have hgone := s.filterEntries_keeps fun x => x.id != e.id
  grind only [State.removeEntry, State.settleClaim_keeps, State.offer_keeps, State.recheckLine_keeps, Keeps.trans]

theorem State.removeEntryId_keeps (s : State) (id : Nat) : Keeps s (s.removeEntryId id) := by
  grind only [State.removeEntryId, Keeps.refl, State.removeEntry_keeps]

theorem State.endReference_keeps (s : State) (id : Nat) : Keeps s (s.endReference id) := by
  have hrefs := s.onEntry_keeps id (f := fun x => { x with refs := x.refs - 1 })
  grind only [State.endReference, Keeps.refl, State.removeEntry_keeps, State.completeUnhold_keeps, Keeps.trans]

theorem HoldManager.mem_of_earliest {h : HoldManager} {p : HoldEntry → Bool} {e : HoldEntry}
    (he : h.earliest p = some e) : e ∈ h.list ++ h.line ∧ p e = true := by
  have hfold : ∀ (l : List HoldEntry) (a : Option HoldEntry), l.foldl earlier a = some e → a = some e ∨ e ∈ l := by
    intro l
    induction l with
    | nil => exact fun a ha => .inl ha
    | cons x l ih =>
      intro a ha
      rcases ih _ ha with h | h
      · cases a with
        | none => exact .inr (List.mem_cons.mpr (.inl (Option.some.inj h).symm))
        | some y =>
          simp only [earlier] at h
          split at h
          · exact .inl h
          · exact .inr (List.mem_cons.mpr (.inl (Option.some.inj h).symm))
      · exact .inr (List.mem_cons_of_mem _ h)
  rcases hfold _ _ he with h | h
  · simp at h
  · exact List.mem_filter.mp h

/-- A new entry takes the next name (R148, R149). -/
theorem State.makeEntry_keeps {s : State} {e : HoldEntry} (hid : e.id = s.hm.nextId) : Keeps s (s.makeEntry e) := by
  have hlaws : KeepsLaws s (s.onHm fun h => { h with nextId := h.nextId + 1 }) := { KeepsLaws.refl s with }
  have hnames : NamesFresh s → NamesFresh (s.onHm fun h => { h with nextId := h.nextId + 1 }) :=
    fun ⟨hqueue, ⟨hnodup, hlt⟩, hrefs⟩ => ⟨hqueue, ⟨hnodup, fun x hx => (hlt x hx).trans (Nat.lt_succ_self _)⟩,
      fun r hr i hi => (hrefs r hr i hi).trans (Nat.lt_succ_self _)⟩
  have hnew : NamesFresh s → e.id ∉ s.hm.ids := by
    rintro ⟨_, ⟨_, hlt⟩, _⟩ hmem
    obtain ⟨x, hx, hxe⟩ := List.mem_map.mp hmem
    exact (hlt x hx).ne (hxe.trans hid)
  simp only [State.makeEntry, State.placeEntry]
  split
  case isTrue =>
    refine ⟨hlaws.trans { KeepsLaws.refl _ with }, fun h => ?_⟩
    obtain ⟨hqueue, ⟨hnodup, hlt⟩, hrefs⟩ := hnames h
    refine ⟨hqueue, ⟨?_, ?_⟩, hrefs⟩
    · have hids : ((s.hm.list ++ (s.hm.line ++ [{ e with state := .pending }])).map HoldEntry.id) =
          s.hm.ids ++ [e.id] := by simp [HoldManager.ids]
      exact hids ▸ hnodup.append (List.nodup_singleton _) fun i hi hi' =>
        hnew h (List.mem_singleton.mp hi' ▸ hi)
    · intro x hx
      have hx : x ∈ s.hm.list ++ s.hm.line ∨ x = { e with state := .pending } := by
        simpa [or_assoc] using hx
      rcases hx with hx | rfl
      · exact hlt x hx
      · exact hid ▸ Nat.lt_succ_self _
  case isFalse hfits =>
    exact ⟨hlaws.trans (State.joinList_keepsLaws (Bool.eq_false_iff.mpr hfits)), fun h =>
      State.joinList_names _ _ (hnames h) (hid ▸ Nat.lt_succ_self _) (hnew h)⟩

theorem State.makeEntry_nextId (s : State) (e : HoldEntry) : (s.makeEntry e).hm.nextId = s.hm.nextId + 1 := by
  simp only [State.makeEntry, State.placeEntry]
  split
  · rfl
  · exact (State.joinList_ids _ e).2.2

theorem State.relyOn_keeps (s : State) (chain : Fin 4) (k : RequestKind) (start count : Nat) (budget : Option Nat) :
    Keeps s (s.relyOn chain k start count budget).2 ∧
      (NamesFresh (s.relyOn chain k start count budget).2 →
        (s.relyOn chain k start count budget).1 < (s.relyOn chain k start count budget).2.hm.nextId) := by
  simp only [State.relyOn]
  split
  next e he =>
    refine ⟨s.onEntry_keeps _, fun ⟨_, ⟨_, hlt⟩, _⟩ => ?_⟩
    have hids := s.hm.modify_ids e.id (f := fun x => { x with
      refs := x.refs + 1
      budget := if x.origin == .implicit then adjustBudget x.budget budget else x.budget }) fun _ => rfl
    have hmem : e.id ∈ (s.hm.list ++ s.hm.line).map HoldEntry.id :=
      List.mem_map_of_mem (HoldManager.mem_of_earliest he).1
    rw [List.map_append, ← hids.1, ← hids.2.1, ← List.map_append] at hmem
    obtain ⟨x, hx, hxe⟩ := List.mem_map.mp hmem
    exact hxe ▸ hlt x hx
  next =>
    exact ⟨State.makeEntry_keeps rfl, fun _ => by rw [State.makeEntry_nextId]; exact Nat.lt_succ_self _⟩

theorem State.reclaimEntry_keeps (s : State) (e : HoldEntry) : Keeps s (s.reclaimEntry e) :=
  .trans (s.onEntry_keeps _) (State.offer_keeps _ _)

theorem State.expireEntry_keeps (s : State) (e : HoldEntry) : Keeps s (s.expireEntry e) :=
  (s.removeEntry_keeps e).trans (State.completeHold_keeps _ _ _ _ _)

theorem State.refuseEntry_keeps (s : State) (id : Nat) : Keeps s (s.refuseEntry id) := by
  have hrefused := s.onEntry_keeps id (f := fun x => { x with state := .refused, refusalRevs := 0 })
  grind only [State.refuseEntry, Keeps.refl, State.expireEntry_keeps]

theorem State.silentEntry_keeps (s : State) (id : Nat) : Keeps s (s.silentEntry id) :=
  .trans (s.onEntry_keeps _) (State.becomeHeld_keeps _ _ _)

theorem State.reclaimRange_keeps (s : State) (start count : Nat) : Keeps s (s.reclaimRange start count) :=
  Keeps.foldl State.reclaimEntry_keeps _ s

theorem State.expireIfDue_keeps (s : State) (id : Nat) : Keeps s (s.expireIfDue id) := by
  grind only [State.expireIfDue, Keeps.refl, State.expireEntry_keeps]

theorem HoldEntry.countDown_sameRange (e : HoldEntry) : e.SameRange e.countDown := by
  simp only [HoldEntry.countDown]
  split <;> exact ⟨rfl, rfl, rfl, rfl⟩

theorem HoldEntry.countRevolution_sameRange (e : HoldEntry) : e.SameRange e.countRevolution := by
  simp only [HoldEntry.countRevolution]
  split <;> exact ⟨rfl, rfl, rfl, rfl⟩

theorem State.holdSlot_keeps (s : State) : Keeps s s.holdSlot :=
  (s.mapEntries_keeps HoldEntry.countDown_sameRange HoldEntry.countDown_sameRange).trans
    (Keeps.foldl State.expireIfDue_keeps _ _)

theorem State.holdRevolution_keeps (s : State) : Keeps s s.holdRevolution := by
  have hcount := s.mapEntries_keeps (g := id) HoldEntry.countRevolution_sameRange fun _ => ⟨rfl, rfl, rfl, rfl⟩
  simp only [List.map_id] at hcount
  exact hcount.trans (Keeps.foldl State.reclaimEntry_keeps _ _)

theorem State.detachHolds_keeps (s : State) (l : List HoldEntry) : Keeps s (s.detachHolds l) := by
  simp only [State.detachHolds]
  refine Keeps.foldl (fun t e => ?_) l s
  exact t.onEntry_keeps e.id

theorem State.stopHold_keeps (st : Status) (f : Option ElementFault) (s : State) (e : HoldEntry) :
    Keeps s (State.stopHold st f s e) :=
  (s.completeHold_keeps e st f false).trans (State.removeEntryId_keeps _ _)

theorem State.silenceHolds_keeps (s : State) : Keeps s s.silenceHolds :=
  Keeps.foldl (fun s e => .trans (s.completeHold_keeps e _ _ _) (State.onEntry_keeps _ e.id)) _ s

theorem State.removeExplicit_keeps (s : State) (n : Fin 4) : Keeps s (s.removeExplicit n) :=
  Keeps.foldl State.removeEntryId_keeps _ s

end Sys2Proof.Machine
end

section
/-! The laws kept by the Work Queue, the Tenure Manager, the Transfer Engine and the Chain Unit. -/

namespace Sys2Proof.Machine

open Sys2Proof

-- One proof at a time: proofs elaborated together wait for one another on threads of their own, which the check's
-- memory limit counts.
set_option Elab.async false

/-! Host Port and queue. -/

theorem State.onTm_same_keeps (s : State) {f : TenureManager → TenureManager}
    (hown : (f s.tm).own = s.tm.own := by rfl) (hpeer : (f s.tm).peer = s.tm.peer := by rfl) : Keeps s (s.onTm f) :=
  .of_same hown hpeer rfl rfl rfl rfl

theorem State.refuse_keeps (s : State) (c : RefusalCode) : Keeps s (s.refuse c) := s.onHp_keeps _

theorem State.withdrawTransfer_keeps (s : State) (t : Transfer) : Keeps s (s.withdrawTransfer t) := s.onHp_keeps _

theorem State.endTransfer_keeps (s : State) : Keeps s s.endTransfer := s.onHp_keeps _

theorem State.completePlain_keeps (s : State) (i : ElemInfo) (st : Status) (f : Option ElementFault)
    (place : Option (Table × Nat)) : Keeps s (s.completePlain i st f place) := s.complete_keeps _

theorem State.completeOnlyF_keeps (s : State) (i : ElemInfo) (f : ElementFault) (p : Bool)
    (place : Option (Table × Nat)) : Keeps s (s.completeOnlyF i f p place) := s.complete_keeps _

theorem State.completeAfterData_keeps (s : State) (id : Nat) (c : Completion) : Keeps s (s.completeAfterData id c) := by
  grind only [State.completeAfterData, State.onHp_keeps, State.complete_keeps]

theorem State.askHeldBack_keeps (s : State) (id : Nat) : Keeps s (s.askHeldBack id) := by
  grind only [State.askHeldBack, State.onHp_keeps, Keeps.refl]

theorem State.leaveQueue_keeps (s : State) (r : Request) (st : Status) (f : Option ElementFault) (m p : Bool) :
    Keeps s (s.leaveQueue r st f m p) := by
  grind only [State.leaveQueue, State.completeAfterData_keeps, State.endReference_keeps, State.onDescriptor_keeps,
    State.dropRequest_keeps, Keeps.trans]

theorem State.completeRequest_keeps (s : State) (r : Request) (st : Status) (f : Option ElementFault) (m : Bool) :
    Keeps s (s.completeRequest r st f m) := s.leaveQueue_keeps r st f m _

theorem State.completeQueued_keeps (s : State) (p : Request → Bool) (st : Status) (f : Option ElementFault) :
    Keeps s (s.completeQueued p st f) :=
  Keeps.foldl (fun s r => s.completeRequest_keeps r st f false) _ s

/-! The Tenure Manager (Section 7). -/

theorem State.setPositioner_keeps (s : State) (c : Option Nat) (moving : Bool) : Keeps s (s.setPositioner c moving) :=
  .trans s.onTm_same_keeps (State.review_keeps _)

theorem State.setMoving_keeps (s : State) (b : Bool) : Keeps s (s.setMoving b) := s.setPositioner_keeps _ b

theorem State.endCourtesy_keeps (s : State) : Keeps s s.endCourtesy := by
  have hended : Keeps s (s.onTm fun t => { t with courtesy := false }) := s.onTm_same_keeps
  grind only [State.endCourtesy, State.offer_keeps, Keeps.refl, Keeps.trans]

theorem State.beginCourtesy_keeps (s : State) : Keeps s s.beginCourtesy := by
  have hbegun : Keeps s (s.onTm fun t => { t with courtesy := true }) := s.onTm_same_keeps
  grind only [State.beginCourtesy, Keeps.refl]

theorem State.setPresence_keeps (s : State) (p : Presence) : Keeps s (s.onTm fun t => { t with presence := p }) :=
  s.onTm_same_keeps

theorem State.peerAbsent_keeps (s : State) : Keeps s s.peerAbsent := by
  have habsent (t : State) := t.setPresence_keeps .absent
  grind only [State.peerAbsent, State.raise_keeps, State.endCourtesy_keeps, Keeps.trans]

theorem State.peerPresent_keeps (s : State) : Keeps s s.peerPresent := by
  have hpresent (t : State) := t.setPresence_keeps .present
  grind only [State.peerPresent, State.raise_keeps, State.endCourtesy_keeps, Keeps.trans]

/-- Pending frames whose bodies change keep their counts. -/
theorem State.mapFrames_keeps (s : State) {f : Frame → Frame} (hf : ∀ x : Frame, x.CountsInRange → (f x).CountsInRange) :
    Keeps s (s.onLu fun l => { l with frames := l.frames.map f }) := by
  refine State.onLu_keeps fun ⟨hframes, hexchange, hcount⟩ => ⟨fun y hy => ?_, hexchange, hcount⟩
  obtain ⟨x, hx, rfl⟩ := List.mem_map.mp hy
  exact hf x (hframes x hx)

theorem State.retarget_keeps (s : State) (c : Nat) : Keeps s (s.onLu fun l => l.retarget c) :=
  s.mapFrames_keeps fun x hx => by split <;> exact hx

theorem State.reslack_keeps (s : State) (k : Int) : Keeps s (s.onLu fun l => l.reslack k) :=
  s.mapFrames_keeps fun x hx => by split <;> exact hx

theorem State.reannounce_keeps (s : State) (c : Nat) : Keeps s (s.reannounce c) := by
  have hretarget := s.retarget_keeps c
  grind only [State.reannounce, State.offer_keeps, Keeps.refl]

/-- A tenure that stands or ends stays beside a peer record that was NONE. -/
theorem State.setOwn_keeps {s : State} {o : OwnTenure} (h : s.tm.own = .none → o = .none) : Keeps s (s.setOwn o) :=
  State.onTm_keeps fun hlaw hpeer => h (hlaw hpeer)

theorem State.setOwn_none_keeps (s : State) : Keeps s (s.setOwn .none) := State.setOwn_keeps fun _ => rfl

theorem State.askTenure_keeps (s : State) (c : Nat) : Keeps s (s.askTenure c) := by
  have hasks (hpeer : s.tm.peer.isSome = false) : Keeps s (s.onTm fun t => { t with own := .asking c }) :=
    State.onTm_keeps fun _ hsome => by simp_all
  grind only [State.askTenure, State.reannounce_keeps, State.offer_keeps, Keeps.refl, Keeps.trans]

theorem State.peerNone_keeps (s : State) : Keeps s (s.onTm fun t => { t with peer := none, preemptMark := false }) :=
  State.onTm_keeps fun _ hsome => by simp at hsome

theorem State.peerGone_keeps (s : State) : Keeps s s.peerGone := by
  have hnone := s.peerNone_keeps
  grind only [State.peerGone, State.withdraw_keeps, State.review_keeps, Keeps.refl, Keeps.trans]

theorem State.peerHolds_keeps {s : State} (c : Option Nat) (revolutions : Nat) (h : s.tm.own = .none) :
    Keeps s (s.peerHolds c revolutions) :=
  .trans (State.onTm_keeps (by exact fun _ _ => h)) (State.review_keeps _)

theorem State.offerReleaseOnce_keeps (s : State) : Keeps s s.offerReleaseOnce := by
  grind only [State.offerReleaseOnce, State.offer_keeps, Keeps.refl]

theorem State.offerRelease_keeps (s : State) : Keeps s s.offerRelease := by
  grind only [State.offerRelease, State.offerReleaseOnce_keeps, Keeps.refl]

theorem State.preemptSlot_keeps (s : State) : Keeps s s.preemptSlot := by
  simp only [State.preemptSlot]
  split
  · exact s.withdraw_keeps _
  split
  · exact s.reslack_keeps _
  split
  · exact s.offer_keeps _
  · exact .refl s

theorem State.countPeerSeek_keeps (s : State) : Keeps s s.countPeerSeek := s.onTm_same_keeps

/-! The Transfer Engine (Section 5). -/

theorem State.setBuf_keeps (s : State) (n : BufferName) (b : SectorBuffer) : Keeps s (s.setBuf n b) := s.onTe_keeps _

theorem State.loadOne_keeps (s : State) (r : Request) : Keeps s (s.loadOne r) := by
  grind only [State.loadOne, State.setBuf_keeps, State.askTransfer_keeps, Keeps.refl, Keeps.trans]

theorem State.loadAhead_keeps (s : State) : Keeps s s.loadAhead := by
  grind only [State.loadAhead, State.loadOne_keeps, Keeps.refl, Keeps.trans]

theorem State.discardBuf_keeps (s : State) (n : BufferName) : Keeps s (s.discardBuf n) := by
  grind only [State.discardBuf, State.setBuf_keeps, State.onHp_keeps, Keeps.refl, Keeps.trans]

theorem State.idleEngine_keeps (s : State) : Keeps s s.idleEngine := by
  grind only [State.idleEngine, State.discardData, State.withdraw_keeps, State.discardBuf_keeps, State.onTe_keeps,
    Keeps.trans]

theorem State.finish_keeps (s : State) (st : Status) (f : Option ElementFault) (m : Bool) :
    Keeps s (s.finish st f m) := by
  grind only [State.finish, State.completeRequest_keeps, State.idleEngine_keeps, Keeps.trans]

theorem State.handBack_keeps (s : State) (q : Request → RequestState) : Keeps s (s.handBack q) := by
  have hback (id : Nat) : Keeps s (s.onRequest id fun x => { x with state := q x }) :=
    s.onRequest_keeps id
  grind only [State.handBack, State.finish_keeps, State.idleEngine_keeps, Keeps.trans]

theorem State.suspend_keeps (s : State) : Keeps s s.suspend := s.handBack_keeps _

theorem State.giveBack_keeps (s : State) : Keeps s s.giveBack := s.handBack_keeps _

theorem State.tryOrder_keeps (s : State) : Keeps s s.tryOrder := by
  grind only [State.tryOrder, State.offer_keeps, Keeps.refl]

theorem State.enterLead_keeps (s : State) : Keeps s s.enterLead := .trans (s.onTe_keeps _) (State.tryOrder_keeps _)

theorem State.setPhase_keeps (s : State) (p : Phase) : Keeps s (s.setPhase p) := s.onTe_keeps _

theorem State.enterSettle_keeps (s : State) : Keeps s s.enterSettle := s.onTe_keeps _

theorem State.offerSeek_keeps (s : State) : Keeps s s.offerSeek := .trans (s.setPhase_keeps _) (State.offer_keeps _ _)

theorem State.offerSense_keeps (s : State) : Keeps s s.offerSense := .trans (s.setPhase_keeps _) (State.offer_keeps _ _)

theorem State.waitTenure_keeps (s : State) : Keeps s s.waitTenure := .trans (s.setPhase_keeps _) (State.askTenure_keeps _ _)

theorem State.positionAt_keeps (s : State) : Keeps s s.positionAt := by
  grind only [State.positionAt, State.waitTenure_keeps, State.enterSettle_keeps, State.enterLead_keeps,
    State.suspend_keeps, State.setPhase_keeps]

theorem State.position_keeps (s : State) : Keeps s s.position := by
  grind only [State.position, State.onTe_keeps, State.positionAt_keeps, Keeps.refl, Keeps.trans]

theorem State.takeRequest_keeps (s : State) (r : Request) : Keeps s (s.takeRequest r) := by
  have hactive : Keeps s (s.onRequest r.id fun x => { x with state := .active }) :=
    s.onRequest_keeps r.id
  grind only [State.takeRequest, State.onTe_keeps, State.loadAhead_keeps, State.position_keeps, Keeps.trans]

theorem State.select_keeps (s : State) : Keeps s s.select := by
  grind only [State.select, State.formEligible_keeps, State.takeRequest_keeps, Keeps.refl, Keeps.trans]

theorem State.suspendAfterExchange_keeps (s : State) : Keeps s s.suspendAfterExchange := by
  grind only [State.suspendAfterExchange, State.onTe_keeps, State.suspend_keeps, Keeps.refl]

theorem State.endTenure_keeps (s : State) : Keeps s s.endTenure := by
  simp only [State.endTenure]
  split
  case h_1 c n hown =>
    have hending : Keeps s (s.setOwn (.ending c n)) := State.setOwn_keeps fun h => by simp [hown] at h
    grind only [State.withdraw_keeps, State.suspendAfterExchange_keeps, State.offerRelease_keeps, Keeps.trans]
  case h_2 => exact .refl s

theorem State.idleTenureTest_keeps (s : State) : Keeps s s.idleTenureTest := by
  grind only [State.idleTenureTest, State.endTenure_keeps, Keeps.refl]

theorem State.engineIdled_keeps (s : State) : Keeps s s.engineIdled := by
  grind only [State.engineIdled, State.select_keeps, State.idleTenureTest_keeps, State.offerRelease_keeps, Keeps.trans]

theorem State.endRequest_keeps (s : State) (st : Status) (f : Option ElementFault) (m : Bool) :
    Keeps s (s.endRequest st f m) := .trans (s.finish_keeps st f m) (State.engineIdled_keeps _)

theorem State.following_keeps {s : State} {act : State → State} (h : Keeps s (act s)) : Keeps s (s.following act) := by
  grind only [State.following, State.engineIdled_keeps, Keeps.trans]

theorem State.reposition_keeps (s : State) : Keeps s s.reposition := State.following_keeps s.position_keeps

theorem State.goOn_keeps {s : State} {k : State → State} (h : Keeps s (k s)) : Keeps s (s.goOn k) := by
  grind only [State.goOn, State.suspend_keeps, State.engineIdled_keeps, Keeps.trans]

theorem State.slip_keeps (s : State) (cause : SlipCause) : Keeps s (s.slip cause) := by
  rcases s.slip_cases cause with ⟨heq, _⟩ | ⟨r, _, ⟨_, heq⟩ | ⟨_, heq⟩⟩ <;> rw [heq]
  · exact .refl s
  · exact .trans (s.withdraw_keeps _) (State.endRequest_keeps _ _ _ _)
  · exact .trans (s.withdraw_keeps _) (.trans (State.onRequest_keeps _ _)
      (.trans (State.onTe_keeps _ _) (State.goOn_keeps (State.setPhase_keeps _ _))))

theorem State.displace_keeps {s : State} {k : State → State} (h : ∀ t, Keeps t (k t)) : Keeps s (s.displace k) := by
  rcases s.displace_cases k with ⟨heq, _⟩ | ⟨r, _, ⟨_, heq⟩ | ⟨_, heq⟩⟩ <;> rw [heq]
  · exact .refl s
  · exact s.endRequest_keeps _ _ _
  · refine .trans (s.onRequest_keeps r.id (f := fun x => { x with displacements := x.displacements + 1 })
     ) ?_
    split
    · exact State.goOn_keeps (h _)
    · exact .trans (State.suspend_keeps _) (State.engineIdled_keeps _)

theorem State.tenureGranted_keeps (s : State) (c : Nat) : Keeps s (s.tenureGranted c) := by
  grind only [State.tenureGranted, State.offerSeek_keeps, State.reposition_keeps, Keeps.refl]

theorem State.settleAsk_keeps (s : State) (b : FrameBody) : Keeps s (s.settleAsk b) := by
  rcases s.settleAsk_cases b with heq | ⟨c, _, _, _, _, heq⟩ <;> rw [heq]
  · exact .refl s
  · exact s.reposition_keeps

theorem State.tenureRefused_keeps (s : State) : Keeps s s.tenureRefused := by
  grind only [State.tenureRefused, State.giveBack_keeps, State.engineIdled_keeps, Keeps.refl, Keeps.trans]

theorem State.holdTenure_keeps {s : State} (c n : Nat) (h : s.tm.own ≠ .none) : Keeps s (s.holdTenure c n) := by
  have hheld : Keeps s (s.setOwn (.holding c n)) := State.setOwn_keeps fun hnone => absurd hnone h
  grind only [State.holdTenure, State.tenureGranted_keeps, State.endTenure_keeps, Keeps.trans]

theorem State.tenureSettled_keeps (s : State) (c : Nat) : Keeps s (s.tenureSettled c) := by
  simp only [State.tenureSettled]
  split
  next a hown => exact State.holdTenure_keeps _ _ (by simp [hown])
  next a n hown => exact .trans (State.setOwn_keeps fun h => by simp [hown] at h) (State.tenureGranted_keeps _ _)
  next a n hown => exact .trans (State.setOwn_keeps fun h => by simp [hown] at h) (State.offerRelease_keeps _)
  next => exact .refl s

theorem State.tenureClashed_keeps (s : State) (n : Nat) : Keeps s (s.tenureClashed n) := by
  have hclashed : Keeps s (((s.setOwn .none).withdraw FrameBody.isTenure).peerHolds none n) :=
    .trans s.setOwn_none_keeps (.trans (State.withdraw_keeps _ _) (State.peerHolds_keeps _ _ rfl))
  grind only [State.tenureClashed, State.withdraw_keeps, State.reposition_keeps, State.tenureRefused_keeps, Keeps.trans]

theorem State.withdrawAsk_keeps (s : State) : Keeps s s.withdrawAsk :=
  .trans s.setOwn_none_keeps (.trans (State.withdraw_keeps _ _) (State.tenureRefused_keeps _))

/-! The ends of drive exchanges (Sections 5, 6, 9). -/

theorem Monitor.enterDown_inRange {m : Monitor} (h : MonitorInRange m) : MonitorInRange m.enterDown := by
  obtain ⟨_, hsynth, hrev, _⟩ := h
  simp [Monitor.enterDown, MonitorInRange, hsynth, hrev]

theorem State.engineDown_keeps (s : State) : Keeps s s.engineDown := by
  grind only [State.engineDown, State.onTe_keeps, State.finish_keeps, Keeps.refl]

theorem State.tenureDown_keeps (s : State) : Keeps s s.tenureDown := by
  grind only [State.tenureDown, State.setPositioner_keeps, State.endTenure_keeps, State.offerRelease_keeps, Keeps.trans]

/-- The exchange in progress changes but for its frame. -/
theorem State.mapExchange_keeps (s : State) {f : Exchange → Exchange} (hf : ∀ x, (f x).frame = x.frame) :
    Keeps s (s.onLu fun l => { l with exchange := l.exchange.map f }) := by
  refine State.onLu_keeps fun ⟨hframes, hexchange, hcount⟩ => ⟨hframes, fun y hy => ?_, hcount⟩
  obtain ⟨x, hx, rfl⟩ := Option.mem_map.mp hy
  exact hf x ▸ hexchange x hx

theorem State.driveDown_keeps (s : State) : Keeps s s.driveDown := by
  have hdown : Keeps s (s.onRdm Monitor.enterDown) := State.onRdm_keeps Monitor.enterDown_inRange
  have hlost (t : State) : Keeps t (t.onLu LineUnit.markLost) := t.mapExchange_keeps fun _ => rfl
  grind only [State.driveDown, State.raise_keeps, State.engineDown_keeps, State.tenureDown_keeps, Keeps.refl,
    Keeps.trans]

theorem State.endExchange_keeps (s : State) : Keeps s s.endExchange :=
  State.onLu_keeps fun ⟨hframes, _, hcount⟩ => ⟨hframes, fun _ hx => by simp at hx, hcount⟩

theorem State.releaseReceiving_keeps (s : State) : Keeps s s.releaseReceiving := s.onTe_keeps _

theorem State.notDone_keeps {s : State} {k : State → State} (h : ∀ t, Keeps t (k t)) : Keeps s (s.notDone k) := by
  grind only [State.notDone, State.releaseReceiving_keeps, State.endRequest_keeps, Keeps.refl, Keeps.trans]

theorem State.loseDrive_keeps (s : State) (owned : Bool) : Keeps s (s.loseDrive owned) := by
  refine State.following_keeps ?_
  grind only [State.releaseReceiving_keeps, State.finish_keeps, State.driveDown_keeps, Keeps.refl, Keeps.trans]

theorem State.countSector_keeps (s : State) (r : Request) : Keeps s (s.countSector r) :=
  .trans (s.onRequest_keeps r.id) (State.onTe_keeps _ _)

theorem State.reportWritten_keeps (s : State) (r : Request) : Keeps s (s.reportWritten r) := by
  have hwritten (t : State) (id : Nat) : Keeps t (t.onEntry id fun e => { e with written := true }) := t.onEntry_keeps id
  grind only [State.reportWritten, State.onDescriptor_keeps, Keeps.refl, Keeps.trans]

theorem State.emptyLoaded_keeps (s : State) (r : Request) : Keeps s (s.emptyLoaded r) := by
  grind only [State.emptyLoaded, State.setBuf_keeps, Keeps.refl]

theorem State.unloadSector_keeps (s : State) (r : Request) (words : List Word) : Keeps s (s.unloadSector r words) := by
  grind only [State.unloadSector, State.setBuf_keeps, State.askTransfer_keeps, Keeps.refl, Keeps.trans]

theorem State.handleData_keeps (s : State) (r : Request) (words : List Word) : Keeps s (s.handleData r words) := by
  grind only [State.handleData, State.unloadSector_keeps, State.emptyLoaded_keeps, State.releaseReceiving_keeps,
    Keeps.refl]

theorem State.nextSector_keeps (s : State) : Keeps s (s.goOn fun s => s.loadAhead.reposition) :=
  State.goOn_keeps (.trans s.loadAhead_keeps (State.reposition_keeps _))

theorem State.afterSector_keeps (s : State) (r : Request) (same : Bool) : Keeps s (s.afterSector r same) := by
  grind only [State.afterSector, State.endRequest_keeps, State.nextSector_keeps]

theorem State.dataClean_keeps (s : State) (words : List Word) : Keeps s (s.dataClean words) := by
  grind only [State.dataClean, State.handleData_keeps, State.countSector_keeps, State.afterSector_keeps, Keeps.refl,
    Keeps.trans]

theorem State.sectorWritten_keeps (s : State) : Keeps s s.sectorWritten := by
  grind only [State.sectorWritten, State.emptyLoaded_keeps, State.countSector_keeps, State.reportWritten_keeps,
    State.afterSector_keeps, Keeps.refl, Keeps.trans]

theorem State.dataCheck_keeps (s : State) : Keeps s s.dataCheck := by
  simp only [State.dataCheck]
  repeat' split
  · exact .refl s
  · exact s.endRequest_keeps _ _ _
  · exact .trans (s.onRequest_keeps _) (State.goOn_keeps (State.setPhase_keeps _ _))

theorem State.seekUnanswered_keeps (s : State) (x : Exchange) : Keeps s (s.seekUnanswered x) := by
  grind only [State.seekUnanswered, State.setPositioner_keeps, Keeps.refl]

theorem State.orderUnanswered_keeps (s : State) (b : FrameBody) : Keeps s (s.orderUnanswered b) := by
  refine State.notDone_keeps fun t => ?_
  split
  · exact t.slip_keeps _
  · exact State.goOn_keeps (.refl t)

theorem State.countSilence_keeps {s : State} (h : ¬ 3 ≤ s.rdm.silence + 1) :
    Keeps s (s.onRdm fun m => { m with silence := m.silence + 1 }) :=
  State.onRdm_keeps fun ⟨hcounter, hsynth, hrev, _, hrest⟩ => ⟨hcounter, hsynth, hrev, by simp only; omega, hrest⟩

theorem State.orderSilent_keeps (s : State) (x : Exchange) : Keeps s (s.orderSilent x) := by
  refine .trans (.trans s.endExchange_keeps (State.seekUnanswered_keeps _ x)) ?_
  simp only [State.orderSilent]
  generalize s.endExchange.seekUnanswered x = t
  split
  · exact .refl t
  split
  · split
    · exact State.notDone_keeps .refl
    · exact .refl t
  split
  case isTrue => exact t.loseDrive_keeps _
  case isFalse hfew =>
    refine .trans (State.countSilence_keeps hfew) ?_
    split
    · exact State.orderUnanswered_keeps _ _
    · exact .refl _

theorem State.driveHeard_keeps (s : State) : Keeps s s.driveHeard :=
  State.onRdm_keeps fun ⟨hcounter, hsynth, hrev, _, hrest⟩ => ⟨hcounter, hsynth, hrev, Nat.zero_le _, hrest⟩

theorem State.busyRecord_keeps (s : State) (x : Exchange) : Keeps s (s.busyRecord x) := by
  grind only [State.busyRecord, State.setPositioner_keeps, State.setMoving_keeps]

theorem State.seekTimedOut_keeps (s : State) : Keeps s s.seekTimedOut := State.displace_keeps State.offerSense_keeps

/-! The Chain Unit (Section 3). -/

theorem State.callFetch_keeps (s : State) (n : Fin 4) : Keeps s (s.callFetch n) := by
  grind only [State.callFetch, State.onChain_keeps, State.askTransfer_keeps, Keeps.refl]

theorem State.clearReason_keeps (s : State) (n : Fin 4) (f : FetchWait → FetchWait) : Keeps s (s.clearReason n f) := by
  grind only [State.clearReason, State.onChain_keeps, State.callFetch_keeps, Keeps.trans]

theorem State.setReason_keeps (s : State) (n : Fin 4) (f : FetchWait → FetchWait) : Keeps s (s.setReason n f) :=
  s.onChain_keeps n _

theorem State.withdrawFetch_keeps (s : State) (n : Fin 4) : Keeps s (s.withdrawFetch n) := s.withdrawTransfer_keeps _

theorem State.markDirectOver_keeps (s : State) : Keeps s s.markDirectOver := by
  grind only [State.markDirectOver, State.onTe_keeps, Keeps.refl]

theorem State.leaveMaintenance_keeps (s : State) : Keeps s s.leaveMaintenance :=
  .trans (s.onHp_keeps _) (.trans (State.markDirectOver_keeps _) (.trans (State.completeQueued_keeps _ _ _ _)
    (Keeps.foldl (fun s n => s.clearReason_keeps n _) _ _)))

theorem State.endChain_keeps (s : State) (n : Fin 4) : Keeps s (s.endChain n) := by
  grind only [State.endChain, State.onChain_keeps, State.removeExplicit_keeps, State.leaveMaintenance_keeps,
    State.raise_keeps, Keeps.trans]

theorem State.endIfOver_keeps (s : State) (n : Fin 4) : Keeps s (s.endIfOver n) := by
  grind only [State.endIfOver, State.endChain_keeps, Keeps.refl]

theorem State.dropHeld_keeps (s : State) (n : Fin 4) (st : Status) (f : Option ElementFault) :
    Keeps s (s.dropHeld n st f) := by
  grind only [State.dropHeld, State.onChain_keeps, State.completePlain_keeps, Keeps.refl, Keeps.trans]

theorem State.shedWork_keeps (s : State) (n : Fin 4) (st : Status) (f : Option ElementFault) :
    Keeps s (s.shedWork n st f) :=
  .trans (s.withdrawFetch_keeps n) (.trans (State.dropHeld_keeps _ n st f) (.trans (State.detachHolds_keeps _ _)
    (.trans (State.completeQueued_keeps _ _ st f) (Keeps.foldl (State.stopHold_keeps st f) _ _))))

theorem State.stopChain_keeps (s : State) (n : Fin 4) : Keeps s (s.stopChain n) := by
  grind only [State.stopChain, State.markStopping, State.onChain_keeps, State.shedWork_keeps, State.endIfOver_keeps,
    Keeps.refl, Keeps.trans]

theorem State.abortActive_keeps (s : State) (n : Fin 4) : Keeps s (s.abortActive n) := by
  have hending (id : Nat) : Keeps s (s.onRequest id fun x => { x with state := .ending }) :=
    s.onRequest_keeps id
  grind only [State.abortActive, State.endRequest_keeps, Keeps.refl, Keeps.trans]

theorem State.faultStop_keeps (s : State) (x : Completion) : Keeps s (s.faultStop x) := by
  grind only [State.faultStop, State.raise_keeps, State.stopChain_keeps, Keeps.refl, Keeps.trans]

theorem State.takeCompletion_keeps (s : State) (x : Completion) : Keeps s (s.takeCompletion x) := by
  grind only [State.takeCompletion, State.onChain_keeps, State.faultStop_keeps, State.callFetch_keeps,
    State.clearReason_keeps, State.endIfOver_keeps, Keeps.trans]

theorem State.silenceChain_keeps (s : State) (n : Fin 4) : Keeps s (s.silenceChain n) := by
  grind only [State.silenceChain, State.markStopping, State.onChain_keeps, State.shedWork_keeps, Keeps.refl, Keeps.trans]

theorem State.silenceEngine_keeps (s : State) : Keeps s s.silenceEngine := by
  grind only [State.silenceEngine, State.releaseReceiving_keeps, State.finish_keeps, Keeps.refl, Keeps.trans]

theorem State.silenceLine_keeps (s : State) : Keeps s (s.onLu LineUnit.silence) := by
  refine State.onLu_keeps fun ⟨_, hexchange, hcount⟩ => ⟨fun f hf => by simp [LineUnit.silence] at hf, fun y hy => ?_, hcount⟩
  obtain ⟨x, hx, rfl⟩ := Option.mem_map.mp hy
  exact hexchange x hx

theorem State.silenceTenure_keeps (s : State) : Keeps s (s.onTm TenureManager.silence) :=
  State.onTm_keeps fun _ _ => rfl

theorem State.becomeSilenced_keeps (s : State) : Keeps s s.becomeSilenced :=
  .trans s.silenceLine_keeps (.trans (State.onHp_keeps _ _) (.trans (State.silenceHolds_keeps _)
    (.trans (State.silenceEngine_keeps _) (.trans (Keeps.foldl State.silenceChain_keeps _ _)
      (.trans (Keeps.foldl State.removeEntryId_keeps _ _) (.trans (State.silenceTenure_keeps _)
        (.trans (State.review_keeps _) (.trans (Keeps.foldl State.endIfOver_keeps _ _) (State.raise_keeps _ _)))))))))

end Sys2Proof.Machine
end

section
/-! The laws kept by every command and by every step. -/

namespace Sys2Proof.Machine

open Sys2Proof

/-! Fetched elements (Section 3). -/

theorem State.admittedFetch_keeps (s : State) (i : ElemInfo) : Keeps s (s.admittedFetch i) := by
  grind only [State.admittedFetch, State.callFetch_keeps, Keeps.refl]

theorem State.admitDirect_keeps {s : State} (i : ElemInfo) (k : RequestKind) (e : Element)
    (hroom : s.wq.records.length < 16) : Keeps s (s.admitDirect i k e) :=
  .trans (State.enqueue_keeps hroom rfl fun _ _ h => by simp [newRequest] at h) (State.admittedFetch_keeps _ i)

theorem State.relyOn_length (s : State) (chain : Fin 4) (k : RequestKind) (start count : Nat) (budget : Option Nat) :
    (s.relyOn chain k start count budget).2.wq.records.length = s.wq.records.length := by
  have hwoken : Woken s (s.relyOn chain k start count budget).2 := by
    simp only [State.relyOn]
    split
    · exact State.onEntry_woken s _ _
    · simp only [State.makeEntry, State.placeEntry]
      split
      · exact .of_eq rfl
      · exact .trans (State.onHm_woken s _) (State.joinList_woken _ _)
  simpa using congrArg List.length hwoken.ids

theorem State.admitExtent_keeps {s : State} (i : ElemInfo) (k : RequestKind) (e : Element) (a : Admission)
    (hroom : s.wq.records.length < 16) : Keeps s (s.admitExtent i k e a) := by
  simp only [State.admitExtent]
  split
  · exact .trans (State.enqueue_keeps hroom rfl fun _ _ h => by simp [newRequest] at h) (State.admittedFetch_keeps _ i)
  · obtain ⟨hkeeps, hlt⟩ := s.relyOn_keeps i.chain k a.first a.count (budgetOf e.budget)
    refine .trans hkeeps (.trans (State.enqueue_keeps ?_ rfl fun hfresh j hj => ?_) (State.admittedFetch_keeps _ i))
    · rwa [State.relyOn_length]
    · exact Option.some.inj hj ▸ hlt hfresh

theorem State.completeFull_keeps (s : State) (i : ElemInfo) (a : Admission) : Keeps s (s.completeFull i a) :=
  .trans (s.complete_keeps _) (State.admittedFetch_keeps _ i)

theorem State.admitDisk_keeps {s : State} (i : ElemInfo) (k : RequestKind) (e : Element)
    (hroom : s.wq.records.length < 16) : Keeps s (s.admitDisk i k e) := by
  simp only [State.admitDisk]
  split
  · exact State.admitDirect_keeps i k e hroom
  split
  · exact s.completePlain_keeps _ _ _ _
  split
  · exact .trans (s.onDescriptor_keeps _ _ _) (State.completeFull_keeps _ _ _)
  · exact .trans (s.onDescriptor_keeps _ _ _) (State.admitExtent_keeps _ _ _ _ hroom)

theorem State.holdBack_keeps (s : State) (i : ElemInfo) (e : Element) : Keeps s (s.holdBack i e) :=
  .trans (s.onChain_keeps _ _) (State.setReason_keeps _ _ _)

theorem State.routeDisk_keeps (k : RequestKind) (e : Element) (i : ElemInfo) (s : State) :
    Keeps s (State.routeDisk k e i s) := by
  simp only [State.routeDisk]
  split
  · exact s.completePlain_keeps _ _ _ _
  split
  · exact s.holdBack_keeps _ _
  case isFalse hfew => exact State.admitDisk_keeps _ _ _ (Nat.lt_of_not_le hfew)

theorem State.resumeHeld_keeps (s : State) (n : Fin 4) : Keeps s (s.resumeHeld n) := by
  simp only [State.resumeHeld]
  split
  · exact .refl s
  split
  · exact .refl s
  case isFalse hfew =>
    split
    · exact .trans (s.onChain_keeps n _) (.trans (State.clearReason_keeps _ n _)
        (State.admitDisk_keeps _ _ _ (by simpa using hfew)))
    · exact .trans (s.onChain_keeps n _) (State.clearReason_keeps _ n _)

theorem State.resumeAll_keeps (s : State) : Keeps s s.resumeAll := Keeps.foldl State.resumeHeld_keeps _ s

theorem State.routeHold_keeps (m : Mode) (e : Element) (i : ElemInfo) (s : State) : Keeps s (State.routeHold m e i s) := by
  simp only [State.routeHold]
  split
  · exact s.completePlain_keeps _ _ _ _
  split
  · exact .trans (s.onDescriptor_keeps _ _ _) (State.makeEntry_keeps rfl)
  · exact .trans (s.onDescriptor_keeps _ _ _) (.trans (State.makeEntry_keeps rfl) (State.setReason_keeps _ _ _))

theorem State.routeUnhold_keeps (e : Element) (i : ElemInfo) (s : State) : Keeps s (State.routeUnhold e i s) := by
  simp only [State.routeUnhold]
  split
  · exact s.completePlain_keeps _ _ _ _
  split
  · exact .trans (s.onDescriptor_keeps _ _ _) (State.completePlain_keeps _ _ _ _ _)
  split
  · exact .trans (s.onDescriptor_keeps _ _ _) (.trans (State.removeEntry_keeps _ _) (State.complete_keeps _ _))
  · exact .trans (s.onDescriptor_keeps _ _ _) (.trans (State.onEntry_keeps _ _) (State.setReason_keeps _ _ _))

theorem State.answerInspect_keeps (s : State) (i : ElemInfo) (e : Element) (image : List Word) (changed : Bool)
    (place : Option (Table × Nat)) : Keeps s (s.answerInspect i e image changed place) :=
  .trans (s.askTransfer_keeps _) (State.complete_keeps _ _)

theorem State.inspectDescriptor_keeps (e : Element) (i : ElemInfo) (s : State) :
    Keeps s (State.inspectDescriptor e i s) := by
  simp only [State.inspectDescriptor]
  split
  · exact s.completePlain_keeps _ _ _ _
  · exact .trans (s.onDescriptor_keeps _ _ _) (State.answerInspect_keeps _ _ _ _ _ _)

theorem State.inspectLine_keeps (e : Element) (i : ElemInfo) (s : State) : Keeps s (State.inspectLine e i s) := by
  have hcleared : Keeps s (s.onLu fun l => { l with collisionCount := 0, armed := true }) :=
    State.onLu_keeps fun ⟨hframes, hexchange, _⟩ => ⟨hframes, hexchange, Nat.zero_le _⟩
  simp only [State.inspectLine]
  split
  · exact .trans hcleared (State.answerInspect_keeps _ _ _ _ _ _)
  · exact s.answerInspect_keeps _ _ _ _ _

theorem State.inspectPosition_keeps (e : Element) (i : ElemInfo) (s : State) :
    Keeps s (State.inspectPosition e i s) := by
  simp only [State.inspectPosition]
  split
  · exact .trans s.onTm_same_keeps (State.answerInspect_keeps _ _ _ _ _ _)
  · exact s.answerInspect_keeps _ _ _ _ _

theorem State.routeClock_keeps (e : Element) (i : ElemInfo) (s : State) : Keeps s (State.routeClock e i s) := by
  grind only [State.routeClock, State.onHp_keeps, State.completePlain_keeps, Keeps.trans]

theorem State.waitMaintenance_keeps (n : Fin 4) (s : State) (m : Fin 4) : Keeps s (State.waitMaintenance n s m) := by
  grind only [State.waitMaintenance, State.withdrawFetch_keeps, State.onChain_keeps, Keeps.refl, Keeps.trans]

theorem State.enterMaintenance_keeps (s : State) (n : Fin 4) : Keeps s (s.enterMaintenance n) :=
  .trans (s.onHp_keeps _) (Keeps.foldl (State.waitMaintenance_keeps n) _ _)

theorem State.routeMaintainOn_keeps (i : ElemInfo) (s : State) : Keeps s (State.routeMaintainOn i s) := by
  grind only [State.routeMaintainOn, State.completePlain_keeps, State.enterMaintenance_keeps, Keeps.trans]

theorem State.routeMaintainOff_keeps (i : ElemInfo) (s : State) : Keeps s (State.routeMaintainOff i s) := by
  grind only [State.routeMaintainOff, State.completePlain_keeps, State.leaveMaintenance_keeps, Keeps.trans]

theorem State.takeUnexamined_keeps (s : State) (i : ElemInfo) : Keeps s (s.takeUnexamined i) := by
  grind only [State.takeUnexamined, State.completeOnlyF_keeps, State.completePlain_keeps]

theorem State.takeIllegal_keeps (s : State) (i : ElemInfo) : Keeps s (s.takeIllegal i) := by
  grind only [State.takeIllegal, State.completeOnlyF_keeps, State.completePlain_keeps]

theorem State.takeElement_keeps (s : State) (k : ElementKind) (e : Element) {run : ElemInfo → State → State}
    (hrun : ∀ i t, Keeps t (run i t)) : Keeps s (s.begin.takeElement k e run) := by
  refine .trans s.begin_keeps ?_
  simp only [State.takeElement]
  split
  next n _ =>
    have hfetched : Keeps s.begin (s.begin.endTransfer.onChain n fun c =>
        { c with inFlight := c.inFlight + 1, next := c.next + 16 }) :=
      .trans (State.endTransfer_keeps _) (State.onChain_keeps _ _ _)
    refine hfetched.trans ?_
    split
    · exact State.takeUnexamined_keeps _ _
    split
    · exact State.takeIllegal_keeps _ _
    split
    · exact State.completePlain_keeps _ _ _ _ _
    · exact hrun _ _
  next => exact .refl _

/-! The Line Unit (Section 6). -/

theorem chosenAt_mem {ok : Frame → Bool} {l : List Frame} {i : Nat} {f : Frame} (h : chosenAt ok l = some (i, f)) :
    f ∈ l := by
  induction l generalizing i with
  | nil => simp [chosenAt] at h
  | cons g rest ih =>
    simp only [chosenAt] at h
    split at h
    · split at h <;> simp_all
    · split at h
      · simp_all
      · simp only [Option.some.injEq, Prod.mk.injEq] at h
        obtain ⟨-, rfl⟩ := h
        exact List.mem_cons_of_mem _ (ih (by assumption))

theorem State.chosen_mem {s : State} {i : Nat} {f : Frame} (h : s.chosen = some (i, f)) : f ∈ s.lu.frames := chosenAt_mem h

theorem State.startRequest_keeps (s : State) (r : Request) : Keeps s (s.startRequest r) := by
  simp only [State.startRequest]
  split
  · exact .refl s
  split
  · exact .trans (s.onRequest_keeps _) (State.onDescriptor_keeps _ _ _ _)
  · exact s.onRequest_keeps _

theorem State.reserveBuffer_keeps (s : State) (r : Request) : Keeps s (s.reserveBuffer r) := by
  grind only [State.reserveBuffer, State.setBuf_keeps, Keeps.refl]

theorem State.orderBegins_keeps (s : State) : Keeps s s.orderBegins := by
  grind only [State.orderBegins, State.startRequest_keeps, State.reserveBuffer_keeps, State.setPhase_keeps, Keeps.refl,
    Keeps.trans]

theorem State.frameStarted_keeps (s : State) (b : FrameBody) : Keeps s (s.frameStarted b) := by
  cases b with
  | read | write => exact s.orderBegins_keeps
  | preempt => exact State.onTm_same_keeps s (f := fun t => { t with preemptMark := t.peer.isSome })
  | claim => exact s.onEntry_keeps _
  | _ => exact .refl s

theorem State.emitData_keeps (s : State) (b : FrameBody) : Keeps s (s.emitData b) := by
  simp only [State.emitData]
  split
  · exact s.emit_keeps _
  · exact .refl s

theorem State.openExchange_countsInRange (s : State) {f : Frame} (h : f.CountsInRange) :
    (s.openExchange f).frame.CountsInRange := ⟨Nat.zero_le _, h.2⟩

theorem State.startFrame_keeps {s : State} (i : Nat) {f : Frame} (hf : f ∈ s.lu.frames) : Keeps s (s.startFrame i f) := by
  have hopened : Keeps s (s.onLu fun l => { l with
      frames := l.frames.eraseIdx i
      backoff := 0
      failedHeard := false
      exchange := if f.body.sentWhole then none else some (s.openExchange f) }) := by
    refine State.onLu_keeps fun ⟨hframes, _, hcount⟩ =>
      ⟨fun g hg => hframes g (List.mem_of_mem_eraseIdx hg), fun x hx => ?_, hcount⟩
    simp only [State.onLu_lu] at hx
    split at hx
    · simp at hx
    · exact Option.some.inj hx ▸ s.openExchange_countsInRange (hframes f hf)
  exact hopened.trans (.trans (State.emit_keeps _ _) (.trans (State.emitData_keeps _ _) (State.frameStarted_keeps _ _)))

theorem State.startChosen_keeps (s : State) : Keeps s s.startChosen := by
  rcases s.startChosen_cases with ⟨heq, _⟩ | ⟨i, f, hchosen, heq⟩ <;> rw [heq]
  · exact .refl s
  · exact State.startFrame_keeps i (State.chosen_mem hchosen)

theorem State.noticeUnanswered_keeps (s : State) (b : FrameBody) : Keeps s (s.noticeUnanswered b) := by
  cases b with
  | tenure c => exact .trans s.peerAbsent_keeps (State.tenureSettled_keeps _ c)
  | claim id => exact .trans s.peerAbsent_keeps (State.silentEntry_keeps _ id)
  | _ => exact s.peerAbsent_keeps

theorem State.noticeSilence_keeps (s : State) (f : Frame) : Keeps s (s.noticeSilence f) := by
  rcases s.noticeSilence_cases f with ⟨_, _, heq⟩ | ⟨_, heq⟩ <;> rw [heq]
  · have hagain : Keeps s (s.onLu fun l => { l with frames := { f with silences := 1, collisions := 0 } :: l.frames }) := by
      refine State.onLu_keeps fun ⟨hframes, hexchange, hcount⟩ => ⟨fun g hg => ?_, hexchange, hcount⟩
      rcases List.mem_cons.mp hg with rfl | hg
      · exact ⟨Nat.zero_le _, Nat.le_refl _⟩
      · exact hframes g hg
    exact hagain.trans (State.settleAsk_keeps _ _)
  · exact s.noticeUnanswered_keeps _

theorem State.releaseGone_keeps (s : State) (reset : Bool) : Keeps s (s.releaseGone reset) := by
  grind only [State.releaseGone, State.setOwn_none_keeps, State.beginCourtesy_keeps, Keeps.refl, Keeps.trans]

theorem State.abandonFrame_keeps (s : State) (f : Frame) : Keeps s (s.abandonFrame f) := by
  grind only [State.abandonFrame, State.endRequest_keeps, State.noticeSilence_keeps, State.releaseGone_keeps, Keeps.refl]

theorem State.eraseFrame_keeps (s : State) (i : Nat) :
    Keeps s (s.onLu fun l => { l with frames := l.frames.eraseIdx i }) :=
  State.onLu_keeps fun ⟨hframes, hexchange, hcount⟩ =>
    ⟨fun g hg => hframes g (List.mem_of_mem_eraseIdx hg), hexchange, hcount⟩

theorem State.recordCollision_keeps (s : State) (code : Nat) (backoff : LineUnit → Nat) :
    Keeps s (s.onLu fun l => { l.record code with backoff := backoff l, failedHeard := false }) :=
  State.onLu_keeps fun ⟨hframes, hexchange, _⟩ => ⟨hframes, hexchange, Nat.min_le_left _ _⟩

theorem State.raiseArmed_keeps (s : State) : Keeps s (if s.lu.armed then s.raise .line else s) := by
  split
  · exact s.raise_keeps _
  · exact .refl s

theorem State.raiseArmed_lu (s : State) : (if s.lu.armed then s.raise .line else s).lu = s.lu := by
  split <;> rfl

theorem State.collide_keeps {s : State} (i : Nat) {f : Frame} (hf : f ∈ s.lu.frames) : Keeps s (s.collide i f) := by
  have hrecorded := s.raiseArmed_keeps.trans (State.recordCollision_keeps _ f.body.code fun l =>
    backoffOf l.station (f.collisions + 1))
  simp only [State.collide]
  rw [← s.raiseArmed_lu] at hf
  refine hrecorded.trans ?_
  generalize (if s.lu.armed then s.raise .line else s) = t at hf
  split
  · have hgone := (t.onLu fun l => { l.record f.body.code with
      backoff := backoffOf l.station (f.collisions + 1), failedHeard := false }).eraseFrame_keeps i
    exact hgone.trans (.trans (State.raise_keeps _ _) (State.abandonFrame_keeps _ _))
  case isFalse hfew =>
    refine State.onLu_keeps fun ⟨hframes, hexchange, hcount⟩ => ⟨fun g hg => ?_, hexchange, hcount⟩
    rcases List.mem_or_eq_of_mem_set hg with hg | rfl
    · exact hframes g hg
    · exact ⟨Nat.le_of_lt_succ (Nat.lt_of_not_le hfew), (hframes f hf).2⟩

theorem State.collideChosen_keeps (s : State) (p : Frame → Bool) : Keeps s (s.collideChosen p) := by
  simp only [State.collideChosen]
  split
  · exact .refl s
  next i f hchosen =>
    split
    · exact State.collide_keeps i (State.chosen_mem hchosen)
    · exact .refl s

/-- A silence of the notice whose exchange has been in progress. -/
theorem State.noticeSilent_keeps (s : State) (x : Exchange) : Keeps s (s.noticeSilent x) := by
  grind only [State.noticeSilent, State.endExchange_keeps, State.noticeSilence_keeps, Keeps.trans]

theorem State.exchangeSilent_keeps (s : State) (x : Exchange) : Keeps s (s.exchangeSilent x) := by
  grind only [State.exchangeSilent, State.orderSilent_keeps, State.noticeSilent_keeps, Keeps.refl]

theorem State.closeWindow_keeps (s : State) (elapsed : Nat) : Keeps s (s.closeWindow elapsed) := by
  simp only [State.closeWindow]
  split
  next x hx =>
    split
    · exact s.exchangeSilent_keeps x
    split
    · exact State.onLu_keeps fun ⟨hframes, hexchange, hcount⟩ =>
        ⟨hframes, fun y hy => Option.some.inj hy ▸ hexchange x hx, hcount⟩
    · exact .refl s
  next =>
    split
    · exact .refl s
    split
    · exact State.onLu_keeps id
    split
    · exact State.onLu_keeps id
    · exact .refl s

/-! Frames heard. -/

theorem State.failedFrame_keeps (s : State) : Keeps s s.failedFrame := State.onLu_keeps id

theorem State.peerBegins_keeps (s : State) : Keeps s s.peerBegins := State.onLu_keeps id

theorem State.peerStands_keeps (s : State) (o : Option PeerOrder) : Keeps s (s.peerStands o) := State.onLu_keeps id

theorem State.peerHeard_keeps (s : State) : Keeps s s.peerHeard := by
  grind only [State.peerHeard, State.peerPresent_keeps, Keeps.refl]

theorem State.spoilNotice_keeps (s : State) : Keeps s s.spoilNotice := by
  grind only [State.spoilNotice, State.noticeSilent_keeps, State.endExchange_keeps, Keeps.refl]

theorem State.peerNotice_keeps (s : State) (takesAnswer : Bool) {act : State → State} (h : ∀ t, Keeps t (act t)) :
    Keeps s (s.peerNotice takesAnswer act) := by
  grind only [State.peerNotice, State.peerBegins_keeps, State.peerHeard_keeps, State.spoilNotice_keeps,
    State.peerStands_keeps, Keeps.trans]

theorem State.answer_keeps (s : State) (a : AdapterAnswer) : Keeps s (s.answer a) := s.emit_keeps _

theorem State.peerAnswer_keeps (s : State) (fits : FrameBody → Bool) {act : FrameBody → State → State}
    (h : ∀ b t, Keeps t (act b t)) : Keeps s (s.peerAnswer fits act) := by
  grind only [State.peerAnswer, State.peerHeard_keeps, State.endExchange_keeps, State.noticeSilent_keeps, Keeps.trans]

theorem State.peerExchangeOver_keeps (s : State) : Keeps s (s.onLu fun l => { l with peerExchange := none }) :=
  State.onLu_keeps id

theorem State.driveAnswer_keeps (s : State) (fits : FrameBody → Bool) (fitsPeer : PeerOrder → Bool)
    {own : Exchange → State → State} {peer : State → State} (hown : ∀ x t, Keeps t (own x t))
    (hpeer : ∀ t, Keeps t (peer t)) : Keeps s (s.driveAnswer fits fitsPeer own peer) := by
  have hover := s.peerExchangeOver_keeps
  grind only [State.driveAnswer, State.endExchange_keeps, State.driveHeard_keeps, State.orderSilent_keeps, Keeps.refl,
    Keeps.trans]

theorem State.earlyAnswer_keeps (s : State) (fits : FrameBody → Bool) (fitsPeer : PeerOrder → Bool)
    {own : Exchange → State → State} {peer : State → State} (hown : ∀ x t, Keeps t (own x t))
    (hpeer : ∀ t, Keeps t (peer t)) : Keeps s (s.earlyAnswer fits fitsPeer own peer) := by
  rcases s.earlyAnswer_cases fits fitsPeer own peer with ⟨heq, _⟩ | ⟨heq, _⟩ <;> rw [heq]
  · exact .refl s
  · exact s.driveAnswer_keeps fits fitsPeer hown hpeer

theorem State.strayFrame_keeps (s : State) (frame : List Word) : Keeps s (s.strayFrame frame) := by
  simp only [State.strayFrame]
  split
  · exact s.driveAnswer_keeps _ _ (fun _ t => .refl t) .refl
  · grind only [State.peerAnswer_keeps, Keeps.refl]

/-! Rotation and time (Section 1.2, Section 9). -/

theorem State.expire_keeps (s : State) (waited : Bool) (id : Nat) : Keeps s (s.expire waited id) := by
  have hlate : Keeps s (s.onRequest id fun x => { x with late := true }) := s.onRequest_keeps id
  grind only [State.expire, State.leaveQueue_keeps, State.completeRequest_keeps, State.idleEngine_keeps, Keeps.refl,
    Keeps.trans]

theorem State.engineSlot_keeps (s : State) : Keeps s s.engineSlot := by
  grind only [State.engineSlot, State.slip_keeps, State.onTe_keeps, State.seekTimedOut_keeps, State.offerSeek_keeps,
    State.reposition_keeps, State.offerSense_keeps, Keeps.refl, Keeps.trans]

theorem State.leadSlotBegins_keeps (s : State) : Keeps s s.leadSlotBegins := by
  grind only [State.leadSlotBegins, State.onTe_keeps, State.tryOrder_keeps, Keeps.refl, Keeps.trans]

theorem State.orderBeforeExpiry_keeps (s : State) (line : LineTime) : Keeps s (s.orderBeforeExpiry line) := by
  simp only [State.orderBeforeExpiry]
  split
  · exact .refl s
  split
  · exact .refl s
  refine .trans s.leadSlotBegins_keeps ?_
  split
  · exact .refl _
  next i f hchosen =>
    split
    · exact State.startFrame_keeps i (State.chosen_mem hchosen)
    · exact .refl _

theorem State.queueSlot_keeps (s : State) : Keeps s s.queueSlot :=
  .trans s.countBudgets_keeps (.trans (Keeps.foldl (fun t (r : Request) => t.expire_keeps _ r.id) _ _)
    (.trans (State.formSlacks_keeps _) (.trans (State.review_keeps _) (State.select_keeps _))))

theorem State.markSlot_keeps (s : State) (b : Bool) : Keeps s (s.onRdm fun m => { m with slotSynthetic := b }) :=
  State.onRdm_keeps id

theorem State.slotEvent_keeps (s : State) (synthetic : Bool) (orderFirst : Option LineTime) :
    Keeps s (s.slotEvent synthetic orderFirst) := by
  simp only [State.slotEvent]
  have hbegun : Keeps s ((s.onHp fun h => { h with tod := h.tod.pass }).onRdm fun m =>
      { m with slotSynthetic := synthetic }).engineSlot :=
    .trans (s.onHp_keeps _) (.trans (State.markSlot_keeps _ synthetic) (State.engineSlot_keeps _))
  refine hbegun.trans ?_
  generalize ((s.onHp fun h => { h with tod := h.tod.pass }).onRdm fun m =>
      { m with slotSynthetic := synthetic }).engineSlot = t
  have hordered : Keeps t (match orderFirst with
      | none => t
      | some line => t.orderBeforeExpiry line) := by
    cases orderFirst with
    | none => exact .refl t
    | some line => exact t.orderBeforeExpiry_keeps line
  exact .trans hordered (.trans (State.queueSlot_keeps _) (.trans (State.holdSlot_keeps _)
    (.trans (State.leadSlotBegins_keeps _) (.trans (State.idleTenureTest_keeps _) (.trans (State.offerRelease_keeps _)
      (State.preemptSlot_keeps _))))))

theorem State.ownRevolution_keeps (s : State) : Keeps s s.ownRevolution := by
  simp only [State.ownRevolution]
  split
  next c n hown =>
    split
    · exact .trans (State.setOwn_keeps fun h => by simp [hown] at h) (State.endTenure_keeps _)
    · exact State.setOwn_keeps fun h => by simp [hown] at h
  next c n hown => exact State.setOwn_keeps fun h => by simp [hown] at h
  next => exact .refl s

theorem State.peerRevolution_keeps (s : State) : Keeps s s.peerRevolution := by
  simp only [State.peerRevolution]
  split
  · exact .refl s
  next p hpeer =>
    split
    · have hcounted : Keeps s (s.onTm fun t => { t with peer := some { p with revolutions := p.revolutions - 1 } }) :=
        State.onTm_keeps fun hlaw _ => hlaw (by simp [hpeer])
      exact hcounted.trans (State.review_keeps _)
    · exact s.peerGone_keeps

theorem Monitor.recover_inRange {m : Monitor} (h : MonitorInRange m) : MonitorInRange m.recover := by
  obtain ⟨hcounter, hsynth, hrev, hsilence, hrecovery, hdown, hup⟩ := h
  simp only [Monitor.recover]
  repeat' split
  · exact ⟨hcounter, hsynth, hrev, hsilence, Nat.zero_le _, by simp [Monitor.enterResync], by simp [Monitor.enterResync]⟩
  · exact ⟨hcounter, hsynth, hrev, hsilence, by simp only [Config.recoveryLimit] at *; omega, hdown, hup⟩
  · exact ⟨hcounter, hsynth, hrev, hsilence, Nat.zero_le _, hdown, hup⟩
  · exact ⟨hcounter, hsynth, hrev, hsilence, hrecovery, hdown, hup⟩

theorem State.revolutionEvent_keeps (s : State) : Keeps s s.revolutionEvent :=
  .trans s.ownRevolution_keeps (.trans (State.peerRevolution_keeps _) (.trans (State.endCourtesy_keeps _)
    (.trans (State.holdRevolution_keeps _) (State.onRdm_keeps Monitor.recover_inRange))))

theorem Monitor.pulse_inRange {m : Monitor} (h : MonitorInRange m) : MonitorInRange m.pulse := by
  obtain ⟨hcounter, _, hrest⟩ := h
  exact ⟨hcounter, Nat.zero_le _, hrest⟩

theorem Monitor.index_inRange {m : Monitor} (h : MonitorInRange m) : MonitorInRange m.index := by
  obtain ⟨hcounter, hsynth, hrev, hsilence, hrecovery, hdown, hup⟩ := h
  simp only [Monitor.index]
  split
  · exact ⟨hcounter, hsynth, hrev, hsilence, hrecovery, hdown, hup⟩
  case isFalse hdrive =>
    exact ⟨by simp, hsynth, hrev, hsilence, hrecovery, fun h => absurd h hdrive, by simp⟩

theorem Monitor.clearRevCount_inRange {m : Monitor} (h : MonitorInRange m) : MonitorInRange { m with revCount := 0 } := by
  obtain ⟨hcounter, hsynth, _, hrest⟩ := h
  exact ⟨hcounter, hsynth, Nat.zero_le _, hrest⟩

theorem nextSlot_le (c : Nat) : nextSlot c ≤ 19 := by simp only [nextSlot]; omega

theorem Monitor.advance_inRange {m : Monitor} (h : MonitorInRange m) : MonitorInRange m.advance := by
  obtain ⟨hcounter, hsynth, hrev, hsilence, hrecovery, hdown, hup⟩ := h
  simp only [Monitor.advance]
  split
  · exact ⟨hcounter, hsynth, hrev, hsilence, hrecovery, hdown, hup⟩
  case isFalse hdrive =>
    refine ⟨fun c hc => ?_, hsynth, hrev, hsilence, hrecovery, fun h => absurd h hdrive, fun h => ?_⟩
    · obtain ⟨d, _, rfl⟩ := Option.mem_map.mp hc
      exact nextSlot_le d
    · simpa using hup h

theorem Monitor.countSlot_inRange {m : Monitor} (h : MonitorInRange m) : MonitorInRange m.countSlot := by
  obtain ⟨hcounter, hsynth, _, hrest⟩ := h
  refine ⟨hcounter, hsynth, ?_, hrest⟩
  simp only [Monitor.countSlot, Config.slots]
  split <;> omega

theorem Monitor.synthetic_inRange {m : Monitor} (h : MonitorInRange m) : MonitorInRange m.synthetic := by
  obtain ⟨hcounter, _, hrest⟩ := Monitor.countSlot_inRange (Monitor.advance_inRange h)
  exact ⟨hcounter, Nat.min_le_left _ _, hrest⟩

theorem Monitor.driveUp_inRange {m : Monitor} (h : MonitorInRange m) (hcounter : m.counter ≠ none) :
    MonitorInRange { m with drive := .up, resync := .awaitingIndex } := by
  obtain ⟨hle, hsynth, hrev, hsilence, hrecovery, _, _⟩ := h
  exact ⟨hle, hsynth, hrev, hsilence, hrecovery, by simp, fun _ => hcounter⟩

theorem State.driveUp_keeps {s : State} (h : s.rdm.counter ≠ none) : Keeps s s.driveUp :=
  .trans (State.onRdm_keeps fun hlaw => Monitor.driveUp_inRange hlaw h) (.trans (State.onEc_keeps _ _)
    (.trans (State.raise_keeps _ _) (State.raise_keeps _ _)))

theorem State.indexRead_keeps (s : State) : Keeps s (s.onRdm fun m => { m.pulse.index with revCount := 0 }) :=
  State.onRdm_keeps fun h => Monitor.clearRevCount_inRange (Monitor.index_inRange (Monitor.pulse_inRange h))

theorem State.lateIndex_keeps (s : State) : Keeps s s.lateIndex := by
  have hread := s.indexRead_keeps
  grind only [State.lateIndex, State.revolutionEvent_keeps, Keeps.trans]

theorem Monitor.counter_of_completes {m : Monitor} (h : m.completes = true) : m.pulse.index.counter = some 0 := by
  simp only [Monitor.completes, Bool.and_eq_true, beq_iff_eq] at h
  simp [Monitor.index, Monitor.pulse, h.1.1]

theorem State.timelyIndex_keeps (s : State) (orderFirst : Option LineTime) : Keeps s (s.timelyIndex orderFirst) := by
  simp only [State.timelyIndex]
  refine .trans ?_ (.trans (State.slotEvent_keeps _ false orderFirst) (State.revolutionEvent_keeps _))
  split
  case isTrue hup =>
    exact .trans s.indexRead_keeps (State.driveUp_keeps (by simp [Monitor.counter_of_completes hup]))
  case isFalse => exact s.indexRead_keeps

theorem State.timelySector_keeps (s : State) (orderFirst : Option LineTime) : Keeps s (s.timelySector orderFirst) := by
  have hcounted : Keeps s (s.onRdm fun m => m.pulse.advance.countSlot) :=
    State.onRdm_keeps fun h => Monitor.countSlot_inRange (Monitor.advance_inRange (Monitor.pulse_inRange h))
  grind only [State.timelySector, State.slotEvent_keeps, State.revolutionEvent_keeps, Keeps.trans]

theorem State.syntheticSlot_keeps (s : State) (orderFirst : Option LineTime) : Keeps s (s.syntheticSlot orderFirst) := by
  have hcounted : Keeps s (s.onRdm Monitor.synthetic) := State.onRdm_keeps Monitor.synthetic_inRange
  grind only [State.syntheticSlot, State.driveDown_keeps, State.slotEvent_keeps, State.revolutionEvent_keeps, Keeps.trans]

/-- The monitor's timers change alone. -/
theorem State.onTimers_keeps (s : State) {f : Monitor → Monitor}
    (hf : MonitorInRange s.rdm → MonitorInRange (f s.rdm) := by exact id) : Keeps s (s.onRdm f) := State.onRdm_keeps hf

theorem Monitor.lateQuantum_inRange {m : Monitor} (h : MonitorInRange m) : MonitorInRange m.lateQuantum := by
  simp only [Monitor.lateQuantum]
  split <;> exact h

theorem State.quantum_keeps (s : State) : Keeps s s.quantum := by
  simp only [State.quantum]
  have hpassed : Keeps s ((s.onHp fun h => { h with tod := h.tod.quantum }).onRdm Monitor.lateQuantum) :=
    .trans (s.onHp_keeps _) (State.onRdm_keeps Monitor.lateQuantum_inRange)
  refine hpassed.trans ?_
  split
  · exact .trans (State.syntheticSlot_keeps _ none) (State.onTimers_keeps _)
  · exact State.onTimers_keeps _

end Sys2Proof.Machine
end

section
/-! The laws kept by every command and by every step (O56 to O59). -/

namespace Sys2Proof.Machine

open Sys2Proof

/-- A command's outcome is a state that the laws hold of where they hold of `s`. -/
def OutcomeKeeps (s : State) (o : Host.Outcome State Fault Refusal) : Prop := ∀ t, o = .next t → Keeps s t

theorem Keeps.outcome {s t : State} (h : Keeps s t) : OutcomeKeeps s (.next t) := by
  rintro u ⟨⟩
  exact h

/-! Resets, device words, ACTIONs and setup. -/

theorem Monitor.reset_inRange (ready onCylinder : Bool) : MonitorInRange (.reset ready onCylinder) := by
  cases ready <;> simp [Monitor.reset, MonitorInRange]

theorem State.powerUp_keeps (s : State) (strap ready : Bool) : Keeps s (.powerUp strap ready s.pending) where
  tenure _ h := by simp [State.powerUp, TenureManager.reset] at h
  bounded _ := Nat.zero_le _
  holds _ := ⟨Nat.zero_le _, List.Pairwise.nil⟩
  line _ := ⟨by simp [State.powerUp, LineUnit.powerUp], by simp [State.powerUp, LineUnit.powerUp], Nat.zero_le _⟩
  monitor _ := Monitor.reset_inRange _ _
  names _ := by simp [NamesFresh, State.powerUp]

theorem State.resetNotices_countsInRange (s : State) : ∀ f ∈ s.resetNotices, f.CountsInRange := by
  intro f hf
  have hnew : ∃ b, f = ⟨b, 0, 0, true⟩ := by
    simp only [State.resetNotices] at hf
    split at hf
    · simp at hf
    rcases List.mem_append.mp hf with hf | hf
    · split at hf
      · exact ⟨_, List.mem_singleton.mp hf⟩
      · simp at hf
    · obtain ⟨e, _, rfl⟩ := List.mem_map.mp hf
      exact ⟨_, rfl⟩
  obtain ⟨b, rfl⟩ := hnew
  exact Frame.countsInRange_new b true

theorem execIoReset_keeps (s : State) (reached : Nat) : OutcomeKeeps s (execIoReset reached s) := by
  refine Keeps.outcome ⟨⟨fun _ h => ?_, fun _ => Nat.zero_le _, fun _ => ⟨Nat.zero_le _, List.Pairwise.nil⟩,
    fun ⟨_, hexchange, _⟩ => ⟨?_, ?_, Nat.zero_le _⟩, fun _ => Monitor.reset_inRange _ _⟩, fun _ => ?_⟩
  · simp [TenureManager.reset] at h
  · exact s.resetNotices_countsInRange
  · intro x hx
    obtain ⟨y, hy, rfl⟩ := Option.mem_map.mp hx
    exact hexchange y hy
  · simp [NamesFresh]

theorem State.refuseAction_keeps (s : State) (c : RefusalCode) (a : Attention) : Keeps s (s.refuseAction c a) :=
  .trans (s.refuse_keeps c) (State.raise_keeps _ a)

theorem execMaskWrite_keeps (s : State) (v : Word) : OutcomeKeeps s (execMaskWrite v s) :=
  Keeps.outcome (.trans s.begin_keeps (State.onHp_keeps _ _))

theorem execAttentionRead_keeps (s : State) : OutcomeKeeps s (execAttentionRead s) :=
  Keeps.outcome (.trans s.begin_keeps (.trans (State.emit_keeps _ _) (State.onHp_keeps _ _)))

theorem State.beginSetup_keeps (s : State) : Keeps s s.beginSetup :=
  .trans (s.onHp_keeps _) (State.askTransfer_keeps _ _)

theorem execSetup_keeps (s : State) (a : Word) : OutcomeKeeps s (execSetup a s) := by
  refine Keeps.outcome (.trans s.begin_keeps ?_)
  split
  · exact State.refuseAction_keeps _ _ _
  · exact State.beginSetup_keeps _

theorem State.startChain_keeps (s : State) (n : Fin 4) (level : Nat) : Keeps s (s.startChain n level) :=
  .trans (s.onChain_keeps n _) (State.callFetch_keeps _ n)

theorem execStartChain_keeps (s : State) (a : Word) : OutcomeKeeps s (execStartChain a s) := by
  refine Keeps.outcome (.trans s.begin_keeps ?_)
  grind only [State.refuseAction_keeps, State.startChain_keeps]

theorem execAbortChain_keeps (s : State) (a : Word) : OutcomeKeeps s (execAbortChain a s) := by
  refine Keeps.outcome (.trans s.begin_keeps ?_)
  grind only [State.refuseAction_keeps, State.stopChain_keeps, State.abortActive_keeps, Keeps.trans]

theorem State.decideSetup_keeps (s : State) (c : RefusalCode) (p : Option (Table × Nat)) : Keeps s (s.decideSetup c p) :=
  .trans (s.refuse_keeps c) (.trans (State.onHp_keeps _ _) (State.askTransfer_keeps _ _))

theorem State.setupTenure_keeps (s : State) : Keeps s s.setupTenure :=
  .trans (s.setPresence_keeps _) (State.endCourtesy_keeps _)

theorem State.offerHello_keeps (s : State) : Keeps s s.offerHello := by
  grind only [State.offerHello, State.offer_keeps, Keeps.refl]

theorem State.acceptSetup_keeps (s : State) (h : SetupHeader) (placed : List ((Table × Nat) × Image)) :
    Keeps s (s.acceptSetup h placed) :=
  .trans (s.onEc_keeps _) (.trans (State.onHp_keeps _ _) (.trans (State.setupTenure_keeps _)
    (.trans (State.offerHello_keeps _) (State.decideSetup_keeps _ _ _))))

theorem State.examineImages_keeps (s : State) (h : SetupHeader) (images : List Image) :
    Keeps s (s.examineImages h images) := by
  grind only [State.examineImages, State.decideSetup_keeps, State.acceptSetup_keeps]

theorem State.examineHeader_keeps (s : State) (h : SetupHeader) : Keeps s (s.examineHeader h) := by
  grind only [State.examineHeader, State.decideSetup_keeps, State.onHp_keeps, State.examineImages_keeps,
    State.askTransfer_keeps, Keeps.trans]

theorem execSetupHeaderRead_keeps (s : State) (h : SetupHeader) : OutcomeKeeps s (execSetupHeaderRead h s) := by
  refine Keeps.outcome (.trans s.begin_keeps ?_)
  grind only [State.endTransfer_keeps, State.examineHeader_keeps, Keeps.refl, Keeps.trans]

theorem execSetupImagesRead_keeps (s : State) (l : List Image) : OutcomeKeeps s (execSetupImagesRead l s) := by
  refine Keeps.outcome (.trans s.begin_keeps ?_)
  grind only [State.endTransfer_keeps, State.examineImages_keeps, Keeps.refl, Keeps.trans]

theorem State.finishSetup_keeps (s : State) (p : SetupProgress) : Keeps s (s.finishSetup p) :=
  .trans s.endTransfer_keeps (.trans (State.emit_keeps _ _) (.trans (State.refuse_keeps _ _)
    (.trans (State.onHp_keeps _ _) (State.raise_keeps _ _))))

theorem execSetupResultWritten_keeps (s : State) : OutcomeKeeps s (execSetupResultWritten s) := by
  refine Keeps.outcome (.trans s.begin_keeps ?_)
  grind only [State.endTransfer_keeps, State.finishSetup_keeps, Keeps.refl]

/-! The DMA engine. -/

theorem State.endImage_keeps (s : State) : Keeps s s.endImage := by
  grind only [State.endImage, State.endTransfer_keeps, State.emit_keeps, Keeps.refl, Keeps.trans]

theorem State.startTransfer_keeps (s : State) : Keeps s s.startTransfer := by
  grind only [State.startTransfer, State.beginTransfer, State.onHp_keeps, State.appendOut_keeps, Keeps.refl, Keeps.trans]

theorem execDmaTransferStart_keeps (s : State) : OutcomeKeeps s (execDmaTransferStart s) :=
  Keeps.outcome (.trans s.begin_keeps (.trans (State.endImage_keeps _) (State.startTransfer_keeps _)))

theorem execCompletionWritten_keeps (s : State) : OutcomeKeeps s (execCompletionWritten s) := by
  refine Keeps.outcome (.trans s.begin_keeps ?_)
  grind only [State.endTransfer_keeps, State.emit_keeps, State.takeCompletion_keeps, Keeps.refl, Keeps.trans]

theorem execBufferLoaded_keeps (s : State) (w : List Word) : OutcomeKeeps s (execBufferLoaded w s) := by
  refine Keeps.outcome (.trans s.begin_keeps ?_)
  grind only [State.endTransfer_keeps, State.setBuf_keeps, State.loadAhead_keeps, State.tryOrder_keeps, Keeps.refl,
    Keeps.trans]

theorem execBufferUnloaded_keeps (s : State) : OutcomeKeeps s (execBufferUnloaded s) := by
  refine Keeps.outcome (.trans s.begin_keeps ?_)
  split
  · exact .trans (State.endTransfer_keeps _) (.trans (State.emit_keeps _ _) (.trans (State.setBuf_keeps _ _ _)
      (.trans (State.askHeldBack_keeps _ _) (.trans (State.loadAhead_keeps _) (State.tryOrder_keeps _)))))
  · exact .refl _

/-! Elements. -/

theorem begin_takeElement_keeps (s : State) (k : ElementKind) (e : Element) {run : ElemInfo → State → State}
    (hrun : ∀ i t, Keeps t (run i t)) : OutcomeKeeps s (.next (s.begin.takeElement k e run)) :=
  Keeps.outcome (s.takeElement_keeps k e hrun)

theorem State.routeSelect_keeps (e : Element) (i : ElemInfo) (s : State) : Keeps s (State.routeSelect e i s) :=
  s.complete_keeps _

/-! Rotation and thresholds. -/

theorem State.pulseExchanges_keeps (s : State) (sending : Bool) : Keeps s (s.onLu fun l => l.pulse sending) := by
  refine State.onLu_keeps fun ⟨hframes, hexchange, hcount⟩ => ⟨hframes, fun x hx => ?_, hcount⟩
  obtain ⟨y, hy, rfl⟩ := Option.mem_map.mp hx
  exact hexchange y hy

theorem execIndexPulse_keeps (s : State) (p : Pulse) : OutcomeKeeps s (execIndexPulse p s) := by
  refine Keeps.outcome (.trans s.begin_keeps (.trans (State.pulseExchanges_keeps _ p.sending) ?_))
  split
  · exact State.lateIndex_keeps _
  · exact State.timelyIndex_keeps _ _

theorem execSectorPulse_keeps (s : State) (p : Pulse) : OutcomeKeeps s (execSectorPulse p s) := by
  refine Keeps.outcome (.trans s.begin_keeps (.trans (State.pulseExchanges_keeps _ p.sending) ?_))
  split
  · exact State.onRdm_keeps Monitor.pulse_inRange
  · exact State.timelySector_keeps _ _

theorem execSyntheticSlot_keeps (s : State) (o : Option LineTime) : OutcomeKeeps s (execSyntheticSlot o s) :=
  Keeps.outcome (.trans s.begin_keeps (State.syntheticSlot_keeps _ o))

theorem execLateWindowClose_keeps (s : State) : OutcomeKeeps s (execLateWindowClose s) :=
  Keeps.outcome (.trans s.begin_keeps (State.onRdm_keeps id))

theorem execSpindleLoss_keeps (s : State) : OutcomeKeeps s (execSpindleLoss s) := by
  refine Keeps.outcome (.trans s.begin_keeps ?_)
  have hcount : Keeps s.begin (s.begin.onRdm fun m => { m with synthRun := Config.spindleLimit }) :=
    State.onRdm_keeps fun ⟨hcounter, _, hrest⟩ => ⟨hcounter, Nat.le_refl _, hrest⟩
  split
  · exact hcount.trans (State.following_keeps (State.driveDown_keeps _))
  · exact .refl _

theorem execReadyFall_keeps (s : State) : OutcomeKeeps s (execReadyFall s) := by
  have hfell : Keeps s.begin (s.begin.onRdm fun m => { m with ready := false, recovery := 0 }) :=
    State.onRdm_keeps fun ⟨hcounter, hsynth, hrev, hsilence, _, hrest⟩ =>
      ⟨hcounter, hsynth, hrev, hsilence, Nat.zero_le _, hrest⟩
  exact Keeps.outcome (.trans s.begin_keeps (hfell.trans (State.following_keeps (State.driveDown_keeps _))))

theorem Monitor.enterResync_inRange {m : Monitor} (h : MonitorInRange m) : MonitorInRange m.enterResync := by
  obtain ⟨hcounter, hsynth, hrev, hsilence, _, _, _⟩ := h
  exact ⟨hcounter, hsynth, hrev, hsilence, Nat.zero_le _, by simp [Monitor.enterResync], by simp [Monitor.enterResync]⟩

theorem execReadyRise_keeps (s : State) : OutcomeKeeps s (execReadyRise s) := by
  refine Keeps.outcome (.trans s.begin_keeps (State.onRdm_keeps fun h => ?_))
  simp only
  split
  · exact Monitor.enterResync_inRange (m := { s.rdm with ready := true }) h
  · exact h

theorem State.cylinderFalls_keeps (s : State) (peerSeek : Bool) : Keeps s (s.cylinderFalls peerSeek) := by
  have hfell : Keeps s (s.onLu fun l => { l with peerSeekFell := true }) := State.onLu_keeps id
  grind only [State.cylinderFalls, State.setMoving_keeps, State.setPositioner_keeps, Keeps.trans]

theorem execOnCylinderFall_keeps (s : State) (p : Bool) : OutcomeKeeps s (execOnCylinderFall p s) :=
  Keeps.outcome (.trans s.begin_keeps (.trans (State.onTimers_keeps _) (.trans (State.cylinderFalls_keeps _ p)
    (State.mapExchange_keeps _ fun _ => rfl))))

theorem execOnCylinderRise_keeps (s : State) : OutcomeKeeps s (execOnCylinderRise s) := by
  refine Keeps.outcome (.trans s.begin_keeps ?_)
  have hrose : Keeps s.begin ((s.begin.onRdm fun m => { m with onCylinder := true }).setMoving false) :=
    .trans (State.onTimers_keeps _) (State.setMoving_keeps _ false)
  refine hrose.trans ?_
  grind only [State.settled, State.reposition_keeps, Keeps.refl]

theorem State.lastSlot_keeps (s : State) (r : Request) : Keeps s (s.lastSlot r) :=
  .trans (s.onRequest_keeps r.id) (State.following_keeps (State.expire_keeps _ _ _))

theorem execRequestExpiry_keeps (s : State) (i : Nat) : OutcomeKeeps s (execRequestExpiry i s) := by
  refine Keeps.outcome (.trans s.begin_keeps ?_)
  split
  · exact .refl _
  · exact State.lastSlot_keeps _ _

theorem execHoldWaitExpiry_keeps (s : State) (i : Nat) : OutcomeKeeps s (execHoldWaitExpiry i s) := by
  refine Keeps.outcome (.trans s.begin_keeps ?_)
  split
  · exact .refl _
  · exact State.lastSlot_keeps _ _

theorem execHoldBudgetExpiry_keeps (s : State) (i : Nat) : OutcomeKeeps s (execHoldBudgetExpiry i s) := by
  refine Keeps.outcome (.trans s.begin_keeps ?_)
  split
  · exact .refl _
  split
  · exact .trans (State.onEntry_keeps _ _) (State.expireIfDue_keeps _ _)
  · exact .refl _

theorem execSeekTimeout_keeps (s : State) : OutcomeKeeps s (execSeekTimeout s) := by
  refine Keeps.outcome (.trans s.begin_keeps ?_)
  grind only [State.onTe_keeps, State.seekTimedOut_keeps, Keeps.refl, Keeps.trans]

theorem execOwnTenureExpiry_keeps (s : State) : OutcomeKeeps s (execOwnTenureExpiry s) := by
  refine Keeps.outcome (.trans s.begin_keeps ?_)
  split
  · exact State.ownRevolution_keeps _
  · exact .refl _

theorem execPeerTenureExpiry_keeps (s : State) : OutcomeKeeps s (execPeerTenureExpiry s) := by
  refine Keeps.outcome (.trans s.begin_keeps ?_)
  grind only [State.peerGone_keeps, Keeps.refl]

theorem execReclaim_keeps (s : State) (i : Nat) : OutcomeKeeps s (execReclaim i s) := by
  refine Keeps.outcome (.trans s.begin_keeps ?_)
  grind only [State.reclaimEntry_keeps, Keeps.refl]

theorem execRecovery_keeps (s : State) : OutcomeKeeps s (execRecovery s) := by
  refine Keeps.outcome (.trans s.begin_keeps (State.onRdm_keeps fun h => ?_))
  split
  · exact Monitor.recover_inRange h
  · exact h

/-! The line. -/

theorem execExchangeStart_keeps (s : State) (l : LineTime) : OutcomeKeeps s (execExchangeStart l s) := by
  refine Keeps.outcome (.trans s.begin_keeps ?_)
  grind only [State.startChosen_keeps, Keeps.refl]

theorem execCollision_keeps (s : State) (l : LineTime) : OutcomeKeeps s (execCollision l s) := by
  refine Keeps.outcome (.trans s.begin_keeps ?_)
  split
  · exact State.collideChosen_keeps _ _
  · exact .refl _

theorem execFrameAbandoned_keeps (s : State) (l : LineTime) : OutcomeKeeps s (execFrameAbandoned l s) := by
  refine Keeps.outcome (.trans s.begin_keeps ?_)
  split
  · exact State.collideChosen_keeps _ _
  · exact .refl _

theorem execReleaseSent_keeps (s : State) : OutcomeKeeps s (execReleaseSent s) := by
  refine Keeps.outcome (.trans s.begin_keeps ?_)
  grind only [State.endExchange_keeps, State.releaseGone_keeps, Keeps.refl, Keeps.trans]

theorem execDriveSilenceLimit_keeps (s : State) (n : Nat) : OutcomeKeeps s (execDriveSilenceLimit n s) := by
  refine Keeps.outcome (.trans s.begin_keeps ?_)
  grind only [State.orderSilent_keeps, Keeps.refl]

theorem execFrameCheckFailed_keeps (s : State) (f : List Word) : OutcomeKeeps s (execFrameCheckFailed f s) := by
  refine Keeps.outcome (.trans s.begin_keeps ?_)
  grind only [State.strayFrame_keeps, State.failedFrame_keeps, Keeps.refl]

theorem execStationClash_keeps (s : State) (f : List Word) : OutcomeKeeps s (execStationClash f s) := by
  refine Keeps.outcome (.trans s.begin_keeps ?_)
  grind only [State.becomeSilenced_keeps, Keeps.refl]

/-! The drive's answers. -/

theorem State.forOwner_keeps {s : State} (x : Exchange) {k : State → State} (h : ∀ t, Keeps t (k t)) :
    Keeps s (s.forOwner x k) := by
  grind only [State.forOwner, Keeps.refl]

theorem State.forOwner_notDone_keeps {s : State} (x : Exchange) {k : State → State} (h : ∀ t, Keeps t (k t)) :
    Keeps s (s.forOwner x fun t => t.notDone k) :=
  State.forOwner_keeps x fun _ => State.notDone_keeps h

theorem State.seekAccepted_keeps (x : Exchange) (s : State) : Keeps s (State.seekAccepted x s) := by
  have hlost : ∀ t : State, Keeps t (if x.lost then t.setPositioner none false else t) := fun t => by
    split
    · exact t.setPositioner_keeps _ _
    · exact .refl t
  exact .trans (s.setPositioner_keeps _ _) (.trans (hlost _)
    (State.forOwner_notDone_keeps x fun t => State.goOn_keeps t.enterSettle_keeps))

theorem execAccepted_keeps (s : State) : OutcomeKeeps s (execAccepted s) :=
  Keeps.outcome (.trans s.begin_keeps (State.driveAnswer_keeps _ _ _ State.seekAccepted_keeps .refl))

theorem State.ownBusy_keeps (x : Exchange) (s : State) : Keeps s (State.ownBusy x s) :=
  .trans (s.busyRecord_keeps x) (State.forOwner_notDone_keeps x fun _ => State.displace_keeps State.enterSettle_keeps)

theorem execBusy_keeps (s : State) : OutcomeKeeps s (execBusy s) :=
  Keeps.outcome (.trans s.begin_keeps (State.earlyAnswer_keeps _ _ _ State.ownBusy_keeps .refl))

theorem State.ownNotReady_keeps (x : Exchange) (s : State) : Keeps s (State.ownNotReady x s) :=
  .trans (s.seekUnanswered_keeps x) (State.loseDrive_keeps _ _)

theorem execNotReady_keeps (s : State) : OutcomeKeeps s (execNotReady s) :=
  Keeps.outcome (.trans s.begin_keeps
    (State.earlyAnswer_keeps _ _ _ State.ownNotReady_keeps fun t => t.loseDrive_keeps false))

theorem execWritten_keeps (s : State) : OutcomeKeeps s (execWritten s) :=
  Keeps.outcome (.trans s.begin_keeps
    (State.driveAnswer_keeps _ _ _ (fun x _ => State.forOwner_keeps x State.sectorWritten_keeps) .refl))

theorem execWriteFault_keeps (s : State) : OutcomeKeeps s (execWriteFault s) :=
  Keeps.outcome (.trans s.begin_keeps (State.driveAnswer_keeps _ _ _
    (fun x _ => State.forOwner_notDone_keeps x fun t => t.endRequest_keeps _ _ _) .refl))

theorem execMissed_keeps (s : State) : OutcomeKeeps s (execMissed s) :=
  Keeps.outcome (.trans s.begin_keeps (State.earlyAnswer_keeps _ _ _
    (fun x _ => State.forOwner_notDone_keeps x fun t => t.slip_keeps .line) .refl))

theorem State.actualCylinder_keeps (c : Word) (s : State) : Keeps s (State.actualCylinder c s) :=
  s.setPositioner_keeps _ _

theorem execWrongCylinder_keeps (s : State) (c : Word) : OutcomeKeeps s (execWrongCylinder c s) := by
  refine Keeps.outcome (.trans s.begin_keeps ?_)
  split
  · exact State.earlyAnswer_keeps _ _ _ (fun x t => .trans (State.actualCylinder_keeps c t)
      (State.forOwner_notDone_keeps x fun _ => State.displace_keeps State.reposition_keeps)) (State.actualCylinder_keeps c)
  · exact State.failedFrame_keeps _

theorem State.ownData_keeps (w : List Word) (clean : Bool) (s : State) : Keeps s (State.ownData w clean s) := by
  simp only [State.ownData]
  split
  · exact s.dataClean_keeps w
  · exact State.notDone_keeps State.dataCheck_keeps

theorem execData_keeps (s : State) (w : List Word) (status : Word) : OutcomeKeeps s (execData w status s) := by
  refine Keeps.outcome (.trans s.begin_keeps ?_)
  split
  · exact State.driveAnswer_keeps _ _ _ (fun x _ => State.forOwner_keeps x (State.ownData_keeps w _)) .refl
  · exact State.failedFrame_keeps _

theorem State.sensed_keeps (f c : Word) (s : State) : Keeps s (State.sensed f c s) := s.setPositioner_keeps _ _

theorem State.ownSense_keeps (f c : Word) (x : Exchange) (s : State) : Keeps s (State.ownSense f c x s) := by
  simp only [State.ownSense]
  split
  · exact .trans (s.sensed_keeps f c)
      (State.forOwner_notDone_keeps x fun t => State.goOn_keeps t.reposition_keeps)
  · exact s.loseDrive_keeps _

theorem State.peerSense_keeps (f c : Word) (s : State) : Keeps s (State.peerSense f c s) := by
  grind only [State.peerSense, State.sensed_keeps, State.peerNotReady, State.loseDrive_keeps]

theorem execSenseReply_keeps (s : State) (f c : Word) : OutcomeKeeps s (execSenseReply f c s) := by
  refine Keeps.outcome (.trans s.begin_keeps ?_)
  split
  · exact State.driveAnswer_keeps _ _ _ (State.ownSense_keeps f c) (State.peerSense_keeps f c)
  · exact State.failedFrame_keeps _

/-! The peer's frames. -/

theorem State.peerSeekAccepted_keeps (s : State) (c : Nat) : Keeps s (s.peerSeekAccepted c) := by
  have hentered : Keeps s ((s.setPositioner (some c) true).countPeerSeek).driveHeard :=
    .trans (s.setPositioner_keeps _ _) (.trans (State.countPeerSeek_keeps _) (State.driveHeard_keeps _))
  simp only [State.peerSeekAccepted]
  split
  · exact hentered
  · exact hentered.trans (State.following_keeps (State.suspendAfterExchange_keeps _))

theorem State.peerSeekEnds_keeps (s : State) (c : Nat) (a : SeekAnswer) : Keeps s (s.peerSeekEnds c a) := by
  cases a with
  | accepted => exact s.peerSeekAccepted_keeps c
  | busy => exact .trans (s.setMoving_keeps true) (State.driveHeard_keeps _)
  | notReady => exact .trans s.driveHeard_keeps (State.loseDrive_keeps _ _)
  | silent => grind only [State.peerSeekEnds, State.setPositioner_keeps, Keeps.refl]

theorem State.frameHeard_keeps (s : State) : Keeps s s.begin.peerBegins.peerHeard.spoilNotice :=
  .trans s.begin_keeps (.trans (State.peerBegins_keeps _) (.trans (State.peerHeard_keeps _) (State.spoilNotice_keeps _)))

theorem execPeerSeek_keeps (s : State) (c : Word) (a : SeekAnswer) (lost : Bool) :
    OutcomeKeeps s (execPeerSeek c a lost s) := by
  have hloss : ∀ t : State, Keeps t (t.seekAfterLoss lost) := fun t => by
    grind only [State.seekAfterLoss, State.setPositioner_keeps, Keeps.refl]
  refine Keeps.outcome ?_
  split
  · exact .trans s.frameHeard_keeps (.trans (State.peerSeekEnds_keeps _ _ a) (.trans (hloss _) (State.onLu_keeps id)))
  · exact .trans s.begin_keeps (State.failedFrame_keeps _)

theorem execPeerOrderHeard_keeps (s : State) (o : PeerOrder) : OutcomeKeeps s (execPeerOrderHeard o s) :=
  Keeps.outcome (.trans s.frameHeard_keeps (State.peerStands_keeps _ _))

theorem State.peerTenure_keeps {s : State} (c n : Nat) (h : s.tm.own = .none) : Keeps s (s.peerTenure c n) := by
  simp only [State.peerTenure]
  split
  · exact State.peerHolds_keeps _ _ h
  · exact .trans (State.peerHolds_keeps _ _ h) (State.following_keeps (State.suspendAfterExchange_keeps _))

theorem State.hearTenure_keeps (c n : Nat) (s : State) : Keeps s (State.hearTenure c n s) := by
  simp only [State.hearTenure]
  split
  · exact s.answer_keeps _
  · exact s.answer_keeps _
  next hnone => exact .trans (s.answer_keeps _) (State.peerTenure_keeps c n hnone)
  · exact .trans (s.answer_keeps _) (.trans (State.setOwn_none_keeps _) (.trans (State.withdraw_keeps _ _)
      (.trans (State.peerHolds_keeps _ _ rfl) (State.tenureRefused_keeps _))))

theorem begin_peerNotice_keeps (s : State) (takesAnswer : Bool) {act : State → State} (h : ∀ t, Keeps t (act t)) :
    Keeps s (s.begin.peerNotice takesAnswer act) := .trans s.begin_keeps (State.peerNotice_keeps _ _ h)

/-- A frame of the peer whose content may be out of range. -/
theorem checkedFrame_keeps (s : State) (p : Prop) [Decidable p] {t : State} (h : Keeps s t) :
    OutcomeKeeps s (.next (if p then t else s.begin.failedFrame)) := by
  refine Keeps.outcome ?_
  split
  · exact h
  · exact .trans s.begin_keeps (State.failedFrame_keeps _)

theorem execPeerTenureHeard_keeps (s : State) (c n : Word) : OutcomeKeeps s (execPeerTenureHeard c n s) :=
  checkedFrame_keeps s _ (begin_peerNotice_keeps s true (State.hearTenure_keeps c.toNat n.toNat))

theorem State.hearPreempt_keeps (k : Int) (s : State) : Keeps s (State.hearPreempt k s) := by
  grind only [State.hearPreempt, State.answer_keeps, State.endTenure_keeps, State.offerReleaseOnce_keeps,
    State.withdrawAsk_keeps, Keeps.trans]

theorem execPeerPreemptHeard_keeps (s : State) (k : Word) : OutcomeKeeps s (execPeerPreemptHeard k s) :=
  checkedFrame_keeps s _ (begin_peerNotice_keeps s true (State.hearPreempt_keeps k.toInt))

theorem execPeerClaimHeard_keeps (s : State) (b r : Word) : OutcomeKeeps s (execPeerClaimHeard b r s) :=
  checkedFrame_keeps s _ (begin_peerNotice_keeps s true fun t => t.answer_keeps _)

theorem execPeerReleaseHeard_keeps (s : State) : OutcomeKeeps s (execPeerReleaseHeard s) :=
  Keeps.outcome (begin_peerNotice_keeps s false State.peerGone_keeps)

theorem State.hearFree_keeps (start count : Nat) (w : Bool) (s : State) : Keeps s (State.hearFree start count w s) := by
  simp only [State.hearFree]
  split
  · exact .trans (s.reclaimRange_keeps _ _) (.trans (State.onEc_keeps _ _) (State.raise_keeps _ _))
  · exact s.reclaimRange_keeps _ _

theorem execPeerFreeHeard_keeps (s : State) (b r : Word) : OutcomeKeeps s (execPeerFreeHeard b r s) :=
  checkedFrame_keeps s _ (begin_peerNotice_keeps s false (State.hearFree_keeps b.toNat (rangeCount r) (flag r 15)))

theorem State.hearHello_keeps (s : State) : Keeps s s.hearHello := by
  grind only [State.hearHello, State.peerGone_keeps, State.offer_keeps, Keeps.trans]

theorem execPeerHelloHeard_keeps (s : State) : OutcomeKeeps s (execPeerHelloHeard s) :=
  Keeps.outcome (begin_peerNotice_keeps s false State.hearHello_keeps)

theorem begin_peerAnswer_keeps (s : State) (fits : FrameBody → Bool) {act : FrameBody → State → State}
    (h : ∀ b t, Keeps t (act b t)) : Keeps s (s.begin.peerAnswer fits act) :=
  .trans s.begin_keeps (State.peerAnswer_keeps _ _ h)

theorem execClash_keeps (s : State) (n : Word) : OutcomeKeeps s (execClash n s) :=
  checkedFrame_keeps s _ (begin_peerAnswer_keeps s _ fun _ t => t.tenureClashed_keeps n.toNat)

/-! Every command, and the step. -/

theorem exec_keeps (c : Instr) (s : State) : OutcomeKeeps s (exec c s) := by
  cases c with
  | powerUpReset strap ready => exact Keeps.outcome (s.powerUp_keeps strap ready)
  | ioReset reached => exact execIoReset_keeps s reached
  | addressWrite value => exact Keeps.outcome (.trans s.begin_keeps (State.onHp_keeps _ _))
  | ignoredWrite => exact Keeps.outcome s.begin_keeps
  | maskWrite value => exact execMaskWrite_keeps s value
  | attentionRead => exact execAttentionRead_keeps s
  | setup action => exact execSetup_keeps s action
  | startChain action => exact execStartChain_keeps s action
  | abortChain action => exact execAbortChain_keeps s action
  | illegalAction => exact Keeps.outcome (.trans s.begin_keeps (State.refuseAction_keeps _ _ _))
  | setupHeaderRead header => exact execSetupHeaderRead_keeps s header
  | setupImagesRead images => exact execSetupImagesRead_keeps s images
  | setupResultWritten => exact execSetupResultWritten_keeps s
  | dmaTransferStart => exact execDmaTransferStart_keeps s
  | read e => exact begin_takeElement_keeps s _ e (State.routeDisk_keeps _ e)
  | write e => exact begin_takeElement_keeps s _ e (State.routeDisk_keeps _ e)
  | append e => exact begin_takeElement_keeps s _ e (State.routeDisk_keeps _ e)
  | compare e => exact begin_takeElement_keeps s _ e (State.routeDisk_keeps _ e)
  | scan e => exact begin_takeElement_keeps s _ e (State.routeDisk_keeps _ e)
  | directRead e => exact begin_takeElement_keeps s _ e (State.routeDisk_keeps _ e)
  | directWrite e => exact begin_takeElement_keeps s _ e (State.routeDisk_keeps _ e)
  | holdShared e => exact begin_takeElement_keeps s _ e (State.routeHold_keeps _ e)
  | holdExclusive e => exact begin_takeElement_keeps s _ e (State.routeHold_keeps _ e)
  | unhold e => exact begin_takeElement_keeps s _ e (State.routeUnhold_keeps e)
  | select e => exact begin_takeElement_keeps s _ e (State.routeSelect_keeps e)
  | inspectDescriptor e => exact begin_takeElement_keeps s _ e (State.inspectDescriptor_keeps e)
  | inspectLineRecord e => exact begin_takeElement_keeps s _ e (State.inspectLine_keeps e)
  | inspectPositionRecord e => exact begin_takeElement_keeps s _ e (State.inspectPosition_keeps e)
  | setClock e => exact begin_takeElement_keeps s _ e (State.routeClock_keeps e)
  | maintainOn e => exact begin_takeElement_keeps s _ e State.routeMaintainOn_keeps
  | maintainOff e => exact begin_takeElement_keeps s _ e State.routeMaintainOff_keeps
  | illegalElement e => exact begin_takeElement_keeps s _ e fun _ t => .refl t
  | heldElementResume => exact Keeps.outcome (.trans s.begin_keeps (State.resumeAll_keeps _))
  | completionWritten => exact execCompletionWritten_keeps s
  | bufferLoaded words => exact execBufferLoaded_keeps s words
  | bufferUnloaded => exact execBufferUnloaded_keeps s
  | indexPulse pulse => exact execIndexPulse_keeps s pulse
  | sectorPulse pulse => exact execSectorPulse_keeps s pulse
  | syntheticSlot orderFirst => exact execSyntheticSlot_keeps s orderFirst
  | lateWindowClose => exact execLateWindowClose_keeps s
  | spindleLoss => exact execSpindleLoss_keeps s
  | requestExpiry position => exact execRequestExpiry_keeps s position
  | holdWaitExpiry position => exact execHoldWaitExpiry_keeps s position
  | holdBudgetExpiry position => exact execHoldBudgetExpiry_keeps s position
  | seekTimeout => exact execSeekTimeout_keeps s
  | ownTenureExpiry => exact execOwnTenureExpiry_keeps s
  | peerTenureExpiry => exact execPeerTenureExpiry_keeps s
  | reclaim position => exact execReclaim_keeps s position
  | recovery => exact execRecovery_keeps s
  | readyFall => exact execReadyFall_keeps s
  | readyRise => exact execReadyRise_keeps s
  | onCylinderFall peerSeek => exact execOnCylinderFall_keeps s peerSeek
  | onCylinderRise => exact execOnCylinderRise_keeps s
  | todAdvance => exact Keeps.outcome (.trans s.begin_keeps (State.onHp_keeps _ _))
  | exchangeStart line => exact execExchangeStart_keeps s line
  | collision line => exact execCollision_keeps s line
  | frameAbandoned line => exact execFrameAbandoned_keeps s line
  | releaseSent => exact execReleaseSent_keeps s
  | answerWindowClose elapsed => exact Keeps.outcome (.trans s.begin_keeps (State.closeWindow_keeps _ elapsed))
  | driveSilenceLimit elapsed => exact execDriveSilenceLimit_keeps s elapsed
  | frameCheckFailed frame => exact execFrameCheckFailed_keeps s frame
  | stationClash frame => exact execStationClash_keeps s frame
  | accepted => exact execAccepted_keeps s
  | busy => exact execBusy_keeps s
  | notReady => exact execNotReady_keeps s
  | written => exact execWritten_keeps s
  | writeFault => exact execWriteFault_keeps s
  | missed => exact execMissed_keeps s
  | wrongCylinder cylinder => exact execWrongCylinder_keeps s cylinder
  | data words status => exact execData_keeps s words status
  | senseReply flags cylinder => exact execSenseReply_keeps s flags cylinder
  | peerSeek cylinder answer lost => exact execPeerSeek_keeps s cylinder answer lost
  | peerTenureHeard cylinder revolutions => exact execPeerTenureHeard_keeps s cylinder revolutions
  | peerPreemptHeard slack => exact execPeerPreemptHeard_keeps s slack
  | peerClaimHeard start range => exact execPeerClaimHeard_keeps s start range
  | peerReleaseHeard => exact execPeerReleaseHeard_keeps s
  | peerFreeHeard start range => exact execPeerFreeHeard_keeps s start range
  | peerHelloHeard => exact execPeerHelloHeard_keeps s
  | ack => exact Keeps.outcome (begin_peerAnswer_keeps s _ fun b t => t.tenureSettled_keeps b.tenureCylinder)
  | clash revolutions => exact execClash_keeps s revolutions
  | yield => exact Keeps.outcome (begin_peerAnswer_keeps s _ fun _ t => .refl t)
  | keep => exact Keeps.outcome (begin_peerAnswer_keeps s _ fun _ t => .refl t)
  | grant => exact Keeps.outcome (begin_peerAnswer_keeps s _ fun b t => t.becomeHeld_keeps b.claimEntry false)
  | refuse => exact Keeps.outcome (begin_peerAnswer_keeps s _ fun b t => t.refuseEntry_keeps b.claimEntry)
  | peerOrderHeard order => exact execPeerOrderHeard_keeps s order

theorem State.idle_keeps (s : State) : Keeps s s.idle := by
  simp only [State.idle]
  refine .trans s.begin_keeps ?_
  split
  · exact State.resumeAll_keeps _
  split
  · exact .trans (State.endImage_keeps _) (State.startTransfer_keeps _)
  · exact State.quantum_keeps _

theorem step_keeps {s t : State} (h : step s = .next t) : Keeps s t := by
  cases hpending : s.pending with
  | nil => exact State.idle_keeps s |>.outcome t (step_of_nil hpending ▸ h)
  | cons c rest =>
    have hrest : Keeps s { s with pending := rest } := .of_same rfl rfl rfl rfl rfl rfl
    exact hrest.trans (exec_keeps c _ t (step_of_cons hpending ▸ h))

/-- Settles O56. -/
theorem stepKeepsTenureExclusive : Obligations.StepKeepsTenureExclusive :=
  fun _ _ hs h => (step_keeps h).tenure hs

/-- Settles O57. -/
theorem stepKeepsTheQueueAndItsNames : Obligations.StepKeepsTheQueueAndItsNames :=
  ⟨fun _ _ hs h => (step_keeps h).bounded hs, fun _ _ hs h => (step_keeps h).names hs⟩

/-- Settles O58. -/
theorem stepKeepsTheHoldListSound : Obligations.StepKeepsTheHoldListSound :=
  fun _ _ hs h => (step_keeps h).holds hs

/-- Settles O59. -/
theorem stepKeepsCountsInRange : Obligations.StepKeepsCountsInRange :=
  ⟨fun _ _ hs h => (step_keeps h).line hs, fun _ _ hs h => (step_keeps h).monitor hs⟩

end Sys2Proof.Machine
end

section
/-! A setup header read that no setup asked for takes the tables from under an APPEND (O60). -/

namespace Sys2Proof.Machine

open Sys2Proof

/-- A valid setup record with no image behind it: P = 0 and Q = 1 (R179). -/
def emptyTablesHeader : SetupHeader := ⟨3, 0, 4, 0, 0, 0, 1⟩

/-- An APPEND of one sector in the queue, to a LOG of two sectors that has reserved it, and the DMA read of a setup
header under way with no setup in progress. -/
def appendAndStrayHeaderRead : State :=
  { State.powerUp false true [.setupHeaderRead emptyTablesHeader] with
    hp := { HostPort.reset .powerUp with
      adapter := .running, setup := some ⟨3, 2, 4, 20, true⟩, current := some .setupHeader }
    ec := ⟨1, 1, [⟨.log, 3, 0, 1, false, 0, false, false, false, false, 1, none⟩], [.empty]⟩
    wq := ⟨[newRequest 0 ⟨0, 0, .disk .append, false, false, false⟩ .append
      ⟨0, 0, 0, 0, 0, 0, 0, 0, 0, 0, 0, 0⟩
      (some (.priv, 0)) 0 1 0 false false none .ready], 1⟩ }

theorem appendAndStrayHeaderRead_meetsTheLaw :
    NamesFresh appendAndStrayHeaderRead ∧ LogsSound appendAndStrayHeaderRead :=
  ⟨by decide, by decide, by decide, by decide, by decide⟩

/-- The header is taken, and nothing is reserved for the APPEND any more. -/
theorem appendAndStrayHeaderRead_step :
    ∃ t, step appendAndStrayHeaderRead = .next t ∧ promised t .priv 0 = 1 ∧ (t.ec.get .priv 0).reserved = 0 :=
  ⟨_, rfl, by decide, by decide⟩

/-- Refutes O60: SETUP_HEADER_READ acts on a header read under way whether or not a setup is in progress, and the law
does not say that none is under way without one. A record of no images then loads empty tables at once, with an APPEND
still queued. -/
theorem not_stepKeepsTheLogsSound : ¬ Obligations.StepKeepsTheLogsSound := by
  intro h
  obtain ⟨t, hstep, hpromised, hreserved⟩ := appendAndStrayHeaderRead_step
  obtain ⟨hlogs, -⟩ := h _ t appendAndStrayHeaderRead_meetsTheLaw hstep
  obtain ⟨⟨hle, -⟩, -⟩ := hlogs 0 (by decide)
  rw [hpromised, hreserved] at hle
  exact absurd hle (by decide)

end Sys2Proof.Machine
end

section
/-! Blocks and slots of a track (R1, R2), and the span (R16): the numbers of Section 1 that O52 asks. -/

namespace Sys2Proof.Machine

open Sys2Proof

/-! The slots of a track (R2): an interleave factor has an inverse modulo 20. -/

theorem coprime_of_interleaveAllowed {i : Nat} (h : interleaveAllowed i = true) : Nat.Coprime i 20 := by
  simp only [interleaveAllowed, List.contains_iff_mem] at h
  fin_cases h <;> decide

theorem slotOfLogical_injective {i l m : Nat} (hi : interleaveAllowed i = true) (hl : l < 20) (hm : m < 20)
    (h : slotOfLogical i l = slotOfLogical i m) : l = m := by
  have hmod : l ≡ m [MOD 20] := Nat.ModEq.cancel_right_of_coprime (coprime_of_interleaveAllowed hi).symm h
  rwa [Nat.ModEq, Nat.mod_eq_of_lt hl, Nat.mod_eq_of_lt hm] at hmod

theorem slotOfLogical_surjective {i p : Nat} (hi : interleaveAllowed i = true) (hp : p < 20) :
    ∃ l < 20, slotOfLogical i l = p := by
  obtain ⟨m, -, hm⟩ := Nat.exists_mul_mod_eq_one_of_coprime (coprime_of_interleaveAllowed hi) (by decide)
  refine ⟨p * m % 20, Nat.mod_lt _ (by decide), ?_⟩
  calc p * m % 20 * i % 20 = p * (i * m % 20) % 20 := by
        rw [Nat.mod_mul_mod, Nat.mul_mod_mod]; ring_nf
    _ = p := by rw [hm, Nat.mul_one, Nat.mod_eq_of_lt hp]

/-! Blocks (R1). -/

theorem targetOf_injective {i b c : Nat} (hi : interleaveAllowed i = true) (h : targetOf i c = targetOf i b) :
    c = b := by
  obtain ⟨hcyl, hhead, hslot⟩ := Target.mk.inj h
  have hlogical : logicalOf c = logicalOf b :=
    slotOfLogical_injective hi (Nat.mod_lt _ (by decide)) (Nat.mod_lt _ (by decide)) hslot
  simp only [cylinderOf, headOf, logicalOf] at hcyl hhead hlogical
  omega

theorem targetOf_onTrack {i b p : Nat} (hi : interleaveAllowed i = true) (hb : b < 32000) (hp : p < 20) :
    ∃ c < 32000, targetOf i c = ⟨cylinderOf b, headOf b, p⟩ := by
  obtain ⟨l, hl, hlp⟩ := slotOfLogical_surjective hi hp
  refine ⟨b / 20 * 20 + l, by omega, ?_⟩
  have hlogical : logicalOf (b / 20 * 20 + l) = l := by simp only [logicalOf]; omega
  simp only [targetOf, hlogical, hlp, cylinderOf, headOf, Target.mk.injEq, and_true]
  omega

theorem targetOf_range (i : Nat) {b : Nat} (hb : b < 32000) :
    (targetOf i b).cylinder ≤ 399 ∧ (targetOf i b).head ≤ 3 ∧ (targetOf i b).slot ≤ 19 := by
  simp only [targetOf, cylinderOf, headOf, slotOfLogical]
  omega

/-! Budgets, span and slack (R16 to R18). -/

theorem budgetOf_pos {m : Nat} (h : 0 < m) : budgetOf m = some (max 1 (m * 4 / 5)) := if_neg (Nat.ne_of_gt h)

theorem span_le {i m : Nat} (hm : m ≤ 64) (hi : i ≤ 19) : span i m ≤ 1198 := by
  have := Nat.mul_le_mul (Nat.sub_le_sub_right hm 1) hi
  simp only [span]
  omega

theorem State.slackOf_none (s : State) {r : Request} (h : r.budget = none) : s.slackOf r = none := by
  simp [State.slackOf, h]

theorem State.slackOf_some (s : State) {r : Request} {b : Nat} (h : r.budget = some b) :
    s.slackOf r = some (if r.started then (b : Int) - span s.cfg.interleave (r.count - r.done)
      else b - (r.cost + span s.cfg.interleave (r.count - r.done) : Nat)) := by
  simp [State.slackOf, h]

/-- The one sector of a DIRECT request spans one slot (R16, R64). -/
theorem span_left {r : Request} (i : Nat) (hleft : r.done < r.count) (hdirect : r.isDirect = true → r.count = 1) :
    span i (r.count - r.done) = if r.isDirect then 1 else (r.count - r.done - 1) * i + 1 := by
  split
  case isTrue h =>
    have hone : r.count - r.done = 1 := by have := hdirect h; omega
    simp [hone, span]
  case isFalse => rfl

/-- Settles O52. -/
theorem blocksAndBudgetsOfSection1 : Obligations.BlocksAndBudgetsOfSection1 := by
  refine ⟨fun i b hi hb => ?_, rfl, fun m hm => ?_, fun i m _ => ⟨rfl, span_le⟩, fun s r hleft hdirect => ?_⟩
  · obtain ⟨hcylinder, hhead, hslot⟩ := targetOf_range i hb
    exact ⟨rfl, rfl, rfl, hcylinder, hhead, hslot, fun c _ => targetOf_injective hi, fun p => targetOf_onTrack hi hb⟩
  · exact ⟨_, budgetOf_pos hm, by omega⟩
  · simp only
    rw [← span_left _ hleft hdirect]
    exact ⟨s.slackOf_none, fun b => s.slackOf_some⟩

end Sys2Proof.Machine
end

section
/-! Words as sums of fields (11.1): what a field of a word spells, and the words the host reads (11.2, 11.4 to 11.6). -/

namespace Sys2Proof.Machine

open Sys2Proof

/-! A word made of fields. -/

theorem word_toNat {n : Nat} (h : n < 65536) : (word n).toNat = n := by
  simp only [word, BitVec.toNat_ofNat]
  omega

theorem putFlag_eq (i : Nat) (b : Bool) : putFlag i b = b.toNat * 2 ^ i := by cases b <;> simp [putFlag]

theorem getLsbD_eq_decide (w : Word) (i : Nat) : w.getLsbD i = decide (w.toNat / 2 ^ i % 2 = 1) := by
  rw [← BitVec.testBit_toNat, Nat.testBit_eq_decide_div_mod_eq]

/-- A bit of a word read off the number it spells. -/
theorem getLsbD_of_toNat {w : Word} {i : Nat} {b : Bool} (h : w.toNat / 2 ^ i % 2 = b.toNat) : w.getLsbD i = b := by
  rw [getLsbD_eq_decide, h]
  cases b <;> rfl

theorem getLsbD_of_word {n i : Nat} {b : Bool} (hn : n < 65536) (h : n / 2 ^ i % 2 = b.toNat) :
    (word n).getLsbD i = b := getLsbD_of_toNat (by rwa [word_toNat hn])

/-! Descriptor images (R40, 11.5). -/

theorem DescriptorKind.code_le (k : DescriptorKind) : k.code ≤ 3 := by cases k <;> decide

/-- The first word of an image as a number. -/
def Descriptor.imageHead (d : Descriptor) : Nat :=
  d.kind.code * 8192 + d.level * 2048 + d.wrap.toNat * 1024 + d.wrappedEver.toNat * 512 + d.accessed.toNat * 256 +
    d.written.toNat * 128 + d.changed.toNat * 64

theorem Descriptor.image_eq (d : Descriptor) :
    d.image = [word d.imageHead, word d.base, word d.limit, word d.fill] := by
  simp [Descriptor.image, Descriptor.imageHead, put, putFlag_eq]

theorem Descriptor.imageHead_fields {d : Descriptor} (h : d.level ≤ 3) :
    d.imageHead < 65536 ∧ d.imageHead / 8192 = d.kind.code ∧ d.imageHead / 2048 % 4 = d.level ∧
      d.imageHead / 1024 % 2 = d.wrap.toNat ∧ d.imageHead / 512 % 2 = d.wrappedEver.toNat ∧
      d.imageHead / 256 % 2 = d.accessed.toNat ∧ d.imageHead / 128 % 2 = d.written.toNat ∧
      d.imageHead / 64 % 2 = d.changed.toNat ∧ d.imageHead % 64 = 0 := by
  have := d.kind.code_le
  have := d.wrap.toNat_le
  have := d.wrappedEver.toNat_le
  have := d.accessed.toNat_le
  have := d.written.toNat_le
  have := d.changed.toNat_le
  simp only [Descriptor.imageHead]
  omega

/-- Every field of a descriptor stands at its place in the image. -/
theorem Descriptor.image_fields {d : Descriptor} (hlevel : d.level ≤ 3) (hbase : d.base < 65536)
    (hlimit : d.limit < 65536) (hfill : d.fill < 65536) :
    ∃ w0 w1 w2 w3 : Word, d.image = [w0, w1, w2, w3] ∧ w0.toNat / 8192 = d.kind.code ∧
      w0.toNat / 2048 % 4 = d.level ∧ w0.getLsbD 10 = d.wrap ∧ w0.getLsbD 9 = d.wrappedEver ∧
      w0.getLsbD 8 = d.accessed ∧ w0.getLsbD 7 = d.written ∧ w0.getLsbD 6 = d.changed ∧ w0.toNat % 64 = 0 ∧
      w1.toNat = d.base ∧ w2.toNat = d.limit ∧ w3.toNat = d.fill := by
  obtain ⟨hlt, hkind, hlev, hwrap, hever, hacc, hwritten, hchanged, hspare⟩ := Descriptor.imageHead_fields hlevel
  refine ⟨_, _, _, _, d.image_eq, ?_, ?_, getLsbD_of_word hlt hwrap, getLsbD_of_word hlt hever,
    getLsbD_of_word hlt hacc, getLsbD_of_word hlt hwritten, getLsbD_of_word hlt hchanged, ?_, word_toNat hbase,
    word_toNat hlimit, word_toNat hfill⟩ <;> rw [word_toNat hlt] <;> assumption

/-- What a setup record is read for: the fields of an image (R22, R23). -/
theorem Image.kindCode_eq {i : Image} : i.kindCode = i.w0.toNat / 8192 := by
  have := i.w0.isLt
  simp only [Image.kindCode, field]
  omega

/-- The image of a loaded descriptor loads it again. -/
theorem Image.descriptor_of_image {d : Descriptor} {i : Image} (hlevel : d.level ≤ 3) (hbase : d.base < 65536)
    (hlimit : d.limit < 65536) (hfill : d.fill < 65536) (hkind : d.kind ≠ .empty)
    (hlog : d.kind = .log ∨ d.fill = 0 ∧ d.wrap = false ∧ d.wrappedEver = false)
    (hmarks : d.accessed = false ∧ d.written = false ∧ d.changed = false ∧ d.reserved = 0 ∧ d.owner = none)
    (himage : d.image = [i.w0, i.w1, i.w2, i.w3]) : i.descriptor = d := by
  obtain ⟨w0, w1, w2, w3, hw, hcode, hlev, hwrap, hever, -, -, -, -, hb, hl, hf⟩ :=
    Descriptor.image_fields hlevel hbase hlimit hfill
  obtain ⟨rfl, rfl, rfl, rfl⟩ : w0 = i.w0 ∧ w1 = i.w1 ∧ w2 = i.w2 ∧ w3 = i.w3 := by simpa using hw.symm.trans himage
  obtain ⟨hacc, hwritten, hchanged, hres, hown⟩ := hmarks
  obtain ⟨kind, level, base, limit, wrap, fill, accessed, written, changed, ever, reserved, owner⟩ := d
  simp only at hcode hlev hwrap hever hb hl hf hacc hwritten hchanged hres hown hlog
  subst hacc hwritten hchanged hres hown
  have hlev : field i.w0 11 2 = level := hlev
  have hwrap : flag i.w0 10 = wrap := hwrap
  have hever : flag i.w0 9 = ever := hever
  cases kind with
  | empty => exact absurd rfl hkind
  | log => simp [Image.descriptor, Image.kindCode_eq, hcode, DescriptorKind.code, hlev, hwrap, hever, hb, hl, hf]
  | fixed | working =>
    obtain ⟨hf0, hw0, he0⟩ := hlog.resolve_left (by simp)
    simp [Image.descriptor, Image.kindCode_eq, hcode, DescriptorKind.code, hlev, hb, hl, hf0, hw0, he0]

/-- R22 and R187 on the image of a loaded descriptor. -/
theorem Image.check_of_image {d : Descriptor} {i : Image} (x : Table) (hlevel : d.level ≤ 3) (hbase : d.base < 65536)
    (hlimit : d.limit < 65536) (hfill : d.fill < 65536) (hkind : d.kind ≠ .empty)
    (hlog : d.kind = .log ∨ d.fill = 0 ∧ d.wrap = false ∧ d.wrappedEver = false)
    (himage : d.image = [i.w0, i.w1, i.w2, i.w3]) :
    i.check x = none ↔ d.base + d.limit ≤ 31999 ∧ ¬ (d.kind = .log ∧ x = .common) ∧
      (d.kind = .log → if d.wrap then d.fill ≤ d.limit else d.fill ≤ d.limit + 1) := by
  obtain ⟨w0, w1, w2, w3, hw, hcode, -, hwrap, hever, -, -, -, hspare, hb, hl, hf⟩ :=
    Descriptor.image_fields hlevel hbase hlimit hfill
  obtain ⟨rfl, rfl, rfl, rfl⟩ : w0 = i.w0 ∧ w1 = i.w1 ∧ w2 = i.w2 ∧ w3 = i.w3 := by simpa using hw.symm.trans himage
  have hspare' : field i.w0 0 6 = 0 := by simpa [field] using hspare
  simp only [Image.check, Image.kindCode_eq, hcode, flag, hwrap, hever, hb, hl, hf, hspare']
  cases hk : d.kind with
  | empty => exact absurd hk hkind
  | log => cases x <;> cases d.wrap <;> grind [DescriptorKind.code]
  | fixed | working =>
    obtain ⟨-, hw0, he0⟩ := hlog.resolve_left (by simp [hk])
    simp [DescriptorKind.code, hw0, he0]

/-! STATE (R174, 11.2). -/

theorem AdapterState.code_le (a : AdapterState) : a.code ≤ 3 := by cases a <;> decide

theorem Presence.code_le (p : Presence) : p.code ≤ 2 := by cases p <;> decide

/-- The word STATE as a number. -/
def State.stateNumber (s : State) : Nat :=
  s.hp.adapter.code * 16384 + s.lu.station.toNat * 8192 + s.hp.refusal.code * 256 + (s.chain 3).runs.toNat * 128 +
    (s.chain 2).runs.toNat * 64 + (s.chain 1).runs.toNat * 32 + (s.chain 0).runs.toNat * 16 +
    (s.rdm.drive == .up).toNat * 8 + s.tm.presence.code * 2

theorem stateWord_eq (s : State) : stateWord s = word s.stateNumber := by
  simp [stateWord, State.stateNumber, put, putFlag_eq]

theorem State.stateNumber_fields (s : State) :
    s.stateNumber < 65536 ∧ s.stateNumber / 16384 = s.hp.adapter.code ∧ s.stateNumber / 8192 % 2 = s.lu.station.toNat ∧
      s.stateNumber / 256 % 32 = s.hp.refusal.code ∧
      (∀ n : Fin 4, s.stateNumber / 2 ^ (4 + n.val) % 2 = (s.chain n).runs.toNat) ∧
      s.stateNumber / 8 % 2 = (s.rdm.drive == .up).toNat ∧ s.stateNumber / 2 % 4 = s.tm.presence.code ∧
      s.stateNumber % 2 = 0 := by
  have := s.hp.adapter.code_le
  have := s.hp.refusal.code_le
  have := s.tm.presence.code_le
  have := s.lu.station.toNat_le
  have := (s.chain 0).runs.toNat_le
  have := (s.chain 1).runs.toNat_le
  have := (s.chain 2).runs.toNat_le
  have := (s.chain 3).runs.toNat_le
  have := (s.rdm.drive == .up).toNat_le
  refine ⟨?_, ?_, ?_, ?_, ?runs, ?_, ?_, ?_⟩
  case runs =>
    intro n
    match n with
    | 0 | 1 | 2 | 3 =>
      simp only [State.stateNumber, Fin.val_zero, Fin.val_one, Fin.val_two, show (3 : Fin 4).val = 3 from rfl]
      omega
  all_goals simp only [State.stateNumber]; omega

/-! The completion area (R51, 11.4). -/

theorem Status.code_le (st : Status) : st.code ≤ 4 := by cases st <;> decide

theorem ElementFault.code_le (f : ElementFault) : f.code ≤ 16 := by cases f <;> decide

/-- The first word of a completion record as a number. -/
def Completion.head (c : Completion) : Nat :=
  c.status.code * 8192 + (c.fault.map ElementFault.code).getD 0 * 256 + (c.fault.any ElementFault.outside).toNat * 128 +
    c.done % 128

/-- The outcome bits as a number, F first. -/
def ChainFlags.number (g : ChainFlags) : Nat :=
  g.f.toNat * 32 + g.m.toNat * 16 + g.l.toNat * 8 + g.c.toNat * 4 + g.s.toNat * 2 + g.p.toNat

theorem ChainFlags.number_lt (g : ChainFlags) : g.number < 64 := by
  have := g.f.toNat_le
  have := g.m.toNat_le
  have := g.l.toNat_le
  have := g.c.toNat_le
  have := g.s.toNat_le
  have := g.p.toNat_le
  simp only [ChainFlags.number]
  omega

theorem Completion.words_eq (c : Completion) :
    c.words = [word c.head, word (c.bits.number * 1024 + placeField c.place),
      word (c.stamp.unset.toNat * 32768 + c.stamp.hours % 32 * 256 + c.stamp.minutes % 64),
      word (c.stamp.seconds % 64 * 256 + c.stamp.tenths % 16)] := by
  have houtside : (c.fault.map ElementFault.outside).getD false = c.fault.any ElementFault.outside := by
    cases c.fault <;> rfl
  simp only [Completion.words, Completion.head, ChainFlags.number, put, putFlag_eq, houtside]
  ring_nf

theorem Completion.head_fields {c : Completion} (h : c.done ≤ 64) :
    c.head < 65536 ∧ c.head / 8192 = c.status.code ∧ c.head / 256 % 32 = (c.fault.map ElementFault.code).getD 0 ∧
      c.head / 128 % 2 = (c.fault.any ElementFault.outside).toNat ∧ c.head % 128 = c.done := by
  have := c.status.code_le
  have := (c.fault.any ElementFault.outside).toNat_le
  have hfault : (c.fault.map ElementFault.code).getD 0 ≤ 16 := by
    cases hf : c.fault with
    | none => simp
    | some f => exact f.code_le
  simp only [Completion.head]
  omega

theorem ChainFlags.number_eq (g : ChainFlags) :
    g.number = (if g.f then 32 else 0) + (if g.m then 16 else 0) + (if g.l then 8 else 0) + (if g.c then 4 else 0) +
      (if g.s then 2 else 0) + (if g.p then 1 else 0) := by
  simp [ChainFlags.number, Bool.toNat, Bool.cond_eq_ite]

/-- Every field of a completion record in its range stands at its place in words 12 to 15. -/
theorem Completion.words_fields {c : Completion} (hdone : c.done ≤ 64) (hplace : ∀ x ∈ c.place, x.2 < 32)
    (hhours : c.stamp.hours ≤ 23) (hminutes : c.stamp.minutes ≤ 59) (hseconds : c.stamp.seconds ≤ 59)
    (htenths : c.stamp.tenths ≤ 9) :
    ∃ w0 w1 w2 w3 : Word, c.words = [w0, w1, w2, w3] ∧ w0.toNat / 8192 = c.status.code ∧
      w0.toNat / 256 % 32 = (c.fault.map ElementFault.code).getD 0 ∧
      w0.getLsbD 7 = c.fault.any ElementFault.outside ∧ w0.toNat % 128 = c.done ∧
      w1.toNat / 1024 = c.bits.number ∧
      w1.toNat % 1024 = (match c.place with
        | none => 0
        | some x => 512 + (if x.1 = .common then 256 else 0) + x.2) ∧
      w2.toNat = (if c.stamp.unset then 32768 else 0) + c.stamp.hours * 256 + c.stamp.minutes ∧
      w3.toNat = c.stamp.seconds * 256 + c.stamp.tenths := by
  obtain ⟨hlt, hstatus, hfault, houtside, hcount⟩ := Completion.head_fields hdone
  have hplaceField : placeField c.place = match c.place with
      | none => 0
      | some x => 512 + (if x.1 = .common then 256 else 0) + x.2 := by
    cases hp : c.place with
    | none => rfl
    | some x => exact placeField_eq x (hplace x hp)
  have hbits := c.bits.number_lt
  have hfield := placeField_lt c.place
  have hunset := c.stamp.unset.toNat_le
  have hflag : c.stamp.unset.toNat * 32768 = if c.stamp.unset then 32768 else 0 := by cases c.stamp.unset <;> rfl
  have hhour : c.stamp.hours % 32 = c.stamp.hours := Nat.mod_eq_of_lt (by omega)
  have hminute : c.stamp.minutes % 64 = c.stamp.minutes := Nat.mod_eq_of_lt (by omega)
  have hsecond : c.stamp.seconds % 64 = c.stamp.seconds := Nat.mod_eq_of_lt (by omega)
  have htenth : c.stamp.tenths % 16 = c.stamp.tenths := Nat.mod_eq_of_lt (by omega)
  refine ⟨_, _, _, _, c.words_eq, ?_, ?_, getLsbD_of_word hlt houtside, ?_, ?_, ?_, ?_, ?_⟩
  · rwa [word_toNat hlt]
  · rwa [word_toNat hlt]
  · rwa [word_toNat hlt]
  · rw [word_toNat (by omega)]
    omega
  · rw [← hplaceField, word_toNat (by omega)]
    omega
  · rw [← hflag, hhour, hminute, word_toNat (by omega)]
  · rw [hsecond, htenth, word_toNat (by omega)]

/-! The line record (R124) and the position record (R145), 11.6. -/

theorem lineRecord_fields {s : State} (hcount : s.lu.collisionCount ≤ 255) (hkind : s.lu.lastCollided ≤ 27) :
    ∃ w0 w1 w2 w3 : Word, lineRecord s = [w0, w1, w2, w3] ∧ w0.toNat = s.lu.collisionCount ∧
      w1.toNat = s.lu.lastCollided ∧ w2.toNat / 16 = 0 ∧ w2.getLsbD 3 = s.lu.station ∧
      w2.toNat / 2 % 4 = s.tm.presence.code ∧ w2.getLsbD 0 = s.lu.armed ∧ w3 = 0 := by
  have := s.tm.presence.code_le
  have := s.lu.station.toNat_le
  have := s.lu.armed.toNat_le
  refine ⟨_, _, _, _, rfl, word_toNat (by omega), word_toNat (by omega), ?_, getLsbD_of_word ?_ ?_, ?_,
    getLsbD_of_word ?_ ?_, rfl⟩
  case refine_1 | refine_4 =>
    rw [word_toNat (by simp only [put, putFlag_eq]; omega)]
    simp only [put, putFlag_eq]
    omega
  all_goals simp only [put, putFlag_eq]; omega

theorem DriveState.code_le (d : DriveState) : d.code ≤ 2 := by cases d <;> decide

theorem OwnTenure.fields_fst_le (o : OwnTenure) : o.fields.1 ≤ 3 := by cases o <;> simp [OwnTenure.fields]

/-- The peer's record in its range as the position record shows it. -/
theorem peerFields_le {o : Option PeerTenure} (h : ∀ p ∈ o, p.revolutions ≤ 15 ∧ ∀ c ∈ p.cylinder, c ≤ 399) :
    (peerFields o).1 = o.isSome.toNat ∧ (peerFields o).2.1 ≤ 15 ∧ (peerFields o).2.2 ≤ 511 := by
  cases o with
  | none => simp [peerFields]
  | some p =>
    obtain ⟨hrevs, hcylinder⟩ := h p rfl
    refine ⟨rfl, hrevs, ?_⟩
    cases hc : p.cylinder with
    | none => simp [peerFields, hc]
    | some c =>
      have := hcylinder c hc
      simp only [peerFields, hc, Option.getD_some]
      omega

theorem positionRecord_own {s : State} (hrevs : s.tm.own.fields.2.1 ≤ 15) (hcylinder : s.tm.own.fields.2.2 ≤ 399) :
    (word (put 14 s.tm.own.fields.1 + put 10 s.tm.own.fields.2.1 + putFlag 9 s.tm.courtesy +
        s.tm.own.fields.2.2)).toNat =
      s.tm.own.fields.1 * 16384 + s.tm.own.fields.2.1 * 1024 + (if s.tm.courtesy then 512 else 0) +
        s.tm.own.fields.2.2 := by
  have := s.tm.own.fields_fst_le
  have := s.tm.courtesy.toNat_le
  have hflag : s.tm.courtesy.toNat * 512 = if s.tm.courtesy then 512 else 0 := by cases s.tm.courtesy <;> rfl
  have hnumber : put 14 s.tm.own.fields.1 + put 10 s.tm.own.fields.2.1 + putFlag 9 s.tm.courtesy + s.tm.own.fields.2.2 =
      s.tm.own.fields.1 * 16384 + s.tm.own.fields.2.1 * 1024 + s.tm.courtesy.toNat * 512 + s.tm.own.fields.2.2 := by
    simp [put, putFlag_eq]
  rw [hnumber, hflag]
  exact word_toNat (by omega)

/-- The second word of the position record as a number. -/
def State.peerNumber (s : State) : Nat :=
  (peerFields s.tm.peer).1 * 32768 + (peerFields s.tm.peer).2.1 * 2048 + s.tm.preemptMark.toNat * 1024 +
    s.tm.moving.toNat * 512 + (peerFields s.tm.peer).2.2

theorem State.peerNumber_fields {s : State}
    (h : ∀ p ∈ s.tm.peer, p.revolutions ≤ 15 ∧ ∀ c ∈ p.cylinder, c ≤ 399) :
    s.peerNumber < 65536 ∧ s.peerNumber / 32768 % 2 = s.tm.peer.isSome.toNat ∧
      s.peerNumber / 1024 % 2 = s.tm.preemptMark.toNat ∧ s.peerNumber / 512 % 2 = s.tm.moving.toNat ∧
      s.peerNumber / 2048 % 16 = (peerFields s.tm.peer).2.1 ∧ s.peerNumber % 512 = (peerFields s.tm.peer).2.2 := by
  obtain ⟨hholding, hrevs, hcylinder⟩ := peerFields_le h
  have := s.tm.peer.isSome.toNat_le
  have := s.tm.preemptMark.toNat_le
  have := s.tm.moving.toNat_le
  simp only [State.peerNumber]
  omega

theorem positionRecord_drive {s : State} (hcylinder : ∀ c ∈ s.tm.cylinder, c ≤ 399) (hcounter : ∀ c ∈ s.rdm.counter, c ≤ 19) :
    let w := word (put 7 (s.tm.cylinder.getD 511) + put 2 (s.rdm.counter.getD 31) + s.rdm.drive.code)
    w.toNat / 128 = s.tm.cylinder.getD 511 ∧ w.toNat / 4 % 32 = s.rdm.counter.getD 31 ∧
      w.toNat % 4 = s.rdm.drive.code := by
  have hcyl : s.tm.cylinder.getD 511 ≤ 511 := by
    cases hc : s.tm.cylinder with
    | none => simp
    | some c => exact (hcylinder c hc).trans (by decide)
  have hslot : s.rdm.counter.getD 31 ≤ 31 := by
    cases hc : s.rdm.counter with
    | none => simp
    | some c => exact (hcounter c hc).trans (by decide)
  have := s.rdm.drive.code_le
  simp only
  rw [word_toNat (by simp only [put]; omega)]
  simp only [put]
  omega

theorem positionRecord_counts {s : State} (hsynth : s.rdm.synthRun ≤ 20) (hsilence : s.rdm.silence ≤ 3)
    (hseeks : s.tm.peerSeeks ≤ 255) :
    let w := word (put 8 s.tm.peerSeeks + put 3 s.rdm.synthRun + put 1 s.rdm.silence)
    w.toNat / 256 = s.tm.peerSeeks ∧ w.toNat / 8 % 32 = s.rdm.synthRun ∧ w.toNat / 2 % 4 = s.rdm.silence ∧
      w.getLsbD 0 = false := by
  have hlt : put 8 s.tm.peerSeeks + put 3 s.rdm.synthRun + put 1 s.rdm.silence < 65536 := by simp only [put]; omega
  refine ⟨?_, ?_, ?_, getLsbD_of_word hlt ?_⟩
  case refine_4 => simp only [put, Bool.toNat_false]; omega
  all_goals rw [word_toNat hlt]; simp only [put]; omega

theorem positionRecord_eq (s : State) :
    positionRecord s = [word (put 14 s.tm.own.fields.1 + put 10 s.tm.own.fields.2.1 + putFlag 9 s.tm.courtesy +
        s.tm.own.fields.2.2), word s.peerNumber,
      word (put 7 (s.tm.cylinder.getD 511) + put 2 (s.rdm.counter.getD 31) + s.rdm.drive.code),
      word (put 8 s.tm.peerSeeks + put 3 s.rdm.synthRun + put 1 s.rdm.silence)] := by
  simp [positionRecord, State.peerNumber, put, putFlag_eq]

/-- Settles O55. -/
theorem wordsAndImagesShowTheirFields : Obligations.WordsAndImagesShowTheirFields := by
  refine ⟨?_, fun d hlevel hbase hlimit hfill => ?_, fun s => ?_, fun c hdone hplace hh hm hs ht => ?_,
    fun s hcount hkind => ?_, fun s hcyl hpeer hcounter hsynth hsilence hseeks hrevs hown => ?_⟩
  · intro d x i hlevel hbase hlimit hfill hkind hlog hacc hwritten hchanged hres howner himage
    exact ⟨Image.descriptor_of_image hlevel hbase hlimit hfill hkind hlog ⟨hacc, hwritten, hchanged, hres, howner⟩ himage,
      Image.check_of_image x hlevel hbase hlimit hfill hkind hlog himage⟩
  · obtain ⟨w0, w1, w2, w3, himage, hcode, hrest⟩ := Descriptor.image_fields hlevel hbase hlimit hfill
    exact ⟨w0, w1, w2, w3, himage, by rw [hcode]; cases d.kind <;> rfl, hrest⟩
  · obtain ⟨hlt, hadapter, hstation, hcode, hruns, hdrive, hpresence, hspare⟩ := s.stateNumber_fields
    have hnat := word_toNat hlt
    refine ⟨?_, ?_, ?_, fun n => ?_, ?_, ?_, ?_⟩
    · rw [stateWord_eq, hnat, hadapter]
      cases s.hp.adapter <;> rfl
    · rw [stateWord_eq]
      exact getLsbD_of_word hlt hstation
    · rw [stateWord_eq, hnat, hcode]
    · rw [stateWord_eq]
      refine (getLsbD_of_word hlt (hruns n)).trans ?_
      simp [Chain.runs, Bool.beq_eq_decide_eq]
    · rw [stateWord_eq]
      exact getLsbD_of_word hlt hdrive
    · rw [stateWord_eq, hnat, hpresence]
      cases s.tm.presence <;> rfl
    · rw [stateWord_eq]
      exact getLsbD_of_word hlt (by simpa using hspare)
  · obtain ⟨w0, w1, w2, w3, hwords, hstatus, hfault, houtside, hcount, hbits, hrest⟩ :=
      Completion.words_fields hdone hplace hh hm hs ht
    refine ⟨w0, w1, w2, w3, hwords, ?_, ?_, houtside, hcount, ?_, hrest⟩
    · rw [hstatus]
      cases c.status <;> rfl
    · rw [hfault]
      cases c.fault <;> rfl
    · rw [hbits, ChainFlags.number_eq]
  · obtain ⟨w0, w1, w2, w3, hwords, hc, hl, hz, hstation, hpresence, hrest⟩ := lineRecord_fields hcount hkind
    refine ⟨w0, w1, w2, w3, hwords, hc, hl, hz, hstation, ?_, hrest⟩
    rw [hpresence]
    cases s.tm.presence <;> rfl
  · obtain ⟨hlt, hholding, hmark, hmoving, hpeerRevs, hpeerCyl⟩ := State.peerNumber_fields hpeer
    obtain ⟨hcylinder, hslot, hdrive⟩ := positionRecord_drive hcyl hcounter
    refine ⟨_, _, _, _, positionRecord_eq s, positionRecord_own hrevs hown, ?_, getLsbD_of_word hlt hholding,
      getLsbD_of_word hlt hmark, getLsbD_of_word hlt hmoving, fun p hp => ?_, fun hnone => ?_, ?_, ?_, ?_,
      positionRecord_counts hsynth hsilence hseeks⟩
    · cases s.tm.own <;> rfl
    · rw [word_toNat hlt, hpeerRevs, hpeerCyl, Option.mem_def.mp hp]
      refine ⟨rfl, ?_⟩
      cases hc : p.cylinder <;> simp [peerFields, hc]
    · rw [word_toNat hlt, hpeerRevs, hpeerCyl, hnone]
      exact ⟨rfl, rfl⟩
    · rw [hcylinder]
      cases s.tm.cylinder <;> rfl
    · rw [hslot]
      cases s.rdm.counter <;> rfl
    · rw [hdrive]
      cases s.rdm.drive <;> rfl

end Sys2Proof.Machine
end

section
/-! Frames of the line (R114, R185, R188, 11.7): what the words of a frame say, and that they say all of it (O54). -/

namespace Sys2Proof.Machine

open Sys2Proof

/-! Header and check word. -/

theorem wordSum_withCheck (l : List Word) : wordSum (withCheck l) = 0 := by
  simp [wordSum, withCheck, List.foldl_append]

theorem header_toNat (station : Bool) {code : Nat} (h : code < 32) :
    (word (putFlag 14 station + code)).toNat = station.toNat * 16384 + code := by
  have := station.toNat_le
  rw [word_toNat] <;> simp only [putFlag_eq] <;> omega

theorem frameKind_frameWords (station : Bool) {code : Nat} (content : List Word) (h : code < 32) :
    frameKind (frameWords station code content) = code := by
  have := station.toNat_le
  simp only [frameKind, frameWords, withCheck, List.cons_append, List.headD_cons, field, header_toNat station h]
  omega

theorem frameSource_frameWords (station : Bool) {code : Nat} (content : List Word) (h : code < 32) :
    frameSource (frameWords station code content) = if station then 1 else 0 := by
  have hsource : frameSource (frameWords station code content) = station.toNat := by
    have := station.toNat_le
    simp only [frameSource, frameWords, withCheck, List.cons_append, List.headD_cons, field, header_toNat station h]
    omega
  rw [hsource]
  cases station <;> rfl

@[simp] theorem content_frameWords (station : Bool) (code : Nat) (content : List Word) :
    (frameWords station code content).tail.dropLast = content := by
  simp [frameWords, withCheck]

@[simp] theorem length_frameWords (station : Bool) (code : Nat) (content : List Word) :
    (frameWords station code content).length = content.length + 2 := by
  simp [frameWords, withCheck]

theorem header_spareBits : ∀ station : Bool, ∀ code < 32, spareBits (word (putFlag 14 station + code)) 0xC01F = false := by
  decide

/-- A frame with legal content passes the tests of the adapter that hears it. -/
theorem frameValid_frameWords (station : Bool) {code : Nat} {content : List Word} (h : code < 32)
    (hcontent : contentOk code content = true) : frameValid (frameWords station code content) = true := by
  have hsum : wordSum (frameWords station code content) = 0 := wordSum_withCheck _
  have hspare : spareBits ((frameWords station code content).headD 0) 0xC01F = false := header_spareBits station code h
  have hsource : frameSource (frameWords station code content) ≠ 3 := by
    rw [frameSource_frameWords station content h]
    cases station <;> decide
  rw [frameValid, hsum, hspare, frameKind_frameWords station content h, content_frameWords, hcontent]
  simpa using hsource

/-! Contents. -/

/-- The fields of an offered frame are in the ranges of 11.7 (R114). -/
def FrameBody.InRange : FrameBody → Prop
  | .seek c => c ≤ 399
  | .read t => t.cylinder ≤ 399 ∧ t.head ≤ 3 ∧ t.slot ≤ 19
  | .write t => t.cylinder ≤ 399 ∧ t.head ≤ 3 ∧ t.slot ≤ 19
  | .tenure c => c ≤ 399
  | .preempt k => -1264 ≤ k ∧ k ≤ -1
  | .claim _ s n _ => 1 ≤ n ∧ n ≤ 64 ∧ s + n ≤ 32000
  | .free s n _ => 1 ≤ n ∧ n ≤ 64 ∧ s + n ≤ 32000
  | _ => True

theorem FrameBody.code_lt (b : FrameBody) : b.code < 32 := by cases b <;> simp [FrameBody.code]

theorem cylinderOk_word {c : Nat} (h : c ≤ 399) : cylinderOk (word c) = true := by
  simpa [cylinderOk, word_toNat (show c < 65536 by omega)] using h

theorem position_toNat {h p : Nat} (hh : h ≤ 3) (hp : p ≤ 19) : (word (put 8 p + h)).toNat = p * 256 + h :=
  word_toNat (by simp only [put]; omega)

theorem position_spareBits : ∀ p < 20, ∀ h < 4, spareBits (word (put 8 p + h)) 0x1F07 = false := by decide

/-- The position word of a READ or WRITE passes the tests of R114. -/
theorem positionOk {h p : Nat} (hh : h ≤ 3) (hp : p ≤ 19) :
    (!spareBits (word (put 8 p + h)) 0x1F07 && decide (field (word (put 8 p + h)) 8 5 ≤ 19) &&
      decide (field (word (put 8 p + h)) 0 3 ≤ 3)) = true := by
  rw [position_spareBits p (by omega) h (by omega)]
  simp only [field, position_toNat hh hp, Bool.not_false, Bool.true_and, Bool.and_eq_true, decide_eq_true_eq]
  omega

theorem rangeWord_toNat (b : Bool) {n : Nat} (h : n ≤ 64) : (rangeWord b n).toNat = b.toNat * 32768 + n := by
  have := b.toNat_le
  rw [rangeWord, word_toNat] <;> simp only [putFlag_eq] <;> omega

theorem rangeWord_spareBits : ∀ b : Bool, ∀ n < 65, spareBits (rangeWord b n) 0x807F = false := by decide

theorem rangeOk_word {s n : Nat} (b : Bool) (hpos : 1 ≤ n) (hn : n ≤ 64) (hs : s + n ≤ 32000) :
    rangeOk (word s) (rangeWord b n) = true := by
  have := b.toNat_le
  rw [rangeOk, rangeWord_spareBits b n (by omega)]
  simp only [field, rangeWord_toNat b hn, word_toNat (show s < 65536 by omega), Bool.not_false, Bool.true_and,
    Bool.and_eq_true, decide_eq_true_eq]
  omega

theorem slack_toInt {k : Int} (h : -1264 ≤ k) (h' : k ≤ -1) : (BitVec.ofInt 16 k).toInt = k := by
  rw [BitVec.toInt_ofInt, Int.bmod_def]
  norm_num
  omega

theorem FrameBody.contentOk_content {b : FrameBody} {r : Nat} (h : b.InRange) (hr : 1 ≤ r) (hr' : r ≤ 15) :
    contentOk b.code (b.content r) = true := by
  cases b with
  | seek c => exact cylinderOk_word h
  | read t | write t =>
    obtain ⟨hcylinder, hhead, hslot⟩ := h
    show (cylinderOk (word t.cylinder) && !spareBits (word (put 8 t.slot + t.head)) 0x1F07 &&
      decide (field (word (put 8 t.slot + t.head)) 8 5 ≤ 19) &&
      decide (field (word (put 8 t.slot + t.head)) 0 3 ≤ 3)) = true
    rw [cylinderOk_word hcylinder, Bool.true_and]
    exact positionOk hhead hslot
  | tenure c =>
    show (cylinderOk (word c) && decide (1 ≤ (word r).toNat) && decide ((word r).toNat ≤ 15)) = true
    simp [cylinderOk_word h, word_toNat (show r < 65536 by omega), hr, hr']
  | preempt k =>
    obtain ⟨hlow, hhigh⟩ := h
    show slackOk (BitVec.ofInt 16 k) = true
    simp [slackOk, slack_toInt hlow hhigh, hlow, hhigh]
  | claim id s n m =>
    obtain ⟨hpos, hn, hs⟩ := h
    exact rangeOk_word _ hpos hn hs
  | free s n w =>
    obtain ⟨hpos, hn, hs⟩ := h
    exact rangeOk_word _ hpos hn hs
  | sense | release | hello => rfl

/-! The content of a frame says its fields. -/

theorem word_injective {m n : Nat} (hm : m < 65536) (hn : n < 65536) (h : word m = word n) : m = n := by
  rw [← word_toNat hm, ← word_toNat hn, h]

theorem position_injective {t u : Target} (ht : t.cylinder ≤ 399 ∧ t.head ≤ 3 ∧ t.slot ≤ 19)
    (hu : u.cylinder ≤ 399 ∧ u.head ≤ 3 ∧ u.slot ≤ 19)
    (h : [word t.cylinder, word (put 8 t.slot + t.head)] = [word u.cylinder, word (put 8 u.slot + u.head)]) : t = u := by
  obtain ⟨htc, hth, hts⟩ := ht
  obtain ⟨huc, huh, hus⟩ := hu
  simp only [List.cons.injEq, and_true] at h
  obtain ⟨hcylinder, hposition⟩ := h
  have hcyl := word_injective (by omega) (by omega) hcylinder
  have hnumber := congrArg BitVec.toNat hposition
  rw [position_toNat hth hts, position_toNat huh hus] at hnumber
  rw [Target.mk.injEq]
  omega

theorem rangeWord_injective {a b : Bool} {m n : Nat} (hm : m ≤ 64) (hn : n ≤ 64) (h : rangeWord a m = rangeWord b n) :
    a = b ∧ m = n := by
  have hnumber := congrArg BitVec.toNat h
  rw [rangeWord_toNat a hm, rangeWord_toNat b hn] at hnumber
  have := a.toNat_le
  have := b.toNat_le
  have hflag : a.toNat = b.toNat := by omega
  refine ⟨?_, by omega⟩
  revert hflag
  cases a <;> cases b <;> simp

theorem exclusive_injective {m n : Mode} (h : (m == .exclusive) = (n == .exclusive)) : m = n := by
  cases m <;> cases n <;> simp_all

/-- The same frame, but for the entry a CLAIM is for. -/
def FrameBody.SameFields (a b : FrameBody) : Prop :=
  match a, b with
  | .claim _ s n m, .claim _ s' n' m' => s = s' ∧ n = n' ∧ m = m'
  | _, _ => a = b

/-- Frames of one kind with the same content words have the same fields. -/
theorem FrameBody.content_injective {a b : FrameBody} {r : Nat} (ha : a.InRange) (hb : b.InRange)
    (hcode : a.code = b.code) (h : a.content r = b.content r) :
    a.SameFields b := by
  cases a <;> cases b <;> simp [FrameBody.code] at hcode
  case seek.seek c d =>
    exact congrArg _ (word_injective (by have : c ≤ 399 := ha; omega) (by have : d ≤ 399 := hb; omega) (List.head_eq_of_cons_eq h))
  case read.read => exact congrArg _ (position_injective ha hb h)
  case write.write => exact congrArg _ (position_injective ha hb h)
  case tenure.tenure c d =>
    exact congrArg _ (word_injective (by have : c ≤ 399 := ha; omega) (by have : d ≤ 399 := hb; omega) (List.head_eq_of_cons_eq h))
  case preempt.preempt k l =>
    have hwords : BitVec.ofInt 16 k = BitVec.ofInt 16 l := List.head_eq_of_cons_eq h
    exact congrArg _ (by rw [← slack_toInt ha.1 ha.2, ← slack_toInt hb.1 hb.2, hwords])
  case claim.claim id s n m id' s' n' m' =>
    obtain ⟨-, hn, hs⟩ := ha
    obtain ⟨-, hn', hs'⟩ := hb
    simp only [FrameBody.content, List.cons.injEq, and_true] at h
    obtain ⟨hflag, hcount⟩ := rangeWord_injective hn hn' h.2
    exact ⟨word_injective (by omega) (by omega) h.1, hcount, exclusive_injective hflag⟩
  case free.free s n w s' n' w' =>
    obtain ⟨-, hn, hs⟩ := ha
    obtain ⟨-, hn', hs'⟩ := hb
    simp only [FrameBody.content, List.cons.injEq, and_true] at h
    obtain ⟨hflag, hcount⟩ := rangeWord_injective hn hn' h.2
    have hstart := word_injective (by omega) (by omega) h.1
    exact (FrameBody.free.injEq ..).mpr ⟨hstart, hcount, hflag⟩
  all_goals rfl

theorem frameWords_injective {station : Bool} {c d : Nat} {l m : List Word} (hc : c < 32) (hd : d < 32)
    (h : frameWords station c l = frameWords station d m) : c = d ∧ l = m := by
  have hkind := congrArg frameKind h
  have hcontent := congrArg (fun w => w.tail.dropLast) h
  rw [frameKind_frameWords station l hc, frameKind_frameWords station m hd] at hkind
  simp only [content_frameWords] at hcontent
  exact ⟨hkind, hcontent⟩

/-- Settles O54. -/
theorem sentFramesAreValidAndExact : Obligations.SentFramesAreValidAndExact := by
  refine ⟨fun station code content hcode => ⟨wordSum_withCheck _, frameKind_frameWords station content hcode,
    frameSource_frameWords station content hcode, content_frameWords _ _ _, length_frameWords _ _ _,
    frameValid_frameWords station hcode, ?_⟩, ?_⟩
  · rintro b r hr hr' rfl rfl hrange
    refine frameValid_frameWords station hcode (FrameBody.contentOk_content ?_ hr hr')
    cases b <;> exact hrange
  · intro r a b station _ _ inRange ha hb hwords
    obtain ⟨hcode, hcontent⟩ := frameWords_injective a.code_lt b.code_lt hwords
    have hinRange : ∀ f : FrameBody, inRange f → f.InRange := fun f hf => by cases f <;> exact hf
    have hsame := FrameBody.content_injective (hinRange a ha) (hinRange b hb) hcode hcontent
    cases a <;> cases b <;> exact hsame

end Sys2Proof.Machine
end

section
/-! The legal fields of an element, kind by kind (R45, R186; O18). -/

namespace Sys2Proof.Machine

open Sys2Proof

/-! Spare bits: a mask says which bits of a word are 0. -/

/-- No spare bit is 1: every bit outside `used` is 0. -/
theorem spareBits_eq_false_iff (w used : Word) :
    spareBits w used = false ↔ ∀ i : Fin 16, used.getLsbD i = false → w.toNat / 2 ^ i.val % 2 = 0 := by
  have hbit : ∀ i : Fin 16, (w.toNat / 2 ^ i.val % 2 = 0 ↔ w.getLsbD i = false) := fun i => by
    rw [getLsbD_eq_decide, decide_eq_false_iff_not]
    omega
  simp only [hbit, spareBits, bne_eq_false_iff_eq]
  constructor
  · intro h i hused
    have hzero := congrArg (fun x => x.getLsbD i.val) h
    simpa only [BitVec.getLsbD_and, BitVec.getLsbD_not, hused, i.isLt, decide_true, Bool.not_false, Bool.and_true,
      BitVec.ofNat_eq_ofNat, BitVec.getLsbD_zero] using hzero
  · intro h
    refine BitVec.eq_of_getLsbD_eq fun i hi => ?_
    have hi' := h ⟨i, hi⟩
    cases hused : used.getLsbD i <;> simp_all

/-- No bit of the word is used. -/
theorem spareBits_none (w : Word) : spareBits w 0 = false ↔ w = 0 := by
  have hall : w &&& 65535#16 = w := BitVec.and_allOnes
  simp [spareBits, hall]

/-- Every bit of the word is used. -/
theorem spareBits_all (w : Word) : spareBits w 0xFFFF = false := by simp [spareBits]

/-- The masks of 11.3, each as the numbers it lets stand. -/
theorem spareBits_masks (w : Word) :
    (spareBits w 0xFFF8 = false ↔ w.toNat % 8 = 0) ∧ (spareBits w 0xFFF0 = false ↔ w.toNat % 16 = 0) ∧
      (spareBits w 0xFFE0 = false ↔ w.toNat % 32 = 0) ∧
      (spareBits w 0xFFE8 = false ↔ w.toNat % 8 = 0 ∧ w.toNat / 16 % 2 = 0) ∧
      (spareBits w 0xFF00 = false ↔ w.toNat % 256 = 0) ∧ (spareBits w 0x007F = false ↔ w.toNat < 128) ∧
      (spareBits w 0x077F = false ↔ w.toNat / 2048 = 0 ∧ w.toNat / 128 % 2 = 0) ∧
      (spareBits w 0x1F07 = false ↔ w.toNat / 8192 = 0 ∧ w.toNat % 256 ≤ 7) ∧
      (spareBits w 0x8003 = false ↔ w.toNat % 32768 ≤ 3) ∧ (spareBits w 0x0003 = false ↔ w.toNat ≤ 3) ∧
      (spareBits w 0x1F3F = false ↔ w.toNat / 8192 = 0 ∧ w.toNat % 256 ≤ 63) ∧
      (spareBits w 0x3F0F = false ↔ w.toNat / 16384 = 0 ∧ w.toNat % 256 ≤ 15) ∧
      (spareBits w 1 = false ↔ w.toNat ≤ 1) := by
  have := w.isLt
  simp only [spareBits_eq_false_iff, Fin.forall_fin_succ, IsEmpty.forall_iff]
  refine ⟨?_, ?_, ?_, ?_, ?_, ?_, ?_, ?_, ?_, ?_, ?_, ?_, ?_⟩ <;> simp <;> omega

/-! The fields the checks look at. -/

theorem legalFields_iff (k : ElementKind) (e : Element) :
    legalFields k e = true ↔ e.w0.toNat / 256 % 16 ≤ 13 ∧ noSpareBits k e = true ∧ countLegal k e = true ∧
      fieldsInRange k e = true := by
  have hcondition : decide (e.condition ≤ 13) = true ↔ e.w0.toNat / 256 % 16 ≤ 13 := decide_eq_true_iff
  rw [legalFields, Bool.and_eq_true, Bool.and_eq_true, Bool.and_eq_true, hcondition, and_assoc, and_assoc]

/-- Words 6 to 11 have no content (SCAN apart). -/
def NoKey (e : Element) : Prop := e.w6 = 0 ∧ e.w7 = 0 ∧ e.w8 = 0 ∧ e.w9 = 0 ∧ e.w10 = 0 ∧ e.w11 = 0

theorem noSpareBits_iff {k : ElementKind} {e : Element} {m0 m1 m2 m3 m4 m5 : Word}
    (hused : usedBits k = [m0, m1, m2, m3, m4, m5]) :
    noSpareBits k e = true ↔ (spareBits e.w0 m0 = false ∧ spareBits e.w1 m1 = false ∧ spareBits e.w2 m2 = false ∧
      spareBits e.w3 m3 = false ∧ spareBits e.w4 m4 = false ∧ spareBits e.w5 m5 = false) ∧
      (k = .disk .scan ∨ NoKey e) := by
  simp [noSpareBits, hused, NoKey, and_assoc]

theorem late_iff (e : Element) : e.w0.getLsbD 4 = false ↔ e.w0.toNat / 16 % 2 = 0 := by
  rw [getLsbD_eq_decide, decide_eq_false_iff_not]
  omega

theorem getLsbD_seven_iff (w : Word) : w.getLsbD 7 = false ↔ w.toNat / 128 % 2 = 0 := by
  rw [getLsbD_eq_decide, decide_eq_false_iff_not]
  omega

theorem word_eq_zero_iff (w : Word) : w = 0 ↔ w.toNat = 0 := BitVec.toNat_inj.symm

theorem word_eq_one_iff (w : Word) : w = 1 ↔ w.toNat = 1 := BitVec.toNat_inj.symm

theorem word_eq_two_iff (w : Word) : w = 2 ↔ w.toNat = 2 := BitVec.toNat_inj.symm

/-- Settles O18: the masks of the layout, and the ranges of R45, as numbers. -/
theorem legalFieldsAreThoseOfTheLayout : Obligations.LegalFieldsAreThoseOfTheLayout := by
  intro k e later condition selector count options noLate
  have hmask := spareBits_masks
  have hnone := spareBits_none
  have hall := spareBits_all
  have h0 := e.w0.isLt
  have h1 := e.w1.isLt
  have h2 := e.w2.isLt
  have h3 := e.w3.isLt
  rw [legalFields_iff]
  refine and_congr_right fun _ => ?_
  match k with
  | .unassigned => simp [fieldsInRange]
  | .disk .read | .disk .write | .disk .append | .disk .compare | .disk .scan | .disk .directRead | .disk .directWrite |
    .hold .shared | .hold .exclusive | .unhold | .select | .inspect .descriptor | .inspect .lineRecord |
    .inspect .positionRecord | .setClock | .maintain =>
    rw [noSpareBits_iff rfl]
    simp only [hmask, hnone, hall, countLegal, fieldsInRange, Bool.and_eq_true, Bool.or_eq_true, decide_eq_true_eq,
      bne_iff_ne, beq_iff_eq, reduceCtorEq, ElementKind.disk.injEq, false_or, true_or, and_true, true_and]
    simp only [Element.count, Element.keyLength, Element.direct, Element.targetCode, Element.maintainValue, field, NoKey,
      options, selector, count, later, noLate, late_iff, getLsbD_seven_iff, word_eq_zero_iff, word_eq_one_iff,
      word_eq_two_iff]
    omega

end Sys2Proof.Machine
end

section
/-! A fetched element (R44 to R47): what a command that brings one does, said once. -/

namespace Sys2Proof.Machine

open Sys2Proof

/-- What a command does with an element that passed the checks of R44 to R46. -/
def route : Instr → ElemInfo → State → State
  | .read e => State.routeDisk .read e
  | .write e => State.routeDisk .write e
  | .append e => State.routeDisk .append e
  | .compare e => State.routeDisk .compare e
  | .scan e => State.routeDisk .scan e
  | .directRead e => State.routeDisk .directRead e
  | .directWrite e => State.routeDisk .directWrite e
  | .holdShared e => State.routeHold .shared e
  | .holdExclusive e => State.routeHold .exclusive e
  | .unhold e => State.routeUnhold e
  | .select e => State.routeSelect e
  | .inspectDescriptor e => State.inspectDescriptor e
  | .inspectLineRecord e => State.inspectLine e
  | .inspectPositionRecord e => State.inspectPosition e
  | .setClock e => State.routeClock e
  | .maintainOn _ => State.routeMaintainOn
  | .maintainOff _ => State.routeMaintainOff
  | _ => fun _ s => s

theorem exec_element {c : Instr} {k : ElementKind} {e : Element} (h : elementOf c = some (k, e)) (s : State) :
    exec c s = .next (s.begin.takeElement k e (route c)) := by
  cases c <;> simp only [elementOf, Option.some.injEq, Prod.mk.injEq, reduceCtorEq] at h
  all_goals
    obtain ⟨rfl, rfl⟩ := h
    rfl

theorem elementOf_diskCommand (k : RequestKind) (e : Element) : elementOf (diskCommand k e) = some (.disk k, e) := by
  cases k <;> rfl

theorem route_diskCommand (k : RequestKind) (e : Element) : route (diskCommand k e) = State.routeDisk k e := by
  cases k <;> rfl

theorem elementOf_holdCommand (m : Mode) (e : Element) : elementOf (holdCommand m e) = some (.hold m, e) := by
  cases m <;> rfl

theorem route_holdCommand (m : Mode) (e : Element) : route (holdCommand m e) = State.routeHold m e := by
  cases m <;> rfl

/-- The fetch under way brings the element: the branches of R44 to R46, on the state right after the fetch. -/
theorem exec_fetched {c : Instr} {k : ElementKind} {e : Element} {n : Fin 4} {s : State}
    (h : elementOf c = some (k, e)) (hfetch : s.hp.current = some (.fetch n)) :
    exec c s = .next (
      if (s.chain n).state ≠ .running then (fetched s n).takeUnexamined (infoOf s n k e)
      else if legalFields k e = false then (fetched s n).takeIllegal (infoOf s n k e)
      else if runCondition e.condition (s.chain n).flags = false then
        (fetched s n).completePlain (infoOf s n k e) .skipped none (selectorPlace (s.chain n) k e)
      else route c (infoOf s n k e) (fetched s n)) := by
  rw [exec_element h]
  exact congrArg _ (State.takeElement_of_fetch (s := s.begin) hfetch)

/-- An element that is carried out goes to its kind's part (R47). -/
theorem exec_runs {c : Instr} {k : ElementKind} {e : Element} {n : Fin 4} {s : State} (h : elementOf c = some (k, e))
    (hruns : Runs s n k e) : exec c s = .next (route c (infoOf s n k e) (fetched s n)) := by
  obtain ⟨hfetch, hrunning, hlegal, hcondition⟩ := hruns
  simp [exec_fetched h hfetch, hrunning, hlegal, hcondition]

theorem fetched_completePlain (s : State) (n : Fin 4) (k : ElementKind) (e : Element) {st : Status}
    (f : Option ElementFault) (place : Option (Table × Nat)) (h : st ≠ .expired) :
    (fetched s n).completePlain (infoOf s n k e) st f place = completing (fetched s n) (plainCompletion s n k e st f place) := by
  cases st with
  | expired => exact absurd rfl h
  | _ => rfl

theorem fetched_completeOnlyF (s : State) (n : Fin 4) (k : ElementKind) (e : Element) (f : ElementFault)
    (place : Option (Table × Nat)) :
    (fetched s n).completeOnlyF (infoOf s n k e) f false place =
      completing (fetched s n) { plainCompletion s n k e .fault (some f) place with effect := .onlyF } := rfl

/-- The place of an element that carries a selector is the one it resolves to (R24, R51). -/
theorem selectorPlace_eq (s : State) (n : Fin 4) (k : ElementKind) (e : Element) :
    selectorPlace (s.chain n) k e =
      if k.hasSelector then some ((selectorOf s n k e).table, (selectorOf s n k e).index) else none := by
  simp [selectorPlace, resolveSelector, selectorOf]

theorem legalFields_unassigned (e : Element) : legalFields .unassigned e = false := by
  simp [legalFields, fieldsInRange]

theorem runCondition_table (g : ChainFlags) : (List.range 14).map (fun code => runCondition code g) =
    [true, false, !g.f, g.f, g.m, !g.m, !g.l, g.l, !g.c, g.c, !g.s, g.s, !g.p, g.p] := rfl

/-- Settles O17. -/
theorem elementsNotCarriedOutComplete : Obligations.ElementsNotCarriedOutComplete := by
  refine ⟨fun c k e n s helement hfetch => ⟨fun hstate hadapter => ?_, fun hstate hadapter => ?_,
    fun hstate hlegal hkind => ?_, fun hstate hkind => ?_⟩, runCondition_table,
    fun c k e n s helement hfetch hstate hlegal hcondition => ?_⟩
  · have hsilenced : (fetched s n).hp.adapter ≠ .silenced := hadapter
    rw [exec_fetched helement hfetch, if_pos hstate, State.takeUnexamined, if_neg hsilenced,
      fetched_completePlain s n k e none none (by simp)]
  · have hsilenced : (fetched s n).hp.adapter = .silenced := hadapter
    rw [exec_fetched helement hfetch, if_pos hstate, State.takeUnexamined, if_pos hsilenced, fetched_completeOnlyF]
  · rw [exec_fetched helement hfetch, if_neg (not_not.mpr hstate), if_pos hlegal, State.takeIllegal,
      if_neg (show (infoOf s n k e).kind ≠ .unassigned from hkind), fetched_completePlain s n k e _ none (by simp)]
  · subst hkind
    rw [exec_fetched helement hfetch, if_neg (not_not.mpr hstate), if_pos (legalFields_unassigned e), State.takeIllegal,
      if_pos (show (infoOf s n .unassigned e).kind = .unassigned from rfl), fetched_completeOnlyF]
  · rw [exec_fetched helement hfetch, if_neg (not_not.mpr hstate), if_neg (by simp [hlegal]), if_pos hcondition,
      fetched_completePlain s n k e none _ (by simp), selectorPlace_eq]

end Sys2Proof.Machine
end

section
/-! Outcome bits and flags (R50, R52; O14): a completion asked anew that says EXPIRED has L set and F clear. -/

namespace Sys2Proof.Machine

open Sys2Proof

-- One proof at a time: proofs elaborated together wait for one another on threads of their own, which the check's
-- memory limit counts.
set_option Elab.async false

/-- R50: an EXPIRED completion has L set and F clear. -/
def Completion.ExpiredFlagged (c : Completion) : Prop := c.status = .expired → c.bits.l = true ∧ c.bits.f = false

/-- A completion asked in `t` and not in `s` is flagged as R50 says. -/
def Flags (s t : State) : Prop := ∀ c ∈ asked t, c ∈ asked s ∨ c.ExpiredFlagged

theorem Flags.of_subset {s t : State} (h : Asks t s) : Flags s t := fun c hc => .inl (h c hc)

theorem Flags.of_eq {s t : State} (h : t.hp.waiting = s.hp.waiting) (k : t.hp.heldBack = s.hp.heldBack) : Flags s t :=
  .of_subset (.of_eq h.symm k.symm)

theorem Flags.of_hp {s t : State} (h : t.hp = s.hp) : Flags s t := .of_eq (by rw [h]) (by rw [h])

theorem Flags.refl (s : State) : Flags s s := .of_hp rfl

theorem Flags.trans {s t u : State} (h : Flags s t) (k : Flags t u) : Flags s u := fun c hc =>
  (k c hc).elim (h c) .inr

theorem Flags.foldl {β : Type} {f : State → β → State} (h : ∀ s b, Flags s (f s b)) (l : List β) (s : State) :
    Flags s (l.foldl f s) := by
  induction l generalizing s with
  | nil => exact .refl s
  | cons b l ih => exact (h s b).trans (ih _)

theorem Completion.expiredFlagged_of_outcomeBits {c : Completion} {m late ch sh p : Bool}
    (h : c.bits = outcomeBits c.status m late ch sh p) : c.ExpiredFlagged := by
  intro he
  simp [h, he, outcomeBits]

theorem Completion.expiredFlagged_of_ne {c : Completion} (h : c.status ≠ .expired) : c.ExpiredFlagged :=
  fun he => absurd he h

theorem State.complete_flags (s : State) {c : Completion} (h : c.ExpiredFlagged) : Flags s (s.complete c) := by
  intro x hx
  rcases mem_asked.mp hx with hx | ⟨i, hx⟩
  · simp only [State.complete, State.askTransfer, State.onHp_hp, List.mem_append, List.mem_singleton,
      Transfer.completion.injEq] at hx
    rcases hx with hx | rfl
    · exact .inl (mem_asked.mpr (.inl hx))
    · exact .inr h
  · exact .inl (mem_asked.mpr (.inr ⟨i, hx⟩))

theorem State.completeAfterData_flags (s : State) (id : Nat) {c : Completion} (h : c.ExpiredFlagged) :
    Flags s (s.completeAfterData id c) := by
  simp only [State.completeAfterData]
  split
  · intro x hx
    rcases mem_asked.mp hx with hx | ⟨i, hx⟩
    · exact .inl (mem_asked.mpr (.inl hx))
    · simp only [State.onHp_hp, List.mem_append, List.mem_singleton, Prod.mk.injEq] at hx
      rcases hx with hx | ⟨-, rfl⟩
      · exact .inl (mem_asked.mpr (.inr ⟨i, hx⟩))
      · exact .inr h
  · exact s.complete_flags h

/-! The Hold Manager. -/

theorem State.completeHold_flags (s : State) (e : HoldEntry) (st : Status) (f : Option ElementFault) (p : Bool) :
    Flags s (s.completeHold e st f p) := by
  simp only [State.completeHold]
  split
  · exact .refl s
  · exact s.complete_flags (Completion.expiredFlagged_of_outcomeBits rfl)

theorem State.completeUnhold_flags (s : State) (e : HoldEntry) : Flags s (s.completeUnhold e) := by
  simp only [State.completeUnhold]
  split
  · exact .refl s
  · exact s.complete_flags (Completion.expiredFlagged_of_ne (by simp [State.outcome]))

theorem State.onEntry_flags (s : State) (id : Nat) (f : HoldEntry → HoldEntry) : Flags s (s.onEntry id f) := .of_hp rfl

theorem State.becomeHeld_flags (s : State) (id : Nat) (silent : Bool) : Flags s (s.becomeHeld id silent) := by
  simp only [State.becomeHeld]
  split
  · exact .refl s
  · exact .trans (.of_hp (by simp)) (State.completeHold_flags _ _ _ _ _)

theorem State.joinList_flags (s : State) (e : HoldEntry) : Flags s (s.joinList e) := by
  simp only [State.joinList]
  split
  · exact .trans (.of_hp rfl) (State.becomeHeld_flags _ _ _)
  · exact .of_hp (by simp)

theorem State.recheckLine_flags (s : State) : Flags s s.recheckLine := by
  refine .foldl (fun s e => ?_) _ _
  simp only [State.recheckEntry]
  split
  · exact .refl s
  · exact .trans (.of_hp rfl) (State.joinList_flags _ _)

theorem State.removeEntry_flags (s : State) (e : HoldEntry) : Flags s (s.removeEntry e) := by
  simp only [State.removeEntry]
  split
  · exact .trans (.of_hp (by split <;> simp)) (State.recheckLine_flags _)
  · exact .of_hp (by split <;> simp)

theorem State.endReference_flags (s : State) (id : Nat) : Flags s (s.endReference id) := by
  simp only [State.endReference]
  repeat' split
  · exact .refl s
  · exact .trans (s.onEntry_flags _ _) (.trans (State.removeEntry_flags _ _) (State.completeUnhold_flags _ _))
  · exact s.onEntry_flags _ _
  · exact s.onEntry_flags _ _

theorem State.expireEntry_flags (s : State) (e : HoldEntry) : Flags s (s.expireEntry e) :=
  .trans (s.removeEntry_flags e) (State.completeHold_flags _ _ _ _ _)

theorem State.expireIfDue_flags (s : State) (id : Nat) : Flags s (s.expireIfDue id) := by
  grind only [State.expireIfDue, Flags.refl, State.expireEntry_flags]

theorem State.refuseEntry_flags (s : State) (id : Nat) : Flags s (s.refuseEntry id) := by
  grind only [State.refuseEntry, Flags.refl, State.expireEntry_flags, State.onEntry_flags]

/-! The queue and the engine. -/

theorem State.leaveQueue_flags (s : State) (r : Request) (st : Status) (f : Option ElementFault) (m p : Bool) :
    Flags s (s.leaveQueue r st f m p) := by
  simp only [State.leaveQueue]
  have hasked := s.completeAfterData_flags r.id (c := { s.outcome r.elem st f
    (outcomeBits st m r.late r.changedOut r.shortOut p) r.done r.extent with asksNext := !r.elem.last && !r.elem.stream })
    (Completion.expiredFlagged_of_outcomeBits rfl)
  refine hasked.trans ?_
  generalize s.completeAfterData r.id _ = t
  have hreturned : ∀ u : State, (match r.kind, r.extent with
      | .append, some (x, n) => u.onDescriptor x n fun d => d.returned r.id (r.count - r.done)
      | _, _ => u).hp = u.hp := fun u => by split <;> rfl
  have hended : Flags t (match r.hold with
      | none => t
      | some id => t.endReference id) := by
    split
    · exact .refl t
    · exact t.endReference_flags _
  exact hended.trans (.of_hp (hreturned _))

theorem State.completeRequest_flags (s : State) (r : Request) (st : Status) (f : Option ElementFault) (m : Bool) :
    Flags s (s.completeRequest r st f m) := s.leaveQueue_flags r st f m _

theorem State.discardBuf_flags (s : State) (n : BufferName) : Flags s (s.discardBuf n) := by
  simp only [State.discardBuf]
  repeat' split
  case h_5.isFalse =>
    refine .of_subset fun c hc => ?_
    rcases mem_asked.mp hc with h | ⟨i, h⟩
    · exact mem_asked.mpr (.inl (List.mem_of_mem_filter (p := fun t => !t.loads n) (by simpa using h)))
    · exact mem_asked.mpr (.inr ⟨i, by simpa using h⟩)
  all_goals exact .of_hp (by simp)

theorem State.idleEngine_flags (s : State) : Flags s s.idleEngine := by
  simp only [State.idleEngine, State.discardData]
  exact .trans (.of_hp (by simp)) (.trans (State.discardBuf_flags _ _) (.trans (State.discardBuf_flags _ _) (.of_hp rfl)))

theorem State.finish_flags (s : State) (st : Status) (f : Option ElementFault) (m : Bool) :
    Flags s (s.finish st f m) := by
  grind only [State.finish, State.idleEngine_flags, State.completeRequest_flags, Flags.trans]

theorem State.onRequest_flags (s : State) (id : Nat) (f : Request → Request) : Flags s (s.onRequest id f) := .of_hp rfl

theorem State.handBack_flags (s : State) (q : Request → RequestState) : Flags s (s.handBack q) := by
  grind only [State.handBack, State.idleEngine_flags, State.finish_flags, State.onRequest_flags, Flags.trans]

theorem State.loadOne_flags (s : State) (r : Request) : Flags s (s.loadOne r) := by
  simp only [State.loadOne]
  split
  · refine .of_subset fun c hc => ?_
    rcases mem_asked.mp hc with h | ⟨i, h⟩
    · simp only [State.askTransfer, State.onHp_hp, State.setBuf_frame, List.mem_append, List.mem_singleton, reduceCtorEq,
        or_false] at h
      exact mem_asked.mpr (.inl h)
    · exact mem_asked.mpr (.inr ⟨i, by simpa [State.askTransfer] using h⟩)
  · exact .refl s

theorem State.loadAhead_flags (s : State) : Flags s s.loadAhead := by
  grind only [State.loadAhead, State.loadOne_flags, Flags.refl, Flags.trans]

theorem State.positionAt_flags (s : State) : Flags s s.positionAt := by
  simp only [State.positionAt]
  repeat' split
  all_goals first | exact s.handBack_flags _ | exact .of_hp (by simp)

theorem State.position_flags (s : State) : Flags s s.position := by
  simp only [State.position]
  split
  · exact .refl s
  · exact .trans (.of_hp rfl) (State.positionAt_flags _)

theorem State.takeRequest_flags (s : State) (r : Request) : Flags s (s.takeRequest r) := by
  have htaken := s.onRequest_flags r.id fun x => { x with state := .active }
  have hengine : ∀ (t : State) (f : Engine → Engine), Flags t (t.onTe f) := fun _ _ => .of_hp rfl
  exact (htaken.trans (hengine _ _)).trans (.trans (State.loadAhead_flags _) (State.position_flags _))

theorem State.select_flags (s : State) : Flags s s.select := by
  rcases s.select_cases with ⟨h, _⟩ | ⟨_, ⟨h, _⟩ | ⟨q, _, h⟩⟩ <;> rw [h]
  · exact .refl s
  · exact .of_hp rfl
  · exact .trans (.of_hp rfl) (State.takeRequest_flags _ q)

theorem State.suspendAfterExchange_flags (s : State) : Flags s s.suspendAfterExchange := by
  simp only [State.suspendAfterExchange]
  repeat' split
  · exact .refl s
  · exact .refl s
  · exact .of_hp rfl
  · exact s.handBack_flags _

theorem State.offerRelease_flags (s : State) : Flags s s.offerRelease := .of_hp (by simp)

theorem State.endTenure_flags (s : State) : Flags s s.endTenure := by
  simp only [State.endTenure]
  split
  · exact .trans (.of_hp (by simp)) (.trans (State.suspendAfterExchange_flags _) (State.offerRelease_flags _))
  · exact .refl s

theorem State.engineIdled_flags (s : State) : Flags s s.engineIdled := by
  refine .trans s.select_flags (.trans ?_ (State.offerRelease_flags _))
  simp only [State.idleTenureTest]
  split
  · exact State.endTenure_flags _
  · exact .refl _

theorem State.following_flags {s : State} {act : State → State} (h : Flags s (act s)) : Flags s (s.following act) := by
  simp only [State.following]
  split
  · exact h.trans (State.engineIdled_flags _)
  · exact h

theorem State.reposition_flags (s : State) : Flags s s.reposition := State.following_flags s.position_flags

theorem State.expire_flags (s : State) (waited : Bool) (id : Nat) : Flags s (s.expire waited id) := by
  grind only [State.expire, Flags.refl, State.leaveQueue_flags, State.completeRequest_flags, State.idleEngine_flags,
    State.onRequest_flags, Flags.trans]

/-! The peer's answer to a CLAIM, and a notice silent in its place (R125). -/

theorem State.tenureGranted_flags (s : State) (c : Nat) : Flags s (s.tenureGranted c) := by
  simp only [State.tenureGranted]
  split
  · split
    · exact .of_hp (by simp)
    · exact s.reposition_flags
  · exact .refl s

theorem State.setOwn_flags (s : State) (o : OwnTenure) : Flags s (s.setOwn o) := .of_hp rfl

theorem State.tenureSettled_flags (s : State) (c : Nat) : Flags s (s.tenureSettled c) := by
  grind only [State.tenureSettled, State.holdTenure, State.setOwn_flags, State.tenureGranted_flags,
    State.endTenure_flags, State.offerRelease_flags, Flags.refl, Flags.trans]

theorem State.settleAsk_flags (s : State) (b : FrameBody) : Flags s (s.settleAsk b) := by
  cases b with
  | tenure c => grind only [State.settleAsk, State.reposition_flags, Flags.refl]
  | _ => exact .refl s

theorem State.peerAbsent_flags (s : State) : Flags s s.peerAbsent := .of_eq (by simp) (by simp)

theorem State.peerHeard_flags (s : State) : Flags s s.peerHeard := by
  simp only [State.peerHeard]
  split
  · exact .of_eq (by simp) (by simp)
  · exact .refl s

theorem State.noticeUnanswered_flags (s : State) (b : FrameBody) : Flags s (s.noticeUnanswered b) := by
  cases b with
  | tenure c => exact .trans s.peerAbsent_flags (State.tenureSettled_flags _ c)
  | claim id => exact .trans s.peerAbsent_flags (.trans (State.onEntry_flags _ _ _) (State.becomeHeld_flags _ _ _))
  | _ => exact s.peerAbsent_flags

theorem State.noticeSilent_flags (s : State) (x : Exchange) : Flags s (s.noticeSilent x) := by
  simp only [State.noticeSilent]
  refine .trans (.of_hp (t := s.endExchange) rfl) ?_
  split
  · exact .refl _
  · rcases s.endExchange.noticeSilence_cases x.frame with ⟨_, _, heq⟩ | ⟨_, heq⟩ <;> rw [heq]
    · exact .trans (.of_hp rfl) (State.settleAsk_flags _ _)
    · exact State.noticeUnanswered_flags _ _

theorem State.peerAnswer_flags (s : State) (fits : FrameBody → Bool) {act : FrameBody → State → State}
    (h : ∀ b t, Flags t (act b t)) : Flags s (s.peerAnswer fits act) := by
  have hover : ∀ t : State, Flags t t.endExchange := fun t => .of_hp rfl
  grind only [State.peerAnswer, State.peerHeard_flags, State.noticeSilent_flags, Flags.refl, Flags.trans]

theorem State.lastSlot_flags (s : State) (r : Request) : Flags s (s.lastSlot r) :=
  .trans (State.onRequest_flags _ _ _) (State.following_flags (State.expire_flags _ _ _))

/-! The table of R52, and the outcome bits in a completion record. -/

theorem State.lastSlotAt_flags (s : State) (k : Nat) (p : Request → Bool) :
    Flags s (match s.expiringAt k p with
      | none => s
      | some r => s.lastSlot r) := by
  split
  · exact .refl s
  · exact s.lastSlot_flags _

theorem State.begin_flags (s : State) : Flags s s.begin := .of_hp rfl

theorem exec_expiry_flags {k : Nat} {i : Instr} (s : State)
    (h : i = .requestExpiry k ∨ i = .holdWaitExpiry k ∨ i = .holdBudgetExpiry k ∨ i = .refuse) :
    ∃ t, exec i s = .next t ∧ Flags s t := by
  rcases h with rfl | rfl | rfl | rfl
  · exact ⟨_, rfl, .trans s.begin_flags (State.lastSlotAt_flags _ _ _)⟩
  · exact ⟨_, rfl, .trans s.begin_flags (State.lastSlotAt_flags _ _ _)⟩
  · refine ⟨_, rfl, .trans s.begin_flags ?_⟩
    split
    · exact .refl _
    split
    · exact .trans (State.onEntry_flags _ _ _) (State.expireIfDue_flags _ _)
    · exact .refl _
  · exact ⟨_, rfl, .trans s.begin_flags (State.peerAnswer_flags _ _ fun b t => t.refuseEntry_flags _)⟩

/-- The outcome bits stand in bits 15 to 10 of a record's second word (R51). -/
theorem Completion.words_bits (c : Completion) :
    ∃ w, c.words[1]? = some w ∧ w.getLsbD 15 = c.bits.f ∧ w.getLsbD 14 = c.bits.m ∧ w.getLsbD 13 = c.bits.l ∧
      w.getLsbD 12 = c.bits.c ∧ w.getLsbD 11 = c.bits.s ∧ w.getLsbD 10 = c.bits.p := by
  have hplace := placeField_lt c.place
  have hlt : c.bits.number * 1024 + placeField c.place < 65536 := by
    have := c.bits.number_lt
    omega
  have := c.bits.f.toNat_le
  have := c.bits.m.toNat_le
  have := c.bits.l.toNat_le
  have := c.bits.c.toNat_le
  have := c.bits.s.toNat_le
  have := c.bits.p.toNat_le
  refine ⟨_, by rw [c.words_eq]; rfl, getLsbD_of_word hlt ?_, getLsbD_of_word hlt ?_, getLsbD_of_word hlt ?_,
    getLsbD_of_word hlt ?_, getLsbD_of_word hlt ?_, getLsbD_of_word hlt ?_⟩ <;> simp only [ChainFlags.number] <;> omega

theorem flagsAfter_of_onlyF {c : Completion} (g : ChainFlags) (hskipped : c.status ≠ .skipped)
    (haborted : c.status ≠ .aborted) (h : c.effect = .onlyF) : flagsAfter g c = { g with f := c.bits.f } := by
  cases hs : c.status <;> simp_all [flagsAfter]

theorem flagsAfter_of_byKind {c : Completion} (g : ChainFlags) (hskipped : c.status ≠ .skipped)
    (haborted : c.status ≠ .aborted) (h : c.effect = .byKind) :
    flagsAfter g c = takeBits g (affected c.info.kind) c.bits := by
  cases hs : c.status <;> simp_all [flagsAfter]

theorem flagsAfter_of_none {c : Completion} (g : ChainFlags) (h : c.status = .skipped ∨ c.status = .aborted) :
    flagsAfter g c = g := by
  rcases h with h | h <;> simp [flagsAfter, h]

/-- The flags in the order of the table of R52. -/
def ChainFlags.list (g : ChainFlags) : List Bool := [g.f, g.m, g.l, g.c, g.s, g.p]

theorem takeBits_list (g a b : ChainFlags) {j : Nat} (hj : j < 6) :
    (takeBits g a b).list[j]? = if a.list[j]? = some true then b.list[j]? else g.list[j]? := by
  match j with
  | 0 | 1 | 2 | 3 | 4 | 5 => simp [ChainFlags.list, takeBits, apply_ite some]

theorem mem_asked_complete (s : State) (c : Completion) : c ∈ asked (s.complete c) :=
  mem_asked.mpr (.inl (by simp [State.complete, State.askTransfer]))

/-- The INSPECT of a record of the adapter asks a completion with every outcome bit clear. -/
theorem inspect_bits {i : Instr} {x : InspectTarget} {e : Element} {n : Fin 4} {s : State}
    (h : i = .inspectLineRecord e ∧ x = .lineRecord ∨ i = .inspectPositionRecord e ∧ x = .positionRecord)
    (hruns : Runs s n (.inspect x) e) :
    ∃ t, exec i s = .next t ∧
      ∃ c ∈ asked t, c.info = infoOf s n (.inspect x) e ∧ c.bits = ⟨false, false, false, false, false, false⟩ := by
  rcases h with ⟨rfl, rfl⟩ | ⟨rfl, rfl⟩
  · exact ⟨_, exec_runs rfl hruns, _, mem_asked_complete _ _, rfl, rfl⟩
  · exact ⟨_, exec_runs rfl hruns, _, mem_asked_complete _ _, rfl, rfl⟩

/-- Settles O14. -/
theorem flagsFollowTheTable : Obligations.FlagsFollowTheTable := by
  unfold Obligations.FlagsFollowTheTable
  intro row bits
  refine ⟨fun st m late c s p => ⟨?_, fun h => ?_⟩, fun e n s i x => inspect_bits, fun k i s h => ?_, fun c => ?_,
    fun g c => ⟨flagsAfter_of_none g, flagsAfter_of_onlyF g, fun hskipped haborted heffect j hj => ?_⟩⟩
  · exact beq_eq_decide _ _
  · simp [outcomeBits, h]
  · obtain ⟨t, hexec, hflags⟩ := exec_expiry_flags s h
    exact ⟨t, hexec, fun c hc he => (hflags c hc).imp_right fun hflagged => hflagged he⟩
  · obtain ⟨w, hw, hf, hm, hl, hc, hs, hp⟩ := c.words_bits
    exact ⟨w, hw, fun _ => by rw [hf, hm, hl, hc, hs, hp]⟩
  · have hrow : row c.info.kind = (affected c.info.kind).list := by
      cases c.info.kind with
      | disk k => cases k <;> rfl
      | _ => rfl
    rw [flagsAfter_of_byKind g hskipped haborted heffect, hrow]
    exact takeBits_list g _ _ hj

end Sys2Proof.Machine
end

section
/-! The setup record (R22, R23, R179 to R181, R187): its header, its images, and the tables it loads (O11, O12). -/

namespace Sys2Proof.Machine

open Sys2Proof

/-! The first test that fails, and the first condition broken. -/

theorem first_failed_cons {cond : Prop} [Decidable cond] {b : Bool} {c : RefusalCode} {l : List (Bool × RefusalCode)}
    {rest : Option RefusalCode} (hcond : cond ↔ b = false) (hrest : rest = (l.find? fun x => !x.1).map fun x => x.2) :
    (if cond then some c else rest) = (((b, c) :: l).find? fun x => !x.1).map fun x => x.2 := by
  cases b <;> simp [hcond, hrest]

theorem first_broken_cons {cond : Prop} [Decidable cond] {b : Bool} {c : RefusalCode} {l : List (Bool × RefusalCode)}
    {rest : Option RefusalCode} (hcond : cond ↔ b = true) (hrest : rest = (l.find? fun x => x.1).map fun x => x.2) :
    (if cond then some c else rest) = (((b, c) :: l).find? fun x => x.1).map fun x => x.2 := by
  cases b <;> simp [hcond, hrest]

/-- The header's tests in record order, each with the code that refuses it (R179, R187). -/
def headerTests (h : SetupHeader) : List (Bool × RefusalCode) :=
  [ ([1, 3, 7, 9, 11, 13, 17, 19].contains h.interleave.toNat, .interleave), (h.retryLimit.toNat ≤ 7, .retryLimit),
    (1 ≤ h.tenure.toNat ∧ h.tenure.toNat ≤ 15, .tenure), (h.urgency.toNat ≤ 400, .urgencyMargin),
    (h.options.toNat ≤ 1, .unassignedValue), (h.privSize.toNat ≤ 32, .privSize),
    (1 ≤ h.commSize.toNat ∧ h.commSize.toNat ≤ 32, .commSize) ]

theorem spareBits_one (w : Word) : spareBits w 1 = !decide (w.toNat ≤ 1) := by
  obtain ⟨-, -, -, -, -, -, -, -, -, -, -, -, hone⟩ := spareBits_masks w
  cases hs : spareBits w 1 <;> simp_all

theorem headerCheck_eq (h : SetupHeader) :
    h.check = ((headerTests h).find? fun x => !x.1).map fun x => x.2 := by
  simp only [SetupHeader.check, headerTests, interleaveAllowed, spareBits_one]
  refine first_failed_cons ?_ (first_failed_cons ?_ (first_failed_cons ?_ (first_failed_cons ?_ (first_failed_cons ?_
    (first_failed_cons ?_ (first_failed_cons ?_ rfl))))))
  all_goals grind

/-- The conditions an image may break, in the order of R22 and R187. -/
def imageFaults (i : Image) (x : Table) : List (Bool × RefusalCode) :=
  [ (4 ≤ i.w0.toNat / 8192, .unassignedValue), (i.w0.toNat / 8192 ≠ 0 ∧ i.w0.toNat % 64 ≠ 0, .unassignedValue),
    (i.w0.toNat / 8192 = 3 ∧ x = .common, .logInCommon),
    (i.w0.toNat / 8192 ≠ 0 ∧ 31999 < i.w1.toNat + i.w2.toNat, .beyondVolume),
    (i.w0.toNat / 8192 = 3 ∧ i.w0.getLsbD 10 = false ∧ i.w2.toNat + 1 < i.w3.toNat, .fillMark),
    (i.w0.toNat / 8192 = 3 ∧ i.w0.getLsbD 10 = true ∧ i.w2.toNat < i.w3.toNat, .fillMark),
    (i.w0.toNat / 8192 ≠ 3 ∧ i.w0.getLsbD 10 = true, .wrapOnNonLog),
    (i.w0.toNat / 8192 ≠ 3 ∧ i.w0.getLsbD 9 = true, .wrappedEverOnNonLog) ]

theorem imageCheck_eq (i : Image) (x : Table) :
    i.check x = ((imageFaults i x).find? fun y => y.1).map fun y => y.2 := by
  have hspare : field i.w0 0 6 = i.w0.toNat % 64 := by simp [field]
  simp only [Image.check, imageFaults, Image.kindCode_eq, hspare, flag]
  refine first_broken_cons ?_ (first_broken_cons ?_ (first_broken_cons ?_ (first_broken_cons ?_ (first_broken_cons ?_
    (first_broken_cons ?_ (first_broken_cons ?_ (first_broken_cons ?_ rfl)))))))
  all_goals grind

/-! The header read (R179). -/

theorem exec_setupHeaderRead {h : SetupHeader} {s : State} (hcurrent : s.hp.current = some .setupHeader) :
    exec (.setupHeaderRead h) s = .next (s.begin.endTransfer.examineHeader h) := by
  have hbegin : s.begin.hp.current = some .setupHeader := hcurrent
  simp only [exec, execSetupHeaderRead, if_pos hbegin]

theorem SetupHeader.sizes_of_check {h : SetupHeader} (hcheck : h.check = none) :
    h.privSize.toNat ≤ 32 ∧ 1 ≤ h.commSize.toNat ∧ h.commSize.toNat ≤ 32 := by
  simp only [SetupHeader.check] at hcheck
  grind

/-- A record is decided: code and place noted, the result write asked (R181). -/
theorem State.decideSetup_eq {s : State} {p : SetupProgress} (h : s.hp.progress = some p) (c : RefusalCode)
    (place : Option (Table × Nat)) :
    s.decideSetup c place = { s with hp := { s.hp with
      refusal := c
      progress := some { p with code := c, place := place }
      waiting := s.hp.waiting ++ [.setupResult] } } := by
  simp [State.decideSetup, State.refuse, State.askTransfer, State.onHp, h]

@[simp] theorem State.setupTenure_hp (s : State) : s.setupTenure.hp = s.hp := by simp [State.setupTenure]

@[simp] theorem State.offerHello_hp (s : State) : s.offerHello.hp = s.hp := by
  simp only [State.offerHello]
  split <;> simp

@[simp] theorem State.setupTenure_ec (s : State) : s.setupTenure.ec = s.ec := by simp [State.setupTenure]

@[simp] theorem State.offerHello_ec (s : State) : s.offerHello.ec = s.ec := by
  simp only [State.offerHello]
  split <;> simp

/-- Settles O11. -/
theorem setupRecordIsExaminedInOrder : Obligations.SetupRecordIsExaminedInOrder := by
  refine ⟨fun h p s hcurrent hprogress => ?_, fun i x => imageCheck_eq i x⟩
  intro tests
  have hcheck : h.check = (tests.find? fun x => !x.1).map fun x => x.2 := headerCheck_eq h
  have hnow : s.begin.endTransfer.hp.progress = some p := hprogress
  rw [exec_setupHeaderRead hcurrent]
  cases htests : tests.find? fun x => !x.1 with
  | some x =>
    obtain ⟨b, c⟩ := x
    rw [htests, Option.map_some] at hcheck
    simp only [State.examineHeader, hcheck]
    rw [State.decideSetup_eq hnow]
    rfl
  | none =>
    rw [htests, Option.map_none] at hcheck
    obtain ⟨hpriv, hcomm, -⟩ := SetupHeader.sizes_of_check hcheck
    simp only [State.examineHeader, hcheck]
    split
    case isTrue hone =>
      have hcount : h.imageCount = 0 := by simp only [SetupHeader.imageCount]; omega
      have hplaced : placedImages h [] = [] := by
        have hp : h.privSize.toNat = 0 := by omega
        have hq : h.commSize.toNat = 1 := by omega
        simp [placedImages, imagePlaces, hp, hq]
      have hp : h.privSize.toNat = 0 := by omega
      have hq : h.commSize.toNat = 1 := by omega
      refine ⟨_, rfl, ?_⟩
      rw [if_pos hcount, State.examineImages]
      simp only [hplaced, firstImageFault, State.acceptSetup]
      rw [State.decideSetup_eq (p := { p with header := some h })]
      · simp [loadTables, hp, hq, State.endTransfer, State.begin]
      · exact (State.offerHello_hp _).trans (State.setupTenure_hp _) ▸ by simp [State.endTransfer, State.begin, hprogress]
    case isFalse hmore =>
      have hcount : h.imageCount ≠ 0 := by simp only [SetupHeader.imageCount]; omega
      rw [if_neg hcount]
      simp [State.askTransfer, State.onHp, State.endTransfer, State.begin, hprogress]

end Sys2Proof.Machine
end

section
/-! The images of a setup record: examined in record order, or loaded (R21 to R23, R180, R181; O12). -/

namespace Sys2Proof.Machine

open Sys2Proof

/-! The first image at fault (R22). -/

theorem firstImageFault_eq_none {l : List ((Table × Nat) × Image)} (h : ∀ x ∈ l, x.2.check x.1.1 = none) :
    firstImageFault l = none := by
  induction l with
  | nil => rfl
  | cons x l ih =>
    simp only [firstImageFault, h x List.mem_cons_self]
    exact ih fun y hy => h y (List.mem_cons_of_mem _ hy)

theorem firstImageFault_eq_some {l : List ((Table × Nat) × Image)} {j : Nat} {p : Table × Nat} {i : Image}
    {c : RefusalCode} (hj : l[j]? = some (p, i)) (hc : i.check p.1 = some c)
    (hbefore : ∀ m < j, ∀ q u, l[m]? = some (q, u) → u.check q.1 = none) : firstImageFault l = some (c, p) := by
  induction l generalizing j with
  | nil => simp at hj
  | cons x l ih =>
    cases j with
    | zero =>
      obtain rfl : x = (p, i) := by simpa using hj
      simp only [firstImageFault, hc]
    | succ j =>
      obtain ⟨q, u⟩ := x
      simp only [firstImageFault, hbefore 0 (Nat.succ_pos j) q u rfl]
      exact ih (by simpa using hj) fun m hm q' u' h => hbefore (m + 1) (Nat.succ_lt_succ hm) q' u' (by simpa using h)

/-! The places of the images (R22). -/

/-- The place of the `j`-th image of a record. -/
def recordPlace (h : SetupHeader) (j : Nat) : Table × Nat :=
  if j < h.privSize.toNat then (.priv, j) else (.common, j - h.privSize.toNat + 1)

theorem imagePlaces_length (p q : Nat) : (imagePlaces p q).length = p + (q - 1) := by simp [imagePlaces]

theorem imagePlaces_getElem? {h : SetupHeader} {j : Nat} (hcomm : 1 ≤ h.commSize.toNat)
    (hj : j < h.privSize.toNat + h.commSize.toNat - 1) :
    (imagePlaces h.privSize.toNat h.commSize.toNat)[j]? = some (recordPlace h j) := by
  simp only [imagePlaces, recordPlace]
  split
  case isTrue hlt => simp [List.getElem?_append_left, hlt]
  case isFalse hge =>
    rw [List.getElem?_append_right (by simpa using Nat.le_of_not_lt hge)]
    simp only [List.length_map, List.length_range, List.getElem?_map]
    rw [List.getElem?_range (by omega)]
    rfl

/-- Each image at its place, where the record brings as many as its header says. -/
theorem placedImages_eq {h : SetupHeader} {images : List Image}
    (hlength : images.length = h.privSize.toNat + (h.commSize.toNat - 1)) :
    placedImages h images = (imagePlaces h.privSize.toNat h.commSize.toNat).zip images := by
  have hsame := (imagePlaces_length h.privSize.toNat h.commSize.toNat).trans hlength.symm
  have happend := List.zip_append (r₁ := []) (r₂ := List.replicate (imagePlaces h.privSize.toNat h.commSize.toNat).length
    Image.zero) hsame
  simpa [placedImages] using happend

theorem placedImages_getElem? {h : SetupHeader} {images : List Image} {j : Nat} {i : Image}
    (hcomm : 1 ≤ h.commSize.toNat) (hlength : images.length = h.privSize.toNat + (h.commSize.toNat - 1)) :
    (placedImages h images)[j]? = some (recordPlace h j, i) ↔ images[j]? = some i := by
  rw [placedImages_eq hlength, List.getElem?_zip_eq_some]
  refine ⟨fun hp => hp.2, fun hi => ⟨imagePlaces_getElem? hcomm ?_, hi⟩⟩
  have := (List.getElem?_eq_some_iff.mp hi).1
  omega

theorem placedImages_mem {h : SetupHeader} {images : List Image} (hcomm : 1 ≤ h.commSize.toNat)
    (hlength : images.length = h.privSize.toNat + (h.commSize.toNat - 1)) {x : (Table × Nat) × Image}
    (hx : x ∈ placedImages h images) : ∃ j < images.length, images[j]? = some x.2 ∧ x.1 = recordPlace h j := by
  obtain ⟨j, hj⟩ := List.mem_iff_getElem?.mp hx
  have hzip := hj
  rw [placedImages_eq hlength, List.getElem?_zip_eq_some] at hzip
  obtain ⟨hplace, himage⟩ := hzip
  have hlt := (List.getElem?_eq_some_iff.mp himage).1
  rw [imagePlaces_getElem? hcomm (by omega)] at hplace
  exact ⟨j, hlt, himage, (Option.some.inj hplace).symm⟩

/-! The tables loaded (R21, R23). -/

theorem fillTable_getD (l : List Descriptor) (j : Nat) (hj : j < 32) : (fillTable l).getD j .empty = l.getD j .empty := by
  simp only [fillTable, List.getD_eq_getElem?_getD, List.getElem?_take, if_pos (show j < Config.tablePositions from hj)]
  by_cases hlt : j < l.length
  · rw [List.getElem?_append_left hlt]
  · rw [List.getElem?_append_right (by omega), List.getElem?_eq_none (l := l) (by omega), List.getElem?_replicate]
    split <;> rfl

theorem filter_zip_places {t u : Table} (f : Nat → Nat) (l : List Nat) (images : List Image) :
    ((l.map fun i => (t, f i)).zip images).filter (fun x => x.1.1 == u) =
      if t = u then (l.map fun i => (t, f i)).zip images else [] := by
  have htable : ∀ x ∈ (l.map fun i => (t, f i)).zip images, x.1.1 = t := by
    intro x hx
    obtain ⟨i, -, hi⟩ := List.mem_map.mp (List.of_mem_zip hx).1
    exact hi ▸ rfl
  split
  case isTrue h => exact List.filter_eq_self.mpr fun x hx => by simp [htable x hx, h]
  case isFalse h => exact List.filter_eq_nil_iff.mpr fun x hx => by simp [htable x hx, h]

/-- The images of the Private table stand first in the record, those of the Common table behind them. -/
theorem loadTables_lists {h : SetupHeader} {images : List Image}
    (hlength : images.length = h.privSize.toNat + (h.commSize.toNat - 1)) :
    (loadTables h (placedImages h images)).priv = fillTable ((images.take h.privSize.toNat).map Image.descriptor) ∧
      (loadTables h (placedImages h images)).comm =
        fillTable (Descriptor.empty :: (images.drop h.privSize.toNat).map Image.descriptor) := by
  have htake : (images.take h.privSize.toNat).length = h.privSize.toNat := by
    rw [List.length_take]
    omega
  have hdrop : (images.drop h.privSize.toNat).length = h.commSize.toNat - 1 := by
    rw [List.length_drop]
    omega
  have hsplit : placedImages h images =
      ((List.range h.privSize.toNat).map fun i => (Table.priv, i)).zip (images.take h.privSize.toNat) ++
        ((List.range (h.commSize.toNat - 1)).map fun i => (Table.common, i + 1)).zip (images.drop h.privSize.toNat) := by
    rw [placedImages_eq hlength, imagePlaces, ← List.zip_append (by simp [htake]), List.take_append_drop]
  have hdescriptors : ∀ (places : List (Table × Nat)) (l : List Image), l.length ≤ places.length →
      (places.zip l).map (fun x => x.2.descriptor) = l.map Image.descriptor := by
    intro places l hle
    rw [← List.map_snd_zip hle, List.map_map]
    simp [List.map_snd_zip hle, Function.comp_def]
  constructor
  · simp only [loadTables, hsplit, List.filter_append, filter_zip_places, filter_zip_places (fun i => i), reduceIte,
      reduceCtorEq, List.append_nil]
    rw [hdescriptors _ _ (by simp)]
  · simp only [loadTables, hsplit, List.filter_append, filter_zip_places, filter_zip_places (fun i => i), reduceIte,
      reduceCtorEq, List.nil_append]
    rw [hdescriptors _ _ (by simp; omega)]

/-- The `j`-th image is loaded at its place. -/
theorem loadTables_get {h : SetupHeader} {images : List Image} {j : Nat} {i : Image} (hpriv : h.privSize.toNat ≤ 32)
    (hcomm : 1 ≤ h.commSize.toNat) (hcomm' : h.commSize.toNat ≤ 32)
    (hlength : images.length = h.privSize.toNat + (h.commSize.toNat - 1)) (hi : images[j]? = some i) :
    (loadTables h (placedImages h images)).get (recordPlace h j).1 (recordPlace h j).2 = i.descriptor := by
  obtain ⟨hprivate, hcommon⟩ := loadTables_lists hlength
  have hj := (List.getElem?_eq_some_iff.mp hi).1
  simp only [recordPlace]
  split
  case isTrue hlt =>
    simp only [Extents.get, hprivate]
    rw [fillTable_getD _ _ (by omega), List.getD_eq_getElem?_getD, List.getElem?_map, List.getElem?_take, if_pos hlt, hi]
    rfl
  case isFalse hge =>
    simp only [Extents.get, hcommon]
    rw [fillTable_getD _ _ (by omega), List.getD_eq_getElem?_getD, List.getElem?_cons_succ, List.getElem?_map,
      List.getElem?_drop, Nat.add_sub_cancel' (Nat.le_of_not_lt hge), hi]
    rfl

/-- The positions behind the last image are EMPTY, and Common index 0 is the null descriptor. -/
theorem loadTables_empty {h : SetupHeader} {images : List Image}
    (hlength : images.length = h.privSize.toNat + (h.commSize.toNat - 1)) :
    (loadTables h (placedImages h images)).get .common 0 = .empty ∧
      (∀ j < 32, h.privSize.toNat ≤ j → (loadTables h (placedImages h images)).get .priv j = .empty) ∧
      ∀ j < 32, 1 ≤ h.commSize.toNat → h.commSize.toNat ≤ j →
        (loadTables h (placedImages h images)).get .common j = .empty := by
  obtain ⟨hprivate, hcommon⟩ := loadTables_lists hlength
  refine ⟨?_, fun j hj hle => ?_, fun j hj hpos hle => ?_⟩
  · simp only [Extents.get, hcommon]
    rw [fillTable_getD _ _ (by decide)]
    rfl
  · simp only [Extents.get, hprivate]
    rw [fillTable_getD _ _ hj, List.getD_eq_getElem?_getD, List.getElem?_eq_none (by simp; omega)]
    rfl
  · simp only [Extents.get, hcommon]
    rw [fillTable_getD _ _ hj, List.getD_eq_getElem?_getD, List.getElem?_eq_none (by simp; omega)]
    rfl

/-- What an image without fault loads, field by field (R22, R23). -/
theorem descriptor_fields {i : Image} {x : Table} (h : i.check x = none) :
    (i.w0.toNat / 8192 = 0 → i.descriptor = .empty) ∧
      (i.w0.toNat / 8192 ≠ 0 →
        i.descriptor.kind =
          (if i.w0.toNat / 8192 = 1 then .fixed else if i.w0.toNat / 8192 = 2 then .working else .log) ∧
        i.descriptor.level = i.w0.toNat / 2048 % 4 ∧ i.descriptor.base = i.w1.toNat ∧
        i.descriptor.limit = i.w2.toNat ∧
        i.descriptor.fill = (if i.w0.toNat / 8192 = 3 then i.w3.toNat else 0) ∧
        i.descriptor.wrap = (decide (i.w0.toNat / 8192 = 3) && i.w0.getLsbD 10) ∧
        i.descriptor.wrappedEver = (decide (i.w0.toNat / 8192 = 3) && i.w0.getLsbD 9) ∧
        i.descriptor.accessed = false ∧ i.descriptor.written = false ∧ i.descriptor.changed = false ∧
        i.descriptor.reserved = 0 ∧ i.descriptor.owner = none) := by
  have hkind : i.w0.toNat / 8192 < 4 := by
    simp only [Image.check, Image.kindCode_eq] at h
    grind
  have hcode : i.kindCode = i.w0.toNat / 8192 := Image.kindCode_eq
  generalize i.w0.toNat / 8192 = k at hkind hcode
  match k with
  | 0 | 1 | 2 | 3 => simp [Image.descriptor, hcode, field, flag]

/-! Accepted (R180). -/

theorem State.setupTenure_of_none {s : State} (h : s.tm.own = .none) :
    s.setupTenure = { s with tm := { s.tm with presence := .unknown, courtesy := false } } := by
  cases hcourtesy : s.tm.courtesy <;>
    simp [State.setupTenure, State.endCourtesy, State.onTm, hcourtesy, h]

theorem State.offerHello_eq (s : State) :
    s.offerHello = { s with lu := { s.lu with frames := s.lu.frames ++
      if s.hp.adapter = .silenced ∨ s.lu.frames.any (fun f => f.body = .hello) then [] else [⟨.hello, 0, 0, false⟩] } } := by
  have hpending : s.lu.isPending FrameBody.isHello = s.lu.frames.any (fun f => f.body = .hello) := by
    refine congrArg s.lu.frames.any (funext fun f => ?_)
    cases f.body <;> rfl
  simp only [State.offerHello, hpending, State.offer, State.onLu]
  by_cases hstands : s.lu.frames.any (fun f => f.body = .hello) = true
  · simp only [hstands, reduceIte, or_true, List.append_nil]
  · by_cases hsilenced : s.hp.adapter = .silenced <;> simp [hstands, hsilenced]

theorem exec_setupImagesRead {images : List Image} {s : State} {p : SetupProgress} {h : SetupHeader}
    (hcurrent : s.hp.current = some .setupImages) (hprogress : s.hp.progress = some p) (hheader : p.header = some h) :
    exec (.setupImagesRead images) s = .next (s.begin.endTransfer.examineImages h images) := by
  have hbegin : s.begin.hp.current = some .setupImages := hcurrent
  have hbound : s.begin.hp.progress.bind SetupProgress.header = some h := by
    simp [State.begin, hprogress, hheader]
  simp only [exec, execSetupImagesRead, if_pos hbegin, hbound]

/-- Settles O12. -/
theorem setupImagesAreExaminedOrLoaded : Obligations.SetupImagesAreExaminedOrLoaded := by
  intro images p h s hcurrent hprogress hheader hown hpriv hcomm hcomm' hcount place
  have hlength : images.length = h.privSize.toNat + (h.commSize.toNat - 1) := by omega
  have hnow : s.begin.endTransfer.hp.progress = some p := hprogress
  rw [exec_setupImagesRead hcurrent hprogress hheader]
  refine ⟨fun j hj i hi c hc hbefore => ?_, fun hall => ?_⟩
  · have hfault : firstImageFault (placedImages h images) = some (c, place j) := by
      refine firstImageFault_eq_some ((placedImages_getElem? hcomm hlength).mpr hi) hc fun m hm q u hu => ?_
      have hzip := hu
      rw [placedImages_eq hlength, List.getElem?_zip_eq_some] at hzip
      have hplace := hzip.1
      rw [imagePlaces_getElem? hcomm (by omega)] at hplace
      have hq : recordPlace h m = q := Option.some.inj hplace
      exact hq ▸ hbefore m hm u hzip.2
    simp only [State.examineImages, hfault]
    rw [State.decideSetup_eq hnow]
    rfl
  · have hfault : firstImageFault (placedImages h images) = none := by
      refine firstImageFault_eq_none fun x hx => ?_
      obtain ⟨j, hj, himage, hplace⟩ := placedImages_mem hcomm hlength hx
      exact hplace ▸ hall j hj _ himage
    obtain ⟨hnull, hprivEmpty, hcommEmpty⟩ := loadTables_empty hlength
    refine ⟨loadTables h (placedImages h images), ?_, rfl, rfl, hnull, hprivEmpty, fun j hj => hcommEmpty j hj hcomm,
      fun j hj i hi => ?_⟩
    · simp only [State.examineImages, hfault, State.acceptSetup]
      rw [State.setupTenure_of_none (by exact hown), State.offerHello_eq, State.decideSetup_eq (p := p) (by exact hnow)]
      by_cases hsilenced : s.hp.adapter = .silenced <;>
        simp [State.onHp, State.onEc, State.endTransfer, State.begin, hsilenced, SetupHeader.setup, flag]
    · have hget := loadTables_get hpriv hcomm hcomm' hlength hi
      simp only [show (place j) = recordPlace h j from rfl, hget]
      exact descriptor_fields (hall j hj i hi)

end Sys2Proof.Machine
end

section
/-! The Extent Check in the spec's order (R25 to R31), and what it answers an element. -/

namespace Sys2Proof.Machine

open Sys2Proof

theorem fetched_chain (s : State) (n : Fin 4) : (fetched s n).chain n =
    { s.chain n with inFlight := (s.chain n).inFlight + 1, next := (s.chain n).next + 16 } :=
  Four.get_set_same _ _ _

theorem fetched_chain_other (s : State) {n m : Fin 4} (h : m ≠ n) : (fetched s n).chain m = s.chain m :=
  Four.get_set_ne _ _ h

/-- The table of R27. -/
theorem kindAllowed_eq (k : ElementKind) (x : Table) (d : DescriptorKind) : kindAllowed k x d = decide (d ∈ kindYes k x) := by
  cases d <;> cases x <;> revert k <;> exact fun
    | .disk .read | .disk .write | .disk .append | .disk .compare | .disk .scan | .disk .directRead
    | .disk .directWrite | .hold .shared | .hold .exclusive | .unhold | .select | .setClock | .maintain
    | .inspect .descriptor | .inspect .lineRecord | .inspect .positionRecord | .unassigned => rfl

theorem resolveSelector_eq (s : State) (n : Fin 4) (k : ElementKind) (e : Element) :
    resolveSelector (s.chain n) k e = selectorOf s n k e := by
  simp [resolveSelector, selectorOf]

theorem notesChanged_eq (k : RequestKind) (d : Descriptor) :
    ((ElementKind.disk k).notesChanged && d.changed) = changedOutcome k d := by
  cases k <;> simp [ElementKind.notesChanged, affected, changedOutcome]

/-- What the check finds of an element that passes at a range of `m` blocks from `b`. -/
def admissionOf (s : State) (n : Fin 4) (k : ElementKind) (e : Element) (b m : Nat) (short full : Bool) : Admission :=
  ⟨(selectorOf s n k e).table, (selectorOf s n k e).index, max (s.chain n).level (selectorOf s n k e).level, b, m,
    short, full, k.notesChanged && (descriptorFor s n k e).changed⟩

/-- The answer of the sixth check made that of the whole Extent Check. -/
def examinedAt (s : State) (n : Fin 4) (k : ElementKind) (e : Element) : RangeAnswer → Examined
  | .faults f => .faulted f
  | .full => .passed (admissionOf s n k e 0 0 true true)
  | .fits b m short => .passed (admissionOf s n k e b m short false)

/-- The six checks: the five of R25 first, then the sixth by kind. -/
theorem examine_eq (s : State) (n : Fin 4) (k : ElementKind) (e : Element) :
    s.ec.examine (s.chain n) k e =
      match firstCheckFailed s n k e with
      | some f => .faulted f
      | none => examinedAt s n k e ((descriptorFor s n k e).range k e.offset e.count) := by
  have hplace : s.ec.get (selectorOf s n k e).table (selectorOf s n k e).index = descriptorFor s n k e := rfl
  simp only [Extents.examine, firstCheckFailed, examinedAt, admissionOf, resolveSelector_eq, kindAllowed_eq,
    effectiveLevel, hplace]
  by_cases hnull : (selectorOf s n k e).table = .common ∧ (selectorOf s n k e).index = 0
  · simp only [hnull, and_self, if_true]
  by_cases hindex : s.ec.size (selectorOf s n k e).table ≤ (selectorOf s n k e).index
  · simp only [hnull, hindex, if_true, if_false]
  by_cases hempty : (descriptorFor s n k e).kind = .empty
  · simp only [hnull, hindex, hempty, if_true, if_false]
  by_cases hlevel : (descriptorFor s n k e).level < max (s.chain n).level (selectorOf s n k e).level
  · simp only [hnull, hindex, hempty, hlevel, if_true, if_false]
  by_cases hkind : (descriptorFor s n k e).kind ∈ kindYes k (selectorOf s n k e).table
  · cases hrange : (descriptorFor s n k e).range k e.offset e.count <;>
      simp only [hnull, hindex, hempty, hlevel, hkind, decide_true, Bool.not_true, Bool.false_eq_true, not_true,
        if_false]
  · simp only [hnull, hindex, hempty, hlevel, hkind, decide_false, Bool.not_false, not_false_iff, if_true, if_false]

/-- The fetch leaves tables, default selector and level, which is all the Extent Check reads. -/
theorem fetched_examine (s : State) (n : Fin 4) (k : ElementKind) (e : Element) :
    (fetched s n).ec.examine ((fetched s n).chain n) k e = s.ec.examine (s.chain n) k e := by
  rw [fetched_chain]
  rfl

theorem fetched_selectorPlace (s : State) (n : Fin 4) (k : ElementKind) (e : Element) :
    selectorPlace ((fetched s n).chain n) k e = selectorPlace (s.chain n) k e := by
  rw [fetched_chain]
  rfl

/-- What an element does once the checks have answered: a fault completes it, else it goes on by `pass`. -/
def State.answered (s : State) (i : ElemInfo) (e : Element) (pass : Admission → State) : Examined → State
  | .faulted f => s.completePlain i .fault (some f) (selectorPlace (s.chain i.chain) i.kind e)
  | .passed a => pass a

/-- The kinds that pass through the Extent Check. -/
abbrev Checked (k : ElementKind) : Prop :=
  k = .unhold ∨ k = .inspect .descriptor ∨ (∃ m, k = .hold m) ∨ ∃ r, k = .disk r ∧ r ≠ .directRead ∧ r ≠ .directWrite

theorem routeDisk_checked {k : RequestKind} {e : Element} {i : ElemInfo} {s : State} (hr : k ≠ .directRead)
    (hw : k ≠ .directWrite) (hroom : s.wq.records.length < 16) :
    State.routeDisk k e i s = s.answered i e (fun a =>
      let t := s.onDescriptor a.table a.index fun d => d.admitted (if k = .append then a.count else 0)
      if a.full then t.completeFull i a else t.admitExtent i k e a) (s.ec.examine (s.chain i.chain) i.kind e) := by
  have hplaces : ¬ Config.queuePlaces ≤ s.wq.records.length := by simp only [Config.queuePlaces]; omega
  simp only [State.routeDisk, State.admitDisk, hr, hw, false_or, false_and, if_false, hplaces]
  cases s.ec.examine (s.chain i.chain) i.kind e <;> rfl

theorem routeHold_checked (m : Mode) (e : Element) (i : ElemInfo) (s : State) :
    State.routeHold m e i s = s.answered i e (fun a =>
      let s := s.onDescriptor a.table a.index fun d => d.admitted 0
      let h := s.hm.newEntry a.first a.count m i.chain .explicit 0 (budgetOf e.budget) (some (i, a.table, a.index))
      let s := s.makeEntry h
      if s.hm.isHeld h.id then s else s.setReason i.chain fun w => { w with holdWaiting := true })
      (s.ec.examine (s.chain i.chain) i.kind e) := by
  simp only [State.routeHold]
  cases s.ec.examine (s.chain i.chain) i.kind e <;> rfl

theorem routeUnhold_checked (e : Element) (i : ElemInfo) (s : State) :
    State.routeUnhold e i s = s.answered i e (fun a =>
      let s := s.onDescriptor a.table a.index fun d => d.admitted 0
      match s.hm.explicitMatch i.chain a.first a.count with
      | none => s.completePlain i .fault (some .noHold) a.place
      | some h =>
        if h.refs = 0 then
          let s := s.removeEntry h
          s.complete (s.outcome i .done none clearFlags a.count a.place)
        else (s.onEntry h.id fun x => { x with unholdElem := some (i, a.table, a.index) }).setReason i.chain fun w =>
          { w with unholdWaiting := true }) (s.ec.examine (s.chain i.chain) i.kind e) := by
  simp only [State.routeUnhold]
  cases s.ec.examine (s.chain i.chain) i.kind e <;> rfl

theorem inspectDescriptor_checked (e : Element) (i : ElemInfo) (s : State) :
    State.inspectDescriptor e i s = s.answered i e (fun a =>
      (s.onDescriptor a.table a.index fun d => if e.clear then (d.admitted 0).clearMarks else d.admitted 0).answerInspect i e
        (s.ec.get a.table a.index).image a.changed a.place) (s.ec.examine (s.chain i.chain) i.kind e) := by
  simp only [State.inspectDescriptor]
  cases s.ec.examine (s.chain i.chain) i.kind e <;> rfl

theorem route_checked {c : Instr} {k : ElementKind} {e : Element} (helement : elementOf c = some (k, e))
    (hkind : Checked k) (i : ElemInfo) (s : State) (hroom : (∃ r, k = .disk r) → s.wq.records.length < 16) :
    ∃ pass, route c i s = s.answered i e pass (s.ec.examine (s.chain i.chain) i.kind e) := by
  have hdisk : ∀ r, k = .disk r → r ≠ .directRead ∧ r ≠ .directWrite := by
    rintro r rfl
    simpa [Checked] using hkind
  cases c <;> simp only [elementOf, Option.some.injEq, Prod.mk.injEq, reduceCtorEq] at helement
  all_goals obtain ⟨rfl, rfl⟩ := helement
  case read | write | append | compare | scan | directRead | directWrite =>
    exact ⟨_, routeDisk_checked (hdisk _ rfl).1 (hdisk _ rfl).2 (hroom ⟨_, rfl⟩)⟩
  case holdShared | holdExclusive => exact ⟨_, routeHold_checked _ _ _ _⟩
  case unhold => exact ⟨_, routeUnhold_checked _ _ _⟩
  case inspectDescriptor => exact ⟨_, inspectDescriptor_checked _ _ _⟩
  all_goals simp [Checked] at hkind

/-- An element whose check fails completes FAULT with its fault. -/
theorem exec_checkFails {c : Instr} {k : ElementKind} {e : Element} {n : Fin 4} {s : State} {f : ElementFault}
    (helement : elementOf c = some (k, e)) (hruns : Runs s n k e) (hkind : Checked k)
    (hroom : (∃ r, k = .disk r) → s.wq.records.length < 16) (hfault : s.ec.examine (s.chain n) k e = .faulted f) :
    exec c s = .next (completing (fetched s n) (plainCompletion s n k e .fault (some f)
      (some ((selectorOf s n k e).table, (selectorOf s n k e).index)))) := by
  obtain ⟨pass, hpass⟩ := route_checked helement hkind (infoOf s n k e) (fetched s n) hroom
  have hselector : k.hasSelector = true := by
    rcases hkind with rfl | rfl | ⟨m, rfl⟩ | ⟨r, rfl, hread, hwrite⟩
    · rfl
    · rfl
    · rfl
    · cases r <;> first | rfl | contradiction
  have hexamine : (fetched s n).ec.examine ((fetched s n).chain (infoOf s n k e).chain) (infoOf s n k e).kind e =
      .faulted f := (fetched_examine s n k e).trans hfault
  rw [exec_runs helement hruns, hpass, hexamine]
  simp only [State.answered]
  rw [fetched_completePlain s n k e _ _ (by simp), show (infoOf s n k e).chain = n from rfl,
    show (infoOf s n k e).kind = k from rfl, fetched_selectorPlace, selectorPlace_eq, if_pos hselector]

theorem readable_eq (d : Descriptor) : d.readable = readableBlocks d := by
  cases h : d.wrappedEver <;> simp [Descriptor.readable, readableBlocks, h]

/-- Settles O19. -/
theorem extentChecksFaultInOrder : Obligations.ExtentChecksFaultInOrder := by
  intro c k e n s helement hruns hread hwrite hroom x d o faults
  refine ⟨?_, fun hfirst => ?_⟩
  · intro hkind yes first
    have hchecked : Checked k := by
      rcases hkind with h | h | h | ⟨r, rfl⟩
      · exact .inl h
      · exact .inr (.inl h)
      · exact .inr (.inr (.inl h))
      · exact .inr (.inr (.inr ⟨r, rfl, fun h => hread (h ▸ rfl), fun h => hwrite (h ▸ rfl)⟩))
    have horder : first = firstCheckFailed s n k e := by
      have hyes : (d.kind ∉ yes ∨ x.table = .priv ∧ (k = .unhold ∨ k = .hold .shared ∨ k = .hold .exclusive)) ↔
          d.kind ∉ kindYes k x.table := by
        cases htable : x.table <;> rcases hkind with rfl | rfl | ⟨_ | _, rfl⟩ | ⟨r, rfl⟩ <;> try cases r
        all_goals simp [yes, kindYes]
      simp only [first, hyes]
      rfl
    refine ⟨horder, fun f hf => exec_checkFails helement hruns hchecked hroom ?_⟩
    rw [examine_eq, ← horder, hf]
  · have hfails : ∀ f, Checked k → d.range k o e.count = .faults f → faults f := fun f hchecked hrange =>
      exec_checkFails helement hruns hchecked hroom (by
        rw [examine_eq, hfirst]
        exact congrArg (examinedAt s n k e) hrange)
    have hdisk : ∀ r, k = .disk r → Checked k := fun r hr =>
      .inr (.inr (.inr ⟨r, hr, fun h => hread (h ▸ hr), fun h => hwrite (h ▸ hr)⟩))
    refine ⟨fun hk hle => ?_, fun hk hlt => ?_, fun hk hle hlt => ?_, fun hk hlt => ?_⟩
    · rcases hk with rfl | rfl | rfl <;> refine hfails _ (hdisk _ rfl) ?_ <;>
        simp [Descriptor.range, Descriptor.readRange, readable_eq, hle]
    · subst hk
      exact hfails _ (hdisk _ rfl) (if_pos hlt)
    · subst hk
      exact hfails _ (hdisk _ rfl) ((if_neg (by omega)).trans (if_pos hlt))
    · rcases hk with rfl | ⟨m, rfl⟩
      · exact hfails _ (.inl rfl) (if_pos hlt)
      · exact hfails _ (.inr (.inr (.inl ⟨m, rfl⟩))) (if_pos hlt)

end Sys2Proof.Machine
end

section
/-! A disk element is admitted (R31, R33, R64, R66, R69): the record it makes and the next fetch of a STREAM element. -/

namespace Sys2Proof.Machine

open Sys2Proof

/-- A descriptor that is not EMPTY stands at a place of its table, so a change at that place is seen there. -/
theorem Extents.get_modify {x : Extents} {t : Table} {i : Nat} (f : Descriptor → Descriptor)
    (h : (x.get t i).kind ≠ .empty) : (x.modify t i f).get t i = f (x.get t i) := by
  have hlist : ∀ l : List Descriptor, (l.getD i .empty).kind ≠ .empty → (l.modify i f).getD i .empty = f (l.getD i .empty) := by
    intro l hkind
    by_cases hi : i < l.length
    · simp [List.getD_eq_getElem?_getD, hi]
    · rw [List.getD_eq_getElem?_getD, List.getElem?_eq_none (by omega)] at hkind
      exact absurd rfl hkind
  cases t
  · exact hlist _ h
  · exact hlist _ h

theorem kind_of_firstCheck {s : State} {n : Fin 4} {k : ElementKind} {e : Element} (h : firstCheckFailed s n k e = none) :
    (descriptorFor s n k e).kind ≠ .empty := by
  intro hempty
  simp only [firstCheckFailed, hempty, if_true] at h
  grind

/-! The next fetch of a STREAM element. -/

theorem FetchWait.any_iff (w : FetchWait) : w.any = true ↔ w ≠ ⟨false, false, false, false⟩ := by
  cases w
  simp [FetchWait.any]
  grind

/-- An admitted STREAM element without END calls for the next fetch of its RUNNING chain (R47, R49). -/
theorem State.admittedFetch_eq {s : State} {i : ElemInfo} {e : Element} (hlast : i.last = e.last) (hstream : i.stream = e.stream)
    (hrunning : (s.chain i.chain).state = .running) (hcurrent : s.hp.current ≠ some (.fetch i.chain)) :
    s.admittedFetch i = streamed s i.chain e := by
  have hany := FetchWait.any_iff (s.chain i.chain).wait
  simp only [State.admittedFetch, streamed, hlast, hstream, State.callFetch, if_pos hrunning, ← hany]
  by_cases hnext : e.stream = true ∧ e.last = false
  · simp only [hnext, Bool.not_false, Bool.and_self, and_self, if_true]
    by_cases hwait : (s.chain i.chain).wait.any = true
    · simp only [hwait, if_true]
      rfl
    by_cases hasked : .fetch i.chain ∈ s.hp.waiting
    · simp [hwait, hasked]
    · simp [hwait, hasked, hcurrent, State.askTransfer, State.onHp]
  · rw [if_neg hnext, if_neg (by simpa using hnext)]

/-! The record. -/

theorem negative_eq (k : Option Int) : negative k = k.any (· < 0) := by
  cases k <;> rfl

/-- The record an element makes, its cost, slack and URGENT formed in a state where its first sector lies at `p`. -/
theorem State.withCost_newRequest {s : State} {id : Nat} {i : ElemInfo} {k : RequestKind} {e : Element}
    {extent : Option (Table × Nat)} {b m level : Nat} {changed short : Bool} {hold : Option Nat} {st : RequestState}
    {p : Target} (hid : id = s.wq.nextId)
    (hplace : s.nextTarget (newRequest id i k e extent b m level changed short hold st) = p) :
    s.withCost (newRequest id i k e extent b m level changed short hold st) =
      recordFor s i k e extent b m level changed short hold st p := by
  subst hid
  have hcost : s.costOf (newRequest s.wq.nextId i k e extent b m level changed short hold st) =
      costAt s.tm.cylinder s.rdm.counter p := congrArg _ hplace
  simp only [State.withCost, State.withSlack, negative_eq, hcost, recordFor]
  rfl

theorem State.enqueue_new {s : State} {id : Nat} {i : ElemInfo} {k : RequestKind} {e : Element}
    {extent : Option (Table × Nat)} {b m level : Nat} {changed short : Bool} {hold : Option Nat} {st : RequestState}
    {p : Target}
    (hid : id = s.wq.nextId) (hplace : s.nextTarget (newRequest id i k e extent b m level changed short hold st) = p) :
    s.enqueue (newRequest id i k e extent b m level changed short hold st) =
      { s with wq := ⟨s.wq.records ++ [recordFor s i k e extent b m level changed short hold st p], s.wq.nextId + 1⟩ } := by
  simp only [State.enqueue, State.withCost_newRequest hid hplace, State.onWq]

/-- The first sector of an extent request: at its first block, that of an APPEND being the one at the fill mark. -/
theorem State.nextTarget_new {s : State} {id : Nat} {i : ElemInfo} {k : RequestKind} {e : Element} {t : Table} {x b m level : Nat}
    {changed short : Bool} {hold : Option Nat} {st : RequestState} (hread : k ≠ .directRead) (hwrite : k ≠ .directWrite)
    (happend : k = .append → b = (s.ec.get t x).base + (s.ec.get t x).fill ∧
      ((s.ec.get t x).wrap = true → (s.ec.get t x).fill ≤ (s.ec.get t x).limit)) :
    s.nextTarget (newRequest id i k e (some (t, x)) b m level changed short hold st) = targetOf s.cfg.interleave b := by
  have hdirect : (newRequest id i k e (some (t, x)) b m level changed short hold st).isDirect = false := by
    cases k <;> first | rfl | contradiction
  have htarget : s.nextTarget (newRequest id i k e (some (t, x)) b m level changed short hold st) =
      targetOf s.cfg.interleave (s.blockOf (newRequest id i k e (some (t, x)) b m level changed short hold st) 0) := by
    simp only [State.nextTarget, State.sectorTarget, hdirect]
    rfl
  rw [htarget]
  simp only [State.blockOf, newRequest, State.descriptorOf, Descriptor.blockAt, Nat.add_zero]
  by_cases hkind : k = .append
  · obtain ⟨rfl, hwrap⟩ := happend hkind
    by_cases hw : (s.ec.get t x).wrap = true
    · simp [hkind, hw, Nat.not_lt.mpr (hwrap hw)]
    · simp [hkind, hw]
  · simp [hkind]

/-! Admission. -/

theorem range_of_admission {d : Descriptor} {k : RequestKind} {o m : Nat} {a : Nat × Nat × Bool} (hread : k ≠ .directRead)
    (hwrite : k ≠ .directWrite) (hcount : 1 ≤ m) (h : admission d k o m = some a) : d.range (.disk k) o m = .fits a.1 a.2.1 a.2.2 := by
  have hreads : admission d .read o m = some a → d.readRange o m = .fits a.1 a.2.1 a.2.2 := by
    simp only [admission, Descriptor.readRange, readable_eq]
    grind
  cases k with
  | read | compare | scan => exact hreads h
  | directRead | directWrite => contradiction
  | write =>
    simp only [admission] at h
    simp only [Descriptor.range, Descriptor.writeRange]
    grind
  | append =>
    simp only [admission] at h
    simp only [Descriptor.range, Descriptor.appendRange, Descriptor.room]
    grind

theorem range_of_full {d : Descriptor} {o m : Nat} (hwrap : d.wrap = false) (hfull : d.limit + 1 ≤ d.fill + d.reserved) :
    d.range (.disk .append) o m = .full := by
  have hroom : d.room = 0 := by
    simp only [Descriptor.room]
    omega
  simp [Descriptor.range, Descriptor.appendRange, hwrap, hroom]

/-- An element that passes the checks is admitted: marks, reservation and record. -/
theorem State.admitDisk_passed {s : State} {i : ElemInfo} {k : RequestKind} {e : Element} {a : Nat × Nat × Bool}
    (hread : k ≠ .directRead) (hwrite : k ≠ .directWrite) (hcount : 1 ≤ e.count) (hkind : i.kind = .disk k)
    (hfirst : firstCheckFailed s i.chain (.disk k) e = none)
    (ha : admission (descriptorFor s i.chain (.disk k) e) k e.offset e.count = some a) :
    s.admitDisk i k e =
      ({ s with ec := accessedWith s (selectorOf s i.chain (.disk k) e) (if k = RequestKind.append then a.2.1 else 0) }).admitExtent i k e
        (admissionOf s i.chain (.disk k) e a.1 a.2.1 a.2.2 false) := by
  simp only [State.admitDisk, hread, hwrite, or_self, if_false, hkind, examine_eq, hfirst,
    range_of_admission hread hwrite hcount ha, examinedAt]
  rfl

/-- On a Private extent the record joins the queue READY, without a hold. -/
theorem State.admitDisk_private {s : State} {i : ElemInfo} {k : RequestKind} {e : Element} {a : Nat × Nat × Bool}
    (hread : k ≠ .directRead) (hwrite : k ≠ .directWrite) (hcount : 1 ≤ e.count) (hkind : i.kind = .disk k)
    (hfirst : firstCheckFailed s i.chain (.disk k) e = none)
    (hprivate : (selectorOf s i.chain (.disk k) e).table = .priv)
    (hwrap : k = RequestKind.append → (descriptorFor s i.chain (.disk k) e).wrap = true →
      (descriptorFor s i.chain (.disk k) e).fill ≤ (descriptorFor s i.chain (.disk k) e).limit)
    (ha : admission (descriptorFor s i.chain (.disk k) e) k e.offset e.count = some a) :
    let x := selectorOf s i.chain (.disk k) e
    s.admitDisk i k e = ({ s with
      ec := accessedWith s x (if k = RequestKind.append then a.2.1 else 0)
      wq := ⟨s.wq.records ++ [recordFor s i k e (some (x.table, x.index)) a.1 a.2.1 (max (s.chain i.chain).level x.level)
        (changedOutcome k (descriptorFor s i.chain (.disk k) e)) a.2.2 none .ready (targetOf s.cfg.interleave a.1)],
        s.wq.nextId + 1⟩ }).admittedFetch i := by
  intro x
  have hget : (accessedWith s x (if k = RequestKind.append then a.2.1 else 0)).get x.table x.index = _ :=
    Extents.get_modify _ (kind_of_firstCheck hfirst)
  have hfirstBlock : k = RequestKind.append → a.1 = (descriptorFor s i.chain (.disk k) e).base + (descriptorFor s i.chain (.disk k) e).fill := by
    rintro rfl
    simp only [admission] at ha
    grind
  rw [State.admitDisk_passed hread hwrite hcount hkind hfirst ha]
  simp only [State.admitExtent, admissionOf, hprivate, Admission.place, notesChanged_eq]
  rw [State.enqueue_new (by exact rfl)
    (State.nextTarget_new hread hwrite fun hk => ?_)]
  · rw [← hprivate]
    rfl
  · rw [← hprivate, hget]
    exact ⟨hfirstBlock hk, hwrap hk⟩

/-! The fetch leaves all the checks read. -/

theorem fetched_selectorOf (s : State) (n : Fin 4) (k : ElementKind) (e : Element) :
    selectorOf (fetched s n) n k e = selectorOf s n k e := by
  simp only [selectorOf, fetched_chain]

theorem fetched_descriptorFor (s : State) (n : Fin 4) (k : ElementKind) (e : Element) :
    descriptorFor (fetched s n) n k e = descriptorFor s n k e := by
  simp only [descriptorFor, fetched_selectorOf]
  rfl

theorem fetched_firstCheck (s : State) (n : Fin 4) (k : ElementKind) (e : Element) :
    firstCheckFailed (fetched s n) n k e = firstCheckFailed s n k e := by
  simp only [firstCheckFailed, fetched_selectorOf, fetched_descriptorFor, fetched_chain]
  rfl

theorem fetched_level (s : State) (n : Fin 4) : ((fetched s n).chain n).level = (s.chain n).level := by
  rw [fetched_chain]

theorem count_pos_of_legal {k : RequestKind} {e : Element} (hread : k ≠ .directRead) (hwrite : k ≠ .directWrite)
    (h : legalFields (.disk k) e = true) : 1 ≤ e.count := by
  have hcount : countLegal (.disk k) e = true := by
    simp only [legalFields, Bool.and_eq_true] at h
    exact h.1.2
  cases k with
  | directRead | directWrite => contradiction
  | _ =>
    simp only [countLegal, Bool.and_eq_true, decide_eq_true_eq] at hcount
    exact hcount.1

theorem routeDisk_room {k : RequestKind} {e : Element} {i : ElemInfo} {s : State}
    (hdirect : k = .directRead ∨ k = .directWrite → s.hp.maintaining = some i.chain)
    (hroom : s.wq.records.length < 16) : State.routeDisk k e i s = s.admitDisk i k e := by
  have hplaces : ¬ Config.queuePlaces ≤ s.wq.records.length := by
    simp only [Config.queuePlaces]
    omega
  rw [State.routeDisk, if_neg (by tauto), if_neg hplaces]

/-- A DIRECT element joins the queue for the sector it names (R64). -/
theorem State.admitDisk_direct {s : State} {i : ElemInfo} {k : RequestKind} {e : Element}
    (hdirect : k = .directRead ∨ k = .directWrite) :
    s.admitDisk i k e = ({ s with
      wq := ⟨s.wq.records ++ [recordFor s i k e none 0 1 (s.chain i.chain).level false false none .ready e.direct],
        s.wq.nextId + 1⟩ }).admittedFetch i := by
  have htarget : s.nextTarget (newRequest s.wq.nextId i k e none 0 1 (s.chain i.chain).level false false none .ready) =
      e.direct := by
    rcases hdirect with rfl | rfl <;> rfl
  rw [State.admitDisk, if_pos hdirect, State.admitDirect, State.enqueue_new rfl htarget]

/-- A fetched element admitted in a state that the fetch has left but for tables, queue, holds and line. -/
theorem streamed_of_fetched {s t : State} {n : Fin 4} {k : ElementKind} {e : Element} (hruns : Runs s n k e)
    (hchains : t.chains = (fetched s n).chains) (hcurrent : t.hp.current = none) :
    t.admittedFetch (infoOf s n k e) = streamed t n e := by
  obtain ⟨-, hrunning, -⟩ := hruns
  have hchain : t.chain n = (fetched s n).chain n := congrArg (fun x => Four.get x n) hchains
  refine State.admittedFetch_eq (i := infoOf s n k e) rfl rfl ?_ (by simp [hcurrent])
  rw [show (infoOf s n k e).chain = n from rfl, hchain, fetched_chain]
  exact hrunning

/-- Settles O20. -/
theorem privateAndDirectRequestsAreAdmitted : Obligations.PrivateAndDirectRequestsAreAdmitted := by
  refine ⟨?_, ?_, ?_⟩
  · intro k e n s hadmissible x d hprivate hwrap a ha
    obtain ⟨hruns, hread, hwrite, hroom, hfirst⟩ := hadmissible
    have hcount := count_pos_of_legal hread hwrite hruns.2.2.1
    rw [exec_runs (elementOf_diskCommand k e) hruns, route_diskCommand, routeDisk_room (by tauto) (by exact hroom),
      State.admitDisk_private (a := a) hread hwrite hcount rfl (by exact (fetched_firstCheck s n _ e).trans hfirst)
        (by exact (congrArg Selector.table (fetched_selectorOf s n _ e)).trans hprivate)
        (by exact fetched_descriptorFor s n (.disk k) e ▸ hwrap) (by exact fetched_descriptorFor s n (.disk k) e ▸ ha),
      streamed_of_fetched hruns (by exact rfl) (by exact rfl)]
    rw [show (infoOf s n (.disk k) e).chain = n from rfl, fetched_selectorOf, fetched_descriptorFor, fetched_level]
    rfl
  · intro e n s hadmissible x d hwrap hfull
    obtain ⟨hruns, hread, hwrite, hroom, hfirst⟩ := hadmissible
    have hexamine : (fetched s n).ec.examine ((fetched s n).chain n) (.disk .append) e =
        .passed (admissionOf s n (.disk .append) e 0 0 true true) := by
      rw [fetched_examine, examine_eq, hfirst, range_of_full hwrap hfull]
      rfl
    rw [exec_runs (c := .append e) rfl hruns, show route (.append e) = State.routeDisk .append e from rfl,
      routeDisk_checked hread hwrite (by exact hroom), show (infoOf s n (.disk .append) e).chain = n from rfl,
      show (infoOf s n (.disk .append) e).kind = .disk .append from rfl, hexamine]
    simp only [State.answered, admissionOf, if_true, State.completeFull]
    rw [streamed_of_fetched hruns (by exact rfl) (by exact rfl)]
    rfl
  · intro k e n s hruns hdirect
    refine ⟨fun hother => ?_, fun hmaintaining hroom => ?_⟩
    · rw [exec_runs (elementOf_diskCommand k e) hruns, route_diskCommand, State.routeDisk,
        if_pos (by exact ⟨hdirect, hother⟩), fetched_completePlain s n _ e _ _ (by simp)]
    · rw [exec_runs (elementOf_diskCommand k e) hruns, route_diskCommand, routeDisk_room (by exact fun _ => hmaintaining) (by exact hroom),
        State.admitDisk_direct hdirect, streamed_of_fetched hruns (by exact rfl) (by exact rfl), show (infoOf s n (.disk k) e).chain = n from rfl,
        fetched_level]
      rfl

end Sys2Proof.Machine
end

section
/-! The elements the Chain Unit carries out at once: SELECT, SET CLOCK and the INSPECTs (R58 to R60, R40, R124, R145). -/

namespace Sys2Proof.Machine

open Sys2Proof

theorem Element.selector_fields (e : Element) :
    e.selector.table = (if e.w1.getLsbD 15 then .common else .priv) ∧ e.selector.index = e.w1.toNat / 256 % 32 ∧
      e.selector.level = e.w1.toNat / 8192 % 4 := ⟨rfl, rfl, rfl⟩

/-! SET CLOCK. -/

/-- What a SET CLOCK in range leaves (R60, R182): the clock loaded, the completion stamped with the time just set. -/
def clockSet (s : State) (n : Fin 4) (e : Element) : State :=
  let c := s.hp.tod.load (clockHours e) (clockMinutes e) (clockSeconds e) (clockTenths e)
  completing { fetched s n with hp := { (fetched s n).hp with tod := c } }
    { plainCompletion s n .setClock e .done none none with stamp := c.stamp }

theorem exec_setClock {e : Element} {n : Fin 4} {s : State} (hruns : Runs s n .setClock e) :
    exec (.setClock e) s = .next (if clockLegal e then clockSet s n e
      else completing (fetched s n) (plainCompletion s n .setClock e .fault (some .illegalElement) none)) := by
  rw [exec_runs (c := .setClock e) rfl hruns]
  simp only [route, State.routeClock]
  split
  · rfl
  · rw [fetched_completePlain s n _ e _ _ (by simp)]

theorem Tod.due_moment {t : Tod} (hrun : t.running = true) : t.due.moment = .advanced := by
  by_cases hmoment : t.moment = .loaded
  · rw [Tod.due_of_loaded hrun hmoment]
  · rw [Tod.due_of_not_loaded hmoment, Tod.advance, if_neg (by simp [hrun])]
    grind

theorem clock_fields (e : Element) : clockHours e = e.w2.toNat / 256 % 32 ∧ clockMinutes e = e.w2.toNat % 64 ∧
    clockSeconds e = e.w3.toNat / 256 % 64 ∧ clockTenths e = e.w3.toNat % 16 := by
  simp [clockHours, clockMinutes, clockSeconds, clockTenths, field]

theorem clockLegal_iff (t : Tod) (e : Element) : clockLegal e = true ↔
    (t.load (clockHours e) (clockMinutes e) (clockSeconds e) (clockTenths e)).InRange := by
  simp [clockLegal, Tod.load, Tod.InRange, and_assoc]

/-- The advance that comes with a load leaves the same state before and after it (log 49). -/
theorem clockSet_todAdvance {s : State} {n : Fin 4} {e : Element} (hrun : s.hp.tod.running = true)
    (hmoment : s.hp.tod.moment ≠ .advanced) :
    exec .todAdvance (clockSet s n e) =
      .next (clockSet { s with out := [], hp := { s.hp with tod := s.hp.tod.due } } n e) := by
  have hloaded : (clockSet s n e).hp.tod.moment = .loaded := if_neg hmoment
  rw [exec_todAdvance, Tod.due_of_loaded rfl hloaded]
  simp only [clockSet, Tod.load, Tod.due_moment hrun, if_true]
  rfl

/-! INSPECT. -/

/-- An image write is asked. -/
def imaged (t : State) (e : Element) (w : List Word) : State :=
  { t with hp := { t.hp with waiting := t.hp.waiting ++ [.image e.w5 w] } }

/-- The marks an INSPECT of a descriptor leaves (R40). -/
theorem inspected_marks (e : Element) (d : Descriptor) :
    (if e.clear then (d.admitted 0).clearMarks else d.admitted 0) =
      { d with accessed := true, written := d.written && !e.clear, changed := d.changed && !e.clear } := by
  cases e.clear <;> simp [Descriptor.admitted, Descriptor.clearMarks]

/-- What an INSPECT of the line record leaves of the Line Unit (R124). -/
theorem inspected_line (e : Element) (s : State) :
    (if e.clear then s.onLu fun l => { l with collisionCount := 0, armed := true } else s) =
      { s with lu := { s.lu with
        collisionCount := if e.clear then 0 else s.lu.collisionCount
        armed := s.lu.armed || e.clear } } := by
  cases e.clear <;> simp [State.onLu]

/-- What an INSPECT of the position record leaves of the Tenure Manager (R145). -/
theorem inspected_position (e : Element) (s : State) :
    (if e.clear then s.onTm fun t => { t with peerSeeks := 0 } else s) =
      { s with tm := { s.tm with peerSeeks := if e.clear then 0 else s.tm.peerSeeks } } := by
  cases e.clear <;> simp [State.onTm]

/-- The image write goes first, the completion behind it (R51, R59). -/
theorem State.answerInspect_eq (s t : State) (n : Fin 4) (k : ElementKind) (e : Element) (w : List Word) (changed : Bool)
    (place : Option (Table × Nat)) (htod : t.hp.tod = s.hp.tod) :
    t.answerInspect (infoOf s n k e) e w changed place = completing (imaged t e w)
      { plainCompletion s n k e .done none place with bits := ⟨false, false, false, changed, false, false⟩ } := by
  have hstamp : t.hp.tod.stamp = s.hp.tod.stamp := congrArg Tod.stamp htod
  simp only [State.answerInspect, State.outcome, State.complete, State.askTransfer, State.onHp, hstamp]
  rfl

/-- Settles O25. -/
theorem selectClockAndInspectComplete : Obligations.SelectClockAndInspectComplete := by
  refine ⟨fun e n s hruns => ⟨?_, Element.selector_fields e⟩, ?_, ?_⟩
  · rw [exec_runs (c := .select e) rfl hruns]
    rfl
  · intro e n s hruns c
    have hload : s.hp.tod.load (clockHours e) (clockMinutes e) (clockSeconds e) (clockTenths e) = c := by
      obtain ⟨hhours, hminutes, hseconds, htenths⟩ := clock_fields e
      rw [hhours, hminutes, hseconds, htenths]
      rfl
    have hlegal : clockLegal e = true ↔ c.InRange := hload ▸ clockLegal_iff s.hp.tod e
    have hset : c.InRange → ∀ u : State, Runs u n .setClock e → exec (.setClock e) u = .next (clockSet u n e) :=
      fun hrange u hu => by rw [exec_setClock hu, if_pos (hlegal.mpr hrange)]
    refine ⟨fun hrange => ?_, fun hrange hrun hmoment => ?_, fun hrange => ?_⟩
    · rw [hset hrange s hruns, clockSet, hload]
      rfl
    · refine ⟨_, exec_todAdvance s, _, hset hrange _ hruns, ?_, _, hset hrange s hruns, clockSet_todAdvance hrun hmoment⟩
      simp only [clockSet, completing, Tod.load, Tod.due_moment hrun, if_true, ← hload]
    · rw [exec_setClock hruns, if_neg (fun h => hrange (hlegal.mp h))]
  · intro e n s clear imaged
    refine ⟨fun hruns hfirst => ?_, fun hruns => ?_, fun hruns => ?_⟩
    · intro x d
      rw [exec_runs (c := .inspectDescriptor e) rfl hruns]
      simp only [route, inspectDescriptor_checked]
      rw [show (infoOf s n (.inspect .descriptor) e).chain = n from rfl,
        show (infoOf s n (.inspect .descriptor) e).kind = .inspect .descriptor from rfl, fetched_examine, examine_eq, hfirst]
      simp only [Descriptor.range, examinedAt, State.answered, admissionOf]
      rw [State.answerInspect_eq s _ n _ e _ _ _ (by exact rfl)]
      simp only [inspected_marks]
      rfl
    · rw [exec_runs (c := .inspectLineRecord e) rfl hruns]
      simp only [route, State.inspectLine, inspected_line]
      rw [State.answerInspect_eq s _ n _ e _ _ _ (by exact rfl)]
      rfl
    · rw [exec_runs (c := .inspectPositionRecord e) rfl hruns]
      simp only [route, State.inspectPosition, inspected_position]
      rw [State.answerInspect_eq s _ n _ e _ _ _ (by exact rfl)]
      rfl

end Sys2Proof.Machine
end

section
/-! Fetches and their reasons (R49), queued requests that leave together (R54, R65, R87), and what leaving MAINTENANCE
leaves (R65). -/

namespace Sys2Proof.Machine

open Sys2Proof

/-! Reasons. -/

/-- A reason that ends calls for a fetch: one was due, no reason stands now, and none is asked or under way. -/
def State.reasonAsks (s : State) (n : Fin 4) (f : FetchWait → FetchWait) : Bool :=
  (s.chain n).fetchDue && !(f (s.chain n).wait).any && (s.chain n).state == .running &&
    !(s.hp.waiting.contains (.fetch n) || s.hp.current == some (.fetch n))

theorem State.reasonAsks_iff (s : State) (n : Fin 4) (f : FetchWait → FetchWait) :
    s.reasonAsks n f = true ↔ (s.chain n).fetchDue = true ∧ (f (s.chain n).wait).any = false ∧
      (s.chain n).state = .running ∧ ¬ (.fetch n ∈ s.hp.waiting ∨ s.hp.current = some (.fetch n)) := by
  simp [State.reasonAsks, and_assoc]

theorem State.onChain_congr {s : State} {n : Fin 4} {f g : Chain → Chain} (h : f (s.chain n) = g (s.chain n)) :
    s.onChain n f = s.onChain n g := by
  rw [State.onChain_eq, State.onChain_eq, h]

theorem State.onChain_onChain (s : State) (n : Fin 4) (f g : Chain → Chain) :
    (s.onChain n f).onChain n g = s.onChain n fun c => g (f c) := by
  match n with
  | 0 | 1 | 2 | 3 => rfl

/-- Fetch-wait reasons change (R49): the chain's record, and the fetch asked when the last reason has gone. -/
theorem State.clearReason_eq (s : State) (n : Fin 4) (f : FetchWait → FetchWait) :
    s.clearReason n f =
      (s.onChain n fun c => { c with wait := f c.wait, fetchDue := c.fetchDue && (f c.wait).any }).onHp fun h =>
        { h with waiting := h.waiting ++ if s.reasonAsks n f then [.fetch n] else [] } := by
  have hstays : ∀ t : State, t.onHp (fun h => { h with waiting := h.waiting ++ [] }) = t := fun t => by simp [State.onHp]
  simp only [State.clearReason, State.chain_onChain_same, State.onChain_onChain]
  by_cases hdue : (s.chain n).fetchDue = true ∧ (f (s.chain n).wait).any = false
  · obtain ⟨hdue, hany⟩ := hdue
    have hrecord : (s.onChain n fun c => { c with wait := f c.wait, fetchDue := false }) =
        s.onChain n fun c => { c with wait := f c.wait, fetchDue := c.fetchDue && (f c.wait).any } :=
      State.onChain_congr (by simp [hany])
    rw [if_pos (by simp [hdue, hany]), hrecord]
    generalize ht : (s.onChain n fun c => { c with wait := f c.wait, fetchDue := c.fetchDue && (f c.wait).any }) = t
    have hchain : t.chain n = { s.chain n with wait := f (s.chain n).wait, fetchDue := false } := by
      rw [← ht, State.chain_onChain_same, hany, Bool.and_false]
    have hhp : t.hp = s.hp := by rw [← ht]; rfl
    by_cases hrunning : (s.chain n).state = .running
    · rw [State.callFetch_of_no_wait (by rw [hchain]; exact hrunning) (by rw [hchain]; exact hany), hhp]
      by_cases hasked : .fetch n ∈ s.hp.waiting ∨ s.hp.current = some (.fetch n)
      · have hasks : ¬ s.reasonAsks n f = true := by
          rw [State.reasonAsks_iff]
          tauto
        rw [if_pos hasked, if_neg hasks, hstays]
      · rw [if_neg hasked, if_pos ((s.reasonAsks_iff n f).mpr ⟨hdue, hany, hrunning, hasked⟩)]
        rfl
    · have hasks : ¬ s.reasonAsks n f = true := by
        rw [State.reasonAsks_iff]
        tauto
      rw [State.callFetch, if_neg (by rw [hchain]; exact hrunning), if_neg hasks, hstays]
  · rw [if_neg (by simpa using hdue)]
    have hasks : ¬ s.reasonAsks n f = true := by
      rw [State.reasonAsks_iff]
      tauto
    rw [if_neg hasks, hstays]
    exact State.onChain_congr (by grind)

theorem State.clearReason_chain_same (s : State) (n : Fin 4) (f : FetchWait → FetchWait) :
    (s.clearReason n f).chain n =
      { s.chain n with wait := f (s.chain n).wait, fetchDue := (s.chain n).fetchDue && (f (s.chain n).wait).any } := by
  rw [State.clearReason_eq]
  exact Four.get_set_same _ _ _

theorem State.clearReason_chain_ne (s : State) {n m : Fin 4} (f : FetchWait → FetchWait) (h : m ≠ n) :
    (s.clearReason n f).chain m = s.chain m := by
  rw [State.clearReason_eq]
  exact Four.get_set_ne _ _ h

/-- A chain's record without the reason maintenance. -/
def Chain.unmaintained (c : Chain) : Chain :=
  { c with
    wait := { c.wait with maintenance := false }
    fetchDue := c.fetchDue && ({ c.wait with maintenance := false } : FetchWait).any }

/-- The reason maintenance ends for the chains of a list: their records, and the fetches asked (R65). -/
theorem clearMaintenance_foldl {l : List (Fin 4)} (hl : l.Nodup) (s : State) :
    let t := l.foldl (fun s n => s.clearReason n fun w => { w with maintenance := false }) s
    (∀ m, t.chain m = if m ∈ l then (s.chain m).unmaintained else s.chain m) ∧
      (∃ q : List (Fin 4), t = { s with
        chains := t.chains
        hp := { s.hp with waiting := s.hp.waiting ++ q.map Transfer.fetch } }) ∧
      ∀ m ∈ l, (s.chain m).state = .running → (s.chain m).fetchDue = true → (s.chain m).wait = ⟨false, false, false, true⟩ →
        s.hp.current ≠ some (.fetch m) → .fetch m ∈ t.hp.waiting := by
  induction l generalizing s with
  | nil => exact ⟨fun m => by simp, ⟨[], by simp⟩, fun m hm => absurd hm List.not_mem_nil⟩
  | cons n l ih =>
    obtain ⟨hn, hl⟩ := List.nodup_cons.mp hl
    simp only [List.foldl_cons]
    generalize hu : (s.clearReason n fun w => { w with maintenance := false }) = u
    have hself : u.chain n = (s.chain n).unmaintained := by
      rw [← hu, State.clearReason_chain_same]
      rfl
    have hother : ∀ m, m ≠ n → u.chain m = s.chain m := by
      intro m hm
      rw [← hu, State.clearReason_chain_ne _ _ hm]
    obtain ⟨q, hq⟩ : ∃ q : List (Fin 4), u = { s with
        chains := u.chains
        hp := { s.hp with waiting := s.hp.waiting ++ q.map Transfer.fetch } } := by
      rw [← hu, State.clearReason_eq]
      refine ⟨if s.reasonAsks n fun w => { w with maintenance := false } then [n] else [], ?_⟩
      split <;> rfl
    have hwaiting : u.hp.waiting = s.hp.waiting ++ q.map Transfer.fetch := congrArg (fun x => x.hp.waiting) hq
    have hcurrent : u.hp.current = s.hp.current := congrArg (fun x => x.hp.current) hq
    obtain ⟨hchains, ⟨q', hq'⟩, hasked⟩ := ih hl u
    generalize l.foldl (fun s n => s.clearReason n fun w => { w with maintenance := false }) u = t at *
    refine ⟨fun m => ?_, ⟨q ++ q', ?_⟩, fun m hm hrunning hdue hwait hnow => ?_⟩
    · rw [hchains]
      by_cases hm : m = n
      · subst hm
        simp [hn, hself]
      · simp [hm, hother m hm]
    · rw [hq', hq]
      simp
    · by_cases hmn : m = n
      · subst hmn
        have hthere : .fetch m ∈ u.hp.waiting := by
          rw [← hu, State.clearReason_eq]
          by_cases hthere : .fetch m ∈ s.hp.waiting
          · exact List.mem_append_left _ hthere
          · refine List.mem_append_right _ ?_
            rw [if_pos ((s.reasonAsks_iff m _).mpr ⟨hdue, by rw [hwait]; rfl, hrunning, by tauto⟩)]
            exact List.mem_singleton_self _
        rw [hq']
        exact List.mem_append_left _ hthere
      · refine hasked m (by simpa [hmn] using hm) ?_ ?_ ?_ ?_
        · rwa [hother m hmn]
        · rwa [hother m hmn]
        · rwa [hother m hmn]
        · rwa [hcurrent]

/-! Queued requests that leave together. -/

/-- Requests that leave one after the other: each has its completion asked; the records left are those before, but that
some in HOLD-WAIT are READY (R54, R70, R71). -/
theorem completeRequests_leave (l : List Request) (st : Status) (f : Option ElementFault) (s : State) :
    let t := l.foldl (fun s r => s.completeRequest r st f false) s
    Sheds s t ∧ (∀ r ∈ l, CompletionAsked t r st f) ∧
      ∃ p, t.wq.records = (s.wq.records.map (Request.woken p)).filter fun q => l.all fun r => q.id != r.id := by
  induction l generalizing s with
  | nil => exact ⟨.refl s, fun r hr => absurd hr List.not_mem_nil, fun _ => false, by simp⟩
  | cons r l ih =>
    simp only [List.foldl_cons]
    obtain ⟨hasks, hasked, u, ⟨p, hp⟩, hleft⟩ := s.leaveQueue_leaves r st f false (s.hm.peerSilent r.hold)
    obtain ⟨hsheds, hrest, p', hp'⟩ := ih (s.completeRequest r st f false)
    have hfirst : Sheds s (s.completeRequest r st f false) := by
      refine ⟨hasks, ?_⟩
      rw [State.completeRequest, hleft, ← Woken.ids ⟨p, hp⟩]
      exact List.filter_sublist.map _
    refine ⟨hfirst.trans hsheds, ?_, fun q => p q || p' q, ?_⟩
    · rintro q (_ | ⟨_, hq⟩)
      · exact hsheds.asked hasked
      · exact hrest q hq
    · have hids : ∀ q, (Request.woken p' q).id = q.id := fun q => q.woken_id p'
      rw [hp', State.completeRequest, hleft, hp]
      simp only [List.filter_map, List.map_map, List.filter_filter, Function.comp_def, Request.woken_id,
        Request.woken_woken, List.all_cons]
      congr 2
      funext q
      rw [Bool.and_comm]

/-- What `completeQueued` leaves (R54, R65, R87): the requests picked have their completions asked; the records left
were not picked, and but that some in HOLD-WAIT are READY they are as before. -/
theorem State.completeQueued_leaves (s : State) (pick : Request → Bool) (st : Status) (f : Option ElementFault) :
    let t := s.completeQueued pick st f
    Sheds s t ∧ (∀ r ∈ s.wq.records, r.queued = true → pick r = true → CompletionAsked t r st f) ∧
      (∀ r ∈ s.wq.records, r.queued = true → pick r = true → Left t r.id) ∧
      ∃ p, ∀ q ∈ t.wq.records, ∃ r ∈ s.wq.records, q = r.woken p ∧ (r.queued && pick r) = false := by
  obtain ⟨hsheds, hasked, p, hleft⟩ :=
    completeRequests_leave (s.wq.records.filter fun r => r.queued && pick r) st f s
  have hmem : ∀ r ∈ s.wq.records, r.queued = true → pick r = true → r ∈ s.wq.records.filter fun r => r.queued && pick r :=
    fun r hr hqueued hpick => List.mem_filter.mpr ⟨hr, by simp [hqueued, hpick]⟩
  refine ⟨hsheds, fun r hr hqueued hpick => hasked r (hmem r hr hqueued hpick), fun r hr hqueued hpick q hq => ?_, p,
    fun q hq => ?_⟩
  all_goals
    rw [State.completeQueued, hleft] at hq
    obtain ⟨hq, hnot⟩ := List.mem_filter.mp hq
    rw [List.all_eq_true] at hnot
  · simpa using hnot r (hmem r hr hqueued hpick)
  · obtain ⟨r, hr, rfl⟩ := List.mem_map.mp hq
    refine ⟨r, hr, rfl, ?_⟩
    by_contra hpicked
    have := hnot r (List.mem_filter.mpr ⟨hr, by simpa using hpicked⟩)
    simp at this

/-! MAINTENANCE is left (R65). -/

/-- The adapter out of MAINTENANCE, before its queued DIRECT requests leave. -/
def State.unmaintained (s : State) : State :=
  (s.onHp fun h => { h with
    maintaining := none
    adapter := if h.adapter = .maintenance then .running else h.adapter }).markDirectOver

theorem State.leaveMaintenance_eq (s : State) :
    s.leaveMaintenance = [0, 1, 2, 3].foldl (fun s n => s.clearReason n fun w => { w with maintenance := false })
      (s.unmaintained.completeQueued Request.isDirect .aborted none) := rfl

theorem State.unmaintained_eq (s : State) :
    s.unmaintained = { s with
      hp := { s.hp with
        maintaining := none
        adapter := if s.hp.adapter = .maintenance then .running else s.hp.adapter }
      te := { s.te with maintenanceOver := s.te.maintenanceOver || s.activeRequest.any Request.isDirect } } := by
  have hactive : (s.onHp fun h => { h with
      maintaining := none
      adapter := if h.adapter = .maintenance then .running else h.adapter }).activeRequest = s.activeRequest := rfl
  simp only [State.unmaintained, State.markDirectOver, hactive]
  cases s.activeRequest.any Request.isDirect
  · simp [State.onHp]
  · simp [State.onTe, State.onHp]

/-- What leaving MAINTENANCE leaves, whatever the requests in the queue (R65). -/
theorem State.leaveMaintenance_left (s : State) :
    Sheds s s.leaveMaintenance ∧ MaintenanceLeft s s.leaveMaintenance ∧
      ∀ m, s.leaveMaintenance.chain m = (s.chain m).unmaintained := by
  have hstart : Sheds s s.unmaintained := by
    rw [State.unmaintained_eq]
    exact .of_eq rfl rfl rfl
  have hrecords : s.unmaintained.wq = s.wq := by rw [State.unmaintained_eq]
  obtain ⟨hsheds, hasked, hleft, -⟩ := s.unmaintained.completeQueued_leaves Request.isDirect .aborted none
  obtain ⟨hchains, ⟨q, hq⟩, hfetch⟩ := clearMaintenance_foldl (l := [0, 1, 2, 3]) (by decide)
    (s.unmaintained.completeQueued Request.isDirect .aborted none)
  rw [← State.leaveMaintenance_eq] at hchains hq hfetch
  have hmiddle : ∀ m, (s.unmaintained.completeQueued Request.isDirect .aborted none).chain m = s.chain m := by
    simp [State.chain, State.unmaintained_eq]
  have hcurrent : (s.unmaintained.completeQueued Request.isDirect .aborted none).hp.current = s.hp.current := by
    simp [State.unmaintained_eq]
  have hadapter : (s.unmaintained.completeQueued Request.isDirect .aborted none).hp.maintaining = none ∧
      (s.unmaintained.completeQueued Request.isDirect .aborted none).hp.adapter =
        if s.hp.adapter = .maintenance then .running else s.hp.adapter := by
    simp [State.unmaintained_eq]
  simp only [hmiddle, hcurrent] at hchains hfetch
  generalize s.unmaintained.completeQueued Request.isDirect .aborted none = u at *
  generalize s.leaveMaintenance = t at *
  have hlast : Sheds u t := by
    rw [hq]
    exact ⟨fun c hc => (mem_asked.mp hc).elim (fun h => mem_asked.mpr (.inl (List.mem_append_left _ h)))
      fun h => mem_asked.mpr (.inr h), .refl _⟩
  have hchain : ∀ m, t.chain m = (s.chain m).unmaintained := fun m => by
    rw [hchains, if_pos (by match m with | 0 | 1 | 2 | 3 => simp)]
  refine ⟨hstart.trans (hsheds.trans hlast), ⟨?_, ?_, fun r hr hdirect hqueued => ?_, fun m => ⟨?_, ?_⟩⟩, hchain⟩
  · rw [hq]
    exact hadapter.1
  · rw [hq]
    exact hadapter.2
  · rw [← hrecords] at hr
    exact ⟨hlast.asked (hasked r hr hqueued hdirect), hlast.left (hleft r hr hqueued hdirect)⟩
  · rw [hchain]
    rfl
  · exact fun hrunning hdue hwait hnow _ => hfetch m (by match m with | 0 | 1 | 2 | 3 => simp) hrunning hdue hwait hnow

/-! Queued DIRECT requests, which have no hold and reserve nothing, leave nothing else behind (R64, R65). -/

theorem State.completeRequest_direct {s : State} {r : Request} {st : Status} {f : Option ElementFault} {m : Bool}
    (hdirect : r.isDirect = true) (hhold : r.hold = none) :
    ∃ (waiting : List Completion) (heldBack : List (Nat × Completion)), s.completeRequest r st f m = { s with
      hp := { s.hp with waiting := s.hp.waiting ++ waiting.map Transfer.completion, heldBack := heldBack }
      wq := { s.wq with records := s.wq.records.filter fun q => q.id != r.id } } := by
  have hkind : r.kind ≠ .append := by
    intro h
    simp [Request.isDirect, h] at hdirect
  obtain ⟨c, hleave⟩ : ∃ c, s.completeRequest r st f m = (s.completeAfterData r.id c).dropRequest r.id := by
    simp only [State.completeRequest, State.leaveQueue, hhold]
    split
    · exact absurd ‹r.kind = .append› hkind
    · exact ⟨_, rfl⟩
  rw [hleave, State.completeAfterData]
  split
  · exact ⟨[], s.hp.heldBack ++ [(r.id, c)], by simp [State.dropRequest, State.onWq, State.onHp]⟩
  · exact ⟨[c], s.hp.heldBack, rfl⟩

theorem completeRequests_direct {l : List Request} (h : ∀ r ∈ l, r.isDirect = true ∧ r.hold = none) (st : Status)
    (f : Option ElementFault) (s : State) :
    ∃ (waiting : List Completion) (heldBack : List (Nat × Completion)), l.foldl (fun s r => s.completeRequest r st f false) s = { s with
      hp := { s.hp with waiting := s.hp.waiting ++ waiting.map Transfer.completion, heldBack := heldBack }
      wq := { s.wq with records := s.wq.records.filter fun q => l.all fun r => q.id != r.id } } := by
  induction l generalizing s with
  | nil => exact ⟨[], s.hp.heldBack, by simp⟩
  | cons r l ih =>
    obtain ⟨w, b, hfirst⟩ := State.completeRequest_direct (s := s) (st := st) (f := f) (m := false)
      (h r List.mem_cons_self).1 (h r List.mem_cons_self).2
    obtain ⟨w', b', hrest⟩ := ih (fun q hq => h q (List.mem_cons_of_mem _ hq)) (s.completeRequest r st f false)
    refine ⟨w ++ w', b', ?_⟩
    rw [List.foldl_cons, hrest, hfirst]
    simp [List.filter_filter, Bool.and_comm]

end Sys2Proof.Machine
end

section
/-! MAINTENANCE is entered and left (R62, R63, R65). -/

namespace Sys2Proof.Machine

open Sys2Proof

/-! Entering. -/

/-- A chain that waits while another maintains: the reason, and its fetch not begun due (R63). -/
def waitingFor (s : State) (m : Fin 4) : Chain :=
  { s.chain m with
    wait := { (s.chain m).wait with maintenance := true }
    fetchDue := (s.chain m).fetchDue || decide (.fetch m ∈ s.hp.waiting) }

theorem State.waitMaintenance_eq {n m : Fin 4} {s : State} (hm : m ≠ n) (hrunning : (s.chain m).state = .running) :
    State.waitMaintenance n s m = { s with
      chains := s.chains.set m (waitingFor s m)
      hp := { s.hp with waiting := s.hp.waiting.filter (· != .fetch m) } } := by
  rw [State.waitMaintenance, if_neg (by simp [hm, hrunning]), waitingFor, ← List.contains_eq_mem]
  rfl

/-- Every RUNNING chain of the list but the maintaining one waits, its fetch not begun withdrawn. -/
theorem waitMaintenance_foldl {l : List (Fin 4)} (hl : l.Nodup) (n : Fin 4) (s : State) :
    let t := l.foldl (State.waitMaintenance n) s
    (∀ m, t.chain m = if m ∈ l ∧ m ≠ n ∧ (s.chain m).state = .running then waitingFor s m else s.chain m) ∧
      t = { s with chains := t.chains, hp := t.hp } ∧ t.hp = { s.hp with waiting := t.hp.waiting } ∧
      ∀ x, x ∈ t.hp.waiting ↔ x ∈ s.hp.waiting ∧ ∀ m ∈ l, m ≠ n → (s.chain m).state = .running → x ≠ .fetch m := by
  induction l generalizing s with
  | nil => exact ⟨fun m => by simp, rfl, rfl, fun x => by simp⟩
  | cons k l ih =>
    obtain ⟨hk, hl⟩ := List.nodup_cons.mp hl
    rw [List.foldl_cons]
    by_cases hwaits : k ≠ n ∧ (s.chain k).state = .running
    · rw [State.waitMaintenance_eq hwaits.1 hwaits.2]
      generalize hu : ({ s with
        chains := s.chains.set k (waitingFor s k)
        hp := { s.hp with waiting := s.hp.waiting.filter (· != .fetch k) } } : State) = u
      have hself : u.chain k = waitingFor s k := by
        rw [← hu]
        exact Four.get_set_same _ _ _
      have hother : ∀ m, m ≠ k → u.chain m = s.chain m := by
        intro m hm
        rw [← hu]
        exact Four.get_set_ne _ _ hm
      have hwaiting : ∀ x, x ∈ u.hp.waiting ↔ x ∈ s.hp.waiting ∧ x ≠ .fetch k := fun x => by simp [← hu]
      have hwaitingFor : ∀ m, m ≠ k → waitingFor u m = waitingFor s m := fun m hm => by
        simp [waitingFor, hother m hm, hwaiting, hm]
      obtain ⟨hchains, hrest, hhp, hasked⟩ := ih hl u
      generalize l.foldl (State.waitMaintenance n) u = t at *
      refine ⟨fun m => ?_, by rw [hrest, ← hu], hhp.trans (by rw [← hu]), fun x => ?_⟩
      · rw [hchains]
        by_cases hm : m = k
        · subst hm
          simp [hk, hself, hwaits]
        · simp [hm, hother m hm, hwaitingFor m hm]
      · rw [hasked, hwaiting]
        simp only [List.mem_cons, forall_eq_or_imp, and_assoc]
        refine and_congr_right fun _ => and_congr (by tauto) (forall₂_congr fun m hm => ?_)
        rw [hother m fun h => hk (h ▸ hm)]
    · have hstays : State.waitMaintenance n s k = s := by
        rw [State.waitMaintenance, if_pos (by tauto)]
      rw [hstays]
      obtain ⟨hchains, hrest, hhp, hasked⟩ := ih hl s
      refine ⟨fun m => ?_, hrest, hhp, fun x => ?_⟩
      · rw [hchains]
        by_cases hm : m = k
        · subst hm
          simp [hk]
          tauto
        · simp [hm]
      · rw [hasked]
        simp only [List.mem_cons, forall_eq_or_imp]
        tauto

/-- MAINTENANCE entered from a fetched element of chain `n`. -/
theorem enterMaintenance_fetched {s : State} {n : Fin 4} :
    let t := (fetched s n).enterMaintenance n
    t = { fetched s n with chains := t.chains, hp := t.hp } ∧
      t.hp = { (fetched s n).hp with adapter := .maintenance, maintaining := some n, waiting := t.hp.waiting } ∧
      t.chain n = (fetched s n).chain n ∧
      (∀ m, m ≠ n → t.chain m = if (s.chain m).state = .running then waitingFor s m else s.chain m) ∧
      ∀ x, x ∈ t.hp.waiting ↔ x ∈ s.hp.waiting ∧ ∀ m, m ≠ n → (s.chain m).state = .running → x ≠ .fetch m := by
  intro t
  obtain ⟨hchains, hrest, hhp, hasked⟩ := waitMaintenance_foldl (l := [0, 1, 2, 3]) (by decide) n
    ((fetched s n).onHp fun h => { h with adapter := .maintenance, maintaining := some n })
  change ∀ m, t.chain m = _ at hchains
  have hall : ∀ m : Fin 4, m ∈ ([0, 1, 2, 3] : List (Fin 4)) := by decide
  have hother : ∀ m, m ≠ n → ((fetched s n).onHp fun h =>
      { h with adapter := .maintenance, maintaining := some n }).chain m = s.chain m := fun m hm =>
    fetched_chain_other s hm
  refine ⟨?_, ?_, ?_, fun m hm => ?_, fun x => ?_⟩
  · exact hrest
  · exact hhp
  · rw [hchains]
    simp
    rfl
  · rw [hchains, hother m hm]
    simp only [hall, hm, true_and, ne_eq, not_false_eq_true, waitingFor, hother m hm]
    rfl
  · refine (hasked x).trans (and_congr_right fun _ => ?_)
    simp only [hall, true_implies]
    exact forall₂_congr fun m hm => by rw [hother m hm]

theorem completePlain_of_tod {s t : State} {n : Fin 4} {k : ElementKind} {e : Element} {st : Status}
    {f : Option ElementFault} {place : Option (Table × Nat)} (htod : t.hp.tod = s.hp.tod) (h : st ≠ .expired) :
    t.completePlain (infoOf s n k e) st f place = completing t (plainCompletion s n k e st f place) := by
  have hstamp : t.hp.tod.stamp = s.hp.tod.stamp := congrArg Tod.stamp htod
  simp only [State.completePlain, State.outcome, hstamp]
  cases st with
  | expired => exact absurd rfl h
  | _ => rfl

/-- MAINTAIN off in the maintaining chain: its own completion, and MAINTENANCE is left. -/
theorem exec_maintainOff {e : Element} {n : Fin 4} {s t : State} (hruns : Runs s n .maintain e)
    (ht : completing (fetched s n) (plainCompletion s n .maintain e .done none none) = t) :
    exec (.maintainOff e) s = .next (if s.hp.maintaining = some n then t.leaveMaintenance else t) := by
  rw [exec_runs (c := .maintainOff e) rfl hruns]
  simp only [route, State.routeMaintainOff]
  rw [fetched_completePlain s n _ e _ _ (by simp), ht, ← ht]
  rfl

/-- Where the queued DIRECT requests have no hold, leaving MAINTENANCE touches the Host Port, the chains and the records
that leave, and marks the DIRECT request in hand (R65, R85). -/
theorem State.leaveMaintenance_direct {t : State} (h : ∀ r ∈ t.wq.records, r.isDirect = true → r.hold = none) :
    ∃ waiting heldBack, t.leaveMaintenance = { t with
      hp := { t.hp with
        maintaining := none
        adapter := if t.hp.adapter = .maintenance then .running else t.hp.adapter
        waiting := waiting
        heldBack := heldBack }
      chains := t.leaveMaintenance.chains
      te := { t.te with maintenanceOver := t.te.maintenanceOver || t.activeRequest.any Request.isDirect }
      wq := { t.wq with records := t.wq.records.filter fun q =>
        (t.wq.records.filter fun r => r.queued && r.isDirect).all fun r => q.id != r.id } } := by
  obtain ⟨w, b, hqueued⟩ := completeRequests_direct (l := t.wq.records.filter fun r => r.queued && r.isDirect)
    (fun r hr => by
      obtain ⟨hr, hpick⟩ := List.mem_filter.mp hr
      rw [Bool.and_eq_true] at hpick
      exact ⟨hpick.2, h r hr hpick.2⟩) .aborted none t.unmaintained
  have hfold : t.unmaintained.completeQueued Request.isDirect .aborted none =
      (t.wq.records.filter fun r => r.queued && r.isDirect).foldl (fun s r => s.completeRequest r .aborted none false)
        t.unmaintained := by
    rw [State.completeQueued, show t.unmaintained.wq = t.wq by rw [State.unmaintained_eq]]
  rw [← hfold] at hqueued
  obtain ⟨-, ⟨q, hq⟩, -⟩ := clearMaintenance_foldl (l := [0, 1, 2, 3]) (by decide)
    (t.unmaintained.completeQueued Request.isDirect .aborted none)
  rw [← State.leaveMaintenance_eq, hqueued, State.unmaintained_eq] at hq
  exact ⟨_, _, hq⟩

/-- With names given once, the records that stay are those not picked. -/
theorem filter_not_picked {l : List Request} (h : (l.map Request.id).Nodup) (pick : Request → Bool) :
    (l.filter fun q => (l.filter pick).all fun r => q.id != r.id) = l.filter fun q => !pick q := by
  refine List.filter_congr fun q hq => ?_
  rw [Bool.eq_iff_iff, List.all_eq_true]
  constructor
  · intro hall
    by_contra hpick
    simpa using hall q (List.mem_filter.mpr ⟨hq, by simpa using hpick⟩)
  · intro hpick r hr
    obtain ⟨hr, hr'⟩ := List.mem_filter.mp hr
    by_contra hsame
    obtain rfl := List.inj_on_of_nodup_map h hq hr (by simpa using hsame)
    simp [hr'] at hpick

/-- Settles O26. -/
theorem maintenanceIsEnteredAndLeft : Obligations.MaintenanceIsEnteredAndLeft := by
  refine ⟨fun e n s hruns => ?_, fun e n s hruns => ?_⟩
  · intro done
    have hroute : exec (.maintainOn e) s = .next (State.routeMaintainOn (infoOf s n .maintain e) (fetched s n)) :=
      exec_runs (c := .maintainOn e) rfl hruns
    have hlevel := fetched_level s n
    refine ⟨fun hmaintaining => ?_, fun hpermitted hzero hnone => ?_, fun hother hrefused => ?_⟩
    · rw [hroute, State.routeMaintainOn, if_pos (by exact hmaintaining), completePlain_of_tod (by exact rfl) (by simp)]
    · obtain ⟨hrest, hhp, hself, hothers, hasked⟩ := enterMaintenance_fetched (s := s) (n := n)
      have henter : exec (.maintainOn e) s = .next (completing ((fetched s n).enterMaintenance n) done) := by
        rw [hroute, State.routeMaintainOn, if_neg (by simp [fetched, hnone]), if_pos (by exact ⟨hpermitted, hlevel.trans hzero, hnone⟩),
          completePlain_of_tod (by simp [infoOf, fetched]) (by simp)]
        rfl
      generalize (fetched s n).enterMaintenance n = u at *
      refine ⟨_, henter, ?_, ?_, hself, by simp [completing], fun x hx hdone => ?_, fun m hm => ⟨fun hrunning => ⟨?_, ?_⟩,
        fun hstopped => ?_⟩⟩
      · rw [hrest]
        rfl
      · rw [completing, hhp]
        rfl
      · have hnot : ∀ m, m ≠ n → (s.chain m).state = .running → x ≠ .fetch m := fun m _ _ => hx m
        simp [completing, hasked, hdone]
        tauto
      · simp [completing, hasked]
        tauto
      · exact (hothers m hm).trans (if_pos hrunning)
      · exact (hothers m hm).trans (if_neg hstopped)
    · rw [hroute, State.routeMaintainOn, if_neg (by exact hother), if_neg ?_, completePlain_of_tod (by exact rfl) (by simp)]
      rintro ⟨hpermitted, hzero, hnone⟩
      have hfalse : s.cfg.maintenance ≠ false := ne_of_eq_of_ne hpermitted (by simp)
      have hzero' : (s.chain n).level = 0 := hlevel.symm.trans hzero
      have hnone' : s.hp.maintaining = none := hnone
      tauto
  · intro done
    refine ⟨fun hother => by rw [exec_maintainOff hruns rfl, if_neg hother], fun hmaintaining hadapter hfresh hholds => ?_⟩
    obtain ⟨t, ht⟩ : ∃ t, completing (fetched s n) done = t := ⟨_, rfl⟩
    have hexec := exec_maintainOff hruns ht
    rw [if_pos hmaintaining] at hexec
    have hrecords : t.wq = s.wq := by rw [← ht]; rfl
    have hchains : t.chains = (fetched s n).chains := by rw [← ht]; rfl
    have hstate : t.hp.adapter = .maintenance := by rw [← ht]; exact hadapter
    obtain ⟨⟨hasks, -⟩, ⟨-, -, hleft, hfetch⟩, hchain⟩ := t.leaveMaintenance_left
    obtain ⟨waiting, heldBack, hrest⟩ := t.leaveMaintenance_direct (by rw [hrecords]; exact hholds)
    have hkept : (fetched s n).chain = t.chain := by rw [← ht]; rfl
    have hsame : ∀ m, (t.chain m).state = (s.chain m).state ∧ (t.chain m).flags = (s.chain m).flags := by
      intro m
      rw [← hkept]
      by_cases hm : m = n
      · subst hm
        rw [fetched_chain]
        exact ⟨rfl, rfl⟩
      · rw [fetched_chain_other s hm]
        exact ⟨rfl, rfl⟩
    refine ⟨_, hexec, by rw [hrest, hstate]; rfl, by rw [hrest], ?_, ?_, fun r hr hdirect hqueued => ?_, fun m => ⟨?_, ?_, ?_, ?_⟩, ?_,
      by rw [hrest, ← ht]; rfl, by rw [hrest, ← ht]; rfl, by rw [hrest, ← ht]; rfl, by rw [hrest, ← ht]; rfl,
      by rw [hrest, ← ht]; rfl, by rw [hrest, ← ht]; rfl⟩
    · exact hasks _ (by rw [← ht]; exact mem_asked.mpr (.inl (by simp [completing, done])))
    · rw [hrest, hrecords]
      exact (filter_not_picked hfresh.1.1 _).trans (List.filter_congr fun r _ => by rw [Bool.and_comm])
    · exact (hleft r (hrecords ▸ hr) hdirect hqueued).1
    · rw [hchain, hkept]
      rfl
    · rw [hchain]
      exact (hsame m).1
    · rw [hchain]
      exact (hsame m).2
    · intro hrunning hdue hnow hwait
      have hm : m ≠ n := fun h => hnow (h ▸ hruns.1)
      have hother : t.chain m = s.chain m := by rw [← hkept, fetched_chain_other s hm]
      have hidle : t.hp.current ≠ some (.fetch m) := by
        rw [← ht]
        simp [completing, fetched]
      refine (hfetch m).2 (hother ▸ hrunning) (hother ▸ hdue) (hother ▸ hwait) hidle ?_
      rw [hchain]
      exact (hsame m).1.trans hrunning
    · have hdirect : Request.isDirect = fun r => decide (r.kind = .directRead ∨ r.kind = .directWrite) := by
        funext r
        cases h : r.kind <;> simp [Request.isDirect, h]
      rw [hrest, ← ht, hdirect]
      rfl

end Sys2Proof.Machine
end

section
/-! Hold entries are found, chosen, made and placed (R147 to R150): the model's operations in the spec's words. -/

namespace Sys2Proof.Machine

open Sys2Proof

/-! The earliest entry that a test picks. -/

theorem earlier_foldl {y : HoldEntry} (l : List HoldEntry) (a : Option HoldEntry)
    (hmin : ∀ z ∈ l, y.id ≤ z.id ∧ (z.id = y.id → z = y)) (ha : ∀ z ∈ a, y.id ≤ z.id ∧ (z.id = y.id → z = y))
    (hy : y ∈ l ∨ a = some y) : l.foldl earlier a = some y := by
  induction l generalizing a with
  | nil => simpa using hy
  | cons x l ih =>
    rw [List.foldl_cons]
    obtain ⟨hx, hxy⟩ := hmin x List.mem_cons_self
    refine ih _ (fun z hz => hmin z (List.mem_cons_of_mem _ hz)) ?_ ?_
    · intro z hz
      cases a with
      | none => grind [earlier]
      | some b => grind [earlier]
    · cases a with
      | none => grind [earlier]
      | some b => grind [earlier]

theorem HoldManager.earliest_eq_some {h : HoldManager} {p : HoldEntry → Bool} {y : HoldEntry}
    (hnames : ((h.list ++ h.line).map HoldEntry.id).Nodup) (hy : y ∈ h.list ++ h.line) (hpick : p y = true)
    (hmin : ∀ z ∈ h.list ++ h.line, p z = true → y.id ≤ z.id) : h.earliest p = some y := by
  refine earlier_foldl _ _ (fun z hz => ?_) (by simp) (.inl (List.mem_filter.mpr ⟨hy, hpick⟩))
  obtain ⟨hz, hzp⟩ := List.mem_filter.mp hz
  exact ⟨hmin z hz hzp, fun h => List.inj_on_of_nodup_map hnames hz hy h⟩

theorem HoldManager.earliest_eq_none {h : HoldManager} {p : HoldEntry → Bool}
    (hnone : ∀ y ∈ h.list ++ h.line, ¬ p y = true) : h.earliest p = none := by
  simp only [HoldManager.earliest]
  rw [List.filter_eq_nil_iff.mpr hnone]
  rfl

theorem HoldManager.find_of_mem {h : HoldManager} {y : HoldEntry} (hnames : ((h.list ++ h.line).map HoldEntry.id).Nodup)
    (hy : y ∈ h.list ++ h.line) : h.find y.id = some y := by
  simp only [HoldManager.find]
  cases hfind : (h.list ++ h.line).find? fun e => e.id == y.id with
  | none => simpa using List.find?_eq_none.mp hfind y hy
  | some x =>
    have hid : x.id = y.id := by simpa using List.find?_some hfind
    rw [List.inj_on_of_nodup_map hnames (List.mem_of_find?_eq_some hfind) hy hid]

theorem covers_iff (x : HoldEntry) (n : Fin 4) (k : RequestKind) (b m : Nat) :
    (x.chain == n && covers x.start x.count b m && modeEnough x.mode k) = true ↔ CoversRequest x n k b m := by
  simp only [covers, Bool.and_eq_true, beq_iff_eq, decide_eq_true_eq, and_assoc]
  refine and_congr_right fun _ => and_congr_right fun _ => and_congr_right fun _ => ?_
  cases x.mode <;> cases k <;> simp [modeEnough]

/-! Placing. -/

theorem HoldManager.coveredShared_iff (s : State) (e : HoldEntry) : s.hm.coveredShared e = true ↔ CoveredShared s e := by
  simp [HoldManager.coveredShared, HoldEntry.sharedHeld, and_assoc]

theorem HoldManager.coverSilent_eq (h : HoldManager) (e : HoldEntry) :
    h.coverSilent e = h.list.any fun x => x.state = .held && x.mode = .shared && x.silent &&
      overlap x.start x.count e.start e.count := by
  refine congrArg h.list.any (funext fun x => ?_)
  simp only [HoldEntry.sharedHeld]
  cases x.state <;> cases x.mode <;> rfl

theorem HoldManager.conflicts_iff_not_fits (s : State) (e : HoldEntry) : s.hm.conflicts e = false ↔ Fits s e :=
  HoldManager.conflicts_eq_false

/-- The entry as it stands on the list when it has joined HELD. -/
def HoldManager.heldEntry (h : HoldManager) (e : HoldEntry) : HoldEntry :=
  { e with state := .held, silent := h.coverSilent e, holdElem := none }

/-- An entry of a new name joins the list: HELD where it is covered, its requests woken and its HOLD completed, else
CLAIMING with its CLAIM offered (R70, R150). -/
theorem State.joinList_eq {s : State} {e : HoldEntry} (hnew : ∀ x ∈ s.hm.list ++ s.hm.line, x.id ≠ e.id) :
    s.joinList e =
      if CoveredShared s e then
        (({ s with hm := { s.hm with list := s.hm.list ++ [s.hm.heldEntry e] } } : State).wakeRequests e.id).completeHold e
          .done none (s.hm.coverSilent e)
      else ({ s with hm := { s.hm with list := s.hm.list ++ [{ e with state := .claiming }] } } : State).offer e.claim := by
  have hfind : (({ s.hm with list := s.hm.list ++ [{ e with state := .claiming }] } : HoldManager).find e.id) =
      some { e with state := .claiming } := by
    simp only [HoldManager.find, List.append_assoc, List.find?_append]
    rw [List.find?_eq_none.mpr fun x hx => by simpa using hnew x (List.mem_append_left _ hx)]
    simp
  have hmap : ∀ (l : List HoldEntry) (f : HoldEntry → HoldEntry), (∀ x ∈ l, x.id ≠ e.id) →
      l.map (fun x => if x.id == e.id then f x else x) = l := by
    intro l f hl
    exact (List.map_congr_left fun x hx => by simp [hl x hx]).trans (List.map_id l)
  simp only [State.joinList, ← HoldManager.coveredShared_iff]
  split
  · simp only [State.becomeHeld, State.onHm_hm, hfind]
    refine congrArg (fun t : State => (t.wakeRequests e.id).completeHold e .done none (s.hm.coverSilent e)) ?_
    simp only [State.onEntry, State.onHm, HoldManager.modify, List.map_append, HoldManager.heldEntry,
      hmap _ _ fun x hx => hnew x (List.mem_append_left _ hx), hmap _ _ fun x hx => hnew x (List.mem_append_right _ hx)]
    simp
  · rfl

/-- No request relies on the entry: none wakes. -/
theorem State.wakeRequests_of_free {s : State} {id : Nat} (hfree : ∀ r ∈ s.wq.records, r.hold ≠ some id) :
    s.wakeRequests id = s := by
  have hwake : s.wq.records.map (fun r => if r.state == .holdWait && r.hold == some id then { r with state := .ready }
      else r) = s.wq.records := (List.map_congr_left fun r hr => by simp [hfree r hr]).trans (List.map_id _)
  simp only [State.wakeRequests, State.onWq, hwake]

/-- The states of a placed entry. -/
theorem placedState_cases (s : State) (e : HoldEntry) :
    Fits s e ∧ CoveredShared s e ∧ placedState s e = .held ∨ Fits s e ∧ ¬ CoveredShared s e ∧ placedState s e = .claiming ∨
      ¬ Fits s e ∧ placedState s e = .pending := by
  simp only [placedState]
  split
  · split
    · exact .inl ⟨‹_›, ‹_›, rfl⟩
    · exact .inr (.inl ⟨‹_›, ‹_›, rfl⟩)
  · exact .inr (.inr ⟨‹_›, rfl⟩)

/-- A new entry is made and placed (R148 to R150): the Hold Manager, the CLAIM, and the HOLD of an entry HELD at once. -/
theorem State.makeEntry_eq {s : State} {e : HoldEntry} (hfresh : NamesFresh s) (hid : e.id = s.hm.nextId)
    (hadapter : s.hp.adapter ≠ .silenced) :
    s.makeEntry e =
      if placedState s e = .held then
        ({ s with hm := withEntry s e } : State).completeHold e .done none (s.hm.coverSilent e)
      else { s with hm := withEntry s e, lu := withClaim s e } := by
  obtain ⟨-, ⟨-, hlt⟩, hholds⟩ := hfresh
  have hnew : ∀ x ∈ s.hm.list ++ s.hm.line, x.id ≠ e.id := fun x hx => hid ▸ (hlt x hx).ne
  have hfree : ∀ r ∈ s.wq.records, r.hold ≠ some e.id := fun r hr h => by
    have := hholds r hr e.id (by simp [h])
    omega
  obtain ⟨t, ht⟩ : ∃ t : State, s.onHm (fun h => { h with nextId := h.nextId + 1 }) = t := ⟨_, rfl⟩
  have hlist : t.hm.list = s.hm.list := by rw [← ht]; rfl
  have hline : t.hm.line = s.hm.line := by rw [← ht]; rfl
  have hfits : t.hm.conflicts e = false ↔ Fits s e := by rw [← ht]; exact HoldManager.conflicts_iff_not_fits s e
  have hcovered : CoveredShared t e ↔ CoveredShared s e := by rw [← ht]; rfl
  have hjoin := State.joinList_eq (s := t) (e := e) (by rw [hlist, hline]; exact hnew)
  simp only [State.makeEntry, State.placeEntry, ht]
  rcases placedState_cases s e with ⟨hf, hc, hp⟩ | ⟨hf, hc, hp⟩ | ⟨hf, hp⟩
  · rw [if_neg (by simp [hfits.mpr hf]), hjoin, if_pos (hcovered.mpr hc), if_pos hp,
      State.wakeRequests_of_free (by rw [← ht]; exact hfree)]
    simp only [withEntry, hp, HoldManager.heldEntry, ← HoldManager.coverSilent_eq]
    rw [← ht]
    rfl
  · rw [if_neg (by simp [hfits.mpr hf]), hjoin, if_neg (hcovered.not.mpr hc), if_neg (by simp [hp])]
    simp only [withEntry, withClaim, hp, if_true, State.offer]
    rw [← ht]
    simp [State.onHm, State.onLu, hadapter, HoldEntry.claim]
  · rw [if_pos (by simpa [← hfits] using hf), if_neg (by simp [hp])]
    simp only [withEntry, withClaim, hp]
    rw [← ht]
    rfl

/-- The new entry stands HELD just where it was placed so. -/
theorem withEntry_isHeld {s : State} {e : HoldEntry} (hfresh : NamesFresh s) (hid : e.id = s.hm.nextId) :
    (withEntry s e).isHeld e.id = decide (placedState s e = .held) := by
  obtain ⟨-, ⟨-, hlt⟩, -⟩ := hfresh
  have hnew : ∀ x ∈ s.hm.list ++ s.hm.line, x.id ≠ e.id := fun x hx => hid ▸ (hlt x hx).ne
  have hlist : s.hm.list.find? (fun x => x.id == e.id) = none :=
    List.find?_eq_none.mpr fun x hx => by simpa using hnew x (List.mem_append_left _ hx)
  have hline : s.hm.line.find? (fun x => x.id == e.id) = none :=
    List.find?_eq_none.mpr fun x hx => by simpa using hnew x (List.mem_append_right _ hx)
  rcases placedState_cases s e with ⟨-, -, hp⟩ | ⟨-, -, hp⟩ | ⟨-, hp⟩ <;>
    simp [withEntry, HoldManager.isHeld, HoldManager.find, List.find?_append, hp, hlist, hline]

end Sys2Proof.Machine
end

section
/-! A disk element on a Common extent takes a hold reference (R31, R70, R149, R160). -/

namespace Sys2Proof.Machine

open Sys2Proof

/-- A change that keeps names and states keeps what is HELD. -/
theorem HoldManager.isHeld_modify {h : HoldManager} {f : HoldEntry → HoldEntry} (id j : Nat)
    (hf : ∀ e, (f e).id = e.id ∧ (f e).state = e.state) : (h.modify id f).isHeld j = h.isHeld j := by
  have hg : ∀ e : HoldEntry, (if e.id == id then f e else e).id = e.id ∧ (if e.id == id then f e else e).state = e.state :=
    fun e => by split <;> simp [hf]
  simp only [HoldManager.isHeld, HoldManager.find, HoldManager.modify, ← List.map_append, List.find?_map,
    Function.comp_def, hg]
  cases (h.list ++ h.line).find? fun x => x.id == j with
  | none => rfl
  | some x => exact congrArg (· == HoldState.held) (hg x).2

/-- The reference a request takes on an entry (R149, R160). -/
def HoldEntry.referenced (budget : Option Nat) (z : HoldEntry) : HoldEntry :=
  { z with
    refs := z.refs + 1
    budget := if z.origin == .implicit then adjustBudget z.budget budget else z.budget }

theorem State.relyOn_covered {s : State} {n : Fin 4} {k : RequestKind} {b m : Nat} {y : HoldEntry} (hfresh : NamesFresh s)
    (hy : y ∈ s.hm.list ++ s.hm.line) (hcovers : CoversRequest y n k b m)
    (hfirst : ∀ z ∈ s.hm.list ++ s.hm.line, CoversRequest z n k b m → y.id ≤ z.id) (budget : Option Nat) :
    s.relyOn n k b m budget = (y.id, s.onEntry y.id (HoldEntry.referenced budget)) ∧
      (s.onEntry y.id (HoldEntry.referenced budget)).hm.isHeld y.id = decide (y.state = .held) := by
  have hcovering : s.hm.covering n k b m = some y :=
    HoldManager.earliest_eq_some hfresh.2.1.1 hy ((covers_iff y n k b m).mpr hcovers) fun z hz hcz =>
      hfirst z hz ((covers_iff z n k b m).mp hcz)
  refine ⟨by simp only [State.relyOn, hcovering]; rfl, ?_⟩
  rw [State.onEntry, State.onHm_hm, HoldManager.isHeld_modify (f := HoldEntry.referenced budget) _ _ (fun e => ⟨rfl, rfl⟩), HoldManager.isHeld,
    HoldManager.find_of_mem hfresh.2.1.1 hy]
  change (y.state == HoldState.held) = _
  generalize y.state = st
  cases st <;> rfl

theorem State.relyOn_new {s : State} {n : Fin 4} {k : RequestKind} {b m : Nat} (hfresh : NamesFresh s)
    (hadapter : s.hp.adapter ≠ .silenced) (hnone : ∀ y ∈ s.hm.list ++ s.hm.line, ¬ CoversRequest y n k b m)
    (budget : Option Nat) :
    s.relyOn n k b m budget = ((implicitEntry s n k b m budget).id,
      { s with hm := withEntry s (implicitEntry s n k b m budget), lu := withClaim s (implicitEntry s n k b m budget) }) := by
  have hcovering : s.hm.covering n k b m = none :=
    HoldManager.earliest_eq_none fun y hy hcy => hnone y hy ((covers_iff y n k b m).mp hcy)
  have hentry : s.hm.newEntry b m k.holdMode n .implicit 1 budget none = implicitEntry s n k b m budget := by
    cases k <;> rfl
  simp only [State.relyOn, hcovering, hentry]
  rw [State.makeEntry_eq hfresh rfl hadapter]
  split
  case isTrue hheld =>
    have hclaim : withClaim s (implicitEntry s n k b m budget) = s.lu := by simp [withClaim, hheld]
    rw [hclaim]
    rfl
  case isFalse => rfl

/-- On a Common extent the record joins the queue with the hold it relies on, READY if that is HELD. -/
theorem State.admitDisk_common {s t : State} {i : ElemInfo} {k : RequestKind} {e : Element} {a : Nat × Nat × Bool}
    {id : Nat} {held : Bool}
    (hread : k ≠ .directRead) (hwrite : k ≠ .directWrite) (happend : k ≠ .append) (hcount : 1 ≤ e.count)
    (hkind : i.kind = .disk k) (hfirst : firstCheckFailed s i.chain (.disk k) e = none)
    (hcommon : (selectorOf s i.chain (.disk k) e).table = .common)
    (ha : admission (descriptorFor s i.chain (.disk k) e) k e.offset e.count = some a)
    (hrely : ({ s with ec := accessedWith s (selectorOf s i.chain (.disk k) e) 0 } : State).relyOn i.chain k a.1 a.2.1
      (budgetOf e.budget) = (id, t)) (hheld : t.hm.isHeld id = held) (hwq : t.wq = s.wq)
    (hcost : t.tm = s.tm ∧ t.rdm = s.rdm ∧ t.cfg = s.cfg) :
    let x := selectorOf s i.chain (.disk k) e
    s.admitDisk i k e = ({ t with
      wq := ⟨s.wq.records ++ [recordFor s i k e (some (x.table, x.index)) a.1 a.2.1 (max (s.chain i.chain).level x.level)
        (changedOutcome k (descriptorFor s i.chain (.disk k) e)) a.2.2 (some id) (if held then .ready else .holdWait)
        (targetOf s.cfg.interleave a.1)], s.wq.nextId + 1⟩ }).admittedFetch i := by
  intro x
  obtain ⟨htm, hrdm, hcfg⟩ := hcost
  have hrecord : ∀ hold st p, recordFor t i k e (some (x.table, x.index)) a.1 a.2.1 (max (s.chain i.chain).level x.level)
      (changedOutcome k (descriptorFor s i.chain (.disk k) e)) a.2.2 hold st p =
      recordFor s i k e (some (x.table, x.index)) a.1 a.2.1 (max (s.chain i.chain).level x.level)
      (changedOutcome k (descriptorFor s i.chain (.disk k) e)) a.2.2 hold st p := by
    intro hold st p
    simp only [recordFor, htm, hrdm, hcfg, hwq]
  rw [State.admitDisk_passed hread hwrite hcount hkind hfirst ha, if_neg happend]
  simp only [State.admitExtent, admissionOf, hcommon, Admission.place, notesChanged_eq, hrely, hheld]
  rw [State.enqueue_new (by exact rfl) (State.nextTarget_new hread hwrite fun h => absurd h happend), hcfg, hwq, ← hrecord,
    ← hcommon]

/-- The reference in the words of R160. -/
theorem HoldEntry.referenced_eq (budget : Option Nat) : HoldEntry.referenced budget = fun z => { z with
    refs := z.refs + 1
    budget := if z.origin = .explicit then z.budget
      else match z.budget, budget with
        | some p, some q => some (max p q)
        | _, _ => none } := by
  funext z
  cases horigin : z.origin <;> cases hbudget : z.budget <;> cases budget <;>
    simp [HoldEntry.referenced, adjustBudget, horigin, hbudget]

/-- A fetched disk element on a Common extent, for the hold its state after the checks gives. -/
theorem exec_common {s t : State} {n : Fin 4} {k : RequestKind} {e : Element} {a : Nat × Nat × Bool} {id : Nat}
    {held : Bool} (hadmissible : Admissible s n k e) (hcommon : (selectorOf s n (.disk k) e).table = .common)
    (happend : k ≠ .append) (ha : admission (descriptorFor s n (.disk k) e) k e.offset e.count = some a)
    (hrely : ({ fetched s n with ec := accessedWith s (selectorOf s n (.disk k) e) 0 } : State).relyOn n k a.1 a.2.1
      (budgetOf e.budget) = (id, t)) (hheld : t.hm.isHeld id = held)
    (hrest : t.wq = s.wq ∧ t.tm = s.tm ∧ t.rdm = s.rdm ∧ t.hp = (fetched s n).hp ∧ t.chains = (fetched s n).chains) :
    let x := selectorOf s n (.disk k) e
    exec (diskCommand k e) s = .next (streamed { t with
      wq := ⟨s.wq.records ++ [recordFor s (infoOf s n (.disk k) e) k e (some (x.table, x.index)) a.1 a.2.1
        (max (s.chain n).level x.level) (changedOutcome k (descriptorFor s n (.disk k) e)) a.2.2 (some id)
        (if held then .ready else .holdWait) (targetOf s.cfg.interleave a.1)], s.wq.nextId + 1⟩ } n e) := by
  intro x
  obtain ⟨hruns, hread, hwrite, hroom, hfirst⟩ := hadmissible
  obtain ⟨hwq, htm, hrdm, hhp, hchains⟩ := hrest
  have hselector := fetched_selectorOf s n (.disk k) e
  have hdescriptor := fetched_descriptorFor s n (.disk k) e
  have hadmit := State.admitDisk_common (s := fetched s n) (i := infoOf s n (.disk k) e) (t := t) hread hwrite happend
    (count_pos_of_legal hread hwrite hruns.2.2.1) rfl ((fetched_firstCheck s n _ e).trans hfirst)
    ((congrArg Selector.table hselector).trans hcommon) (hdescriptor.symm ▸ ha) (hselector.symm ▸ hrely) hheld hwq
    ⟨htm, hrdm, congrArg (fun h : HostPort => h.setup.getD ⟨1, 0, 1, 0, false⟩) hhp⟩
  rw [exec_runs (elementOf_diskCommand k e) hruns, route_diskCommand, routeDisk_room (by tauto) (by exact hroom), hadmit,
    streamed_of_fetched hruns (by exact hchains) (by exact congrArg HostPort.current hhp)]
  rw [show (infoOf s n (.disk k) e).chain = n from rfl, hselector, hdescriptor, fetched_level]
  rfl

/-- Settles O21. -/
theorem commonRequestTakesAHoldReference : Obligations.CommonRequestTakesAHoldReference := by
  intro k e n s hadmissible hfresh hadapter x d hcommon happend a ha made
  refine ⟨fun y hy hcovers hfirst => ?_, fun hnone => ?_⟩
  · obtain ⟨hrely, hheld⟩ := State.relyOn_covered (s := { fetched s n with ec := accessedWith s x 0 }) hfresh hy hcovers hfirst
      (budgetOf e.budget)
    rw [exec_common hadmissible hcommon happend ha hrely hheld ⟨rfl, rfl, rfl, rfl, rfl⟩, HoldEntry.referenced_eq]
    simp only [decide_eq_true_eq]
    rfl
  · intro y
    have hrely := State.relyOn_new (s := { fetched s n with ec := accessedWith s x 0 }) hfresh hadapter hnone
      (budgetOf e.budget)
    rw [exec_common hadmissible hcommon happend ha hrely (withEntry_isHeld hfresh rfl) ⟨rfl, rfl, rfl, rfl, rfl⟩]
    simp only [decide_eq_true_eq]
    rfl

end Sys2Proof.Machine
end

section
/-! HOLD: an explicit entry is made and placed (R61, R148, R150). -/

namespace Sys2Proof.Machine

open Sys2Proof

/-- An entry HELD at once has the peer-silent flag of the entries that cover it (R150). -/
theorem withEntry_silent {s : State} {y : HoldEntry} (hfresh : NamesFresh s) (hid : y.id = s.hm.nextId)
    (hheld : placedState s y = .held) :
    ((withEntry s y).list.any fun z => z.id = y.id && z.silent) = s.hm.coverSilent y := by
  obtain ⟨-, ⟨-, hlt⟩, -⟩ := hfresh
  have hnew : (s.hm.list.any fun z => z.id = y.id && z.silent) = false := by
    rw [List.any_eq_false]
    intro x hx
    have := hlt x (List.mem_append_left _ hx)
    simp
    omega
  simp only [withEntry, hheld, List.any_append, hnew, Bool.false_or, List.any_cons, List.any_nil, Bool.or_false,
    HoldManager.coverSilent_eq]
  simp

theorem setReason_eq (s : State) (n : Fin 4) (f : FetchWait → FetchWait) :
    s.setReason n f = { s with chains := s.chains.set n { s.chain n with wait := f (s.chain n).wait } } := rfl

/-- Settles O23. -/
theorem holdMakesAnExplicitEntry : Obligations.HoldMakesAnExplicitEntry := by
  intro m e n s hruns hfresh hfirst hadapter x d hoffset count y made
  have hrange : d.range (.hold m) e.offset e.count = .fits (d.base + e.offset) count false := if_neg (by omega)
  have hexamine : (fetched s n).ec.examine ((fetched s n).chain n) (.hold m) e =
      .passed (admissionOf s n (.hold m) e (d.base + e.offset) count false false) := by
    rw [fetched_examine, examine_eq, hfirst]
    exact congrArg (examinedAt s n (.hold m) e) hrange
  obtain ⟨v, hv⟩ : ∃ v : State, v = { fetched s n with ec := accessedWith s x 0 } := ⟨_, rfl⟩
  have hplaced : placedState v y = placedState s y := by rw [hv]; rfl
  have hentry : withEntry v y = withEntry s y := by rw [hv]; rfl
  have hclaims : withClaim v y = withClaim s y := by rw [hv]; rfl
  have hmake := State.makeEntry_eq (s := v) (e := y) (by rw [hv]; exact hfresh) (by rw [hv]; rfl) (by rw [hv]; exact hadapter)
  have hheld : (v.makeEntry y).hm.isHeld y.id = decide (placedState s y = .held) := by
    rw [← withEntry_isHeld hfresh (e := y) rfl, hmake]
    split <;> simp [hentry]
  rw [exec_runs (elementOf_holdCommand m e) hruns, route_holdCommand, routeHold_checked,
    show (infoOf s n (.hold m) e).chain = n from rfl, show (infoOf s n (.hold m) e).kind = .hold m from rfl, hexamine]
  change Host.Outcome.next (if (State.makeEntry { fetched s n with ec := accessedWith s x 0 } y).hm.isHeld y.id = true then
    State.makeEntry { fetched s n with ec := accessedWith s x 0 } y
    else (State.makeEntry { fetched s n with ec := accessedWith s x 0 } y).setReason n _) = _
  rw [← hv, hheld, hmake, hplaced]
  by_cases hp : placedState s y = .held
  · have hclaim : withClaim s y = v.lu := by
      rw [hv]
      simp [withClaim, hp, fetched]
    simp only [hp, decide_true, if_true, made, hclaim, withEntry_silent hfresh (y := y) rfl hp, hentry]
    rw [hv]
    rfl
  · simp only [hp, decide_false, if_false, Bool.false_eq_true, setReason_eq, hentry, hclaims, made, State.chain]
    simp only [hv]
    rw [show (fetched s n).chains.get n = _ from fetched_chain s n]
    rfl

end Sys2Proof.Machine
end

section
/-! An entry is removed and the pending line checked again (R151, R156). -/

namespace Sys2Proof.Machine

open Sys2Proof

/-- The check of R150 at a list, as `rechecked` makes it. -/
theorem rechecked_cons (s : State) (y : HoldEntry) (rest : List HoldEntry) :
    rechecked s.hm.list (y :: rest) =
      if Fits s y then
        if CoveredShared s y then rechecked (s.hm.list ++ [s.hm.heldEntry y]) rest
        else rechecked (s.hm.list ++ [{ y with state := .claiming }]) rest
      else ((rechecked s.hm.list rest).1, y :: (rechecked s.hm.list rest).2) := by
  have hcovered : (y.mode = .shared ∧ ∀ i < y.count, ∃ x ∈ s.hm.list.filter fun x => x.state = .held && x.mode = .shared,
      x.start ≤ y.start + i ∧ y.start + i < x.start + x.count) ↔ CoveredShared s y := by
    simp [and_assoc]
  have hsilent : ((s.hm.list.filter fun x => x.state = .held && x.mode = .shared).any fun x =>
      x.silent && overlap x.start x.count y.start y.count) = s.hm.coverSilent y := by
    rw [HoldManager.coverSilent_eq, List.any_filter]
    simp only [Bool.and_assoc]
  simp only [rechecked, hcovered, hsilent, HoldManager.heldEntry]

/-- A pending entry is checked again: it joins the list where it fits (R151). -/
theorem State.recheckEntry_eq {s : State} {e : HoldEntry} (hnames : ((s.hm.list ++ s.hm.line).map HoldEntry.id).Nodup)
    (he : e ∈ s.hm.line) :
    let s' : State := { s with hm := { s.hm with line := s.hm.line.filter fun x => x.id != e.id } }
    s.recheckEntry e =
      if Fits s e then
        if CoveredShared s e then
          (({ s' with hm := { s'.hm with list := s.hm.list ++ [s.hm.heldEntry e] } } : State).wakeRequests
            e.id).completeHold e .done none (s.hm.coverSilent e)
        else ({ s' with hm := { s'.hm with list := s.hm.list ++ [{ e with state := .claiming }] } } : State).offer e.claim
      else s := by
  intro s'
  have hnew : ∀ x ∈ s'.hm.list ++ s'.hm.line, x.id ≠ e.id := by
    intro x hx
    rcases List.mem_append.mp hx with hx | hx
    · rw [List.map_append] at hnames
      exact fun h => List.disjoint_of_nodup_append hnames (List.mem_map_of_mem hx) (h ▸ List.mem_map_of_mem he)
    · simpa using (List.mem_filter.mp hx).2
  simp only [State.recheckEntry]
  by_cases hfits : Fits s e
  · rw [if_neg (by simp [(HoldManager.conflicts_iff_not_fits s e).mpr hfits]), if_pos hfits]
    exact State.joinList_eq hnew
  · rw [if_pos (by simpa [← HoldManager.conflicts_iff_not_fits] using hfits), if_neg hfits]

/-- The entry `w` of the list is the pending entry `z` that has joined it: CLAIMING with its CLAIM offered, or HELD with
its HOLD completed (R150, R61). -/
def Joined (t : State) (z w : HoldEntry) : Prop :=
  w = { z with state := w.state, holdElem := w.holdElem, silent := w.silent } ∧
    (w.state = .claiming → t.hp.adapter ≠ .silenced → ⟨z.claim, 0, 0, false⟩ ∈ t.lu.frames) ∧
    (w.state = .held → ∀ h, z.holdElem = some h → ∃ u ∈ asked t, u.info = h.1 ∧ u.status = .done ∧ u.done = z.count ∧
      u.bits.p = w.silent)

/-- What checking pending entries again leaves: those that have joined the list, those that stay, the CLAIMs offered. -/
structure LineRechecked (s t : State) (rest : List HoldEntry) : Prop where
  asks : Asks s t
  woken : Woken s t
  adapter : t.hp.adapter = s.hp.adapter
  frames : ∃ new, t.lu = { s.lu with frames := s.lu.frames ++ new } ∧ ∀ f ∈ new, ∃ z ∈ rest, f.body = z.claim
  kept : ∀ w ∈ s.hm.list, w ∈ t.hm.list
  joined : ∀ w ∈ t.hm.list, w ∈ s.hm.list ∨ ∃ z ∈ rest, Joined t z w
  stays : ∀ z ∈ rest, z ∈ t.hm.line ∨ ∃ w ∈ t.hm.list, Joined t z w

theorem Joined.mono {s t : State} {z w : HoldEntry} (h : Joined s z w) (hasks : Asks s t)
    (hadapter : t.hp.adapter = s.hp.adapter) (hframes : ∀ f ∈ s.lu.frames, f ∈ t.lu.frames) : Joined t z w := by
  obtain ⟨hsame, hclaim, hheld⟩ := h
  refine ⟨hsame, fun hstate hsilenced => hframes _ (hclaim hstate (hadapter ▸ hsilenced)), fun hstate h hh => ?_⟩
  obtain ⟨u, hu, hrest⟩ := hheld hstate h hh
  exact ⟨u, hasks u hu, hrest⟩

/-- A HOLD that waits completes: its record names its place and, when DONE, the count of its range (R50, R61). -/
theorem State.completeHold_asked {s : State} {e : HoldEntry} {h : ElemInfo × Table × Nat} (hh : e.holdElem = some h)
    (st : Status) (f : Option ElementFault) (p : Bool) :
    ∃ u ∈ asked (s.completeHold e st f p), u.info = h.1 ∧ u.status = st ∧ u.fault = f ∧ u.done = holdDone st e.count ∧
      u.place = some (h.2.1, h.2.2) ∧ u.bits.p = p := by
  obtain ⟨i, x, n⟩ := h
  simp only [State.completeHold, hh]
  exact ⟨_, mem_asked_complete _ _, rfl, rfl, rfl, rfl, rfl, rfl⟩

/-- One pending entry is checked again. -/
theorem State.recheckEntry_rechecks {s : State} {e : HoldEntry} (hnames : ((s.hm.list ++ s.hm.line).map HoldEntry.id).Nodup)
    (he : e ∈ s.hm.line) :
    LineRechecked s (s.recheckEntry e) [e] ∧
      (Fits s e → (s.recheckEntry e).hm.line = s.hm.line.filter fun x => x.id != e.id) ∧
      (Fits s e → (s.recheckEntry e).hm.list = s.hm.list ++
        [if CoveredShared s e then s.hm.heldEntry e else { e with state := .claiming }]) := by
  rw [State.recheckEntry_eq hnames he]
  by_cases hfits : Fits s e
  · by_cases hcovered : CoveredShared s e
    · rw [if_pos hfits, if_pos hcovered, if_pos hcovered]
      obtain ⟨u, hu⟩ : ∃ u : State, { s with hm := { s.hm with
        list := s.hm.list ++ [s.hm.heldEntry e]
        line := s.hm.line.filter fun x => x.id != e.id } } = u := ⟨_, rfl⟩
      have hlist : ((u.wakeRequests e.id).completeHold e .done none (s.hm.coverSilent e)).hm.list =
          s.hm.list ++ [s.hm.heldEntry e] := by simp [← hu]
      have hasks : Asks s u := by rw [← hu]; exact .of_eq rfl rfl
      have hwoken : Woken s u := by rw [← hu]; exact .of_eq rfl
      have hjoined : Joined ((u.wakeRequests e.id).completeHold e .done none (s.hm.coverSilent e)) e (s.hm.heldEntry e) := by
        refine ⟨rfl, fun h => absurd h (by simp [HoldManager.heldEntry]), fun _ h hh => ?_⟩
        obtain ⟨c, hc, hinfo, hstatus, -, hdone, -, hp⟩ :=
          State.completeHold_asked (s := u.wakeRequests e.id) hh .done none (s.hm.coverSilent e)
        exact ⟨c, hc, hinfo, hstatus, hdone, hp⟩
      simp only [hu]
      refine ⟨⟨hasks.trans (.trans (.of_eq (by simp) (by simp)) (State.completeHold_asks _ _ _ _ _)),
        hwoken.trans ((State.wakeRequests_woken _ _).trans (State.completeHold_woken _ _ _ _ _)), by simp [← hu],
        ⟨[], by simp [← hu]⟩, fun w hw => hlist ▸ List.mem_append_left _ hw, fun w hw => ?_, fun z hz => .inr ?_⟩,
        fun _ => by simp [← hu], fun _ => hlist⟩
      · rw [hlist] at hw
        refine (List.mem_append.mp hw).imp_right fun hw => ⟨e, List.mem_singleton_self e, ?_⟩
        exact List.mem_singleton.mp hw ▸ hjoined
      · exact ⟨_, hlist ▸ List.mem_append_right _ (List.mem_singleton_self _), List.mem_singleton.mp hz ▸ hjoined⟩
    · rw [if_pos hfits, if_neg hcovered, if_neg hcovered]
      obtain ⟨u, hu⟩ : ∃ u : State, { s with hm := { s.hm with
        list := s.hm.list ++ [{ e with state := .claiming }]
        line := s.hm.line.filter fun x => x.id != e.id } } = u := ⟨_, rfl⟩
      have hlist : (u.offer e.claim).hm.list = s.hm.list ++ [{ e with state := .claiming }] := by simp [← hu]
      have hasks : Asks s u := by rw [← hu]; exact .of_eq rfl rfl
      have hjoined : Joined (u.offer e.claim) e { e with state := .claiming } := by
        refine ⟨rfl, fun _ hadapter => ?_, fun h => absurd h (by simp)⟩
        have hadapter : u.hp.adapter ≠ .silenced := by simpa using hadapter
        simp [State.offer, hadapter, State.onLu]
      have hframes : ∃ new, (u.offer e.claim).lu = { s.lu with frames := s.lu.frames ++ new } ∧
          ∀ f ∈ new, ∃ z ∈ [e], f.body = z.claim := by
        simp only [State.offer]
        split
        · exact ⟨[], by simp [← hu], by simp⟩
        · exact ⟨[⟨e.claim, 0, 0, false⟩], by simp [← hu, State.onLu], by simp⟩
      simp only [hu]
      refine ⟨⟨hasks.trans (.of_eq (by simp) (by simp)), .of_eq (by simp [← hu]), by simp [← hu], hframes,
        fun w hw => hlist ▸ List.mem_append_left _ hw, fun w hw => ?_, fun z hz => .inr ?_⟩,
        fun _ => by simp [← hu], fun _ => hlist⟩
      · rw [hlist] at hw
        refine (List.mem_append.mp hw).imp_right fun hw => ⟨e, List.mem_singleton_self e, ?_⟩
        exact List.mem_singleton.mp hw ▸ hjoined
      · exact ⟨_, hlist ▸ List.mem_append_right _ (List.mem_singleton_self _), List.mem_singleton.mp hz ▸ hjoined⟩
  · rw [if_neg hfits]
    refine ⟨⟨.refl s, .refl s, rfl, ⟨[], by simp⟩, fun w hw => hw, fun w hw => .inl hw, fun z hz => ?_⟩,
      fun h => absurd h hfits, fun h => absurd h hfits⟩
    exact .inl (List.mem_singleton.mp hz ▸ he)

/-- One entry, then the rest of the line. -/
theorem LineRechecked.cons {s u t : State} {e : HoldEntry} {rest : List HoldEntry} (hs : LineRechecked s u [e])
    (ht : LineRechecked u t rest) (hstays : e ∈ t.hm.line ∨ ∃ w ∈ u.hm.list, Joined u e w) :
    LineRechecked s t (e :: rest) := by
  obtain ⟨new, hnew, hnewClaims⟩ := hs.frames
  obtain ⟨new', hnew', hnewClaims'⟩ := ht.frames
  have hframes : ∀ f ∈ u.lu.frames, f ∈ t.lu.frames := fun f hf => by
    rw [hnew']
    exact List.mem_append_left _ hf
  have hmono : ∀ z w, Joined u z w → Joined t z w := fun z w h => h.mono ht.asks ht.adapter hframes
  refine ⟨hs.asks.trans ht.asks, hs.woken.trans ht.woken, ht.adapter.trans hs.adapter, ⟨new ++ new', ?_, fun f hf => ?_⟩,
    fun w hw => ht.kept w (hs.kept w hw), fun w hw => ?_, fun z hz => ?_⟩
  · rw [hnew', hnew, List.append_assoc]
  · rcases List.mem_append.mp hf with hf | hf
    · obtain ⟨z, hz, h⟩ := hnewClaims f hf
      exact ⟨z, List.mem_cons.mpr (.inl (List.mem_singleton.mp hz)), h⟩
    · obtain ⟨z, hz, h⟩ := hnewClaims' f hf
      exact ⟨z, List.mem_cons_of_mem _ hz, h⟩
  · rcases ht.joined w hw with hw | ⟨z, hz, h⟩
    · refine (hs.joined w hw).imp_right ?_
      rintro ⟨z, hz, h⟩
      exact ⟨z, List.mem_cons.mpr (.inl (List.mem_singleton.mp hz)), hmono z w h⟩
    · exact .inr ⟨z, List.mem_cons_of_mem _ hz, h⟩
  · rcases List.mem_cons.mp hz with rfl | hz
    · refine hstays.imp_right ?_
      rintro ⟨w, hw, h⟩
      exact ⟨w, ht.kept w hw, hmono _ w h⟩
    · exact ht.stays z hz

/-- The pending line checked again, entry by entry: list and line are those of R151. -/
theorem recheckEntry_foldl (rest kept : List HoldEntry) (s : State) (hline : s.hm.line = kept ++ rest)
    (hnames : ((s.hm.list ++ s.hm.line).map HoldEntry.id).Nodup) :
    LineRechecked s (rest.foldl State.recheckEntry s) rest ∧
      (rest.foldl State.recheckEntry s).hm.list = (rechecked s.hm.list rest).1 ∧
      (rest.foldl State.recheckEntry s).hm.line = kept ++ (rechecked s.hm.list rest).2 := by
  induction rest generalizing kept s with
  | nil =>
    exact ⟨⟨.refl s, .refl s, rfl, ⟨[], by simp⟩, fun w hw => hw, fun w hw => .inl hw,
      fun z hz => absurd hz List.not_mem_nil⟩, rfl, hline⟩
  | cons e rest ih =>
    have he : e ∈ s.hm.line := hline ▸ List.mem_append_right _ List.mem_cons_self
    obtain ⟨hstep, hstepLine, hstepList⟩ := State.recheckEntry_rechecks hnames he
    simp only [List.foldl_cons]
    by_cases hfits : Fits s e
    · have hother : ∀ x ∈ kept ++ rest, x.id ≠ e.id := by
        have hperm : (s.hm.list ++ (kept ++ e :: rest)).Perm (e :: (s.hm.list ++ (kept ++ rest))) := by
          rw [← List.append_assoc, ← List.append_assoc]
          exact List.perm_middle
        rw [hline, (hperm.map _).nodup_iff, List.map_cons, List.nodup_cons] at hnames
        exact fun x hx h => hnames.1 (h ▸ List.mem_map_of_mem (List.mem_append_right _ hx))
      have hnewLine : (s.recheckEntry e).hm.line = kept ++ rest := by
        rw [hstepLine hfits, hline, List.filter_append, List.filter_cons_of_neg (by simp), ← List.filter_append]
        exact List.filter_eq_self.mpr fun x hx => by simpa using hother x hx
      have hnewNames : (((s.recheckEntry e).hm.list ++ (s.recheckEntry e).hm.line).map HoldEntry.id).Nodup := by
        have hid : (if CoveredShared s e then s.hm.heldEntry e else { e with state := .claiming }).id = e.id := by
          split <;> rfl
        rw [hstepList hfits, hnewLine]
        refine (List.Perm.nodup_iff ?_).mp hnames
        simp only [hline, List.map_append, List.map_cons, List.map_nil, hid, List.append_assoc]
        exact List.Perm.append_left _ List.perm_middle
      obtain ⟨hrest, hlist, hlineEq⟩ := ih kept _ hnewLine hnewNames
      refine ⟨hstep.cons hrest (.inr ?_), ?_, ?_⟩
      · rcases hstep.stays e (List.mem_singleton_self e) with h | h
        · rw [hnewLine] at h
          exact absurd rfl (hother e h)
        · exact h
      · rw [hlist, rechecked_cons, if_pos hfits, hstepList hfits]
        split <;> rfl
      · rw [hlineEq, rechecked_cons, if_pos hfits, hstepList hfits]
        split <;> rfl
    · have hsame : s.recheckEntry e = s := by rw [State.recheckEntry_eq hnames he, if_neg hfits]
      rw [hsame] at hstep ⊢
      obtain ⟨hrest, hlist, hlineEq⟩ := ih (kept ++ [e]) s (by rw [hline, List.append_assoc]; rfl) hnames
      refine ⟨hstep.cons hrest (.inl ?_), ?_, ?_⟩
      · rw [hlineEq]
        exact List.mem_append_left _ (List.mem_append_right _ (List.mem_singleton_self e))
      · rw [hlist, rechecked_cons, if_neg hfits]
      · rw [hlineEq, rechecked_cons, if_neg hfits, List.append_assoc]
        rfl

theorem rechecked_snd_sublist (list rest : List HoldEntry) : (rechecked list rest).2.Sublist rest := by
  induction rest generalizing list with
  | nil => exact List.Sublist.refl _
  | cons y rest ih =>
    simp only [rechecked]
    split
    · split
      · exact (ih _).cons _
      · exact (ih _).cons _
    · exact (ih _).cons_cons _

/-! Removal (R156). -/

/-- The state without the entry: gone from list and line, its CLAIM withdrawn, its FREE offered if it was claimed. -/
def State.withoutEntry (s : State) (y : HoldEntry) : State :=
  { s with
    hm := { s.hm with
      list := s.hm.list.filter fun x => x.id != y.id
      line := s.hm.line.filter fun x => x.id != y.id }
    lu := { s.lu with
      frames := (s.lu.frames.filter fun f => !(f.body.isClaimOf y.id)) ++
        if y.claimed = true ∧ s.hp.adapter ≠ .silenced then [⟨y.free, 0, 0, false⟩] else [] } }

theorem State.removeEntry_eq {s : State} {y : HoldEntry} (hnames : ((s.hm.list ++ s.hm.line).map HoldEntry.id).Nodup)
    (hy : y ∈ s.hm.list ++ s.hm.line) :
    s.removeEntry y = if y ∈ s.hm.list then (s.withoutEntry y).recheckLine else s.withoutEntry y := by
  have hlisted : (s.hm.list.any fun x => x.id == y.id) = decide (y ∈ s.hm.list) := by
    rw [Bool.eq_iff_iff, List.any_eq_true, decide_eq_true_eq]
    constructor
    · rintro ⟨x, hx, hxy⟩
      have hsame : x = y := List.inj_on_of_nodup_map hnames (List.mem_append_left _ hx) hy (by simpa using hxy)
      exact hsame ▸ hx
    · exact fun h => ⟨y, h, by simp⟩
  have hwithout : (let u := (s.onHm fun h => { h with
        list := h.list.filter fun x => x.id != y.id
        line := h.line.filter fun x => x.id != y.id }).settleClaim y.id
      if y.claimed then u.offer y.free else u) = s.withoutEntry y := by
    simp only [State.settleClaim, State.withdraw, State.offer, State.withoutEntry, State.onHm, State.onLu]
    cases y.claimed
    · simp
    · by_cases hsilenced : s.hp.adapter = .silenced <;> simp [hsilenced]
  simp only at hwithout
  simp only [State.removeEntry, hlisted, hwithout, decide_eq_true_eq]

/-- What the removal of an entry leaves: it is gone, the other entries stand, pending ones may have joined the list. -/
structure EntryRemoved (s t : State) (y : HoldEntry) : Prop where
  holds : (t.hm.list, t.hm.line) =
    if y ∈ s.hm.list then
      rechecked (s.hm.list.filter fun x => x.id != y.id) (s.hm.line.filter fun x => x.id != y.id)
    else (s.hm.list.filter fun x => x.id != y.id, s.hm.line.filter fun x => x.id != y.id)
  asks : Asks s t
  woken : Woken s t
  adapter : t.hp.adapter = s.hp.adapter
  frames : ∃ new, t.lu = { (s.withoutEntry y).lu with frames := (s.withoutEntry y).lu.frames ++ new } ∧
    ∀ f ∈ new, ∃ z ∈ s.hm.line, z.id ≠ y.id ∧ f.body = z.claim
  kept : ∀ w ∈ s.hm.list, w.id ≠ y.id → w ∈ t.hm.list
  joined : ∀ w ∈ t.hm.list, w ∈ s.hm.list ∧ w.id ≠ y.id ∨ ∃ z ∈ s.hm.line, z.id ≠ y.id ∧ Joined t z w
  line : ∀ z ∈ t.hm.line, z ∈ s.hm.line ∧ z.id ≠ y.id
  stays : ∀ z ∈ s.hm.line, z.id ≠ y.id → z ∈ t.hm.line ∨ ∃ w ∈ t.hm.list, Joined t z w

theorem State.removeEntry_removes {s : State} {y : HoldEntry} (hnames : ((s.hm.list ++ s.hm.line).map HoldEntry.id).Nodup)
    (hy : y ∈ s.hm.list ++ s.hm.line) : EntryRemoved s (s.removeEntry y) y := by
  obtain ⟨u, hu⟩ : ∃ u, s.withoutEntry y = u := ⟨_, rfl⟩
  have hlist : u.hm.list = s.hm.list.filter fun x => x.id != y.id := by rw [← hu]; rfl
  have hline : u.hm.line = s.hm.line.filter fun x => x.id != y.id := by rw [← hu]; rfl
  have hasks : Asks s u := by rw [← hu]; exact .of_eq rfl rfl
  have hwoken : Woken s u := by rw [← hu]; exact .of_eq rfl
  have hadapter : u.hp.adapter = s.hp.adapter := by rw [← hu]; rfl
  have hmemList : ∀ w, w ∈ u.hm.list ↔ w ∈ s.hm.list ∧ w.id ≠ y.id := fun w => by simp [hlist]
  have hmemLine : ∀ w, w ∈ u.hm.line ↔ w ∈ s.hm.line ∧ w.id ≠ y.id := fun w => by simp [hline]
  rw [State.removeEntry_eq hnames hy, hu]
  by_cases hlisted : y ∈ s.hm.list
  · have hnames' : ((u.hm.list ++ u.hm.line).map HoldEntry.id).Nodup := by
      rw [hlist, hline]
      exact hnames.sublist ((List.filter_sublist.append List.filter_sublist).map _)
    obtain ⟨hrechecked, hlistEq, hlineEq⟩ := recheckEntry_foldl u.hm.line [] u rfl hnames'
    rw [if_pos hlisted]
    change LineRechecked u u.recheckLine u.hm.line at hrechecked
    change u.recheckLine.hm.list = _ at hlistEq
    change u.recheckLine.hm.line = _ at hlineEq
    obtain ⟨new, hnew, hclaims⟩ := hrechecked.frames
    refine ⟨?_, hasks.trans hrechecked.asks, hwoken.trans hrechecked.woken, hrechecked.adapter.trans hadapter,
      ⟨new, by rw [hnew, hu], fun f hf => ?_⟩, fun w hw hid => hrechecked.kept w ((hmemList w).mpr ⟨hw, hid⟩),
      fun w hw => ?_, fun z hz => ?_, fun z hz hid => hrechecked.stays z ((hmemLine z).mpr ⟨hz, hid⟩)⟩
    · rw [if_pos hlisted, hlistEq, hlineEq, hlist, hline]
      rfl
    · obtain ⟨z, hz, h⟩ := hclaims f hf
      obtain ⟨hz, hid⟩ := (hmemLine z).mp hz
      exact ⟨z, hz, hid, h⟩
    · refine (hrechecked.joined w hw).imp (hmemList w).mp ?_
      rintro ⟨z, hz, h⟩
      obtain ⟨hz, hid⟩ := (hmemLine z).mp hz
      exact ⟨z, hz, hid, h⟩
    · rw [hlineEq] at hz
      exact (hmemLine z).mp ((rechecked_snd_sublist _ _).subset hz)
  · rw [if_neg hlisted]
    refine ⟨by rw [if_neg hlisted, hlist, hline], hasks, hwoken, hadapter, ⟨[], by simp [hu], by simp⟩,
      fun w hw hid => (hmemList w).mpr ⟨hw, hid⟩, fun w hw => .inl ((hmemList w).mp hw),
      fun z hz => (hmemLine z).mp hz, fun z hz hid => .inl ((hmemLine z).mpr ⟨hz, hid⟩)⟩

end Sys2Proof.Machine
end

section
/-! UNHOLD (R61, R157). -/

namespace Sys2Proof.Machine

open Sys2Proof

/-- A chain's record written after the fetch stands in place of the one before it. -/
theorem fetched_set (s : State) (n : Fin 4) (c : Chain) : (fetched s n).chains.set n c = s.chains.set n c := by
  match n with
  | 0 | 1 | 2 | 3 => rfl

/-- The entry an UNHOLD names, in the words of R157. -/
abbrev NamedBy (n : Fin 4) (b m : Nat) (y : HoldEntry) : Prop :=
  y.origin = .explicit ∧ y.chain = n ∧ y.start = b ∧ y.count = m

theorem namedBy_iff (n : Fin 4) (b m : Nat) (y : HoldEntry) :
    (y.origin == .explicit && y.chain == n && y.start == b && y.count == m) = true ↔ NamedBy n b m y := by
  simp [and_assoc]

theorem HoldManager.explicitMatch_eq_none {h : HoldManager} {n : Fin 4} {b m : Nat}
    (hnone : ∀ y ∈ h.list ++ h.line, ¬ NamedBy n b m y) : h.explicitMatch n b m = none :=
  HoldManager.earliest_eq_none fun y hy hny => hnone y hy ((namedBy_iff n b m y).mp hny)

theorem HoldManager.explicitMatch_eq_some {h : HoldManager} {n : Fin 4} {b m : Nat} {y : HoldEntry}
    (hnames : ((h.list ++ h.line).map HoldEntry.id).Nodup) (hy : y ∈ h.list ++ h.line) (hnamed : NamedBy n b m y)
    (hfirst : ∀ z ∈ h.list ++ h.line, NamedBy n b m z → y.id ≤ z.id) : h.explicitMatch n b m = some y :=
  HoldManager.earliest_eq_some hnames hy ((namedBy_iff n b m y).mpr hnamed) fun z hz hnz =>
    hfirst z hz ((namedBy_iff n b m z).mp hnz)

/-- An UNHOLD that passes the checks, on the state `v` they leave. -/
theorem exec_unhold {e : Element} {n : Fin 4} {s v : State} {x : Selector} {d : Descriptor} {m : Nat}
    (hruns : Runs s n .unhold e) (hfirst : firstCheckFailed s n .unhold e = none) (hx : x = selectorOf s n .unhold e)
    (hd : d = descriptorFor s n .unhold e) (hm : m = min e.count (d.limit + 1 - e.offset)) (hoffset : e.offset ≤ d.limit)
    (hv : v = { fetched s n with ec := accessedWith s x 0 }) :
    exec (.unhold e) s = .next (match s.hm.explicitMatch n (d.base + e.offset) m with
      | none => v.completePlain (infoOf s n .unhold e) .fault (some .noHold) (some (x.table, x.index))
      | some h =>
        if h.refs = 0 then
          (v.removeEntry h).complete
            ((v.removeEntry h).outcome (infoOf s n .unhold e) .done none clearFlags m (some (x.table, x.index)))
        else (v.onEntry h.id fun z => { z with
          unholdElem := some (infoOf s n .unhold e, x.table, x.index) }).setReason n fun w =>
            { w with unholdWaiting := true }) := by
  subst hx hd hm hv
  have hrange : (descriptorFor s n .unhold e).range .unhold e.offset e.count =
      .fits ((descriptorFor s n .unhold e).base + e.offset)
        (min e.count ((descriptorFor s n .unhold e).limit + 1 - e.offset)) false := if_neg (by omega)
  have hexamine : (fetched s n).ec.examine ((fetched s n).chain n) .unhold e =
      .passed (admissionOf s n .unhold e ((descriptorFor s n .unhold e).base + e.offset)
        (min e.count ((descriptorFor s n .unhold e).limit + 1 - e.offset)) false false) := by
    rw [fetched_examine, examine_eq, hfirst]
    exact congrArg (examinedAt s n .unhold e) hrange
  rw [exec_runs (c := .unhold e) rfl hruns]
  simp only [route, routeUnhold_checked]
  rw [show (infoOf s n .unhold e).chain = n from rfl, show (infoOf s n .unhold e).kind = .unhold from rfl, hexamine]
  simp only [State.answered]
  rw [show ((fetched s n).onDescriptor _ _ _).hm = s.hm from rfl]
  simp only [admissionOf]
  cases s.hm.explicitMatch n ((descriptorFor s n .unhold e).base + e.offset)
    (min e.count ((descriptorFor s n .unhold e).limit + 1 - e.offset)) <;> rfl

/-- Settles O24. -/
theorem unholdRemovesTheEntry : Obligations.UnholdRemovesTheEntry := by
  intro e n s hruns hfresh hfirst x d b m named c hoffset
  obtain ⟨v, hv⟩ : ∃ v : State, v = { fetched s n with ec := accessedWith s x 0 } := ⟨_, rfl⟩
  have hexec := exec_unhold hruns hfirst (x := x) (d := d) (m := m) rfl rfl rfl hoffset hv
  have hnames := hfresh.2.1.1
  have hhm : v.hm = s.hm := by rw [hv]; rfl
  refine ⟨fun hnone => ?_, fun y hy hnamed hmin => ⟨fun hrefs => ?_, fun hrefs => ?_⟩⟩
  · rw [hexec, HoldManager.explicitMatch_eq_none hnone]
    simp only
    rw [completePlain_of_tod (by rw [hv]; rfl) (by simp), hv]
  · rw [hexec, HoldManager.explicitMatch_eq_some hnames hy hnamed hmin]
    simp only [hrefs, if_false, setReason_eq, hv, State.onEntry, State.onHm, State.chain]
    rw [show (fetched s n).chains.get n = _ from fetched_chain s n, fetched_set]
    rfl
  · rw [HoldManager.explicitMatch_eq_some hnames hy hnamed hmin] at hexec
    simp only [hrefs, if_true] at hexec
    have hremoved := State.removeEntry_removes (s := v) (y := y) (by rw [hhm]; exact hnames) (by rw [hhm]; exact hy)
    have hrest : (v.removeEntry y).hp.tod = s.hp.tod ∧ (v.removeEntry y).ec = accessedWith s x 0 ∧
        (v.removeEntry y).te = s.te ∧ (v.removeEntry y).tm = s.tm ∧ (v.removeEntry y).rdm = s.rdm ∧
        (v.removeEntry y).chains = (fetched s n).chains ∧ (v.removeEntry y).lu.exchange = s.lu.exchange := by
      rw [hv]
      simp [fetched]
    obtain ⟨t, ht⟩ : ∃ t, v.removeEntry y = t := ⟨_, rfl⟩
    rw [ht] at hremoved hexec hrest
    obtain ⟨htod, hec, hte, htm, hrdm, hchains, hexchange⟩ := hrest
    have hdone : t.outcome (infoOf s n .unhold e) .done none clearFlags m (some (x.table, x.index)) = c := by
      simp only [State.outcome, htod]
      rfl
    rw [hdone] at hexec
    have hasks := State.complete_asks t c
    obtain ⟨new, hnew, hclaims⟩ := hremoved.frames
    have hwithout : (v.withoutEntry y).lu = (s.withoutEntry y).lu := by
      rw [hv]
      rfl
    rw [hwithout] at hnew
    have hadapter : t.hp.adapter = s.hp.adapter := by rw [hremoved.adapter, hv]; rfl
    have hholds := hremoved.holds
    have hunique : ∀ z ∈ s.hm.list ++ s.hm.line, ∀ w ∈ s.hm.list ++ s.hm.line, z.id = w.id → z = w :=
      fun z hz w hw h => List.inj_on_of_nodup_map hnames hz hw h
    have hdisjoint : ∀ z ∈ s.hm.line, ∀ w ∈ s.hm.list, w.id ≠ z.id := by
      rw [List.map_append] at hnames
      exact fun z hz w hw h => List.disjoint_of_nodup_append hnames (List.mem_map_of_mem hw) (h ▸ List.mem_map_of_mem hz)
    have hkept := hremoved.kept
    have hline := hremoved.line
    have hjoined := hremoved.joined
    have hstays := hremoved.stays
    rw [hhm] at hholds hclaims hkept hline hjoined hstays
    have hfilter : ∀ l : List HoldEntry, (l.filter fun z => z.id ≠ y.id) = l.filter fun z => z.id != y.id :=
      fun l => List.filter_congr fun z _ => by by_cases h : z.id = y.id <;> simp [h]
    refine ⟨_, hexec, mem_asked_complete t c, ⟨?_, fun z hz w hw hid => ?_⟩, fun z hz => ?_, fun w hw hid => ?_, fun f hf => ?_,
      ?_, fun hclaimed hsilenced => ?_, ?_, ?_, ?_, ?_, ?_, ?_⟩
    · simp only [State.complete_frame, hfilter]
      exact hholds
    · change w ∈ t.hm.list at hw
      rcases hjoined w hw with ⟨hw, -⟩ | ⟨z', hz', -, hsame, hclaim, hheld⟩
      · exact absurd hid (hdisjoint z hz w hw)
      · obtain rfl : z' = z := hunique z' (List.mem_append_right _ hz') z (List.mem_append_right _ hz)
          ((congrArg HoldEntry.id hsame).symm.trans hid)
        refine ⟨fun hstate hsilenced => ⟨_, hclaim hstate (hadapter ▸ hsilenced), rfl⟩, fun hstate h hh => ?_⟩
        obtain ⟨u, hu, hrest⟩ := hheld hstate h hh
        exact ⟨u, hasks u hu, hrest⟩
    · change z ∈ t.hm.list ++ t.hm.line at hz
      rcases List.mem_append.mp hz with hz | hz
      · rcases hjoined z hz with ⟨hz, hid⟩ | ⟨z', hz', hid, hsame, -⟩
        · exact ⟨hid, z, List.mem_append_left _ hz, rfl, rfl, rfl, rfl, rfl, rfl, rfl⟩
        · rw [hsame]
          exact ⟨hid, z', List.mem_append_right _ hz', rfl, rfl, rfl, rfl, rfl, rfl, rfl⟩
      · obtain ⟨hz, hid⟩ := hline z hz
        exact ⟨hid, z, List.mem_append_right _ hz, rfl, rfl, rfl, rfl, rfl, rfl, rfl⟩
    · change ∃ z ∈ t.hm.list ++ t.hm.line, z.id = w.id
      rcases List.mem_append.mp hw with hw | hw
      · exact ⟨w, List.mem_append_left _ (hkept w hw hid), rfl⟩
      · rcases hstays w hw hid with hw | ⟨w', hw', hsame, -⟩
        · exact ⟨w, List.mem_append_right _ hw, rfl⟩
        · exact ⟨w', List.mem_append_left _ hw', by rw [hsame]⟩
    · change f ∈ t.lu.frames at hf
      rw [hnew] at hf
      rcases List.mem_append.mp hf with hf | hf
      · rcases List.mem_append.mp hf with hf | hf
        · simpa using (List.mem_filter.mp hf).2
        · split at hf
          · rw [List.mem_singleton.mp hf]
            rfl
          · exact absurd hf List.not_mem_nil
      · obtain ⟨z, -, hid, hbody⟩ := hclaims f hf
        simpa [hbody, HoldEntry.claim, FrameBody.isClaimOf] using hid
    · exact hexchange
    · refine ⟨⟨y.free, 0, 0, false⟩, ?_, rfl⟩
      change _ ∈ t.lu.frames
      rw [hnew]
      refine List.mem_append_left _ (List.mem_append_right _ ?_)
      rw [if_pos ⟨hclaimed, hsilenced⟩]
      exact List.mem_singleton_self _
    · exact hec
    · exact hte
    · exact htm
    · exact hrdm
    · exact hchains
    · exact hremoved.woken.ids.trans (by rw [hv]; rfl)

end Sys2Proof.Machine
end

section
/-! A full queue holds a disk element, and the held element goes on when a place is free (R48). -/

namespace Sys2Proof.Machine

open Sys2Proof

theorem routeDisk_full {k : RequestKind} {e : Element} {i : ElemInfo} {s : State}
    (hdirect : k = .directRead ∨ k = .directWrite → s.hp.maintaining = some i.chain)
    (hfull : 16 ≤ s.wq.records.length) : State.routeDisk k e i s = s.holdBack i e := by
  rw [State.routeDisk, if_neg (by tauto), if_pos (by simpa [Config.queuePlaces] using hfull)]

theorem State.holdBack_eq (s : State) (i : ElemInfo) (e : Element) : s.holdBack i e = { s with
    chains := s.chains.set i.chain { s.chain i.chain with
      held := some ⟨i, e⟩
      wait := { (s.chain i.chain).wait with queueFull := true } } } := by
  rw [State.holdBack, State.setReason, State.onChain_onChain]
  rfl

/-! Resuming. -/

/-- The state from which the held element of chain `n` goes on. -/
def resuming (s : State) (n : Fin 4) : State :=
  { s with chains := s.chains.set n { s.chain n with held := none, wait := { (s.chain n).wait with queueFull := false } } }

theorem State.resumeHeld_of_none {s : State} {n : Fin 4} (h : (s.chain n).held = none) : s.resumeHeld n = s := by
  simp only [State.resumeHeld, h]

theorem State.resumeHeld_of_full {s : State} (n : Fin 4) (h : 16 ≤ s.wq.records.length) : s.resumeHeld n = s := by
  have hplaces : Config.queuePlaces ≤ s.wq.records.length := h
  simp only [State.resumeHeld, hplaces, if_true]
  split <;> rfl

theorem State.clearReason_not_due {s : State} {n : Fin 4} (h : (s.chain n).fetchDue = false) (f : FetchWait → FetchWait) :
    s.clearReason n f = s.onChain n fun c => { c with wait := f c.wait } := by
  simp [State.clearReason, State.chain_onChain_same, h]

theorem State.resumeHeld_of_room {s : State} {n : Fin 4} {h : HeldElement} {k : RequestKind} (hheld : (s.chain n).held = some h)
    (hkind : h.info.kind = .disk k) (hdue : (s.chain n).fetchDue = false) (hroom : s.wq.records.length < 16) :
    s.resumeHeld n = (resuming s n).admitDisk h.info k h.words := by
  have hplaces : ¬ Config.queuePlaces ≤ s.wq.records.length := by
    simp only [Config.queuePlaces]
    omega
  have hclear : (s.onChain n fun c => { c with held := none }).clearReason n (fun w => { w with queueFull := false }) =
      resuming s n := by
    rw [State.clearReason_not_due (by simp [State.chain_onChain_same, hdue]), State.onChain_onChain]
    rfl
  simp only [State.resumeHeld, hheld, hplaces, if_false, hclear, hkind]

/-- An element that goes on touches the record of no other chain. -/
theorem State.admitDisk_chain_ne {s : State} {i : ElemInfo} {k : RequestKind} {e : Element} {m : Fin 4} (h : m ≠ i.chain) :
    (s.admitDisk i k e).chain m = s.chain m := by
  have hfetch : ∀ t : State, t.chains = s.chains → (t.admittedFetch i).chain m = s.chain m := by
    intro t ht
    have htm : t.chain m = s.chain m := congrArg (fun x => Four.get x m) ht
    simp only [State.admittedFetch, State.callFetch]
    repeat' split
    all_goals first | exact htm | exact (State.chain_onChain_ne _ _ h).trans htm
  simp only [State.admitDisk, State.admitDirect]
  split
  · exact hfetch _ rfl
  · split
    · simp [State.chain]
    · split
      · exact hfetch _ (by simp)
      · simp only [State.admitExtent]
        split
        · exact hfetch _ rfl
        · refine hfetch _ ?_
          simp only [State.enqueue, State.relyOn, State.onWq_chains]
          split <;> simp

/-- The held element of the lowest slot goes on, the others staying held (R48). -/
theorem State.resumeAll_eq {s : State} {n : Fin 4} {h : HeldElement} {k : RequestKind} (hheld : (s.chain n).held = some h)
    (hbefore : ∀ m, m < n → (s.chain m).held = none) (hchain : h.info.chain = n) (hkind : h.info.kind = .disk k)
    (hdue : (s.chain n).fetchDue = false) (hroom : s.wq.records.length < 16)
    (hafter : (∀ m, n < m → (s.chain m).held = none) ∨
      16 ≤ ((resuming s n).admitDisk h.info k h.words).wq.records.length) :
    s.resumeAll = (resuming s n).admitDisk h.info k h.words := by
  have hstep := State.resumeHeld_of_room hheld hkind hdue hroom
  generalize ht : (resuming s n).admitDisk h.info k h.words = t at *
  have hlater : ∀ m, n < m → t.resumeHeld m = t := by
    intro m hm
    rcases hafter with halone | hfull
    · refine State.resumeHeld_of_none ?_
      rw [← ht, State.admitDisk_chain_ne (hchain ▸ hm.ne'), State.chain, resuming, Four.get_set_ne _ _ hm.ne']
      exact halone m hm
    · exact State.resumeHeld_of_full m hfull
  have hearlier : ∀ m, m < n → s.resumeHeld m = s := fun m hm => State.resumeHeld_of_none (hbefore m hm)
  change (((s.resumeHeld 0).resumeHeld 1).resumeHeld 2).resumeHeld 3 = t
  match n with
  | 0 => rw [hstep, hlater 1 (by decide), hlater 2 (by decide), hlater 3 (by decide)]
  | 1 => rw [hearlier 0 (by decide), hstep, hlater 2 (by decide), hlater 3 (by decide)]
  | 2 => rw [hearlier 0 (by decide), hearlier 1 (by decide), hstep, hlater 3 (by decide)]
  | 3 => rw [hearlier 0 (by decide), hearlier 1 (by decide), hearlier 2 (by decide), hstep]

/-! What a resumed element's checks read is as before. -/

theorem resuming_chain (s : State) (n : Fin 4) : (resuming s n).chain n =
    { s.chain n with held := none, wait := { (s.chain n).wait with queueFull := false } } := Four.get_set_same _ _ _

theorem resuming_selectorOf (s : State) (n : Fin 4) (k : ElementKind) (e : Element) :
    selectorOf (resuming s n) n k e = selectorOf s n k e := by
  simp only [selectorOf, resuming_chain]

theorem resuming_descriptorFor (s : State) (n : Fin 4) (k : ElementKind) (e : Element) :
    descriptorFor (resuming s n) n k e = descriptorFor s n k e := by
  simp only [descriptorFor, resuming_selectorOf]
  rfl

theorem resuming_firstCheck (s : State) (n : Fin 4) (k : ElementKind) (e : Element) :
    firstCheckFailed (resuming s n) n k e = firstCheckFailed s n k e := by
  simp only [firstCheckFailed, resuming_selectorOf, resuming_descriptorFor, resuming_chain]
  rfl

/-- An element resumed now, in words of the state it is resumed in. -/
theorem streamed_of_resuming {s t : State} {n : Fin 4} {h : HeldElement} (hchain : h.info.chain = n)
    (hlast : h.info.last = h.words.last) (hstream : h.info.stream = h.words.stream) (hrunning : (s.chain n).state = .running)
    (hcurrent : s.hp.current ≠ some (.fetch n)) (hchains : t.chains = (resuming s n).chains)
    (hsame : t.hp.current = s.hp.current) : t.admittedFetch h.info = streamed t n h.words := by
  have htn : t.chain n = (resuming s n).chain n := congrArg (fun x => Four.get x n) hchains
  subst hchain
  refine State.admittedFetch_eq hlast hstream ?_ (hsame ▸ hcurrent)
  rw [htn, resuming_chain]
  exact hrunning

theorem streamed_wq (t : State) (n : Fin 4) (e : Element) : (streamed t n e).wq = t.wq := by
  simp only [streamed]
  repeat' split
  all_goals rfl

/-- The state before the fetch that would bring the held element now (R48). -/
def refetching (s : State) (n : Fin 4) : State :=
  { s with
    hp := { s.hp with current := some (.fetch n) }
    chains := s.chains.set n { s.chain n with
      held := none
      wait := { (s.chain n).wait with queueFull := false }
      inFlight := (s.chain n).inFlight - 1
      next := (s.chain n).next - 16 } }

theorem fetched_refetching {s : State} {n : Fin 4} (hidle : s.hp.current = none) (hflight : 1 ≤ (s.chain n).inFlight) :
    fetched (refetching s n) n = resuming s.begin n := by
  have hchain : (refetching s n).chain n = _ := Four.get_set_same _ _ _
  have hcount : (s.chain n).inFlight - 1 + 1 = (s.chain n).inFlight := Nat.sub_add_cancel hflight
  have hnext : (s.chain n).next - 16 + 16 = (s.chain n).next := sub_add_cancel _ _
  simp only [fetched, hchain, hcount, hnext]
  simp only [refetching, Four.set_set, resuming, ← hidle]
  rfl

/-- Settles O22. -/
theorem fullQueueHoldsTheElement : Obligations.FullQueueHoldsTheElement := by
  refine ⟨fun k e n s hruns hfull hdirect => ?_, fun s hfull => ?_, ?_⟩
  · rw [exec_runs (elementOf_diskCommand k e) hruns, route_diskCommand, routeDisk_full (by exact hdirect) (by exact hfull),
      State.holdBack_eq, show (infoOf s n (.disk k) e).chain = n from rfl, fetched_set, fetched_chain]
  · have hall : ∀ m, s.begin.resumeHeld m = s.begin := fun m => State.resumeHeld_of_full m hfull
    have hnothing : s.begin.resumeAll = s.begin := by
      change (((s.begin.resumeHeld 0).resumeHeld 1).resumeHeld 2).resumeHeld 3 = _
      rw [hall, hall, hall, hall]
    exact congrArg Host.Outcome.next hnothing
  · intro k h n s hheld hbefore hchain hkind hlast hstream hlegal hdue hrunning hcurrent hroom alone x d base
    have hresume : (alone ∨ 16 ≤ ((resuming s.begin n).admitDisk h.info k h.words).wq.records.length) →
        exec .heldElementResume s = .next ((resuming s.begin n).admitDisk h.info k h.words) := fun hafter =>
      congrArg Host.Outcome.next (State.resumeAll_eq (s := s.begin) hheld hbefore hchain hkind hdue hroom hafter)
    have hlater : ∀ t : State, (resuming s.begin n).admitDisk h.info k h.words = t → (alone ∨ s.wq.records.length = 15) →
        t.wq.records.length = s.wq.records.length + 1 → exec .heldElementResume s = .next t := by
      intro t ht hor hlength
      rw [← ht]
      refine hresume (hor.imp_right fun h15 => ?_)
      rw [ht, hlength, h15]
    refine ⟨fun hor hdirect => hlater _ ?_ hor ?_, fun hor hread hwrite hfirst hprivate hwrap a ha => hlater _ ?_ hor ?_, ?_⟩
    · rw [State.admitDisk_direct hdirect, streamed_of_resuming hchain hlast hstream hrunning hcurrent (by exact rfl) (by exact rfl),
        hchain, resuming_chain]
      rfl
    · simp [streamed_wq]
    · rw [State.admitDisk_private (a := a) hread hwrite (count_pos_of_legal hread hwrite hlegal) hkind
          (by rw [hchain]; exact (resuming_firstCheck s n _ _).trans hfirst)
          (by rw [hchain]; exact (congrArg Selector.table (resuming_selectorOf s n _ _)).trans hprivate)
          (by rw [hchain]; exact resuming_descriptorFor s n (.disk k) h.words ▸ hwrap)
          (by rw [hchain]; exact resuming_descriptorFor s n (.disk k) h.words ▸ ha),
        streamed_of_resuming hchain hlast hstream hrunning hcurrent (by exact rfl) (by exact rfl), hchain,
        resuming_selectorOf, resuming_descriptorFor, resuming_chain]
      rfl
    · simp [streamed_wq]
    · intro again halone hidle hflight hinfo hcondition hdirect
      have hruns : Runs again n (.disk k) h.words := by
        have hagain : again.chain n = _ := Four.get_set_same _ _ _
        exact ⟨rfl, by rw [hagain]; exact hrunning, hlegal, by rw [hagain]; exact hcondition⟩
      rw [hresume (.inl halone), exec_runs (elementOf_diskCommand k h.words) hruns, route_diskCommand,
        routeDisk_room (by exact hdirect) (by exact hroom), ← hinfo]
      exact congrArg (fun t : State => Host.Outcome.next (t.admitDisk h.info k h.words)) (fetched_refetching hidle hflight).symm

end Sys2Proof.Machine
end


section
/-! ON CYLINDER (R96, R132). -/

namespace Sys2Proof.Machine

open Sys2Proof

/-! The records an ON CYLINDER line moves. -/

theorem State.review_ids (s : State) : s.review.wq.records.map Request.id = s.wq.records.map Request.id := by
  simp only [State.review, State.onWq_wq, List.map_map]
  exact List.map_congr_left fun r _ => s.reviewed_id r

/-- The review leaves where a record's next sector lies. -/
theorem State.nextTarget_reviewed (s t : State) (r : Request) : s.nextTarget (t.reviewed r) = s.nextTarget r := by
  simp only [State.reviewed]
  (repeat' split) <;> rfl

theorem State.reviewed_done (s : State) (r : Request) : (s.reviewed r).done = r.done := by
  simp only [State.reviewed]
  (repeat' split) <;> rfl

/-- The engine's request after a review. -/
theorem State.review_activeRequest (s : State) :
    s.review.activeRequest = s.activeRequest.map fun r => s.reviewed r := by
  simp only [State.activeRequest, State.review, State.onWq_te, State.onWq_wq, WorkQueue.find, List.find?_map]
  cases s.te.request with
  | none => rfl
  | some id =>
    simp only [Function.comp_def, s.reviewed_id]

theorem State.cylinderFalls_tm (s : State) (p : Bool) :
    (s.cylinderFalls p).tm = { s.tm with
      cylinder := if s.lu.inExchange FrameBody.isSeek = true ∨ p = true then s.tm.cylinder else none
      moving := true } ∧
    (s.cylinderFalls p).lu = { s.lu with
      peerSeekFell := s.lu.peerSeekFell || (p && !s.lu.inExchange FrameBody.isSeek) } ∧
    (s.cylinderFalls p).wq.records.map Request.id = s.wq.records.map Request.id := by
  simp only [State.cylinderFalls, State.setMoving, State.setPositioner]
  cases hx : s.lu.inExchange FrameBody.isSeek <;> cases p <;>
    simp [State.review, State.reviewed_id]

/-- An engine under own tenure whose target lies on the cylinder of a positioner at rest goes to LEAD WAIT (R93). -/
theorem State.positionAt_lead {s : State} (hown : s.tm.own.isHolding = true)
    (hcyl : s.needsSeek s.te.target = false) (hmov : s.tm.moving = false) : s.positionAt = s.enterLead := by
  simp only [State.positionAt]
  cases ho : s.tm.own <;> simp_all [OwnTenure.isHolding]

/-- An engine in SETTLE whose positioner has come to rest on the cylinder goes to LEAD WAIT (R96). -/
theorem State.settled_lead {s : State} {r : Request} (hp : s.te.phase = .settle) (ha : s.activeRequest = some r)
    (hown : s.tm.own.isHolding = true) (hcyl : s.tm.cylinder = some (s.nextTarget r).cylinder)
    (hmov : s.tm.moving = false) :
    s.settled.te.phase = .leadWait ∧ s.settled.te.sector = r.done ∧ s.settled.te.target = s.nextTarget r := by
  have hpos : s.position.te.phase = .leadWait ∧ s.position.te.sector = r.done ∧
      s.position.te.target = s.nextTarget r := by
    simp only [State.position, ha]
    rw [State.positionAt_lead (by simpa using hown) (by simp [State.needsSeek, hcyl]) (by simpa using hmov)]
    simp [State.enterLead]
  have hset : s.settled = s.position := by
    rw [State.settled, if_pos (by simp [hp]), State.reposition]
    rcases s.following_cases State.position with ⟨_, _, h⟩ | ⟨h, _⟩
    · rw [hpos.1] at h; cases h
    · exact h
  rw [hset]
  exact hpos

/-- Settles O33: the record after a fall, and the engine positioned at the rise. -/
theorem onCylinderMovesTheRecord : Obligations.OnCylinderMovesTheRecord := by
  unfold Obligations.OnCylinderMovesTheRecord
  intro p s
  constructor
  · generalize hu : s.begin.onRdm (fun m => { m with onCylinder := false }) = u
    obtain ⟨htm, hlu, hids⟩ := u.cylinderFalls_tm p
    have huf : u.tm = s.tm ∧ u.lu = s.lu ∧ u.wq = s.wq ∧ u.hp = s.hp ∧ u.te = s.te ∧ u.hm = s.hm ∧ u.ec = s.ec ∧
        u.chains = s.chains ∧ u.rdm = { s.rdm with onCylinder := false } := by rw [← hu]; simp
    obtain ⟨h1, h2, h3, h4, h5, h6, h7, h8, h9⟩ := huf
    refine ⟨(u.cylinderFalls p).onLu LineUnit.markFell, by subst hu; rfl, by simpa using h9, by simp [htm, h1, h2], ?_,
      by simp [h4], by simp [h5], by simp [h6], by simp [h7], by simp [h8], by simp [hids, h3]⟩
    simp only [State.onLu_lu, LineUnit.markFell, hlu, h2]
  · generalize hu : (s.begin.onRdm fun m => { m with onCylinder := true }).setMoving false = u
    have huf : u.lu = s.lu ∧ u.hp = s.hp ∧ u.te = s.te ∧ u.hm = s.hm ∧ u.ec = s.ec ∧ u.tm.own = s.tm.own ∧
        u.tm.cylinder = s.tm.cylinder ∧ u.tm.moving = false ∧ u.rdm = { s.rdm with onCylinder := true } := by
      rw [← hu]; simp [State.setMoving, State.setPositioner, State.review]
    obtain ⟨hlu, hhp, hte, hhm, hec, hown, hcyl, hmov, hrdm⟩ := huf
    refine ⟨u.settled, by subst hu; rfl, by simpa using hrdm, by simpa using hcyl, by simpa using hmov, fun hp => ?_,
      fun r hp ha ho hc => ?_⟩
    · rw [State.settled, if_neg (by simpa [hte] using hp)]
      exact ⟨hte, hlu, hhp, hhm, hown⟩
    · have hau : ∃ v : State, u.activeRequest = some (v.reviewed r) := by
        refine ⟨(s.begin.onRdm fun m => { m with onCylinder := true }).onTm fun t => { t with moving := false }, ?_⟩
        rw [← hu]
        simp only [State.setMoving, State.setPositioner, State.review_activeRequest]
        exact congrArg (Option.map _) ha
      obtain ⟨v, hv⟩ := hau
      have hnext : u.nextTarget r = s.nextTarget r := by
        simp only [State.nextTarget, State.sectorTarget, State.blockOf, State.descriptorOf, State.cfg, hec, hhp]
      obtain ⟨h1, h2, h3⟩ := State.settled_lead (by rw [hte]; exact hp) hv (by rw [hown]; exact ho)
        (by rw [hcyl, hc, State.nextTarget_reviewed, hnext]) hmov
      exact ⟨h1, by rw [h2, State.reviewed_done], by rw [h3, State.nextTarget_reviewed, hnext]⟩

end Sys2Proof.Machine
end


section
/-! What the acts of a slot event carry on of queue, tables and holds: no record, descriptor or entry comes anew, and
what stands keeps its name, its budget, its kind and its marks. One relation, and the acts that stand in it. -/

namespace Sys2Proof.Machine

open Sys2Proof

-- One proof at a time: proofs elaborated together wait for one another on threads of their own, which the check's
-- memory limit counts.
set_option Elab.async false

/-- The record keeps its name and its budget, and its LATE mark where it has one. -/
def Request.Carried (r u : Request) : Prop := u.id = r.id ∧ u.budget = r.budget ∧ (r.late = true → u.late = true)

/-- The entry keeps name, range and mode, and stays REFUSED with its count where it is REFUSED. -/
def HoldEntry.Carried (y z : HoldEntry) : Prop :=
  y.SameRange z ∧ (y.state = .refused → z.state = .refused ∧ z.refusalRevs = y.refusalRevs)

/-- Completions asked stay asked, no record comes, and each descriptor and entry of `t` is one of `s`, an entry of the
list in `t` perhaps one of the line. -/
structure Stands (s t : State) : Prop where
  sheds : Sheds s t
  mark : ∀ d ∈ t.ec.priv ++ t.ec.comm, ∃ c ∈ s.ec.priv ++ s.ec.comm, c.kind = d.kind ∧ c.changed = d.changed
  lined : ∀ z ∈ t.hm.line, ∃ y ∈ s.hm.line, z.id = y.id
  listed : ∀ z ∈ t.hm.list, (∃ y ∈ s.hm.line, z.id = y.id) ∨ ∃ y ∈ s.hm.list, y.Carried z

/-- The records of `t` are records of `s` besides, each with its budget. -/
structure Carries (s t : State) : Prop extends Stands s t where
  record : ∀ u ∈ t.wq.records, ∃ r ∈ s.wq.records, r.Carried u

theorem Request.Carried.refl (r : Request) : r.Carried r := ⟨rfl, rfl, fun h => h⟩

theorem Request.Carried.trans {r u v : Request} (h : r.Carried u) (k : u.Carried v) : r.Carried v :=
  ⟨k.1.trans h.1, k.2.1.trans h.2.1, k.2.2 ∘ h.2.2⟩

theorem HoldEntry.SameRange.refl (y : HoldEntry) : y.SameRange y := ⟨rfl, rfl, rfl, rfl⟩

theorem HoldEntry.SameRange.trans {y z w : HoldEntry} (h : y.SameRange z) (k : z.SameRange w) : y.SameRange w :=
  ⟨k.1.trans h.1, k.2.1.trans h.2.1, k.2.2.1.trans h.2.2.1, k.2.2.2.trans h.2.2.2⟩

theorem HoldEntry.Carried.refl (y : HoldEntry) : y.Carried y := ⟨.refl y, fun h => ⟨h, rfl⟩⟩

theorem HoldEntry.Carried.trans {y z w : HoldEntry} (h : y.Carried z) (k : z.Carried w) : y.Carried w :=
  ⟨h.1.trans k.1, fun hy => ⟨(k.2 (h.2 hy).1).1, (k.2 (h.2 hy).1).2.trans (h.2 hy).2⟩⟩

theorem Stands.trans {s t u : State} (h : Stands s t) (k : Stands t u) : Stands s u where
  sheds := h.sheds.trans k.sheds
  mark d hd := by
    obtain ⟨c, hc, hcd⟩ := k.mark d hd
    obtain ⟨b, hb, hbc⟩ := h.mark c hc
    exact ⟨b, hb, hbc.1.trans hcd.1, hbc.2.trans hcd.2⟩
  lined z hz := by
    obtain ⟨y, hy, hyz⟩ := k.lined z hz
    obtain ⟨x, hx, hxy⟩ := h.lined y hy
    exact ⟨x, hx, hyz.trans hxy⟩
  listed z hz := by
    rcases k.listed z hz with ⟨y, hy, hyz⟩ | ⟨y, hy, hyz⟩
    · obtain ⟨x, hx, hxy⟩ := h.lined y hy
      exact .inl ⟨x, hx, hyz.trans hxy⟩
    · rcases h.listed y hy with ⟨x, hx, hxy⟩ | ⟨x, hx, hxy⟩
      · exact .inl ⟨x, hx, hyz.1.1.trans hxy⟩
      · exact .inr ⟨x, hx, hxy.trans hyz⟩

theorem Carries.trans {s t u : State} (h : Carries s t) (k : Carries t u) : Carries s u where
  toStands := h.toStands.trans k.toStands
  record v hv := by
    obtain ⟨r, hr, hrv⟩ := k.record v hv
    obtain ⟨q, hq, hqr⟩ := h.record r hr
    exact ⟨q, hq, hqr.trans hrv⟩

/-- The queue, the tables and the holds stand; completions asked stay asked. -/
theorem Carries.of_asks {s t : State} (ha : Asks s t) (hwq : t.wq = s.wq) (hec : t.ec = s.ec) (hhm : t.hm = s.hm) :
    Carries s t where
  sheds := ⟨ha, by rw [hwq]⟩
  record u hu := ⟨u, hwq ▸ hu, .refl u⟩
  mark d hd := ⟨d, by rwa [hec] at hd, rfl, rfl⟩
  lined z hz := ⟨z, hhm ▸ hz, rfl⟩
  listed z hz := .inr ⟨z, hhm ▸ hz, .refl z⟩

theorem Carries.of_eq {s t : State} (hw : t.hp.waiting = s.hp.waiting) (hh : t.hp.heldBack = s.hp.heldBack)
    (hwq : t.wq = s.wq) (hec : t.ec = s.ec) (hhm : t.hm = s.hm) : Carries s t :=
  .of_asks (.of_eq hw hh) hwq hec hhm

theorem Carries.refl (s : State) : Carries s s := .of_eq rfl rfl rfl rfl rfl

theorem Carries.foldl {β : Type} {f : State → β → State} (h : ∀ s b, Carries s (f s b)) (l : List β) (s : State) :
    Carries s (l.foldl f s) := by
  induction l generalizing s with
  | nil => exact .refl s
  | cons b l ih => exact (h s b).trans (ih _)

/-! The blocks one by one. -/

theorem State.onTe_carries (s : State) (f : Engine → Engine) : Carries s (s.onTe f) := .of_eq rfl rfl rfl rfl rfl
theorem State.onTm_carries (s : State) (f : TenureManager → TenureManager) : Carries s (s.onTm f) :=
  .of_eq rfl rfl rfl rfl rfl
theorem State.onLu_carries (s : State) (f : LineUnit → LineUnit) : Carries s (s.onLu f) := .of_eq rfl rfl rfl rfl rfl
theorem State.onRdm_carries (s : State) (f : Monitor → Monitor) : Carries s (s.onRdm f) := .of_eq rfl rfl rfl rfl rfl
theorem State.emit_carries (s : State) (o : Output) : Carries s (s.emit o) := .of_eq rfl rfl rfl rfl rfl
theorem State.raise_carries (s : State) (a : Attention) : Carries s (s.raise a) := .of_eq rfl rfl rfl rfl rfl
theorem State.setOwn_carries (s : State) (o : OwnTenure) : Carries s (s.setOwn o) := s.onTm_carries _
theorem State.setPhase_carries (s : State) (p : Phase) : Carries s (s.setPhase p) := s.onTe_carries _
theorem State.setBuf_carries (s : State) (n : BufferName) (b : SectorBuffer) : Carries s (s.setBuf n b) :=
  s.onTe_carries _
theorem State.withdraw_carries (s : State) (p : FrameBody → Bool) : Carries s (s.withdraw p) := s.onLu_carries _
theorem State.offer_carries (s : State) (b : FrameBody) : Carries s (s.offer b) := by
  simp only [State.offer]
  split
  · exact .refl s
  · exact s.onLu_carries _
theorem State.askTransfer_carries (s : State) (t : Transfer) : Carries s (s.askTransfer t) :=
  .of_asks (s.askTransfer_asks t) rfl rfl rfl
theorem State.complete_carries (s : State) (c : Completion) : Carries s (s.complete c) := s.askTransfer_carries _
theorem State.completeAfterData_carries (s : State) (id : Nat) (c : Completion) :
    Carries s (s.completeAfterData id c) := .of_asks (s.completeAfterData_asks id c).1 (by simp) (by simp) (by simp)

/-- Records changed each at its place. -/
theorem State.mapRecords_carries (s : State) {f : Request → Request} (hf : ∀ r : Request, r.Carried (f r)) :
    Carries s (s.onWq fun q => { q with records := q.records.map f }) :=
  { Carries.refl s with
    sheds := .of_eq rfl rfl (by simp [Function.comp_def, (hf _).1])
    record := fun u hu => by
      obtain ⟨r, hr, rfl⟩ := List.mem_map.mp hu
      exact ⟨r, hr, hf r⟩ }

theorem State.onRequest_carries (s : State) (id : Nat) {f : Request → Request} (hf : ∀ r : Request, r.Carried (f r)) :
    Carries s (s.onRequest id f) :=
  s.mapRecords_carries fun r => by
    split
    · exact hf r
    · exact .refl r

theorem State.dropRequest_carries (s : State) (id : Nat) : Carries s (s.dropRequest id) :=
  { Carries.refl s with
    sheds := ⟨.of_eq rfl rfl, List.filter_sublist.map _⟩
    record := fun u hu => ⟨u, List.mem_of_mem_filter hu, .refl u⟩ }

theorem State.reviewed_carried (s : State) (r : Request) : r.Carried (s.reviewed r) := by
  simp only [State.reviewed]
  (repeat' split) <;> exact ⟨rfl, rfl, fun h => h⟩

theorem State.formed_carried (s : State) (r : Request) : r.Carried (s.formed r) := by
  simp only [State.formed]
  split <;> exact ⟨rfl, rfl, fun h => h⟩

theorem State.review_carries (s : State) : Carries s s.review := s.mapRecords_carries s.reviewed_carried

theorem State.formSlacks_carries (s : State) : Carries s s.formSlacks := s.mapRecords_carries s.formed_carried

theorem State.formEligible_carries (s : State) : Carries s s.formEligible :=
  s.mapRecords_carries fun r => by split <;> exact ⟨rfl, rfl, fun h => h⟩

theorem State.wakeRequests_carries (s : State) (id : Nat) : Carries s (s.wakeRequests id) :=
  s.mapRecords_carries fun r => by split <;> exact ⟨rfl, rfl, fun h => h⟩

/-- A descriptor changed at its place, kind and changed mark kept. -/
theorem State.onDescriptor_carries (s : State) (t : Table) (i : Nat) {f : Descriptor → Descriptor}
    (hf : ∀ d, (f d).kind = d.kind ∧ (f d).changed = d.changed) : Carries s (s.onDescriptor t i f) :=
  { Carries.refl s with
    mark := by
      have hmod : ∀ (l : List Descriptor), ∀ d ∈ l.modify i f, ∃ c ∈ l, c.kind = d.kind ∧ c.changed = d.changed := by
        intro l d hd
        obtain ⟨k, hk, rfl⟩ := List.mem_iff_getElem.mp hd
        rw [List.length_modify] at hk
        refine ⟨l[k], List.getElem_mem hk, ?_⟩
        rw [List.getElem_modify]
        split
        · exact ⟨(hf _).1.symm, (hf _).2.symm⟩
        · exact ⟨rfl, rfl⟩
      intro d hd
      cases t <;> rcases List.mem_append.mp hd with hd | hd
      · obtain ⟨c, hc, h⟩ := hmod _ d hd
        exact ⟨c, List.mem_append_left _ hc, h⟩
      · exact ⟨d, List.mem_append_right _ hd, rfl, rfl⟩
      · exact ⟨d, List.mem_append_left _ hd, rfl, rfl⟩
      · obtain ⟨c, hc, h⟩ := hmod _ d hd
        exact ⟨c, List.mem_append_right _ hc, h⟩ }

/-! The Hold Manager. -/

/-- Entries changed each at its place. -/
theorem State.mapEntries_carries (s : State) {f : HoldEntry → HoldEntry} (hf : ∀ e : HoldEntry, e.Carried (f e)) :
    Carries s (s.onHm fun h => { h with list := h.list.map f, line := h.line.map f }) :=
  { Carries.refl s with
    lined := fun z hz => by
      obtain ⟨y, hy, rfl⟩ := List.mem_map.mp hz
      exact ⟨y, hy, (hf y).1.1⟩
    listed := fun z hz => by
      obtain ⟨y, hy, rfl⟩ := List.mem_map.mp hz
      exact .inr ⟨y, hy, hf y⟩ }

theorem State.onEntry_carries (s : State) (id : Nat) {f : HoldEntry → HoldEntry}
    (hf : ∀ e : HoldEntry, e.Carried (f e)) : Carries s (s.onEntry id f) :=
  s.mapEntries_carries fun e => by
    split
    · exact hf e
    · exact .refl e

theorem State.filterEntries_carries (s : State) (p q : HoldEntry → Bool) :
    Carries s (s.onHm fun h => { h with list := h.list.filter p, line := h.line.filter q }) :=
  { Carries.refl s with
    lined := fun z hz => ⟨z, List.mem_of_mem_filter hz, rfl⟩
    listed := fun z hz => .inr ⟨z, List.mem_of_mem_filter hz, .refl z⟩ }

theorem State.completeHold_carries (s : State) (e : HoldEntry) (st : Status) (f : Option ElementFault) (p : Bool) :
    Carries s (s.completeHold e st f p) := by
  grind only [State.completeHold, Carries.refl, State.complete_carries]

theorem State.completeUnhold_carries (s : State) (e : HoldEntry) : Carries s (s.completeUnhold e) := by
  grind only [State.completeUnhold, Carries.refl, State.complete_carries]

/-- An entry whose name stood in the line joins the list. -/
theorem Carries.joinList {s t : State} (h : Carries s t) {e : HoldEntry} (he : ∃ y ∈ s.hm.line, e.id = y.id) :
    Carries s (t.joinList e) := by
  obtain ⟨y, hy, hye⟩ := he
  have hjoin : Carries s (t.onHm fun h => { h with list := h.list ++ [{ e with state := .claiming }] }) :=
    { h with
      listed := fun z hz => by
        rcases List.mem_append.mp hz with hz | hz
        · exact h.listed z hz
        · exact .inl ⟨y, hy, (List.mem_singleton.mp hz) ▸ hye⟩ }
  have hheld (u : State) (silent : Bool) (hu : Carries s u) : Carries s (u.becomeHeld e.id silent) := by
    simp only [State.becomeHeld]
    split
    · exact hu
    · have hset : Carries s (u.onEntry e.id fun x => { x with state := .held, silent := silent, holdElem := none }) :=
        { hu with
          lined := fun z hz => by
            obtain ⟨w, hw, rfl⟩ := List.mem_map.mp hz
            obtain ⟨x, hx, hwx⟩ := hu.lined w hw
            exact ⟨x, hx, by split <;> exact hwx⟩
          listed := fun z hz => by
            obtain ⟨w, hw, rfl⟩ := List.mem_map.mp hz
            split
            · rename_i hwe
              exact .inl ⟨y, hy, (beq_iff_eq.mp hwe).trans hye⟩
            · exact hu.listed w hw }
      exact hset.trans (.trans (State.wakeRequests_carries _ _) (State.completeHold_carries _ _ _ _ _))
  simp only [State.joinList]
  split
  · exact hheld _ _ hjoin
  · exact hjoin.trans (State.offer_carries _ _)

theorem State.recheckLine_carries (s : State) : Carries s s.recheckLine := by
  have hfold : ∀ (l : List HoldEntry) (t : State), (∀ e ∈ l, e ∈ s.hm.line) → Carries s t →
      Carries s (l.foldl State.recheckEntry t) := by
    intro l
    induction l with
    | nil => exact fun t _ ht => ht
    | cons e l ih =>
      intro t hl ht
      refine ih _ (fun x hx => hl x (List.mem_cons_of_mem _ hx)) ?_
      simp only [State.recheckEntry]
      split
      · exact ht
      · have hout : Carries s (t.onHm fun h => { h with line := h.line.filter fun x => x.id != e.id }) :=
          { ht with lined := fun z hz => ht.lined z (List.mem_of_mem_filter hz) }
        exact hout.joinList ⟨e, hl e List.mem_cons_self, rfl⟩
  exact hfold _ s (fun _ h => h) (.refl s)

theorem State.removeEntry_carries (s : State) (e : HoldEntry) : Carries s (s.removeEntry e) := by
  have hgone := s.filterEntries_carries (fun x => x.id != e.id) fun x => x.id != e.id
  grind only [State.removeEntry, State.settleClaim, State.withdraw_carries, State.offer_carries,
    State.recheckLine_carries, Carries.trans]

theorem State.endReference_carries (s : State) (id : Nat) : Carries s (s.endReference id) := by
  have hrefs : Carries s (s.onEntry id fun x => { x with refs := x.refs - 1 }) :=
    s.onEntry_carries id fun _ => ⟨⟨rfl, rfl, rfl, rfl⟩, fun h => ⟨h, rfl⟩⟩
  grind only [State.endReference, Carries.refl, State.removeEntry_carries, State.completeUnhold_carries, Carries.trans]

theorem State.expireEntry_carries (s : State) (e : HoldEntry) : Carries s (s.expireEntry e) :=
  (s.removeEntry_carries e).trans (State.completeHold_carries _ _ _ _ _)

theorem State.expireIfDue_carries (s : State) (id : Nat) : Carries s (s.expireIfDue id) := by
  grind only [State.expireIfDue, Carries.refl, State.expireEntry_carries]

theorem State.holdSlot_carries (s : State) : Carries s s.holdSlot := by
  have hcount : ∀ e : HoldEntry, e.Carried e.countDown := by
    intro e
    simp only [HoldEntry.countDown]
    split <;> exact ⟨⟨rfl, rfl, rfl, rfl⟩, fun h => ⟨h, rfl⟩⟩
  exact (s.mapEntries_carries hcount).trans (Carries.foldl State.expireIfDue_carries _ _)

/-! A record leaves, and the engine with it. -/

theorem Descriptor.returned_mark (d : Descriptor) (id rest : Nat) :
    (d.returned id rest).kind = d.kind ∧ (d.returned id rest).changed = d.changed := by
  simp [Descriptor.returned]

theorem State.leaveQueue_carries (s : State) (r : Request) (st : Status) (f : Option ElementFault) (m p : Bool) :
    Carries s (s.leaveQueue r st f m p) := by
  have hreturn {u : State} (t : Table) (i rest : Nat) (hu : Carries s u) :
      Carries s (u.onDescriptor t i fun d => d.returned r.id rest) :=
    hu.trans (u.onDescriptor_carries t i fun d => d.returned_mark _ _)
  have hhold {u : State} (id : Nat) (hu : Carries s u) : Carries s (u.endReference id) :=
    hu.trans (u.endReference_carries id)
  have hdrop {u : State} (hu : Carries s u) : Carries s (u.dropRequest r.id) := hu.trans (u.dropRequest_carries _)
  have hask (c : Completion) := s.completeAfterData_carries r.id c
  simp only [State.leaveQueue]
  split <;> split
  · exact hdrop (hreturn _ _ _ (hask _))
  · exact hdrop (hreturn _ _ _ (hhold _ (hask _)))
  · exact hdrop (hask _)
  · exact hdrop (hhold _ (hask _))

theorem State.completeRequest_carries (s : State) (r : Request) (st : Status) (f : Option ElementFault) (m : Bool) :
    Carries s (s.completeRequest r st f m) := s.leaveQueue_carries r st f m _

theorem State.idleEngine_carries (s : State) : Carries s s.idleEngine :=
  .of_asks s.idleEngine_asks (by simp) (by simp) (by simp)

theorem State.finish_carries (s : State) (st : Status) (f : Option ElementFault) (m : Bool) :
    Carries s (s.finish st f m) := by
  grind only [State.finish, State.completeRequest_carries, State.idleEngine_carries, Carries.trans]

theorem State.handBack_carries (s : State) (q : Request → RequestState) : Carries s (s.handBack q) := by
  have hstate (id : Nat) : Carries s (s.onRequest id fun x => { x with state := q x }) :=
    s.onRequest_carries id fun _ => ⟨rfl, rfl, fun h => h⟩
  grind only [State.handBack, State.finish_carries, State.idleEngine_carries, Carries.trans]

theorem State.suspend_carries (s : State) : Carries s s.suspend := s.handBack_carries _

/-! The Tenure Manager. -/

theorem State.askTenure_carries (s : State) (c : Nat) : Carries s (s.askTenure c) :=
  .of_eq (by simp) (by simp) (by simp) (by simp) (by simp)

theorem State.offerRelease_carries (s : State) : Carries s s.offerRelease :=
  .of_eq (by simp) (by simp) (by simp) (by simp) (by simp)

theorem State.preemptSlot_carries (s : State) : Carries s s.preemptSlot :=
  .of_eq (by simp) (by simp) (by simp) (by simp) (by simp)

theorem State.endCourtesy_carries (s : State) : Carries s s.endCourtesy :=
  .of_eq (by simp) (by simp) (by simp) (by simp) (by simp)

theorem State.setPositioner_carries (s : State) (c : Option Nat) (moving : Bool) :
    Carries s (s.setPositioner c moving) := (s.onTm_carries _).trans (State.review_carries _)

theorem State.peerGone_carries (s : State) : Carries s s.peerGone := by
  have hnone : Carries s (s.onTm fun t => { t with peer := none, preemptMark := false }) := s.onTm_carries _
  grind only [State.peerGone, State.withdraw_carries, State.review_carries, Carries.refl, Carries.trans]

/-! Positioning, selection, suspension. -/

theorem State.tryOrder_carries (s : State) : Carries s s.tryOrder := by
  grind only [State.tryOrder, State.offer_carries, Carries.refl]

theorem State.loadOne_carries (s : State) (r : Request) : Carries s (s.loadOne r) := by
  grind only [State.loadOne, State.setBuf_carries, State.askTransfer_carries, Carries.refl, Carries.trans]

theorem State.loadAhead_carries (s : State) : Carries s s.loadAhead := by
  grind only [State.loadAhead, State.loadOne_carries, Carries.refl, Carries.trans]

theorem State.positionAt_carries (s : State) : Carries s s.positionAt := by
  have hlead : Carries s s.enterLead := (s.onTe_carries _).trans (State.tryOrder_carries _)
  have hsettle : Carries s s.enterSettle := s.onTe_carries _
  have hwait : Carries s s.waitTenure := (s.setPhase_carries _).trans (State.askTenure_carries _ _)
  grind only [State.positionAt, State.suspend_carries, State.setPhase_carries]

theorem State.position_carries (s : State) : Carries s s.position := by
  simp only [State.position]
  split
  · exact .refl s
  · exact (s.onTe_carries _).trans (State.positionAt_carries _)

theorem State.takeRequest_carries (s : State) (r : Request) : Carries s (s.takeRequest r) :=
  ((s.onRequest_carries r.id (f := fun x => { x with state := .active }) fun _ => ⟨rfl, rfl, fun h => h⟩).trans
    (State.onTe_carries _ _)).trans ((State.loadAhead_carries _).trans (State.position_carries _))

theorem State.select_carries (s : State) : Carries s s.select := by
  rcases s.select_cases with ⟨h, _⟩ | ⟨_, ⟨h, _⟩ | ⟨q, _, h⟩⟩ <;> rw [h]
  · exact .refl s
  · exact s.formEligible_carries
  · exact s.formEligible_carries.trans (State.takeRequest_carries _ q)

theorem State.suspendAfterExchange_carries (s : State) : Carries s s.suspendAfterExchange := by
  have hmark : Carries s (s.onTe fun t => { t with suspendAfter := true }) := s.onTe_carries _
  grind only [State.suspendAfterExchange, State.suspend_carries, Carries.refl]

theorem State.endTenure_carries (s : State) : Carries s s.endTenure := by
  grind only [State.endTenure, State.setOwn_carries, State.withdraw_carries, State.suspendAfterExchange_carries,
    State.offerRelease_carries, Carries.refl, Carries.trans]

theorem State.idleTenureTest_carries (s : State) : Carries s s.idleTenureTest := by
  grind only [State.idleTenureTest, State.endTenure_carries, Carries.refl]

theorem State.engineIdled_carries (s : State) : Carries s s.engineIdled :=
  s.select_carries.trans ((State.idleTenureTest_carries _).trans (State.offerRelease_carries _))

theorem State.endRequest_carries (s : State) (st : Status) (f : Option ElementFault) (m : Bool) :
    Carries s (s.endRequest st f m) := (s.finish_carries st f m).trans (State.engineIdled_carries _)

theorem State.following_carries (s : State) {act : State → State} (h : Carries s (act s)) :
    Carries s (s.following act) := by
  rcases s.following_cases act with ⟨hf, _⟩ | ⟨hf, _⟩ <;> rw [hf]
  · exact h.trans (State.engineIdled_carries _)
  · exact h

theorem State.reposition_carries (s : State) : Carries s s.reposition := s.following_carries s.position_carries

theorem State.goOn_carries (s : State) {k : State → State} (h : ∀ u, Carries u (k u)) : Carries s (s.goOn k) := by
  rcases s.goOn_cases k with ⟨hg, _⟩ | ⟨hg, _⟩ <;> rw [hg]
  · exact s.suspend_carries.trans (State.engineIdled_carries _)
  · exact h s

theorem State.slip_carries (s : State) (cause : SlipCause) : Carries s (s.slip cause) := by
  have hw := s.withdraw_carries FrameBody.isTransfer
  rcases s.slip_cases cause with ⟨h, _⟩ | ⟨r, _, ⟨_, h⟩ | ⟨_, h⟩⟩ <;> rw [h]
  · exact .refl s
  · exact hw.trans (State.endRequest_carries _ _ _ _)
  · have hslip := State.onRequest_carries (s.withdraw FrameBody.isTransfer) r.id
      (f := fun x => { x with slips := x.slips + 1 }) fun _ => ⟨rfl, rfl, fun h => h⟩
    exact hw.trans ((hslip.trans (State.onTe_carries _ _)).trans
      (State.goOn_carries _ fun u => u.setPhase_carries _))

theorem State.offerSense_carries (s : State) : Carries s s.offerSense :=
  (s.setPhase_carries _).trans (State.offer_carries _ _)

theorem State.offerSeek_carries (s : State) : Carries s s.offerSeek :=
  (s.setPhase_carries _).trans (State.offer_carries _ _)

theorem State.displace_carries (s : State) {k : State → State} (hk : ∀ u, Carries u (k u)) :
    Carries s (s.displace k) := by
  rcases s.displace_cases k with ⟨h, _⟩ | ⟨r, _, ⟨_, h⟩ | ⟨_, h⟩⟩
  · rw [h]; exact .refl s
  · rw [h]; exact s.endRequest_carries _ _ _
  · have hd := s.onRequest_carries r.id (f := fun x => { x with displacements := x.displacements + 1 })
      fun _ => ⟨rfl, rfl, fun h => h⟩
    rw [h]
    split
    · exact hd.trans (State.goOn_carries _ hk)
    · exact hd.trans ((State.suspend_carries _).trans (State.engineIdled_carries _))

theorem State.engineSlot_carries (s : State) : Carries s s.engineSlot := by
  have htick : Carries s (s.onTe fun t => { t with settle := t.settle + 1 }) := s.onTe_carries _
  have hout (u : State) : Carries u u.seekTimedOut := u.displace_carries State.offerSense_carries
  grind only [State.engineSlot, State.slip_carries, State.offerSeek_carries, State.offerSense_carries,
    State.reposition_carries, Carries.refl, Carries.trans]

/-! The slot event. -/

theorem State.leadSlotBegins_carries (s : State) : Carries s s.leadSlotBegins := by
  have hopen : Carries s (s.onTe fun t => { t with leadOpen := true }) := s.onTe_carries _
  grind only [State.leadSlotBegins, State.tryOrder_carries, Carries.refl, Carries.trans]

theorem State.orderBegins_carries (s : State) : Carries s s.orderBegins := by
  have hstart (u : State) (r : Request) : Carries u (u.startRequest r) := by
    simp only [State.startRequest]
    (repeat' split)
    · exact .refl u
    · refine .trans (u.onRequest_carries r.id ?_) (State.onDescriptor_carries _ _ _ ?_)
      · exact fun _ => ⟨rfl, rfl, fun h => h⟩
      · exact fun _ => ⟨rfl, rfl⟩
    · exact u.onRequest_carries r.id fun _ => ⟨rfl, rfl, fun h => h⟩
  have hreserve (u : State) (r : Request) : Carries u (u.reserveBuffer r) := by
    grind only [State.reserveBuffer, State.setBuf_carries, Carries.refl]
  grind only [State.orderBegins, State.setPhase_carries, Carries.refl, Carries.trans]

theorem State.startFrame_carries (s : State) (i : Nat) (f : Frame) : Carries s (s.startFrame i f) := by
  have hstarted (u : State) (b : FrameBody) : Carries u (u.frameStarted b) := by
    simp only [State.frameStarted]
    split
    · exact u.orderBegins_carries
    · exact u.orderBegins_carries
    · exact u.onTm_carries _
    · exact u.onEntry_carries _ fun _ => ⟨⟨rfl, rfl, rfl, rfl⟩, fun h => ⟨h, rfl⟩⟩
    · exact .refl u
  have hdata (u : State) (b : FrameBody) : Carries u (u.emitData b) := by
    simp only [State.emitData]
    split
    · exact u.emit_carries _
    · exact .refl u
  exact ((s.onLu_carries _).trans (State.emit_carries _ _)).trans ((hdata _ _).trans (hstarted _ _))

theorem State.orderBeforeExpiry_carries (s : State) (line : LineTime) : Carries s (s.orderBeforeExpiry line) := by
  simp only [State.orderBeforeExpiry]
  (repeat' split)
  · exact .refl s
  · exact .refl s
  · exact s.leadSlotBegins_carries
  · exact s.leadSlotBegins_carries.trans (State.startFrame_carries _ _ _)
  · exact s.leadSlotBegins_carries

theorem State.expire_carries (s : State) (waited : Bool) (id : Nat) : Carries s (s.expire waited id) := by
  have hlate : Carries s (s.onRequest id fun x => { x with late := true }) :=
    s.onRequest_carries id fun _ => ⟨rfl, rfl, fun _ => rfl⟩
  grind only [State.expire, State.leaveQueue_carries, State.completeRequest_carries, State.idleEngine_carries,
    Carries.refl, Carries.trans]

theorem State.countBudgets_stands (s : State) : Stands s s.countBudgets :=
  { (Carries.refl s).toStands with sheds := .of_eq rfl rfl (by simp [State.countBudgets]) }

/-- The records whose budget has reached 0 are decided one after another (R72). -/
theorem State.expireAll_carries (s : State) (due : List Request) :
    Carries s (due.foldl (fun s r => s.expire (r.state == .holdWait) r.id) s) :=
  Carries.foldl (fun s _ => s.expire_carries _ _) due s

theorem State.queueSlot_stands (s : State) : Stands s s.queueSlot := by
  have hexpired := s.countBudgets.expireAll_carries s.wq.expiring
  simp only [State.queueSlot]
  generalize s.wq.expiring.foldl _ s.countBudgets = u at *
  exact s.countBudgets_stands.trans <| Carries.toStands <| hexpired.trans <|
    u.formSlacks_carries.trans <| (State.review_carries _).trans (State.select_carries _)

theorem State.slotEvent_stands (s : State) (synthetic : Bool) (o : Option LineTime) :
    Stands s (s.slotEvent synthetic o) := by
  have hclock : Carries s (s.onHp fun h => { h with tod := h.tod.pass }) := .of_eq rfl rfl rfl rfl rfl
  have hafter (u : State) : Carries u u.holdSlot.leadSlotBegins.idleTenureTest.offerRelease.preemptSlot :=
    u.holdSlot_carries.trans <| (State.leadSlotBegins_carries _).trans <| (State.idleTenureTest_carries _).trans <|
      (State.offerRelease_carries _).trans (State.preemptSlot_carries _)
  have hfirst := hclock.trans ((State.onRdm_carries _ fun m => { m with slotSynthetic := synthetic }).trans
    (State.engineSlot_carries _))
  have hqueue {u : State} (hu : Carries s u) :
      Stands s u.queueSlot.holdSlot.leadSlotBegins.idleTenureTest.offerRelease.preemptSlot :=
    hu.toStands.trans (u.queueSlot_stands.trans (hafter _).toStands)
  simp only [State.slotEvent]
  split
  · exact hqueue hfirst
  · exact hqueue (hfirst.trans (State.orderBeforeExpiry_carries _ _))

/-- The revolution event, but for the entries claimed again (R135, R138). -/
theorem State.ownRevolution_carries (s : State) : Carries s s.ownRevolution := by
  grind only [State.ownRevolution, State.setOwn_carries, State.endTenure_carries, Carries.refl, Carries.trans]

theorem State.peerRevolution_carries (s : State) : Carries s s.peerRevolution := by
  simp only [State.peerRevolution]
  (repeat' split)
  · exact .refl s
  · exact (s.onTm_carries _).trans (State.review_carries _)
  · exact s.peerGone_carries

end Sys2Proof.Machine
end


section
/-! Pulses and synthetic slots on the monitor (R5 to R10). -/

namespace Sys2Proof.Machine

open Sys2Proof

theorem Monitor.recover_frame (m : Monitor) :
    m.recover.counter = m.counter ∧ m.recover.timer = m.timer ∧ m.recover.synthRun = m.synthRun ∧
      m.recover.revCount = m.revCount ∧ m.recover.lateLeft = m.lateLeft ∧
      m.recover.lateSubstitute = m.lateSubstitute ∧ m.recover.ready = m.ready ∧
      m.recover.onCylinder = m.onCylinder ∧ m.recover.silence = m.silence ∧
      m.recover.slotSynthetic = m.slotSynthetic := by
  simp only [Monitor.recover, Monitor.enterResync]
  (repeat' split) <;> simp

theorem Monitor.recover_resync (m : Monitor) (h : m.resync = .awaitingIndex) : m.recover.resync = .awaitingIndex := by
  simp only [Monitor.recover, Monitor.enterResync]
  (repeat' split) <;> simp [h]

theorem Monitor.index_frame (m : Monitor) :
    m.index.counter = (if m.drive = .down then m.counter else some 0) ∧ m.index.timer = m.timer ∧
      m.index.synthRun = m.synthRun ∧ m.index.lateLeft = m.lateLeft ∧ m.index.ready = m.ready ∧
      m.index.onCylinder = m.onCylinder ∧ m.index.drive = m.drive ∧ m.index.recovery = m.recovery := by
  simp only [Monitor.index]
  split <;> simp

theorem Monitor.advance_frame (m : Monitor) :
    m.advance.counter = (if m.drive = .down then m.counter else m.counter.map fun c => (c + 1) % 20) ∧
      m.advance.timer = m.timer ∧ m.advance.synthRun = m.synthRun ∧ m.advance.revCount = m.revCount ∧
      m.advance.lateLeft = m.lateLeft ∧ m.advance.ready = m.ready ∧ m.advance.onCylinder = m.onCylinder ∧
      m.advance.drive = m.drive ∧ m.advance.recovery = m.recovery := by
  simp only [Monitor.advance]
  split
  · simp
  · exact ⟨rfl, rfl, rfl, rfl, rfl, rfl, rfl, rfl, rfl⟩

theorem Monitor.pulse_frame (m : Monitor) :
    m.pulse.counter = m.counter ∧ m.pulse.timer = 12500 ∧ m.pulse.synthRun = 0 ∧ m.pulse.revCount = m.revCount ∧
      m.pulse.lateLeft = 0 ∧ m.pulse.ready = m.ready ∧ m.pulse.onCylinder = m.onCylinder ∧ m.pulse.drive = m.drive ∧
      m.pulse.recovery = m.recovery ∧ m.pulse.resync = m.resync := by
  simp [Monitor.pulse]

/-- The slots without INDEX are counted round (R10). -/
theorem Monitor.countSlot_of_le {m : Monitor} (h : m.revCount ≤ 19) :
    m.countSlot = { m with revCount := (m.revCount + 1) % 20 } := by
  simp only [Monitor.countSlot, Config.slots]
  congr 1
  split <;> omega

theorem State.revolutionEvent_rdm (s : State) : s.revolutionEvent.rdm = s.rdm.recover := by
  simp [State.revolutionEvent]

theorem State.slotEvent_rdm (s : State) (b : Bool) (o : Option LineTime) :
    (s.slotEvent b o).rdm = { s.rdm with slotSynthetic := b } := by
  simp only [State.slotEvent]
  split <;> simp

/-- The revolution event up to the entries claimed again (R135, R138). -/
theorem State.tenureRevolution_carries (s : State) : Carries s s.ownRevolution.peerRevolution.endCourtesy :=
  s.ownRevolution_carries.trans ((State.peerRevolution_carries _).trans (State.endCourtesy_carries _))

/-- Descriptors keep kind and changed mark through a revolution event. -/
theorem State.revolutionEvent_mark (s : State) :
    ∀ d ∈ s.revolutionEvent.ec.priv ++ s.revolutionEvent.ec.comm,
      ∃ c ∈ s.ec.priv ++ s.ec.comm, c.kind = d.kind ∧ c.changed = d.changed := by
  intro d hd
  simp only [State.revolutionEvent, State.onRdm_ec, State.holdRevolution_frame] at hd
  exact s.tenureRevolution_carries.mark d hd

/-- Records and budgets through a revolution event: none comes, each budget stands (R135, R138, R153). -/
theorem State.revolutionEvent_record (s : State) :
    ∀ u ∈ s.revolutionEvent.wq.records, ∃ r ∈ s.wq.records, r.id = u.id ∧ r.budget = u.budget := by
  intro u hu
  simp only [State.revolutionEvent, State.onRdm_wq, State.holdRevolution_frame] at hu
  obtain ⟨r, hr, hid, hb, _⟩ := s.tenureRevolution_carries.record u hu
  exact ⟨r, hr, hid.symm, hb.symm⟩

theorem State.revolutionEvent_courtesy (s : State) : s.revolutionEvent.tm.courtesy = false := by
  have : s.ownRevolution.peerRevolution.endCourtesy.tm.courtesy = false := by
    simp only [State.endCourtesy]
    (repeat' split) <;> simp_all
  simp [State.revolutionEvent, this]

/-! The monitor after each kind of slot event, the revolution event it may make included. -/

/-- What a revolution event that follows a slot event may change of the monitor is the recovery alone. -/
theorem State.slotEvent_then_rdm (s : State) (b : Bool) (o : Option LineTime) (sub : Bool) :
    let m := (if sub then (s.slotEvent b o).revolutionEvent else s.slotEvent b o).rdm
    m.slotSynthetic = b ∧ m.counter = s.rdm.counter ∧ m.synthRun = s.rdm.synthRun ∧ m.revCount = s.rdm.revCount ∧
      m.lateLeft = s.rdm.lateLeft ∧ m.lateSubstitute = s.rdm.lateSubstitute ∧ m.ready = s.rdm.ready ∧
      m.onCylinder = s.rdm.onCylinder ∧ m.timer = s.rdm.timer ∧
      (s.rdm.resync = .awaitingIndex → m.resync = .awaitingIndex) := by
  cases sub
  · simp [State.slotEvent_rdm]
  · simp only [if_true, State.revolutionEvent_rdm, State.slotEvent_rdm, Monitor.recover_frame, true_and]
    exact fun h => Monitor.recover_resync _ h

theorem State.timelyIndex_rdm (s : State) (o : Option LineTime) :
    let m := (s.timelyIndex o).rdm
    m.slotSynthetic = false ∧ m.counter = (if s.rdm.drive = .down then s.rdm.counter else some 0) ∧ m.synthRun = 0 ∧
      m.revCount = 0 ∧ m.lateLeft = 0 ∧ m.ready = s.rdm.ready ∧ m.onCylinder = s.rdm.onCylinder ∧ m.timer = 12500 := by
  simp only [State.timelyIndex, State.revolutionEvent_rdm, State.slotEvent_rdm, Monitor.recover_frame]
  cases s.rdm.completes <;> simp [Monitor.index_frame, Monitor.pulse_frame]

theorem State.timelySector_rdm (s : State) (o : Option LineTime) (h : s.rdm.revCount ≤ 19) :
    let m := (s.timelySector o).rdm
    m.slotSynthetic = false ∧
      m.counter = (if s.rdm.drive = .down then s.rdm.counter else s.rdm.counter.map fun c => (c + 1) % 20) ∧
      m.synthRun = 0 ∧ m.revCount = (s.rdm.revCount + 1) % 20 ∧ m.lateLeft = 0 ∧ m.ready = s.rdm.ready ∧
      m.onCylinder = s.rdm.onCylinder ∧ m.timer = 12500 := by
  simp only [State.timelySector]
  obtain ⟨h1, h2, h3, h4, h5, -, h7, h8, h9, -⟩ :=
    (s.onRdm fun m => m.pulse.advance.countSlot).slotEvent_then_rdm false o s.rdm.substitutes
  have hle : s.rdm.pulse.advance.revCount ≤ 19 := by simpa only [Monitor.advance_frame, Monitor.pulse_frame]
  rw [h1, h2, h3, h4, h5, h7, h8, h9, State.onRdm_rdm, Monitor.countSlot_of_le hle]
  simp [Monitor.advance_frame, Monitor.pulse_frame]

/-- A synthetic slot that does not lose the spindle (R8). -/
theorem State.syntheticSlot_rdm (s : State) (o : Option LineTime) (h : s.rdm.revCount ≤ 19)
    (hl : s.rdm.losesSpindle = false) :
    let m := (s.syntheticSlot o).rdm
    m.slotSynthetic = true ∧
      m.counter = (if s.rdm.drive = .down then s.rdm.counter else s.rdm.counter.map fun c => (c + 1) % 20) ∧
      m.synthRun = min 20 (s.rdm.synthRun + 1) ∧ m.revCount = (s.rdm.revCount + 1) % 20 ∧ m.lateLeft = 3125 ∧
      m.lateSubstitute = decide (s.rdm.revCount = 19) ∧ m.resync = .awaitingIndex ∧ m.ready = s.rdm.ready ∧
      m.onCylinder = s.rdm.onCylinder ∧ m.timer = 12500 := by
  simp only [State.syntheticSlot, hl, Bool.false_eq_true, if_false]
  obtain ⟨h1, h2, h3, h4, h5, h6, h7, h8, h9, h10⟩ :=
    (s.onRdm Monitor.synthetic).slotEvent_then_rdm true o s.rdm.substitutes
  have hle : s.rdm.advance.revCount ≤ 19 := by simpa only [Monitor.advance_frame]
  have hsub : s.rdm.substitutes = decide (s.rdm.revCount = 19) := by
    simp only [Monitor.substitutes, decide_eq_decide, Config.slots]
    omega
  rw [h1, h2, h3, h4, h5, h6, h7, h8, h9, h10 rfl, State.onRdm_rdm, Monitor.synthetic, Monitor.countSlot_of_le hle]
  simp [Monitor.advance_frame, hsub]

theorem State.syntheticSlot_positioner (s : State) (o : Option LineTime) (hl : s.rdm.losesSpindle = false) :
    (s.syntheticSlot o).tm.cylinder = s.tm.cylinder ∧ (s.syntheticSlot o).tm.moving = s.tm.moving := by
  simp only [State.syntheticSlot, hl, Bool.false_eq_true, if_false]
  split <;> simp

/-! The obligation. -/

/-- Settles O27: the monitor after pulses and synthetic slots, and the late pulses whole. -/
theorem pulsesMoveTheMonitor : Obligations.PulsesMoveTheMonitor := by
  unfold Obligations.PulsesMoveTheMonitor
  constructor
  · intro p o s hrev
    refine ⟨fun hlate => ⟨(s.begin.onLu fun l => l.pulse p.sending).timelyIndex p.orderFirst, ?_, ?_⟩,
      fun hlate => ⟨(s.begin.onLu fun l => l.pulse p.sending).timelySector p.orderFirst, ?_, ?_⟩,
      fun hrun => ⟨s.begin.syntheticSlot o, rfl, ?_⟩⟩
    · exact congrArg Host.Outcome.next (if_neg (by simp [hlate]))
    · obtain ⟨h1, h2, h3, h4, h5, h6, h7, h8⟩ :=
        (s.begin.onLu fun l => l.pulse p.sending).timelyIndex_rdm p.orderFirst
      exact ⟨⟨by simp, by simp, by simp, h6, h7, h8⟩, h1, h2, h3, h4, h5⟩
    · exact congrArg Host.Outcome.next (if_neg (by simp [hlate]))
    · obtain ⟨h1, h2, h3, h4, h5, h6, h7, h8⟩ :=
        (s.begin.onLu fun l => l.pulse p.sending).timelySector_rdm p.orderFirst hrev
      exact ⟨⟨by simp, by simp, by simp, h6, h7, h8⟩, h1, h2, h3, h4, h5⟩
    · have hlose : s.begin.rdm.losesSpindle = false := by
        have : s.begin.rdm = s.rdm := rfl
        rw [this, Monitor.losesSpindle]
        rcases hrun with h | h <;> simp [h, Config.spindleLimit]
      obtain ⟨h1, h2, h3, h4, h5, h6, h7, h8, h9, h10⟩ := s.begin.syntheticSlot_rdm o hrev hlose
      obtain ⟨hc, hm⟩ := s.begin.syntheticSlot_positioner o hlose
      exact ⟨⟨hc, hm, by simp, h8, h9, h10⟩, h1, h2, h3, h4, h5, h6, h7⟩
  · intro p s
    have hlateIndex (h : 0 < s.rdm.lateLeft) : exec (.indexPulse p) s =
        .next (s.begin.onLu fun l => l.pulse p.sending).lateIndex :=
      congrArg Host.Outcome.next (if_pos h)
    refine ⟨rfl, fun h => ?_, fun h hsub => ?_, fun h hsub => ?_⟩
    · exact congrArg Host.Outcome.next (if_pos h)
    · have hlate : (s.begin.onLu fun l => l.pulse p.sending).lateIndex =
          (s.begin.onLu fun l => l.pulse p.sending).onRdm fun m => { m.pulse.index with revCount := 0 } := if_pos hsub
      rw [hlateIndex h, hlate]
      simp only [Monitor.index, Monitor.pulse]
      cases hd : s.rdm.drive <;> simp [State.onRdm, State.onLu, State.begin, LineUnit.pulse, hd]
    · have hlate : (s.begin.onLu fun l => l.pulse p.sending).lateIndex =
          ((s.begin.onLu fun l => l.pulse p.sending).onRdm fun m =>
            { m.pulse.index with revCount := 0 }).revolutionEvent := if_neg (by simp [hsub])
      refine ⟨_, hlateIndex h, ?_, ?_, ?_, ?_, ?_⟩
      · simp [hlate, State.revolutionEvent_rdm, Monitor.recover_frame, Monitor.index_frame, Monitor.pulse_frame]
      · simp [hlate, State.revolutionEvent_rdm, Monitor.recover_frame]
      · simp [hlate, State.revolutionEvent_rdm, Monitor.recover_frame, Monitor.index_frame, Monitor.pulse_frame]
      · rw [hlate, State.revolutionEvent_courtesy]
      · rw [hlate]
        exact State.revolutionEvent_record _

end Sys2Proof.Machine
end


section
/-! The drive lost and back again (R8, R163 to R170). -/

namespace Sys2Proof.Machine

open Sys2Proof

/-! While the drive is not UP nothing is selected. -/

theorem State.eligible_up {s : State} {r : Request} (h : s.eligible r = true) : s.rdm.drive = .up := by
  simp only [State.eligible, Bool.and_eq_true, beq_iff_eq] at h
  exact h.1.1.1.1.2

/-- With the drive not UP, selection forms no record and takes none (R81). -/
theorem State.select_of_not_up {s : State} (h : s.rdm.drive ≠ .up) : s.select.te = s.te ∧ s.select.tm = s.tm := by
  rcases s.select_cases with ⟨hs, _⟩ | ⟨_, ⟨hs, _⟩ | ⟨r, hc, _⟩⟩
  · rw [hs]; exact ⟨rfl, rfl⟩
  · rw [hs]; exact ⟨rfl, rfl⟩
  · exact absurd (State.eligible_up (State.choice_mem hc).2) h

theorem State.idleTenureTest_of_not_holding {s : State} (h : s.tm.own.isHolding = false) : s.idleTenureTest = s := by
  simp [State.idleTenureTest, h]

/-- With the drive not UP and no tenure HOLDING, an idle engine is left as it is. -/
theorem State.engineIdled_of_not_up {s : State} (h : s.rdm.drive ≠ .up) (ho : s.tm.own.isHolding = false) :
    s.engineIdled.te = s.te ∧ s.engineIdled.tm = s.tm := by
  obtain ⟨hte, htm⟩ := s.select_of_not_up h
  rw [State.engineIdled, State.idleTenureTest_of_not_holding (by rw [htm]; exact ho)]
  simp [hte, htm]

/-! The entry to DOWN. -/

/-- The end of a tenure is nothing to an engine that works on no request. -/
theorem State.suspendAfterExchange_of_none {s : State} (h : s.activeRequest = none) : s.suspendAfterExchange = s := by
  simp [State.suspendAfterExchange, h]

theorem State.endTenure_te_of_none {s : State} (h : s.te.request = none) : s.endTenure.te = s.te := by
  simp only [State.endTenure]
  split
  · rw [State.suspendAfterExchange_of_none (by simp [State.activeRequest, h])]
    simp
  · rfl

theorem State.endTenure_not_holding (s : State) : s.endTenure.tm.own.isHolding = false := by
  simp only [State.endTenure]
  split
  · simp [State.setOwn, OwnTenure.isHolding]
  · rename_i h
    cases ho : s.tm.own <;> simp_all [OwnTenure.isHolding]

theorem State.tenureDown_tm (s : State) :
    s.tenureDown.tm.own.isHolding = false ∧ s.tenureDown.tm.cylinder = none ∧ s.tenureDown.tm.moving = false := by
  simp [State.tenureDown, State.endTenure_not_holding, State.setPositioner]

theorem State.tenureDown_carries (s : State) : Carries s s.tenureDown :=
  (s.setPositioner_carries _ _).trans ((State.endTenure_carries _).trans (State.offerRelease_carries _))

theorem State.tenureDown_te_of_none {s : State} (h : s.te.request = none) : s.tenureDown.te = s.te := by
  simp only [State.tenureDown, State.offerRelease_frame]
  rw [State.endTenure_te_of_none (by simpa using h)]
  simp

/-- An engine with no exchange of its ACTIVE request in progress ends it DRIVE DOWN (R112, R165). -/
theorem State.engineDown_of_active {s : State} {r : Request} (ha : s.activeRequest = some r) (hs : r.state = .active)
    (hx : s.exchangeInProgress = false) : s.engineDown = s.finish .fault (some .driveDown) false := by
  simp [State.engineDown, ha, hs, hx]

/-- The entry to DOWN from UP or RESYNC (R163 to R166). -/
theorem State.driveDown_lost {s : State} (h : s.rdm.drive ≠ .down) :
    LostDrive s s.driveDown ∧ s.driveDown.rdm = s.rdm.enterDown := by
  generalize hu : ((s.onRdm Monitor.enterDown).raise .drive).onLu LineUnit.markLost = u
  have hdown : s.driveDown = u.engineDown.tenureDown := by rw [State.driveDown, if_neg h, hu]
  have hrdm : u.rdm = s.rdm.enterDown := by rw [← hu]; simp
  have hevents : u.hp.events = s.hp.events ||| BitVec.twoPow 12 9 := by rw [← hu]; rfl
  obtain ⟨hown, hcyl, hmov⟩ := u.engineDown.tenureDown_tm
  rw [hdown]
  refine ⟨⟨by simp [hrdm, Monitor.enterDown], by simp [hrdm, Monitor.enterDown], by simp [hrdm, Monitor.enterDown],
    by simp [hrdm, Monitor.enterDown], ?_, hcyl, hmov, hown, fun r ha hs hx => ?_⟩, by simp [hrdm]⟩
  · simp [hevents]
  · have hau : u.activeRequest = some r := by rw [← hu]; exact ha
    have hxu : u.exchangeInProgress = false := by
      rw [← hx, State.exchangeInProgress, State.exchangeInProgress,
        show u.lu.exchange = s.lu.exchange.map fun x => { x with lost := true } by rw [← hu]; rfl]
      rw [show u.te = s.te by rw [← hu]; rfl]
      cases hl : s.lu.exchange <;> simp
    rw [State.engineDown_of_active hau hs hxu]
    obtain ⟨_, hasked, hleft, hfree⟩ := State.finish_leaves hau .fault (some .driveDown) false
    have hc := (u.finish .fault (some .driveDown) false).tenureDown_carries
    refine ⟨?_, hc.sheds.asked hasked, hc.sheds.left hleft⟩
    rw [State.tenureDown_te_of_none hfree.1]
    exact hfree.2.1

/-- What follows an engine idled by the loss does not undo it. -/
theorem LostDrive.engineIdled {s t : State} (h : LostDrive s t) : LostDrive s t.engineIdled := by
  obtain ⟨hd, hc, hsil, hrec, hev, hcyl, hmov, hown, hend⟩ := h
  obtain ⟨hte, htm⟩ := t.engineIdled_of_not_up (by simp [hd]) hown
  refine ⟨by simpa using hd, by simpa using hc, by simpa using hsil, by simpa using hrec, by simpa using hev,
    by simpa using hcyl, by simpa using hmov, by rw [htm]; exact hown, fun r ha hs hx => ?_⟩
  obtain ⟨hp, hasked, hleft⟩ := hend r ha hs hx
  have hsheds := t.engineIdled_sheds
  exact ⟨by rw [hte]; exact hp, hsheds.asked hasked, hsheds.left hleft⟩

theorem State.following_driveDown {s : State} (h : s.rdm.drive ≠ .down) :
    LostDrive s (s.following State.driveDown) ∧ (s.following State.driveDown).rdm = s.rdm.enterDown := by
  obtain ⟨hlost, hrdm⟩ := s.driveDown_lost h
  rcases s.following_cases State.driveDown with ⟨hf, _⟩ | ⟨hf, _⟩ <;> rw [hf]
  · exact ⟨hlost.engineIdled, by simpa using hrdm⟩
  · exact ⟨hlost, hrdm⟩

theorem State.following_driveDown_of_down {s : State} (h : s.rdm.drive = .down) :
    s.following State.driveDown = s := by
  have hd : s.driveDown = s := by simp [State.driveDown, h]
  rcases s.following_cases State.driveDown with ⟨_, hp, hq⟩ | ⟨hf, _⟩
  · exact absurd (hd ▸ hq) hp
  · rw [hf, hd]

/-- A synthetic slot that loses the spindle (R8). -/
theorem State.syntheticSlot_loses {s : State} (o : Option LineTime) (hd : s.rdm.drive ≠ .down)
    (hr : s.rdm.synthRun = 19) :
    let t := s.syntheticSlot o
    t.rdm.drive = .down ∧ t.rdm.counter = none ∧ t.rdm.synthRun = 20 ∧ t.hp.events.getLsbD 9 = true ∧
      t.tm.cylinder = none ∧ t.tm.moving = false := by
  have hlose : s.rdm.losesSpindle = true := by simp [Monitor.losesSpindle, hr, hd, Config.spindleLimit]
  have hsyn : (s.onRdm Monitor.synthetic).rdm.drive ≠ .down := by
    simpa [Monitor.synthetic, Monitor.countSlot, Monitor.advance_frame] using hd
  obtain ⟨⟨hdr, hc, _, hrec, hev, hcyl, hmov, _⟩, hrdm⟩ := (s.onRdm Monitor.synthetic).driveDown_lost hsyn
  have hrun : (s.onRdm Monitor.synthetic).driveDown.rdm.synthRun = 20 := by
    rw [hrdm]
    simp [Monitor.enterDown, Monitor.synthetic, hr, Config.spindleLimit]
  simp only [State.syntheticSlot, hlose, if_true]
  generalize (s.onRdm Monitor.synthetic).driveDown = v at *
  cases s.rdm.substitutes
  · simpa using ⟨hdr, hc, hrun, hev, hcyl, hmov⟩
  · simp only [if_true, State.revolutionEvent_rdm, State.slotEvent_rdm, Monitor.recover_frame]
    refine ⟨?_, hc, hrun, by simpa using hev, by simpa using hcyl, by simpa using hmov⟩
    simp only [Monitor.recover, hdr, if_true]
    split <;> simp [hrec, Config.recoveryLimit]

/-! The return. -/

theorem Extents.markAll_changed (x : Extents) :
    ∀ d ∈ x.markAll.priv ++ x.markAll.comm, d.kind ≠ .empty → d.changed = true := by
  intro d hd
  simp only [Extents.markAll, ← List.map_append, List.mem_map] at hd
  obtain ⟨c, _, rfl⟩ := hd
  simp only [Descriptor.markChanged]
  split <;> simp_all

/-- The INDEX that completes RESYNC (R169, R170). -/
theorem State.timelyIndex_up {s : State} (o : Option LineTime) (h : s.rdm.completes = true) :
    let t := s.timelyIndex o
    t.rdm.drive = .up ∧ t.hp.events.getLsbD 6 = true ∧ t.hp.events.getLsbD 9 = true ∧
      ∀ d ∈ t.ec.priv ++ t.ec.comm, d.kind ≠ .empty → d.changed = true := by
  simp only [State.timelyIndex, h, if_true]
  generalize hv : s.onRdm (fun m => { m.pulse.index with revCount := 0 }) = v
  have hup : v.driveUp.rdm.drive = .up := by simp [State.driveUp]
  have hev : v.driveUp.hp.events.getLsbD 6 = true ∧ v.driveUp.hp.events.getLsbD 9 = true := by
    simp [State.driveUp, State.raise, Attention.bit]
  have hmark := (v.driveUp.slotEvent_stands false o).mark
  refine ⟨?_, by simpa using hev.1, by simpa using hev.2, fun d hd hk => ?_⟩
  · rw [State.revolutionEvent_rdm, State.slotEvent_rdm, Monitor.recover, if_neg (by simp [hup]), hup]
  · obtain ⟨c, hc, hck, hcc⟩ := State.revolutionEvent_mark _ d hd
    obtain ⟨b, hb, hbk, hbc⟩ := hmark c hc
    rw [← hcc, ← hbc]
    exact Extents.markAll_changed v.ec b hb (hbk ▸ hck ▸ hk)

/-- Settles O32: the drive lost, and back again. -/
theorem driveIsLostAndReturns : Obligations.DriveIsLostAndReturns := by
  unfold Obligations.DriveIsLostAndReturns
  constructor
  · intro o s
    constructor
    · generalize hu : s.begin.onRdm (fun m => { m with ready := false, recovery := 0 }) = u
      have hrdm : u.rdm = { s.rdm with ready := false, recovery := 0 } := by rw [← hu]; rfl
      refine ⟨u.following State.driveDown, by subst hu; rfl, ?_⟩
      by_cases hd : s.rdm.drive = .down
      · rw [State.following_driveDown_of_down (by rw [hrdm]; exact hd), hrdm]
        exact ⟨rfl, rfl, hd, fun h => absurd hd h⟩
      · obtain ⟨hlost, hdown⟩ := State.following_driveDown (s := u) (by rw [hrdm]; exact hd)
        rw [hdown, hrdm]
        subst hu
        exact ⟨rfl, rfl, rfl, fun _ => hlost⟩
    · intro hd hr
      refine ⟨?_, s.begin.syntheticSlot o, rfl, State.syntheticSlot_loses o hd hr⟩
      generalize hu : s.begin.onRdm (fun m => { m with synthRun := Config.spindleLimit }) = u
      have hlose : s.begin.rdm.losesSpindle = true := by
        simp [Monitor.losesSpindle, hr, hd, Config.spindleLimit]
      have hrdm : u.rdm = { s.rdm with synthRun := 20 } := by rw [← hu]; rfl
      obtain ⟨hlost, hdown⟩ := State.following_driveDown (s := u) (by rw [hrdm]; exact hd)
      refine ⟨u.following State.driveDown, by subst hu; exact congrArg Host.Outcome.next (if_pos hlose), ?_, ?_⟩
      · subst hu; exact hlost
      · rw [hdown, hrdm]; rfl
  · intro o s
    refine ⟨?_, fun hd hready hrec => ?_, fun hlate hd hstage hcount => ?_⟩
    · cases hd : s.rdm.drive <;> simp [exec, execReadyRise, State.onRdm, State.begin, hd, Monitor.enterResync]
    · simp [exec, execRecovery, State.onRdm, State.begin, hd, hready, hrec, Monitor.recover, Monitor.enterResync,
        Config.recoveryLimit]
    · generalize hu : s.begin.onLu (fun l => l.pulse false) = u
      have hrdm : u.rdm = s.rdm := by rw [← hu]; rfl
      obtain ⟨hup, h6, h9, hmark⟩ := u.timelyIndex_up o (by simp [Monitor.completes, hrdm, hd, hstage, hcount])
      obtain ⟨_, hcounter, _⟩ := u.timelyIndex_rdm o
      refine ⟨u.timelyIndex o, ?_, hup, by rw [hcounter, hrdm, if_neg (by simp [hd])], h6, h9, hmark⟩
      subst hu
      exact congrArg Host.Outcome.next (if_neg (by simp [State.begin, hlate]))

end Sys2Proof.Machine
end


section
/-! The revolution event (R10, R135, R138, R153, R168). -/

namespace Sys2Proof.Machine

open Sys2Proof

-- One proof at a time: proofs elaborated together wait for one another on threads of their own, which the check's
-- memory limit counts.
set_option Elab.async false

/-! The own tenure through a slot event. -/

/-- A tenure HOLDING stays or goes ENDING, one ENDING stays, each with its cylinder and revolutions. -/
def OwnKept (s t : State) : Prop :=
  (∀ a n, s.tm.own = .holding a n → t.tm.own = .holding a n ∨ t.tm.own = .ending a n) ∧
    ∀ a n, s.tm.own = .ending a n → t.tm.own = .ending a n

theorem OwnKept.of_eq {s t : State} (h : t.tm.own = s.tm.own) : OwnKept s t :=
  ⟨fun _ _ k => .inl (h.trans k), fun _ _ k => h.trans k⟩

theorem OwnKept.of_tm {s t : State} (h : t.tm = s.tm) : OwnKept s t := .of_eq (by rw [h])

/-- The Tenure Manager stood before. -/
theorem OwnKept.before {s t u : State} (h : OwnKept t u) (hs : t.tm = s.tm) : OwnKept s u := by
  simpa only [OwnKept, hs] using h

/-- The Tenure Manager stands after. -/
theorem OwnKept.after {s t u : State} (h : OwnKept s t) (hu : u.tm = t.tm) : OwnKept s u := by
  simpa only [OwnKept, hu] using h

theorem OwnKept.refl (s : State) : OwnKept s s := .of_eq rfl

theorem OwnKept.trans {s t u : State} (h : OwnKept s t) (k : OwnKept t u) : OwnKept s u := by
  refine ⟨fun a n hs => ?_, fun a n hs => k.2 a n (h.2 a n hs)⟩
  rcases h.1 a n hs with ht | ht
  · exact k.1 a n ht
  · exact .inr (k.2 a n ht)

theorem State.endTenure_ownKept (s : State) : OwnKept s s.endTenure := by
  simp only [State.endTenure]
  split
  · rename_i c n hs
    refine ⟨fun a m h => .inr ?_, fun a m h => by simp [hs] at h⟩
    rw [hs] at h
    cases h
    simp [State.setOwn]
  · exact .refl s

theorem State.askTenure_ownKept (s : State) (c : Nat) : OwnKept s (s.askTenure c) := by
  simp only [State.askTenure]
  split
  · rename_i h
    exact ⟨fun a n hs => by simp [h] at hs, fun a n hs => by simp [h] at hs⟩
  · exact .refl s
  · exact .of_tm (by simp)
  · exact .refl s

theorem State.positionAt_ownKept (s : State) : OwnKept s s.positionAt := by
  have hlead : OwnKept s s.enterLead := .of_tm (by simp)
  have hsettle : OwnKept s s.enterSettle := .of_tm (by simp)
  have hsuspend : OwnKept s s.suspend := .of_tm (by simp)
  have hphase : OwnKept s (s.setPhase .tenureWait) := .of_tm (by simp)
  have hwait : OwnKept s s.waitTenure := hphase.trans (State.askTenure_ownKept _ _)
  grind only [State.positionAt]

theorem State.position_ownKept (s : State) : OwnKept s s.position := by
  simp only [State.position]
  split
  · exact .refl s
  · exact (State.positionAt_ownKept _).before rfl

theorem State.select_ownKept (s : State) : OwnKept s s.select := by
  rcases s.select_cases with ⟨h, _⟩ | ⟨_, ⟨h, _⟩ | ⟨q, _, h⟩⟩ <;> rw [h]
  · exact .refl s
  · exact .of_tm rfl
  · exact (State.position_ownKept _).before (by simp)

theorem State.idleTenureTest_ownKept (s : State) : OwnKept s s.idleTenureTest := by
  grind only [State.idleTenureTest, State.endTenure_ownKept, OwnKept.refl]

theorem State.engineIdled_ownKept (s : State) : OwnKept s s.engineIdled :=
  s.select_ownKept.trans ((State.idleTenureTest_ownKept _).after (by simp [State.engineIdled]))

theorem State.endRequest_ownKept (s : State) (st : Status) (f : Option ElementFault) (m : Bool) :
    OwnKept s (s.endRequest st f m) := (State.engineIdled_ownKept _).before (by simp)

theorem State.following_ownKept (s : State) {act : State → State} (h : OwnKept s (act s)) :
    OwnKept s (s.following act) := by
  rcases s.following_cases act with ⟨hf, _⟩ | ⟨hf, _⟩ <;> rw [hf]
  · exact h.trans (State.engineIdled_ownKept _)
  · exact h

theorem State.reposition_ownKept (s : State) : OwnKept s s.reposition := s.following_ownKept s.position_ownKept

theorem State.goOn_ownKept (s : State) {k : State → State} (h : ∀ u, OwnKept u (k u)) : OwnKept s (s.goOn k) := by
  rcases s.goOn_cases k with ⟨hg, _⟩ | ⟨hg, _⟩ <;> rw [hg]
  · exact (State.engineIdled_ownKept _).before (by simp)
  · exact h s

theorem State.slip_ownKept (s : State) (cause : SlipCause) : OwnKept s (s.slip cause) := by
  rcases s.slip_cases cause with ⟨h, _⟩ | ⟨r, _, ⟨_, h⟩ | ⟨_, h⟩⟩ <;> rw [h]
  · exact .refl s
  · exact (State.endRequest_ownKept _ _ _ _).before (by simp)
  · exact (State.goOn_ownKept _ fun u => .of_tm (by simp)).before (by simp)

theorem State.displace_ownKept (s : State) {k : State → State} (hk : ∀ u, OwnKept u (k u)) :
    OwnKept s (s.displace k) := by
  rcases s.displace_cases k with ⟨h, _⟩ | ⟨r, _, ⟨_, h⟩ | ⟨_, h⟩⟩
  · rw [h]; exact .refl s
  · rw [h]; exact s.endRequest_ownKept _ _ _
  · have hd : OwnKept s (s.onRequest r.id fun x => { x with displacements := x.displacements + 1 }) := .of_tm (by simp)
    rw [h]
    split
    · exact hd.trans (State.goOn_ownKept _ hk)
    · exact hd.trans ((State.engineIdled_ownKept _).before (by simp))

theorem State.engineSlot_ownKept (s : State) : OwnKept s s.engineSlot := by
  have htick : OwnKept s (s.onTe fun t => { t with settle := t.settle + 1 }) := .of_tm rfl
  have hout (u : State) : OwnKept u u.seekTimedOut := u.displace_ownKept fun v => .of_tm (by simp)
  have hseek (u : State) : OwnKept u u.offerSeek := .of_tm (by simp)
  have hsense (u : State) : OwnKept u u.offerSense := .of_tm (by simp)
  grind only [State.engineSlot, State.slip_ownKept, State.reposition_ownKept, OwnKept.refl, OwnKept.trans]

theorem State.queueSlot_ownKept (s : State) : OwnKept s s.queueSlot := by
  have hexpire (l : List Request) (u : State) :
      (l.foldl (fun s r => s.expire (r.state == .holdWait) r.id) u).tm = u.tm :=
    foldl_keeps State.tm (fun s r => by simp) l u
  exact (State.select_ownKept _).before (by simp [hexpire])

theorem State.slotEvent_ownKept (s : State) (b : Bool) (o : Option LineTime) : OwnKept s (s.slotEvent b o) := by
  have hqueue {u : State} (hu : OwnKept s u) :
      OwnKept s u.queueSlot.holdSlot.leadSlotBegins.idleTenureTest.offerRelease.preemptSlot := by
    have hlead : OwnKept s u.queueSlot.holdSlot.leadSlotBegins := (hu.trans u.queueSlot_ownKept).after (by simp)
    exact (hlead.trans (State.idleTenureTest_ownKept _)).after (by simp)
  have hfirst : OwnKept s ((s.onHp fun h => { h with tod := h.tod.pass }).onRdm fun m =>
      { m with slotSynthetic := b }).engineSlot := (State.engineSlot_ownKept _).before rfl
  simp only [State.slotEvent]
  split
  · exact hqueue hfirst
  · exact hqueue (hfirst.trans (.of_eq (by simp)))

theorem State.driveDown_ownKept (s : State) : OwnKept s s.driveDown := by
  simp only [State.driveDown]
  split
  · exact .refl s
  · have hu : (((s.onRdm Monitor.enterDown).raise .drive).onLu LineUnit.markLost).engineDown.tm = s.tm := by simp
    generalize (((s.onRdm Monitor.enterDown).raise .drive).onLu LineUnit.markLost).engineDown = u at hu ⊢
    have hp : OwnKept s (u.setPositioner none false) := .of_eq (by simp [State.setPositioner, hu])
    exact (hp.trans (State.endTenure_ownKept _)).after (by simp [State.tenureDown])

theorem State.driveDown_carries (s : State) : Carries s s.driveDown := by
  have hu : Carries s (((s.onRdm Monitor.enterDown).raise .drive).onLu LineUnit.markLost) :=
    (s.onRdm_carries _).trans ((State.raise_carries _ _).trans (State.onLu_carries _ _))
  have hengine (u : State) : Carries u u.engineDown := by
    have hmark : Carries u (u.onTe fun t => { t with downAfter := true }) := u.onTe_carries _
    grind only [State.engineDown, State.finish_carries, Carries.refl]
  simp only [State.driveDown]
  split
  · exact .refl s
  · exact hu.trans ((hengine _).trans (State.tenureDown_carries _))

/-! The tenures count. -/

theorem State.revolutionEvent_own (s : State) : s.revolutionEvent.tm.own = s.ownRevolution.tm.own := by
  simp [State.revolutionEvent]

theorem State.ownRevolution_own (s : State) :
    (∀ a n, s.tm.own = .holding a n →
      s.ownRevolution.tm.own = .ending a (n - 1) ∨ 2 ≤ n ∧ s.ownRevolution.tm.own = .holding a (n - 1)) ∧
    ∀ a n, s.tm.own = .ending a n → s.ownRevolution.tm.own = .ending a (n - 1) := by
  refine ⟨fun a n h => ?_, fun a n h => by simp [State.ownRevolution, h, State.setOwn]⟩
  by_cases hn : n ≤ 1
  · left
    have h0 : n - 1 = 0 := by omega
    simp [State.ownRevolution, h, hn, h0, State.endTenure, State.setOwn]
  · right
    simp [State.ownRevolution, h, hn, State.setOwn]
    omega

theorem State.revolutionEvent_peer (s : State) : s.revolutionEvent.tm.peer =
    match s.tm.peer with
    | none => none
    | some p => if 2 ≤ p.revolutions then some { p with revolutions := p.revolutions - 1 } else none := by
  have hp : s.revolutionEvent.tm.peer = s.ownRevolution.peerRevolution.tm.peer := by simp [State.revolutionEvent]
  have ho : s.ownRevolution.tm.peer = s.tm.peer := by simp
  rw [hp, State.peerRevolution, ho]
  cases h : s.tm.peer with
  | none => simp [h]
  | some p =>
    by_cases h2 : 2 ≤ p.revolutions
    · simp [h2, State.review]
    · simp [h2, State.peerGone, h, State.review]

/-! The recovery. -/

theorem Monitor.recover_of_down {m : Monitor} (h : m.drive = .down) :
    if m.ready = false then m.recover.drive = .down ∧ m.recover.recovery = 0
    else if m.recovery < 3 then m.recover.drive = .down ∧ m.recover.recovery = m.recovery + 1
    else m.recover.drive = .resync ∧ m.recover.recovery = 0 := by
  cases hr : m.ready
  · simp [Monitor.recover, h, hr]
  · by_cases h3 : m.recovery < 3
    · have h4 : ¬ Config.recoveryLimit ≤ m.recovery + 1 := by rw [Config.recoveryLimit]; omega
      simp [Monitor.recover, h, hr, h3, h4]
    · have h4 : Config.recoveryLimit ≤ m.recovery + 1 := by rw [Config.recoveryLimit]; omega
      simp [Monitor.recover, h, hr, h3, h4, Monitor.enterResync]

/-! Refused entries. -/

/-- A REFUSED entry claimed again (R153). -/
def HoldEntry.reclaimed (e : HoldEntry) : HoldEntry := { e with state := .claiming, refusalRevs := 0 }

/-- Entries claimed again one after another (R153). -/
theorem State.reclaimAll_hm (l : List HoldEntry) (s : State) :
    (l.foldl State.reclaimEntry s).hm.list =
        s.hm.list.map (fun x => if x.id ∈ l.map HoldEntry.id then x.reclaimed else x) ∧
      (l.foldl State.reclaimEntry s).lu.frames = s.lu.frames ++
        if s.hp.adapter = .silenced then [] else l.map fun e => ⟨e.claim, 0, 0, false⟩ := by
  induction l generalizing s with
  | nil => simp
  | cons e l ih =>
    obtain ⟨hlist, hframes⟩ := ih (s.reclaimEntry e)
    have ha : (s.reclaimEntry e).hp.adapter = s.hp.adapter := by simp
    rw [List.foldl_cons, hlist, hframes, ha]
    constructor
    · have hone : (s.reclaimEntry e).hm.list = s.hm.list.map fun x => if x.id == e.id then x.reclaimed else x := by
        simp only [State.reclaimEntry, State.offer_frame]
        rfl
      rw [hone, List.map_map]
      refine List.map_congr_left fun x _ => ?_
      by_cases hx : x.id = e.id
      · simp [hx, HoldEntry.reclaimed]
      · simp [hx]
    · by_cases hs : s.hp.adapter = .silenced <;> simp [State.reclaimEntry, State.offer, hs, State.onLu, State.onEntry]

/-- A REFUSED entry on the list, its refusal revolutions counted, at a revolution event (R153). -/
theorem State.holdRevolution_refused {s : State} {w z : HoldEntry} (hq : (s.hm.list.map HoldEntry.id).Nodup)
    (hw : w ∈ s.hm.list) (hs : w.state = .refused) (hz : z ∈ s.holdRevolution.hm.list) (hid : z.id = w.id) :
    if w.refusalRevs < 3 then z.state = .refused ∧ z.refusalRevs = w.refusalRevs + 1
    else z.state = .claiming ∧ z.refusalRevs = 0 ∧ (s.hp.adapter ≠ .silenced →
      ∃ f ∈ s.holdRevolution.lu.frames, f = ⟨.claim w.id w.start w.count w.mode, 0, 0, false⟩) := by
  have hcid : ∀ x : HoldEntry, x.countRevolution.id = x.id := fun x => by
    simp only [HoldEntry.countRevolution]; split <;> rfl
  have hcw : w.countRevolution = { w with refusalRevs := w.refusalRevs + 1 } := by simp [HoldEntry.countRevolution, hs]
  simp only [State.holdRevolution] at hz ⊢
  generalize hl : (s.onHm fun h => { h with list := h.list.map HoldEntry.countRevolution }).hm.list.filter
    (fun e => e.state == .refused && Config.reclaimLimit ≤ e.refusalRevs) = l at hz ⊢
  obtain ⟨hlist, hframes⟩ :=
    State.reclaimAll_hm l (s.onHm fun h => { h with list := h.list.map HoldEntry.countRevolution })
  rw [hlist] at hz
  obtain ⟨x, hx, rfl⟩ := List.mem_map.mp hz
  simp only [State.onHm_hm, List.mem_map] at hx
  obtain ⟨v, hv, rfl⟩ := hx
  have hvid : v.id = w.id := by
    rw [← hid]
    split <;> simp [HoldEntry.reclaimed, hcid]
  obtain rfl : v = w := List.inj_on_of_nodup_map hq hv hw hvid
  have hmem : v.countRevolution.id ∈ l.map HoldEntry.id ↔ 3 ≤ v.refusalRevs := by
    rw [← hl, List.mem_map]
    constructor
    · rintro ⟨u, hu, huv⟩
      obtain ⟨hu, hp⟩ := List.mem_filter.mp hu
      obtain ⟨y, hy, rfl⟩ := List.mem_map.mp hu
      obtain rfl : y = v := List.inj_on_of_nodup_map hq hy hw (by rw [← hcid y, ← hcid v, huv])
      simp only [hcw, Bool.and_eq_true, decide_eq_true_eq, Config.reclaimLimit] at hp
      omega
    · intro h
      refine ⟨v.countRevolution, List.mem_filter.mpr ⟨List.mem_map_of_mem hv, ?_⟩, rfl⟩
      simp [hcw, hs, Config.reclaimLimit]
      omega
  by_cases h3 : v.refusalRevs < 3
  · rw [if_pos h3, if_neg (by rw [hmem]; omega), hcw]
    exact ⟨hs, rfl⟩
  · rw [if_neg h3, if_pos (hmem.mpr (by omega))]
    refine ⟨rfl, rfl, fun hsil => ⟨_, ?_, rfl⟩⟩
    rw [hframes, State.onHm_hp, if_neg hsil]
    obtain ⟨u, hu, huv⟩ := List.mem_map.mp (hmem.mpr (by omega))
    refine List.mem_append_right _ (List.mem_map.mpr ⟨u, hu, ?_⟩)
    rw [← hl] at hu
    obtain ⟨y, hy, rfl⟩ := List.mem_map.mp (List.mem_filter.mp hu).1
    obtain rfl : y = v := List.inj_on_of_nodup_map hq hy hw (by rw [← hcid y, ← hcid v, huv])
    rw [hcw]
    rfl

/-! The obligation. -/

/-- What the revolution event that follows may rest on: since `s` the tenures stand but for an own one gone ENDING, the
recovery stands while the drive is DOWN, and no entry has come to the list but from the line. -/
structure ToCount (s x : State) : Prop where
  own : OwnKept s x
  peer : x.tm.peer = s.tm.peer
  adapter : x.hp.adapter = s.hp.adapter
  counted : x.rdm.revCount = 0
  down : s.rdm.drive = .down →
    x.rdm.drive = .down ∧ x.rdm.ready = s.rdm.ready ∧ x.rdm.recovery = s.rdm.recovery
  names : NamesFresh x
  lined : ∀ z ∈ x.hm.line, ∃ y ∈ s.hm.line, z.id = y.id
  listed : ∀ z ∈ x.hm.list, (∃ y ∈ s.hm.line, z.id = y.id) ∨ ∃ y ∈ s.hm.list, y.Carried z

/-- The revolution event has counted (R135, R138, R153, R168). -/
def RevolutionCounted (s t : State) : Prop :=
  (∀ a n, s.tm.own = .holding a n → t.tm.own = .ending a (n - 1) ∨ 2 ≤ n ∧ t.tm.own = .holding a (n - 1)) ∧
    (∀ a n, s.tm.own = .ending a n → t.tm.own = .ending a (n - 1)) ∧
    (∀ p, s.tm.peer = some p → t.tm.peer =
      if 2 ≤ p.revolutions then some { p with revolutions := p.revolutions - 1 } else none) ∧
    t.tm.courtesy = false ∧ t.rdm.revCount = 0 ∧
    (s.rdm.drive = .down → if s.rdm.ready = false then t.rdm.drive = .down ∧ t.rdm.recovery = 0
      else if s.rdm.recovery < 3 then t.rdm.drive = .down ∧ t.rdm.recovery = s.rdm.recovery + 1
      else t.rdm.drive = .resync ∧ t.rdm.recovery = 0) ∧
    ∀ y ∈ s.hm.list, y.state = .refused → ∀ z ∈ t.hm.list, z.id = y.id →
      if y.refusalRevs < 3 then z.state = .refused ∧ z.refusalRevs = y.refusalRevs + 1
      else z.state = .claiming ∧ z.refusalRevs = 0 ∧ (s.hp.adapter ≠ .silenced →
        ∃ f ∈ t.lu.frames, f = ⟨.claim y.id y.start y.count y.mode, 0, 0, false⟩)

theorem ToCount.slotEvent {s x : State} (h : ToCount s x) (b : Bool) (o : Option LineTime) :
    ToCount s (x.slotEvent b o) where
  own := h.own.trans (x.slotEvent_ownKept b o)
  peer := by simp [h.peer]
  adapter := by simp [h.adapter]
  counted := by simp [h.counted]
  down hd := by simpa using h.down hd
  names := (x.slotEvent_keeps b o).names h.names
  lined z hz := by
    obtain ⟨y, hy, hyz⟩ := (x.slotEvent_stands b o).lined z hz
    obtain ⟨w, hw, hwy⟩ := h.lined y hy
    exact ⟨w, hw, hyz.trans hwy⟩
  listed z hz := by
    rcases (x.slotEvent_stands b o).listed z hz with ⟨y, hy, hyz⟩ | ⟨y, hy, hyz⟩
    · obtain ⟨w, hw, hwy⟩ := h.lined y hy
      exact .inl ⟨w, hw, hyz.trans hwy⟩
    · rcases h.listed y hy with ⟨w, hw, hwy⟩ | ⟨w, hw, hwy⟩
      · exact .inl ⟨w, hw, hyz.1.1.trans hwy⟩
      · exact .inr ⟨w, hw, hwy.trans hyz⟩

/-- The holds and the Tenure Manager stand. -/
theorem ToCount.of_eq {s x : State} (hfresh : NamesFresh s) (hhm : x.hm = s.hm) (htm : x.tm = s.tm) (hwq : x.wq = s.wq)
    (ha : x.hp.adapter = s.hp.adapter) (hcount : x.rdm.revCount = 0) (hdown : s.rdm.drive = .down →
      x.rdm.drive = .down ∧ x.rdm.ready = s.rdm.ready ∧ x.rdm.recovery = s.rdm.recovery) : ToCount s x where
  own := .of_tm htm
  peer := by rw [htm]
  adapter := ha
  counted := hcount
  down := hdown
  names := by rw [NamesFresh, hwq, hhm]; exact hfresh
  lined z hz := ⟨z, hhm ▸ hz, rfl⟩
  listed z hz := .inr ⟨z, hhm ▸ hz, .refl z⟩

/-- The loss of the spindle, taken before the slot event (R8; log 7). -/
theorem ToCount.driveDown {s x : State} (h : ToCount s x) (hs : s.rdm.drive ≠ .down) (hx : x.rdm.drive ≠ .down)
    (hhm : x.hm = s.hm) : ToCount s x.driveDown where
  own := h.own.trans x.driveDown_ownKept
  peer := by simp [h.peer]
  adapter := by simp [h.adapter]
  counted := by rw [(x.driveDown_lost hx).2]; exact h.counted
  down hd := absurd hd hs
  names := x.driveDown_keeps.names h.names
  lined z hz := by simpa only [hhm] using x.driveDown_carries.lined z hz
  listed z hz := by simpa only [hhm] using x.driveDown_carries.listed z hz

theorem ToCount.revolutionEvent {s x : State} (hfresh : NamesFresh s) (h : ToCount s x) :
    RevolutionCounted s x.revolutionEvent := by
  obtain ⟨hhold, hend⟩ := x.ownRevolution_own
  refine ⟨fun a n hs => ?_, fun a n hs => ?_, fun p hp => ?_, x.revolutionEvent_courtesy, ?_, fun hd => ?_,
    fun y hy hr z hz hid => ?_⟩
  · rw [State.revolutionEvent_own]
    exact (h.own.1 a n hs).elim (hhold a n) fun ht => .inl (hend a n ht)
  · rw [State.revolutionEvent_own]
    exact hend a n (h.own.2 a n hs)
  · rw [State.revolutionEvent_peer, h.peer, hp]
  · simpa only [State.revolutionEvent_rdm, Monitor.recover_frame] using h.counted
  · obtain ⟨hxd, hready, hrec⟩ := h.down hd
    simpa only [State.revolutionEvent_rdm, hready, hrec] using Monitor.recover_of_down hxd
  · -- the entry as the revolution event of the Hold Manager finds it
    generalize hu : x.ownRevolution.peerRevolution.endCourtesy = u
    have hcarry : Carries x u := hu ▸ x.tenureRevolution_carries
    have hnames : NamesFresh u := hu ▸
      (x.ownRevolution_keeps.trans (.trans (State.peerRevolution_keeps _) (State.endCourtesy_keeps _))).names h.names
    have ht : x.revolutionEvent = u.holdRevolution.onRdm Monitor.recover := by rw [State.revolutionEvent, hu]
    rw [ht] at hz ⊢
    have hq : (u.hm.list.map HoldEntry.id).Nodup :=
      hnames.2.1.1.sublist ((List.sublist_append_left _ _).map _)
    obtain ⟨w, hw, hwz⟩ : ∃ w ∈ u.hm.list, w.id = z.id := by
      obtain ⟨hlist, _⟩ := State.reclaimAll_hm _ (u.onHm fun h => { h with list := h.list.map HoldEntry.countRevolution })
      simp only [State.onRdm_hm, State.holdRevolution] at hz
      rw [hlist] at hz
      obtain ⟨v, hv, rfl⟩ := List.mem_map.mp hz
      obtain ⟨w, hw, rfl⟩ := List.mem_map.mp hv
      refine ⟨w, hw, ?_⟩
      simp only [HoldEntry.countRevolution]
      (repeat' split) <;> rfl
    -- it is the entry of `s`, REFUSED with its count
    have hone (v : HoldEntry) (hv : v ∈ s.hm.list ++ s.hm.line) (hvy : v.id = y.id) : v = y :=
      List.inj_on_of_nodup_map hfresh.2.1.1 hv (List.mem_append_left _ hy) hvy
    have hline (v : HoldEntry) (hv : v ∈ s.hm.line) : v.id ≠ y.id := by
      intro hvy
      have hd := hfresh.2.1.1
      rw [List.map_append, List.nodup_append] at hd
      exact hd.2.2 _ (List.mem_map_of_mem hy) _ (List.mem_map_of_mem hv) hvy.symm
    obtain ⟨v, hv, hvw⟩ : ∃ v ∈ s.hm.list, v.Carried w := by
      rcases hcarry.listed w hw with ⟨a, ha, haw⟩ | ⟨a, ha, haw⟩
      · obtain ⟨b, hb, hba⟩ := h.lined a ha
        exact absurd (by rw [← hba, ← haw, hwz, hid]) (hline b hb)
      · rcases h.listed a ha with ⟨b, hb, hba⟩ | ⟨b, hb, hba⟩
        · exact absurd (by rw [← hba, ← haw.1.1, hwz, hid]) (hline b hb)
        · exact ⟨b, hb, hba.trans haw⟩
    obtain rfl := hone v (List.mem_append_left _ hv) (by rw [← hvw.1.1, hwz, hid])
    obtain ⟨⟨hwid, hws, hwc, hwm⟩, hwr⟩ := hvw
    obtain ⟨hstate, hrevs⟩ := hwr hr
    have hadapter : u.hp.adapter = s.hp.adapter := by rw [← h.adapter, ← hu]; simp
    have := State.holdRevolution_refused hq hw hstate hz hwz.symm
    rwa [hrevs, hwid, hws, hwc, hwm, hadapter] at this

/-- Settles O31: the revolution event of every kind of slot event that makes one. -/
theorem revolutionEventCounts : Obligations.RevolutionEventCounts := by
  unfold Obligations.RevolutionEventCounts
  intro o q c s hc hfresh
  suffices h : ∃ x, exec c s = .next x.revolutionEvent ∧ ToCount s x by
    obtain ⟨x, hx, hcount⟩ := h
    exact ⟨_, hx, hcount.revolutionEvent hfresh⟩
  generalize hu : s.begin.onLu (fun l => l.pulse o.sending) = u
  have hsame : u.hm = s.hm ∧ u.tm = s.tm ∧ u.wq = s.wq ∧ u.hp = s.hp ∧ u.rdm = s.rdm := by
    rw [← hu]; exact ⟨rfl, rfl, rfl, rfl, rfl⟩
  obtain ⟨hhm, htm, hwq, hhp, hrdm⟩ := hsame
  rcases hc with ⟨rfl, hlate⟩ | ⟨rfl, hlate, hrev⟩ | ⟨rfl, hrev⟩
  · have hindex : ToCount s (u.onRdm fun m => { m.pulse.index with revCount := 0 }) :=
      .of_eq hfresh hhm htm hwq (by simp [hhp]) rfl fun hd => by
        simp [hrdm, Monitor.index_frame, Monitor.pulse_frame, hd]
    by_cases hl : 0 < s.rdm.lateLeft
    · have hsub : s.rdm.lateSubstitute = false := hlate.resolve_left (by omega)
      refine ⟨_, ?_, hindex⟩
      subst hu
      exact congrArg Host.Outcome.next ((if_pos hl).trans (if_neg (by simp [State.begin, hsub])))
    · refine ⟨(if u.rdm.completes then (u.onRdm fun m => { m.pulse.index with revCount := 0 }).driveUp
        else u.onRdm fun m => { m.pulse.index with revCount := 0 }).slotEvent false o.orderFirst, ?_, ?_⟩
      · subst hu
        exact congrArg Host.Outcome.next (if_neg hl)
      · refine ToCount.slotEvent ?_ _ _
        split
        · rename_i hup
          have hnd : s.rdm.drive ≠ .down := fun hd => by simp [Monitor.completes, hrdm, hd] at hup
          exact .of_eq hfresh (by simp [hhm]) (by simp [htm]) (by simp [hwq]) (by simp [hhp]) (by simp)
            fun hd => absurd hd hnd
        · exact hindex
  · have hcounted : ToCount s (u.onRdm fun m => m.pulse.advance.countSlot) := by
      have hle : Config.slots ≤ s.rdm.pulse.advance.revCount + 1 := by
        simp only [Monitor.advance_frame, Monitor.pulse_frame, Config.slots]
        omega
      refine .of_eq hfresh hhm htm hwq (by simp [hhp]) ?_ fun hd => ?_
      · simp [hrdm, Monitor.countSlot, Nat.not_lt.mpr hle]
      · simp [hrdm, Monitor.countSlot, Monitor.advance_frame, Monitor.pulse_frame, hd]
    refine ⟨_, ?_, hcounted.slotEvent false o.orderFirst⟩
    have hsub : s.rdm.substitutes = true := by simp [Monitor.substitutes, Config.slots]; omega
    subst hu
    exact congrArg Host.Outcome.next ((if_neg (by simp [State.begin, hlate])).trans (if_pos hsub))
  · have hle : Config.slots ≤ s.rdm.advance.revCount + 1 := by
      simp only [Monitor.advance_frame, Config.slots]
      omega
    have hcounted : ToCount s (s.begin.onRdm Monitor.synthetic) := by
      refine .of_eq hfresh rfl rfl rfl rfl ?_ fun hd => ?_
      · simp [Monitor.synthetic, Monitor.countSlot, Nat.not_lt.mpr hle]
      · simp [Monitor.synthetic, Monitor.countSlot, Monitor.advance_frame, hd]
    refine ⟨(if s.rdm.losesSpindle then (s.begin.onRdm Monitor.synthetic).driveDown
      else s.begin.onRdm Monitor.synthetic).slotEvent true q, ?_, ToCount.slotEvent ?_ _ _⟩
    · have hsub : s.rdm.substitutes = true := by simp [Monitor.substitutes, Config.slots]; omega
      exact congrArg Host.Outcome.next (if_pos hsub)
    · split
      · rename_i hlose
        have hnd : s.rdm.drive ≠ .down := by
          simp only [Monitor.losesSpindle, Bool.and_eq_true, bne_iff_ne] at hlose
          exact hlose.2
        exact hcounted.driveDown hnd
          (by simpa [Monitor.synthetic, Monitor.countSlot, Monitor.advance_frame] using hnd) rfl
      · exact hcounted

end Sys2Proof.Machine
end


section
/-! What frames the acts that shed work may bring: a FREE or a CLAIM of the Hold Manager, and none else. -/

namespace Sys2Proof.Machine

open Sys2Proof

-- One proof at a time: proofs elaborated together wait for one another on threads of their own, which the check's
-- memory limit counts.
set_option Elab.async false

/-- No pending frame that `p` picks has come. -/
def NoNew (p : FrameBody → Bool) (s t : State) : Prop := ∀ f ∈ t.lu.frames, p f.body = true → f ∈ s.lu.frames

/-- `p` picks no notice of the Hold Manager. -/
def SparesHolds (p : FrameBody → Bool) : Prop :=
  (∀ start count written, p (.free start count written) = false) ∧
    ∀ id start count mode, p (.claim id start count mode) = false

theorem sparesHolds_isTenure : SparesHolds FrameBody.isTenure := ⟨fun _ _ _ => rfl, fun _ _ _ _ => rfl⟩
theorem sparesHolds_isTransfer : SparesHolds FrameBody.isTransfer := ⟨fun _ _ _ => rfl, fun _ _ _ _ => rfl⟩
theorem sparesHolds_isOrder : SparesHolds FrameBody.isOrder := ⟨fun _ _ _ => rfl, fun _ _ _ _ => rfl⟩
theorem sparesHolds_isPreempt : SparesHolds FrameBody.isPreempt := ⟨fun _ _ _ => rfl, fun _ _ _ _ => rfl⟩
theorem sparesHolds_isRelease : SparesHolds FrameBody.isRelease := ⟨fun _ _ _ => rfl, fun _ _ _ _ => rfl⟩

section
variable {p : FrameBody → Bool}

theorem NoNew.of_frames {s t : State} (h : t.lu.frames = s.lu.frames) : NoNew p s t := fun _ hf _ => h ▸ hf

theorem NoNew.refl (s : State) : NoNew p s s := .of_frames rfl

theorem NoNew.trans {s t u : State} (h : NoNew p s t) (k : NoNew p t u) : NoNew p s u :=
  fun f hf hp => h f (k f hf hp) hp

theorem NoNew.foldl {β : Type} {f : State → β → State} (h : ∀ s b, NoNew p s (f s b)) (l : List β) (s : State) :
    NoNew p s (l.foldl f s) := by
  induction l generalizing s with
  | nil => exact .refl s
  | cons b l ih => exact (h s b).trans (ih _)

/-- Where none stood before, none stands after. -/
theorem NoNew.none {s t : State} (h : NoNew p s t) (hs : ∀ f ∈ s.lu.frames, p f.body = false) :
    ∀ f ∈ t.lu.frames, p f.body = false := by
  intro f hf
  by_contra hp
  have := hs f (h f hf (by simpa using hp))
  simp_all

theorem State.withdraw_noNew (s : State) (q : FrameBody → Bool) : NoNew p s (s.withdraw q) :=
  fun _ hf _ => List.mem_of_mem_filter hf

theorem State.withdraw_none (s : State) (q : FrameBody → Bool) : ∀ f ∈ (s.withdraw q).lu.frames, q f.body = false := by
  intro f hf
  have := (List.mem_filter.mp hf).2
  simpa using this

theorem State.offer_noNew (s : State) {b : FrameBody} (hb : p b = false) : NoNew p s (s.offer b) := by
  simp only [State.offer]
  split
  · exact .refl s
  · intro f hf hp
    rcases List.mem_append.mp hf with hf | hf
    · exact hf
    · obtain rfl := List.mem_singleton.mp hf
      simp [hb] at hp

theorem State.completeHold_noNew (s : State) (e : HoldEntry) (st : Status) (f : Option ElementFault) (b : Bool) :
    NoNew p s (s.completeHold e st f b) := .of_frames (by simp)

theorem State.completeUnhold_noNew (s : State) (e : HoldEntry) : NoNew p s (s.completeUnhold e) := .of_frames (by simp)

theorem State.joinList_noNew (hp : SparesHolds p) (s : State) (e : HoldEntry) : NoNew p s (s.joinList e) := by
  have hjoin : NoNew p s (s.onHm fun h => { h with list := h.list ++ [{ e with state := .claiming }] }) := .of_frames rfl
  have hheld (u : State) (silent : Bool) : NoNew p u (u.becomeHeld e.id silent) := .of_frames (by simp)
  have hclaim (u : State) : NoNew p u (u.offer e.claim) := u.offer_noNew (hp.2 _ _ _ _)
  grind only [State.joinList, NoNew.trans]

theorem State.recheckLine_noNew (hp : SparesHolds p) (s : State) : NoNew p s s.recheckLine := by
  refine NoNew.foldl (fun u e => ?_) _ s
  have hout : NoNew p u (u.onHm fun h => { h with line := h.line.filter fun x => x.id != e.id }) := .of_frames rfl
  simp only [State.recheckEntry]
  split
  · exact .refl u
  · exact hout.trans (State.joinList_noNew hp _ _)

theorem State.removeEntry_noNew (hp : SparesHolds p) (s : State) (e : HoldEntry) : NoNew p s (s.removeEntry e) := by
  have hgone : NoNew p s (s.onHm fun h => { h with
      list := h.list.filter fun x => x.id != e.id
      line := h.line.filter fun x => x.id != e.id }) := .of_frames rfl
  have hfree (u : State) : NoNew p u (u.offer e.free) := u.offer_noNew (hp.1 _ _ _)
  have hclaim (u : State) (q : FrameBody → Bool) : NoNew p u (u.withdraw q) := u.withdraw_noNew q
  have hline (u : State) : NoNew p u u.recheckLine := u.recheckLine_noNew hp
  grind only [State.removeEntry, State.settleClaim, NoNew.trans]

theorem State.endReference_noNew (hp : SparesHolds p) (s : State) (id : Nat) : NoNew p s (s.endReference id) := by
  have hrefs : NoNew p s (s.onEntry id fun x => { x with refs := x.refs - 1 }) := .of_frames rfl
  have hremove (u : State) (e : HoldEntry) : NoNew p u (u.removeEntry e) := u.removeEntry_noNew hp e
  have hunhold (u : State) (e : HoldEntry) : NoNew p u (u.completeUnhold e) := u.completeUnhold_noNew e
  grind only [State.endReference, NoNew.refl, NoNew.trans]

theorem State.leaveQueue_noNew (hp : SparesHolds p) (s : State) (r : Request) (st : Status) (f : Option ElementFault)
    (m b : Bool) : NoNew p s (s.leaveQueue r st f m b) := by
  have hask (c : Completion) : NoNew p s (s.completeAfterData r.id c) := .of_frames (by simp)
  have hhold {u : State} (id : Nat) (hu : NoNew p s u) : NoNew p s (u.endReference id) :=
    hu.trans (u.endReference_noNew hp id)
  have hreturn {u : State} (t : Table) (i rest : Nat) (hu : NoNew p s u) :
      NoNew p s (u.onDescriptor t i fun d => d.returned r.id rest) := hu.trans (.of_frames rfl)
  have hdrop {u : State} (hu : NoNew p s u) : NoNew p s (u.dropRequest r.id) := hu.trans (.of_frames rfl)
  simp only [State.leaveQueue]
  split <;> split
  · exact hdrop (hreturn _ _ _ (hask _))
  · exact hdrop (hreturn _ _ _ (hhold _ (hask _)))
  · exact hdrop (hask _)
  · exact hdrop (hhold _ (hask _))

theorem State.completeRequest_noNew (hp : SparesHolds p) (s : State) (r : Request) (st : Status)
    (f : Option ElementFault) (m : Bool) : NoNew p s (s.completeRequest r st f m) := s.leaveQueue_noNew hp r st f m _

theorem State.idleEngine_noNew (s : State) : NoNew p s s.idleEngine := by
  refine (s.withdraw_noNew FrameBody.isOrder).trans (.of_frames ?_)
  simp [State.idleEngine]

theorem State.finish_noNew (hp : SparesHolds p) (s : State) (st : Status) (f : Option ElementFault) (m : Bool) :
    NoNew p s (s.finish st f m) := by
  have hleave (u : State) (r : Request) : NoNew p u (u.completeRequest r st f m) := u.completeRequest_noNew hp r st f m
  have hidle (u : State) : NoNew p u u.idleEngine := u.idleEngine_noNew
  grind only [State.finish, NoNew.trans]

theorem State.handBack_noNew (hp : SparesHolds p) (s : State) (q : Request → RequestState) :
    NoNew p s (s.handBack q) := by
  have hstate (id : Nat) : NoNew p s (s.onRequest id fun x => { x with state := q x }) := .of_frames rfl
  have hfinish : NoNew p s (s.finish .aborted none false) := s.finish_noNew hp _ _ _
  have hidle (u : State) : NoNew p u u.idleEngine := u.idleEngine_noNew
  grind only [State.handBack, NoNew.trans]

theorem State.suspend_noNew (hp : SparesHolds p) (s : State) : NoNew p s s.suspend := s.handBack_noNew hp _

theorem State.suspendAfterExchange_noNew (hp : SparesHolds p) (s : State) : NoNew p s s.suspendAfterExchange := by
  have hmark : NoNew p s (s.onTe fun t => { t with suspendAfter := true }) := .of_frames rfl
  have hsuspend := s.suspend_noNew hp
  grind only [State.suspendAfterExchange, NoNew.refl]

theorem State.offerRelease_noNew (hp : p .release = false) (s : State) : NoNew p s s.offerRelease := by
  have hrel := s.offer_noNew hp
  grind only [State.offerRelease, State.offerReleaseOnce, NoNew.refl]

end

end Sys2Proof.Machine
end


section
/-! Thresholds of the engine and of the tenures (R96, R105, R135, R136). -/

namespace Sys2Proof.Machine

open Sys2Proof

/-- A suspension whose engine is followed up has ended as the suspension of the record at hand. -/
theorem SuspendedAs.of_changed {s u t : State} {r v : Request} (h : SuspendedAs u t v v)
    (hid : v.id = r.id) (hmay : u.mayNotReturn v = s.mayNotReturn r)
    (hids : u.wq.records.map Request.id = s.wq.records.map Request.id) : SuspendedAs s t r v := by
  rw [SuspendedAs, hmay] at h
  rw [SuspendedAs]
  split
  case isTrue hm => simpa only [if_pos hm, hid] using h
  case isFalse hm =>
    rw [if_neg hm] at h
    obtain ⟨hback, hsub, hfree⟩ := h
    exact ⟨hback, hids ▸ hsub, hfree⟩

/-- A record of the engine changed at its place is still the engine's. -/
theorem State.onRequest_activeRequest {s : State} {r : Request} (ha : s.activeRequest = some r) {f : Request → Request}
    (hf : ∀ x, (f x).id = x.id) : (s.onRequest r.id f).activeRequest = some (f r) := by
  obtain ⟨_, hreq⟩ := State.activeRequest_mem ha
  simp only [State.activeRequest, hreq] at ha
  have hsame : ((fun q : Request => q.id == r.id) ∘ fun x => if x.id == r.id then f x else x) =
      fun q => q.id == r.id := by
    funext x
    simp only [Function.comp_apply]
    split <;> simp [hf]
  simp only [State.activeRequest, State.onRequest_frame, hreq]
  simp only [State.onRequest, State.onWq_wq, WorkQueue.find, WorkQueue.modify, List.find?_map, hsame]
  rw [show s.wq.records.find? _ = some r from ha]
  simp

/-! A suspension that is taken. -/

/-- A cause of suspension taken, and a RELEASE perhaps offered after it (R97, R136, R137). -/
theorem State.suspensionTaken_offerRelease {s u : State} {r : Request} (ha : s.activeRequest = some r)
    (hte : u.te = s.te) (hwq : u.wq = s.wq) (hchains : u.chains = s.chains) (hadapter : u.hp.adapter = s.hp.adapter)
    (hx : u.exchangeInProgress = s.exchangeInProgress) :
    SuspensionTaken s u.suspendAfterExchange.offerRelease r ∧
      (r.state = .active → s.exchangeInProgress = false →
        u.suspendAfterExchange.offerRelease.te.phase = .idle ∧
        (s.mayNotReturn r = false → { r with state := .ready } ∈ u.suspendAfterExchange.offerRelease.wq.records)) := by
  have hau : u.activeRequest = some r := by simpa only [State.activeRequest, hte, hwq] using ha
  have hmay : u.mayNotReturn r = s.mayNotReturn r := by
    simp only [State.mayNotReturn, State.chain, hte, hchains, hadapter]
  have hr := (State.activeRequest_mem hau).1
  -- the suspension at once
  have hnow (hs : r.state = .active) (hp : s.exchangeInProgress = false) : u.suspendAfterExchange = u.suspend := by
    simp [State.suspendAfterExchange, hau, hs, hx, hp]
  have hfree (hf : EngineFree u.suspend) : u.suspend.offerRelease.te.request = none ∧
      u.suspend.offerRelease.te.phase = .idle ∧ ∀ f ∈ u.suspend.offerRelease.lu.frames, f.body.isOrder = false := by
    refine ⟨by simpa using hf.1, by simpa using hf.2.1, fun f hmem => ?_⟩
    rcases State.offerRelease_frames _ f hmem with h | h
    · exact hf.2.2 f h
    · simp [h, FrameBody.isOrder]
  refine ⟨⟨fun hs hp => ?_, fun hs hp => ?_, fun hs => ?_⟩, fun hs hp => ?_⟩
  · rw [hnow hs hp]
    simp only [SuspendedAs]
    split
    · rename_i hm
      have h : u.suspend = u.finish .aborted none false := by simp [State.suspend, State.handBack, hau, hmay, hm]
      obtain ⟨_, h1, h2, _⟩ := State.finish_leaves hau .aborted none false
      rw [h]
      exact ⟨(State.offerRelease_sheds _).asked h1, (State.offerRelease_sheds _).left h2⟩
    · rename_i hm
      obtain ⟨hf, hids, hback⟩ := u.suspend_request hau (by rw [hmay]; simpa using hm)
      obtain ⟨hreq, hphase, horders⟩ := hfree hf
      exact ⟨⟨_, by simpa using hback, .inl ⟨rfl, by rw [hreq]; simp⟩, rfl⟩, by simp [hids, hwq], fun _ => ⟨hphase, horders⟩⟩
  · have h : u.suspendAfterExchange = u.onTe fun t => { t with suspendAfter := true } := by
      simp [State.suspendAfterExchange, hau, hs, hx, hp]
    rw [h]
    exact ⟨by simp [hte], by simpa using hr⟩
  · have h : u.suspendAfterExchange = u := by simp [State.suspendAfterExchange, hau, hs]
    rw [h]
    exact ⟨by simp [hte], by simpa using hr⟩
  · rw [hnow hs hp]
    have hf : EngineFree u.suspend := by
      rcases u.handBack_cases fun _ => .ready with ⟨h, _⟩ | ⟨q, hq, ⟨_, h⟩ | ⟨_, h⟩⟩ <;> rw [State.suspend, h]
      · exact State.idleEngine_free _
      · exact (State.finish_leaves hq _ _ _).2.2.2
      · exact State.idleEngine_free _
    refine ⟨(hfree hf).2.1, fun hm => ?_⟩
    simpa using (u.suspend_request hau (by rw [hmay, hm])).2.2

/-! The tenures. -/

/-- The own tenure HOLDING with one revolution left (R135, R136). -/
theorem State.ownRevolution_last {s : State} {c : Nat} (h : s.tm.own = .holding c 1) :
    s.ownRevolution =
      ((s.setOwn (.ending c 0)).withdraw FrameBody.isTenure).suspendAfterExchange.offerRelease := by
  simp [State.ownRevolution, h, State.endTenure, State.setOwn, State.onTm]

/-- The review of the queue when no peer record stands (R79). -/
theorem State.reviewed_of_no_peer {s : State} (h : s.tm.peer = none) (r : Request) :
    s.reviewed r = if r.state = .blocked then { r with state := .ready } else r := by
  simp only [State.reviewed, h]
  cases hs : r.state <;> simp

/-- The peer record, with what goes with it (R135). -/
theorem State.peerGone_eq {s : State} {p : PeerTenure} (h : s.tm.peer = some p) : s.peerGone = { s with
    tm := { s.tm with peer := none, preemptMark := false }
    lu := { s.lu with frames := s.lu.frames.filter fun f => !f.body.isPreempt }
    wq := { s.wq with
      records := s.wq.records.map fun r => if r.state = .blocked then { r with state := .ready } else r } } := by
  simp only [State.peerGone, h, Option.isNone_some, Bool.false_eq_true, if_false, State.review,
    State.reviewed_of_no_peer (s := (s.onTm fun t => { t with peer := none, preemptMark := false }).withdraw
      FrameBody.isPreempt) rfl]
  rfl

/-- Settles O35: the seek timeout as a displacement, and the tenures that run out. -/
theorem seekTimeoutAndTenureExpiry : Obligations.SeekTimeoutAndTenureExpiry := by
  unfold Obligations.SeekTimeoutAndTenureExpiry
  constructor
  · intro r s hp hset ha hs hsus hsil hq
    generalize hu : s.begin.onTe (fun t => { t with settle := Config.settleLimit }) = u
    have hau : u.activeRequest = some r := by rw [← hu]; exact ha
    have hexec : exec .seekTimeout s = .next (u.displace State.offerSense) := by
      subst hu
      exact congrArg Host.Outcome.next (if_pos ⟨hp, by rw [show s.begin.te.settle = 63 from hset]⟩)
    have hcase : r.displacements < 3 → u.displace State.offerSense =
        if u.tm.own.isHolding then
          (u.onRequest r.id fun x => { x with displacements := x.displacements + 1 }).goOn State.offerSense
        else (u.onRequest r.id fun x => { x with displacements := x.displacements + 1 }).suspend.engineIdled := by
      intro h3
      rcases u.displace_cases State.offerSense with ⟨_, hn⟩ | ⟨q, hq, h | ⟨_, h⟩⟩
      · simp [hau] at hn
      all_goals obtain rfl : r = q := by simpa [hau] using hq
      · omega
      · simpa using h
    refine ⟨fun h3 => ⟨_, hexec, ?_⟩, fun h3 hown => ?_, fun h3 hown => ⟨_, hexec, ?_⟩⟩
    · have h : u.displace State.offerSense = u.endRequest .fault (some .positionerLost) false := by
        simp [State.displace, hau, Config.displacementLimit, h3]
      obtain ⟨_, hasked, hleft, _⟩ := State.finish_leaves hau .fault (some .positionerLost) false
      have hi := (u.finish .fault (some .positionerLost) false).engineIdled_sheds
      rw [h]
      exact ⟨hi.asked hasked, hi.left hleft⟩
    · rw [hexec, hcase h3, if_pos (by rw [← hu]; exact hown), State.goOn, if_neg (by rw [← hu]; simpa using hsus)]
      subst hu
      simp [State.offerSense, State.setPhase, State.offer, State.onTe, State.onLu, State.onRequest, State.onWq,
        State.begin, hsil, Config.settleLimit]
    · rw [hcase h3, if_neg (by rw [← hu]; simpa using hown)]
      have hav := State.onRequest_activeRequest hau (f := fun x => { x with displacements := x.displacements + 1 })
        fun _ => rfl
      have hids : (u.onRequest r.id fun x => { x with displacements := x.displacements + 1 }).wq.records.map Request.id =
          s.wq.records.map Request.id := by
        rw [← hu]
        exact WorkQueue.modify_ids _ _ fun _ => rfl
      refine (State.suspend_engineIdled (by rwa [hids]) hav).of_changed rfl ?_ hids
      rw [← hu]
      rfl
  · intro s
    refine ⟨fun c hown => ?_, fun p hpeer hrev => ?_⟩
    · have hexec : exec .ownTenureExpiry s = .next s.begin.ownRevolution := by
        simp [exec, execOwnTenureExpiry, hown]
      have hbegin : s.begin.tm.own = .holding c 1 := hown
      refine ⟨_, hexec, ?_⟩
      rw [State.ownRevolution_last hbegin]
      generalize hu : (s.begin.setOwn (.ending c 0)).withdraw FrameBody.isTenure = u
      have hlu : u.lu.exchange = s.lu.exchange := by rw [← hu]; rfl
      have hte : u.te = s.te := by rw [← hu]; rfl
      refine ⟨by rw [← hu]; simp [State.setOwn], State.offerRelease_stands _, ?_, by rw [← hu]; simp, by rw [← hu]; simp,
        fun r ha => ?_⟩
      · refine ((u.suspendAfterExchange_noNew sparesHolds_isTenure).trans (State.offerRelease_noNew rfl _)).none ?_
        rw [← hu]
        exact State.withdraw_none _ _
      · refine State.suspensionTaken_offerRelease ha hte (by rw [← hu]; rfl) (by rw [← hu]; rfl) (by rw [← hu]; rfl) ?_
        simp only [State.exchangeInProgress, hlu, hte]
    · have hbegin : s.begin.tm.peer = some p := hpeer
      have hexec : exec .peerTenureExpiry s = .next s.begin.peerGone := by
        simp [exec, execPeerTenureExpiry, hpeer, hrev]
      rw [hexec, State.peerGone_eq hbegin]
      rfl

end Sys2Proof.Machine
end


section
/-! Budgets that run out (R75 to R77, R153, R160). -/

namespace Sys2Proof.Machine

open Sys2Proof

/-- The record of a name changed at its place (R66). -/
theorem WorkQueue.modify_eq_set {q : WorkQueue} {i : Nat} {r : Request} (hq : (q.records.map Request.id).Nodup)
    (hr : q.records[i]? = some r) (f : Request → Request) :
    q.modify r.id f = { q with records := q.records.set i (f r) } := by
  simp only [WorkQueue.modify, WorkQueue.mk.injEq, and_true]
  obtain ⟨hi, rfl⟩ := List.getElem?_eq_some_iff.mp hr
  refine List.ext_getElem (by simp) fun k hk _ => ?_
  rw [List.length_map] at hk
  rw [List.getElem_map, List.getElem_set]
  by_cases h : i = k
  · subst h
    simp
  · have hne : q.records[k].id ≠ q.records[i].id := fun he => h
      ((hq.getElem_inj_iff (hi := by simpa using hi) (hj := by simpa using hk)).mp (by simpa using he.symm))
    simp [h, hne]

/-! The engine after its request has left. -/

theorem State.handBack_request (s : State) (q : Request → RequestState) : (s.handBack q).te.request = none := by
  rcases s.handBack_cases q with ⟨h, _⟩ | ⟨r, hr, ⟨_, h⟩ | ⟨_, h⟩⟩ <;> rw [h]
  · exact (State.idleEngine_free _).1
  · exact (State.finish_leaves hr _ _ _).2.2.2.1
  · exact (State.idleEngine_free _).1

/-- Positioning leaves the engine on its request, or suspends it. -/
theorem State.position_request (s : State) : s.position.te.request = s.te.request ∨ s.position.te.request = none := by
  simp only [State.position]
  split
  · exact .inl rfl
  · rename_i r _
    rcases (s.onTe fun t => { t with sector := r.done, target := s.nextTarget r }).positionAt_cases with h | ⟨_, h, _⟩
    · rw [h]; exact .inr (State.handBack_request _ _)
    · exact .inl h

theorem State.endTenure_request (s : State) : s.endTenure.te.request = s.te.request ∨ s.endTenure.te.request = none := by
  have hsuspend (u : State) :
      u.suspendAfterExchange.te.request = u.te.request ∨ u.suspendAfterExchange.te.request = none := by
    simp only [State.suspendAfterExchange]
    (repeat' split)
    · exact .inl rfl
    · exact .inl rfl
    · exact .inl rfl
    · exact .inr (State.handBack_request _ _)
  simp only [State.endTenure]
  split
  · simpa using hsuspend ((s.setOwn _).withdraw FrameBody.isTenure)
  · exact .inl rfl

/-- What an engine gone IDLE works on next stands in the queue (R82). -/
theorem State.engineIdled_request {s : State} (h : s.te.request = none) {id : Nat}
    (hid : s.engineIdled.te.request = some id) : ∃ r ∈ s.wq.records, r.id = id := by
  have hselect : s.select.te.request = some id := by
    simp only [State.engineIdled, State.offerRelease_frame, State.idleTenureTest] at hid
    split at hid
    · rcases s.select.endTenure_request with he | he <;> rw [he] at hid
      · exact hid
      · cases hid
    · exact hid
  rcases s.select_cases with ⟨hs, _⟩ | ⟨_, ⟨hs, _⟩ | ⟨q, hc, hs⟩⟩ <;> rw [hs] at hselect
  · simp [h] at hselect
  · simp [h] at hselect
  · have hq : q.id = id := by
      simp only [State.takeRequest] at hselect
      rcases State.position_request _ with he | he <;> rw [he] at hselect
      · simpa [State.loadAhead_te] using hselect
      · cases hselect
    have hmem := List.mem_map_of_mem (f := Request.id) (State.choice_mem hc).1
    rw [s.formEligible_ids] at hmem
    obtain ⟨r, hr, hrq⟩ := List.mem_map.mp hmem
    exact ⟨r, hr, hrq.trans hq⟩

/-! The last slot of a request's budget. -/

/-- The record of the last slot is taken by its place and its state. -/
theorem State.expiringAt_eq {s : State} {i : Nat} {r : Request} (hr : s.wq.records[i]? = some r)
    (hb : r.budget = some 1) (p : Request → Bool) : s.expiringAt i p = if p r then some r else none := by
  simp [State.expiringAt, hr, hb]

theorem State.expiringAt_none {s : State} {i : Nat} (h : ∀ r, s.wq.records[i]? = some r → r.budget ≠ some 1)
    (p : Request → Bool) : s.expiringAt i p = none := by
  simp only [State.expiringAt]
  split
  · rfl
  · rename_i r hr
    simp [h r hr]

theorem exec_requestExpiry (s : State) (i : Nat) : exec (.requestExpiry i) s =
    .next ((s.begin.expiringAt i fun r => r.state != .holdWait).elim s.begin s.begin.lastSlot) := by
  simp only [exec, execRequestExpiry]
  cases s.begin.expiringAt i fun r => r.state != .holdWait <;> rfl

theorem exec_holdWaitExpiry (s : State) (i : Nat) : exec (.holdWaitExpiry i) s =
    .next ((s.begin.expiringAt i fun r => r.state == .holdWait).elim s.begin s.begin.lastSlot) := by
  simp only [exec, execHoldWaitExpiry]
  cases s.begin.expiringAt i fun r => r.state == .holdWait <;> rfl

/-- The record whose budget has been counted to 0 (R73). -/
theorem State.find_spent {s : State} {r : Request} (hq : (s.wq.records.map Request.id).Nodup) (hr : r ∈ s.wq.records) :
    (s.onRequest r.id fun x => { x with budget := some 0 }).wq.find r.id = some { r with budget := some 0 } := by
  have hmem := WorkQueue.mem_modify (q := s.wq) (fun x : Request => { x with budget := some 0 }) hr
  refine WorkQueue.find_of_mem (r := { r with budget := some 0 }) ?_ hmem
  rw [State.onRequest, State.onWq_wq, WorkQueue.modify_ids _ _ (by simp)]
  exact hq

/-- An act that leaves the engine's phase is not followed up. -/
theorem State.following_of_phase {s : State} {act : State → State} (h : (act s).te.phase = s.te.phase) :
    s.following act = act s := by
  rcases s.following_cases act with ⟨_, hp, hq⟩ | ⟨hf, _⟩
  · exact absurd (h ▸ hq) hp
  · exact hf

/-- A request in HOLD-WAIT leaves EXPIRED with its last slot (R77). -/
theorem State.lastSlot_waited {s : State} {r : Request} (hq : (s.wq.records.map Request.id).Nodup)
    (hr : r ∈ s.wq.records) (hs : r.state = .holdWait) :
    CompletionAsked (s.lastSlot r) r .expired none ∧ Left (s.lastSlot r) r.id := by
  have hexpire : (s.onRequest r.id fun x => { x with budget := some 0 }).expire (r.state == .holdWait) r.id =
      (s.onRequest r.id fun x => { x with budget := some 0 }).leaveQueue { r with budget := some 0 } .expired none false
        false := by
    simp [State.expire, State.find_spent hq hr, hs]
  obtain ⟨_, hasked, t, _, hl⟩ := (s.onRequest r.id fun x => { x with budget := some 0 }).leaveQueue_leaves
    { r with budget := some 0 } .expired none false false
  rw [State.lastSlot, State.following_of_phase (by rw [hexpire]; simp), hexpire]
  refine ⟨hasked, fun q hmem => ?_⟩
  rw [hl] at hmem
  simpa using (List.mem_filter.mp hmem).2

/-- A request started, ENDING or CARRY ON stays LATE (R75, R76). -/
theorem State.lastSlot_late {s : State} {r : Request} (hq : (s.wq.records.map Request.id).Nodup)
    (hr : r ∈ s.wq.records) (hs : r.state ≠ .holdWait)
    (hk : r.started = true ∨ r.state = .ending ∨ r.lateAction = .carryOn) :
    s.lastSlot r = s.onRequest r.id fun x => { x with budget := some 0, late := true } := by
  have hexpire : (s.onRequest r.id fun x => { x with budget := some 0 }).expire (r.state == .holdWait) r.id =
      (s.onRequest r.id fun x => { x with budget := some 0 }).onRequest r.id fun x => { x with late := true } := by
    rw [State.expire, State.find_spent hq hr]
    simp only [beq_eq_false_iff_ne.mpr hs, Bool.false_eq_true, if_false]
    exact if_pos hk
  rw [State.lastSlot, State.following_of_phase (by rw [hexpire]; simp), hexpire]
  simp only [State.onRequest, State.onWq, WorkQueue.modify, List.map_map]
  congr 2
  refine List.map_congr_left fun x _ => ?_
  simp only [Function.comp_apply]
  by_cases hx : x.id = r.id <;> simp [hx]

/-- Any other request leaves EXPIRED, the engine too (R75, R76). -/
theorem State.lastSlot_dropped {s : State} {r : Request} (hq : (s.wq.records.map Request.id).Nodup)
    (hr : r ∈ s.wq.records) (hs : r.state ≠ .holdWait)
    (hk : ¬ (r.started = true ∨ r.state = .ending ∨ r.lateAction = .carryOn)) :
    CompletionAsked (s.lastSlot r) r .expired none ∧ Left (s.lastSlot r) r.id ∧
      (r.state = .active → (s.lastSlot r).te.request ≠ some r.id) := by
  generalize hu : s.onRequest r.id (fun x => { x with budget := some 0 }) = u
  generalize hv : u.completeRequest { r with budget := some 0 } .expired none false = v
  have hexpire : u.expire (r.state == .holdWait) r.id = if r.state = .active then v.idleEngine else v := by
    rw [← hv, ← hu, State.expire, State.find_spent hq hr]
    simp only [beq_eq_false_iff_ne.mpr hs, Bool.false_eq_true, if_false]
    rw [if_neg (by exact hk)]
  obtain ⟨_, hasked, t, _, hl⟩ := u.leaveQueue_leaves { r with budget := some 0 } .expired none false
    (u.hm.peerSilent r.hold)
  rw [show u.leaveQueue _ _ _ _ _ = v from hv] at hasked hl
  have hleft : Left v r.id := fun q hmem => by
    rw [hl] at hmem
    simpa using (List.mem_filter.mp hmem).2
  have hlast : s.lastSlot r = u.following fun s => s.expire (r.state == .holdWait) r.id := by rw [State.lastSlot, hu]
  rw [hlast]
  rcases u.following_cases fun s => s.expire (r.state == .holdWait) r.id with ⟨hf, _⟩ | ⟨hf, _⟩ <;>
    rw [hf, hexpire] <;> split
  · have hsheds := v.idleEngine_sheds.trans v.idleEngine.engineIdled_sheds
    refine ⟨hsheds.asked hasked, hsheds.left hleft, fun _ hreq => ?_⟩
    obtain ⟨q, hmem, hid⟩ := State.engineIdled_request v.idleEngine_free.1 hreq
    exact v.idleEngine_sheds.left hleft q hmem hid
  · have hsheds := v.engineIdled_sheds
    exact ⟨hsheds.asked hasked, hsheds.left hleft, fun h => absurd h ‹_›⟩
  · have hsheds := v.idleEngine_sheds
    exact ⟨hsheds.asked hasked, hsheds.left hleft, fun _ => by simp [v.idleEngine_free.1]⟩
  · exact ⟨hasked, hleft, fun h => absurd h ‹_›⟩

/-! The last slot of an entry's budget. -/

/-- The entry of a name changed, as it is found again. -/
theorem HoldManager.find_modify {h : HoldManager} {y : HoldEntry} (hq : ((h.list ++ h.line).map HoldEntry.id).Nodup)
    (hy : y ∈ h.list ++ h.line) {f : HoldEntry → HoldEntry} (hf : ∀ e, (f e).id = e.id) :
    (h.modify y.id f).find y.id = some (f y) := by
  have hsame : ((fun e : HoldEntry => e.id == y.id) ∘ fun e => if e.id == y.id then f e else e) =
      fun e => e.id == y.id := by
    funext e
    simp only [Function.comp_apply]
    split <;> simp [hf]
  simp only [HoldManager.find, HoldManager.modify, ← List.map_append, List.find?_map, hsame]
  rw [show (h.list ++ h.line).find? _ = some y from HoldManager.find_of_mem hq hy]
  simp

/-- The HOLD of an entry that ends EXPIRED: L set, F clear, and the reason hold waiting ended with it (R50, R160). -/
theorem State.completeHold_expired {s : State} {e : HoldEntry} {h : ElemInfo × Table × Nat} (hh : e.holdElem = some h) :
    ∃ c ∈ asked (s.completeHold e .expired none false), c.info = h.1 ∧ c.status = .expired ∧ c.fault = none ∧
      c.done = 0 ∧ c.bits.l = true ∧ c.bits.f = false ∧ c.endsHoldWait = true := by
  obtain ⟨i, x, n⟩ := h
  simp only [State.completeHold, hh]
  exact ⟨_, mem_asked_complete _ _, rfl, rfl, rfl, rfl, rfl, rfl, rfl⟩

/-- An entry removed leaves no entry of its name, and its FREE where it was claimed. -/
theorem EntryRemoved.released {s t : State} {y : HoldEntry} (h : EntryRemoved s t y) :
    (∀ z ∈ t.hm.list ++ t.hm.line, z.id ≠ y.id) ∧
      (y.claimed = true → s.hp.adapter ≠ .silenced → ∃ f ∈ t.lu.frames, f.body = .free y.start y.count y.written) := by
  refine ⟨fun z hz => ?_, fun hc hs => ?_⟩
  · rcases List.mem_append.mp hz with hz | hz
    · rcases h.joined z hz with ⟨_, hne⟩ | ⟨w, _, hne, hj⟩
      · exact hne
      · rw [hj.1]; exact hne
    · exact (h.line z hz).2
  · obtain ⟨new, hlu, _⟩ := h.frames
    refine ⟨⟨y.free, 0, 0, false⟩, ?_, rfl⟩
    rw [hlu]
    simp [State.withoutEntry, hc, hs]

/-- The entry at a place with one slot left, its last slot taken (R160). -/
theorem exec_holdBudgetExpiry {s : State} {i : Nat} {y : HoldEntry} (hy : (s.hm.list ++ s.hm.line)[i]? = some y)
    (hs : y.state ≠ .held) (hb : y.budget = some 1) : exec (.holdBudgetExpiry i) s =
      .next ((s.begin.onEntry y.id fun x => { x with budget := some 0 }).expireIfDue y.id) := by
  have hy' : (s.begin.hm.list ++ s.begin.hm.line)[i]? = some y := hy
  simp only [exec, execHoldBudgetExpiry, hy', hs, hb, ne_eq, not_false_eq_true, and_self, if_true]

/-- Settles O34: the last slot of a request's and of an entry's budget, and the fourth refusal revolution. -/
theorem budgetsExpire : Obligations.BudgetsExpire := by
  unfold Obligations.BudgetsExpire
  constructor
  · intro i s hfresh
    have hq : (s.begin.wq.records.map Request.id).Nodup := hfresh.1.1
    refine ⟨fun hb => ⟨?_, ?_⟩, fun r hr hb => ⟨fun hs => ⟨?_, s.begin.lastSlot r, ?_, ?_⟩, fun hs => ⟨?_, ?_⟩⟩⟩
    · rw [exec_requestExpiry, State.expiringAt_none (s := s.begin) hb]; rfl
    · rw [exec_holdWaitExpiry, State.expiringAt_none (s := s.begin) hb]; rfl
    · rw [exec_requestExpiry, State.expiringAt_eq (s := s.begin) hr hb, if_neg (by simp [hs])]; rfl
    · rw [exec_holdWaitExpiry, State.expiringAt_eq (s := s.begin) hr hb, if_pos (by simp [hs])]; rfl
    · obtain ⟨hasked, hleft⟩ := State.lastSlot_waited hq (List.mem_of_getElem? hr) hs
      exact ⟨hasked, hleft, by simp, by simp⟩
    · rw [exec_holdWaitExpiry, State.expiringAt_eq (s := s.begin) hr hb, if_neg (by simp [hs])]; rfl
    · have hexec : exec (.requestExpiry i) s = .next (s.begin.lastSlot r) := by
        rw [exec_requestExpiry, State.expiringAt_eq (s := s.begin) hr hb, if_pos (by simp [hs])]; rfl
      have hmem : r ∈ s.begin.wq.records := List.mem_of_getElem? hr
      split
      · rename_i hk
        rw [hexec]
        simp only [State.lastSlot_late hq hmem hs hk, State.onRequest, State.onWq]
        rw [WorkQueue.modify_eq_set (q := s.begin.wq) hq hr]
        rfl
      · rename_i hk
        obtain ⟨hasked, hleft, hreq⟩ := State.lastSlot_dropped hq hmem hs hk
        exact ⟨_, hexec, by simp, by simp, hasked, hleft, hreq⟩
  · intro i s hfresh hsil
    refine ⟨fun y hy hs hb => ?_, fun y hy hs hrevs => ?_⟩
    · have hmem := List.mem_of_getElem? hy
      generalize hu : s.begin.onEntry y.id (fun x => { x with budget := some 0 }) = u
      have hfind : u.hm.find y.id = some { y with budget := some 0 } := by
        rw [← hu]
        exact HoldManager.find_modify (h := s.hm) hfresh.2.1.1 hmem fun _ => rfl
      have hexec := exec_holdBudgetExpiry hy hs hb
      rw [hu, State.expireIfDue, hfind] at hexec
      refine ⟨fun hk => ?_, fun ho hk => ?_⟩
      · have hstay : ({ y with budget := some 0 } : HoldEntry).mayExpire = false := by
          rcases hk with h | h <;> simp [HoldEntry.mayExpire, h]
        simp only [hstay, Bool.false_eq_true, if_false] at hexec
        rw [hexec, ← hu]
        rfl
      · have hgo : ({ y with budget := some 0 } : HoldEntry).mayExpire = true := by
          rcases hk with h | h <;> simp [HoldEntry.mayExpire, h, ho]
        simp only [hgo, if_true] at hexec
        have hfu : NamesFresh u := by
          rw [← hu]
          exact (s.begin.onEntry_keeps y.id).names hfresh
        have hin : ({ y with budget := some 0 } : HoldEntry) ∈ u.hm.list ++ u.hm.line :=
          List.mem_of_find?_eq_some hfind
        obtain ⟨hgone, hfree⟩ := (State.removeEntry_removes hfu.2.1.1 hin).released
        refine ⟨_, hexec, ?_, fun hc => ?_, fun h hh => ?_, ?_⟩
        · simpa [State.expireEntry] using hgone
        · simpa [State.expireEntry] using hfree hc (by rw [← hu]; exact hsil)
        · exact State.completeHold_expired hh
        · subst hu
          simp [State.expireEntry]
    · have hy' : s.begin.hm.list[i]? = some y := hy
      have hexec : exec (.reclaim i) s = .next (s.begin.reclaimEntry y) := by
        simp only [exec, execReclaim, hy', hs, hrevs, Config.reclaimLimit, and_self, if_true]
      rw [hexec]
      simp [State.reclaimEntry, State.offer, State.onEntry, State.onHm, State.onLu, State.begin, hsil, HoldEntry.claim]

end Sys2Proof.Machine
end


section
/-! Sector buffers (R98, R99). -/

namespace Sys2Proof.Machine

open Sys2Proof

/-! One buffer and the other. -/

@[simp] theorem Engine.buf_setBuf_same (t : Engine) (n : BufferName) (b : SectorBuffer) : (t.setBuf n b).buf n = b := by
  cases n <;> rfl

theorem Engine.buf_setBuf_other (t : Engine) {n m : BufferName} (h : m ≠ n) (b : SectorBuffer) :
    (t.setBuf n b).buf m = t.buf m := by
  cases n <;> cases m <;> first | rfl | exact absurd rfl h

/-- The engine but for its buffers. -/
theorem Engine.setBuf_frame (t : Engine) (n : BufferName) (b : SectorBuffer) :
    (t.setBuf n b).phase = t.phase ∧ (t.setBuf n b).request = t.request ∧ (t.setBuf n b).sector = t.sector ∧
      (t.setBuf n b).target = t.target ∧ (t.setBuf n b).leadOpen = t.leadOpen := by
  cases n <;> exact ⟨rfl, rfl, rfl, rfl, rfl⟩

/-- A buffer is found exactly where one of the two is picked. -/
theorem Engine.findBuf_isSome (t : Engine) (p : SectorBuffer → Bool) {i j : BufferName} (h : i ≠ j) :
    (t.findBuf p).isSome = (p (t.buf i) || p (t.buf j)) := by
  cases i <;> cases j <;> first | exact absurd rfl h | (simp only [Engine.findBuf, Engine.buf]; grind)

/-- With the other buffer not picked, the buffer picked is the one found. -/
theorem Engine.findBuf_of_other (t : Engine) {p : SectorBuffer → Bool} {i j : BufferName} (h : i ≠ j)
    (hj : p (t.buf j) = false) : t.findBuf p = if p (t.buf i) then some i else none := by
  cases i <;> cases j <;> first | exact absurd rfl h | (simp only [Engine.findBuf, Engine.buf] at *; grind)

theorem Engine.findBuf_picks {t : Engine} {p : SectorBuffer → Bool} {n : BufferName} (h : t.findBuf p = some n) :
    p (t.buf n) = true := by
  simp only [Engine.findBuf] at h
  split at h
  · cases h; assumption
  · split at h <;> cases h
    assumption

/-! Loading ahead. -/

/-- What loading ahead for a request may do to one buffer: nothing, or put an EMPTY one to loading for the request. -/
def LoadedAhead (r : Request) (b c : SectorBuffer) : Prop :=
  c = b ∨ b.state = .empty ∧ ∃ k, c = ⟨.loading, k, [], r.id, false⟩

theorem LoadedAhead.trans {r : Request} {b c d : SectorBuffer} (h : LoadedAhead r b c) (k : LoadedAhead r c d) :
    LoadedAhead r b d := by
  rcases h with rfl | ⟨hb, i, rfl⟩
  · exact k
  · rcases k with rfl | ⟨hc, _⟩
    · exact .inr ⟨hb, i, rfl⟩
    · cases hc

theorem State.loadOne_buf (s : State) (r : Request) (n : BufferName) :
    LoadedAhead r (s.te.buf n) ((s.loadOne r).te.buf n) := by
  simp only [State.loadOne]
  split
  · rename_i m k hm _
    by_cases hn : n = m
    · subst hn
      refine .inr ⟨by simpa [SectorBuffer.isEmpty] using Engine.findBuf_picks hm, k, ?_⟩
      simp [State.setBuf]
    · exact .inl (by simpa [State.setBuf] using Engine.buf_setBuf_other _ hn _)
  · exact .inl rfl

/-- The engine but for its buffers, and the two buffers, when it has loaded ahead. -/
theorem State.loadAhead_engine (s : State) :
    s.loadAhead.te.sector = s.te.sector ∧ s.loadAhead.te.leadOpen = s.te.leadOpen ∧
      ∀ n, s.loadAhead.te.buf n = s.te.buf n ∨
        ∃ r, s.activeRequest = some r ∧ LoadedAhead r (s.te.buf n) (s.loadAhead.te.buf n) := by
  have hone (u : State) (r : Request) :
      (u.loadOne r).te.sector = u.te.sector ∧ (u.loadOne r).te.leadOpen = u.te.leadOpen := by
    simp only [State.loadOne]
    split
    · simp [State.setBuf, Engine.setBuf_frame]
    · simp
  simp only [State.loadAhead]
  split
  · exact ⟨rfl, rfl, fun _ => .inl rfl⟩
  · rename_i r ha
    split
    · refine ⟨by rw [(hone _ r).1, (hone _ r).1], by rw [(hone _ r).2, (hone _ r).2], fun n => .inr ⟨r, ha, ?_⟩⟩
      exact (s.loadOne_buf r n).trans ((s.loadOne r).loadOne_buf r n)
    · exact ⟨rfl, rfl, fun _ => .inl rfl⟩

theorem RequestKind.outbound_iff (k : RequestKind) : k.outbound = true ↔ Outbound k := by
  cases k <;> simp [RequestKind.outbound, Outbound]

/-- With one buffer EMPTY, the sector due is told by the other (R98). -/
theorem Engine.wanted_of_empty {t : Engine} (r : Request) {i j : BufferName} (h : i ≠ j)
    (hi : (t.buf i).state = .empty) : t.wanted r = sectorDue t r (t.buf j) := by
  have hfree (b : SectorBuffer) (hb : b.state = .empty) (k : Nat) : b.serves r.id k = false := by
    simp [SectorBuffer.serves, hb]
  have hserves (b : SectorBuffer) (k : Nat) : (!(b.serves r.id k)) =
      decide (¬ ((b.state = .loading ∨ b.state = .loaded) ∧ b.discarded = false ∧ b.owner = r.id ∧ b.sector = k)) := by
    rw [Bool.eq_iff_iff]
    simp only [SectorBuffer.serves, Bool.not_eq_true', decide_eq_true_eq]
    rw [← Bool.not_eq_true]
    simp only [Bool.and_eq_true, Bool.or_eq_true, beq_iff_eq, Bool.not_eq_true']
    tauto
  have hpick (k : Nat) : (decide (k < r.count) && !(t.bufA.serves r.id k) && !(t.bufB.serves r.id k)) =
      decide (k < r.count ∧ ¬ (((t.buf j).state = .loading ∨ (t.buf j).state = .loaded) ∧ (t.buf j).discarded = false ∧
        (t.buf j).owner = r.id ∧ (t.buf j).sector = k)) := by
    rw [Bool.decide_and, ← hserves]
    cases i <;> cases j
    · exact absurd rfl h
    · simp [Engine.buf, hfree t.bufA hi]
    · simp [Engine.buf, hfree t.bufB hi]
    · exact absurd rfl h
  simp only [Engine.wanted, sectorDue, hpick, List.head?_filter]

/-- With no buffer EMPTY nothing more is loaded (R98). -/
theorem State.loadOne_of_full {s : State} (r : Request) {i j : BufferName} (h : i ≠ j)
    (hi : (s.te.buf i).state ≠ .empty) (hj : (s.te.buf j).state ≠ .empty) : s.loadOne r = s := by
  have hnone : s.te.findBuf SectorBuffer.isEmpty = none := by
    rw [Engine.findBuf_of_other _ h (by simpa [SectorBuffer.isEmpty] using hj),
      if_neg (by simpa [SectorBuffer.isEmpty] using hi)]
  simp [State.loadOne, hnone]

/-- With one buffer EMPTY and the other not, the sector due is loaded into it (R98). -/
theorem State.loadAhead_of_one {s : State} {r : Request} {i j : BufferName} (ha : s.activeRequest = some r)
    (ho : Outbound r.kind) (h : i ≠ j) (hi : (s.te.buf i).state = .empty) (hj : (s.te.buf j).state ≠ .empty) :
    (sectorDue s.te r (s.te.buf j) = none → s.loadAhead = s) ∧
      ∀ k, sectorDue s.te r (s.te.buf j) = some k → s.loadAhead =
        (s.setBuf i ⟨.loading, k, [], r.id, false⟩).askTransfer (.load i (r.sectorAddress k)) := by
  have hfound : s.te.findBuf SectorBuffer.isEmpty = some i := by
    rw [Engine.findBuf_of_other _ h (by simpa [SectorBuffer.isEmpty] using hj),
      if_pos (by simpa [SectorBuffer.isEmpty] using hi)]
  have hahead : s.loadAhead = (s.loadOne r).loadOne r := by
    simp [State.loadAhead, ha, (RequestKind.outbound_iff _).mpr ho]
  refine ⟨fun hd => ?_, fun k hd => ?_⟩
  · have hone : s.loadOne r = s := by simp [State.loadOne, hfound, Engine.wanted_of_empty r h hi, hd]
    rw [hahead, hone, hone]
  · have hone : s.loadOne r = (s.setBuf i ⟨.loading, k, [], r.id, false⟩).askTransfer (.load i (r.sectorAddress k)) := by
      simp [State.loadOne, hfound, Engine.wanted_of_empty r h hi, hd]
    rw [hahead, hone, State.loadOne_of_full r h]
    · simp [State.setBuf]
    · simpa [State.setBuf, Engine.buf_setBuf_other _ h.symm] using hj

/-- Loading ahead takes back no transfer asked. -/
theorem State.loadAhead_waiting (s : State) : ∀ x ∈ s.hp.waiting, x ∈ s.loadAhead.hp.waiting := by
  have hone (t : State) (r : Request) : ∀ x ∈ t.hp.waiting, x ∈ (t.loadOne r).hp.waiting := by
    intro x hx
    simp only [State.loadOne]
    split
    · exact List.mem_append_left _ (by simpa [State.setBuf] using hx)
    · exact hx
  intro x hx
  simp only [State.loadAhead]
  split
  · exact hx
  · split
    · exact hone _ _ x (hone _ _ x hx)
    · exact hx

/-! The order in an open lead slot (R100). -/

theorem Engine.order_eq (t : Engine) (r : Request) : t.order r = orderDue r t.target := by
  cases hk : r.kind <;> simp [Engine.order, orderDue, RequestKind.writes, hk]

/-- The order is offered once the buffer condition holds. -/
theorem State.tryOrder_offers {s : State} {r : Request} (ha : s.activeRequest = some r) (hp : s.te.phase = .leadWait)
    (hl : s.te.leadOpen = true) (hf : ∀ f ∈ s.lu.frames, f.body.isTransfer = false) (hs : s.hp.adapter ≠ .silenced)
    (hb : s.te.bufferReady r = true) : s.tryOrder.lu.frames = s.lu.frames ++ [⟨orderDue r s.te.target, 0, 0, false⟩] := by
  have hnone : s.lu.isPending FrameBody.isTransfer = false := by
    simpa [LineUnit.isPending] using hf
  simp [State.tryOrder, ha, hp, hl, hnone, hb, State.offer, hs, Engine.order_eq]

/-! A buffer made free. -/

/-- What a free buffer `i` becomes, the state being `u` when it was freed and `t` after the engine has loaded ahead. -/
theorem State.loadAhead_freed {u : State} {i j : BufferName} (h : i ≠ j) (hi : u.te.buf i = .empty) :
    (u.loadAhead.te.buf i = ⟨.empty, 0, [], 0, false⟩ ∨
        (u.loadAhead.te.buf i).state = .loading ∧ (u.loadAhead.te.buf i).discarded = false ∧
          u.te.request = some (u.loadAhead.te.buf i).owner) ∧
      ((u.te.buf j).state ≠ .empty → u.loadAhead.te.buf j = u.te.buf j ∧
        ((∀ r, u.activeRequest = some r → Outbound r.kind → sectorDue u.te r (u.te.buf j) = none) →
          u.loadAhead.te.buf i = ⟨.empty, 0, [], 0, false⟩) ∧
        ∀ r k, u.activeRequest = some r → Outbound r.kind → sectorDue u.te r (u.te.buf j) = some k →
          u.loadAhead.te.buf i = ⟨.loading, k, [], r.id, false⟩ ∧
            .load i (r.buffer + BitVec.ofNat 16 (k * 128)) ∈ u.loadAhead.hp.waiting) := by
  have hie : (u.te.buf i).state = .empty := by rw [hi]; rfl
  refine ⟨?_, fun hj => ⟨?_, fun hnone => ?_, fun r k ha ho hd => ?_⟩⟩
  · rcases u.loadAhead_engine.2.2 i with h | ⟨r, ha, h | ⟨_, k, h⟩⟩
    · exact .inl (h.trans hi)
    · exact .inl (h.trans hi)
    · exact .inr ⟨by rw [h], by rw [h], by rw [h]; exact (State.activeRequest_mem ha).2⟩
  · rcases u.loadAhead_engine.2.2 j with h | ⟨r, ha, h | ⟨he, _⟩⟩
    · exact h
    · exact h
    · exact absurd he hj
  · have hstay : u.loadAhead = u := by
      by_cases hr : ∃ r, u.activeRequest = some r ∧ Outbound r.kind
      · obtain ⟨r, ha, ho⟩ := hr
        exact (State.loadAhead_of_one ha ho h hie hj).1 (hnone r ha ho)
      · simp only [State.loadAhead]
        split
        · rfl
        · rename_i r ha
          exact if_neg fun ho => hr ⟨r, ha, (RequestKind.outbound_iff _).mp ho⟩
    rw [hstay]
    exact hi
  · rw [(State.loadAhead_of_one ha ho h hie hj).2 k hd]
    refine ⟨by simp [State.setBuf], ?_⟩
    simp [State.askTransfer, State.onHp, Request.sectorAddress, Config.sectorWords]

/-! The obligation. -/

/-- Loading ahead starts no buffer carrying a sector to host memory, and stops none. -/
theorem State.loadAhead_unloadingFor (s : State) (id : Nat) :
    s.loadAhead.te.unloadingFor id = s.te.unloadingFor id := by
  have hone (n : BufferName) : ((s.loadAhead.te.buf n).state == .unloading && (s.loadAhead.te.buf n).owner == id) =
      ((s.te.buf n).state == .unloading && (s.te.buf n).owner == id) := by
    rcases s.loadAhead_engine.2.2 n with h | ⟨r, _, h | ⟨he, k, h⟩⟩
    · rw [h]
    · rw [h]
    · rw [h, he]
      rfl
  have ha := hone .a
  have hb := hone .b
  simp only [Engine.buf] at ha hb
  simp only [Engine.unloadingFor, ha, hb]

/-- The completion writes held back are asked once nothing of their request is left to write (R99). -/
theorem State.askHeldBack_settles (s : State) (id : Nat) : ∀ x ∈ s.hp.heldBack,
    if x.1 = id ∧ s.te.unloadingFor x.1 = false then .completion x.2 ∈ (s.askHeldBack id).hp.waiting
    else x ∈ (s.askHeldBack id).hp.heldBack := by
  intro x hx
  simp only [State.askHeldBack]
  by_cases hid : x.1 = id
  · subst hid
    cases hu : s.te.unloadingFor x.1
    · simp only [true_and, if_true, Bool.false_eq_true, if_false, State.onHp_hp]
      exact List.mem_append_right _ (List.mem_map.mpr ⟨x, List.mem_filter.mpr ⟨hx, by simp⟩, rfl⟩)
    · simpa using hx
  · rw [if_neg fun h => hid h.1]
    split
    · exact hx
    · exact List.mem_filter.mpr ⟨hx, by simpa using hid⟩

/-- Of `s` one buffer alone has changed, not `j`, and the Host Port's transfers. -/
structure BufferChanged (s u : State) (j : BufferName) : Prop where
  wq : u.wq = s.wq
  hm : u.hm = s.hm
  tm : u.tm = s.tm
  chains : u.chains = s.chains
  ec : u.ec = s.ec
  rdm : u.rdm = s.rdm
  lu : u.lu = s.lu
  adapter : u.hp.adapter = s.hp.adapter
  request : u.te.request = s.te.request
  phase : u.te.phase = s.te.phase
  sector : u.te.sector = s.te.sector
  target : u.te.target = s.te.target
  leadOpen : u.te.leadOpen = s.te.leadOpen
  other : u.te.buf j = s.te.buf j

theorem BufferChanged.activeRequest {s u : State} {j : BufferName} (h : BufferChanged s u j) :
    u.activeRequest = s.activeRequest := by simp only [State.activeRequest, h.request, h.wq]

theorem BufferChanged.sectorDue {s u : State} {j : BufferName} (h : BufferChanged s u j) (r : Request)
    (b : SectorBuffer) : sectorDue u.te r b = Machine.sectorDue s.te r b := by
  simp only [Machine.sectorDue, h.sector]

/-- What the engine has left when it has loaded ahead and offered its order. -/
theorem BufferChanged.same {s u : State} {j : BufferName} (h : BufferChanged s u j) :
    let t := u.loadAhead.tryOrder
    t.wq = s.wq ∧ t.hm = s.hm ∧ t.tm = s.tm ∧ t.chains = s.chains ∧ t.ec = s.ec ∧ t.rdm = s.rdm ∧
      t.lu.exchange = s.lu.exchange ∧ t.te.request = s.te.request ∧ t.te.phase = s.te.phase := by
  simp [State.loadAhead_te, h.wq, h.hm, h.tm, h.chains, h.ec, h.rdm, h.lu, h.request, h.phase]

/-- The order of an open lead slot, offered once the buffer condition holds (R100). -/
theorem BufferChanged.order {s u : State} {j : BufferName} (h : BufferChanged s u j) {r : Request}
    (ha : s.activeRequest = some r) (hp : s.te.phase = .leadWait) (hl : s.te.leadOpen = true)
    (hf : ∀ f ∈ s.lu.frames, f.body.isTransfer = false) (hs : s.hp.adapter ≠ .silenced)
    (hb : u.loadAhead.te.bufferReady r = true) :
    (⟨orderDue r s.te.target, 0, 0, false⟩ : Frame) ∈ u.loadAhead.tryOrder.lu.frames := by
  have hau : u.loadAhead.activeRequest = some r := by
    simpa only [State.activeRequest, State.loadAhead_te, State.loadAhead_frame] using h.activeRequest.trans ha
  rw [State.tryOrder_offers hau (by simp [State.loadAhead_te, h.phase, hp])
    (by rw [u.loadAhead_engine.2.1, h.leadOpen, hl]) (by simpa [h.lu] using hf) (by simpa [h.adapter] using hs) hb]
  simp [State.loadAhead_te, h.target]

/-- Settles O16: the two buffers, the next read, and the order in an open lead slot. -/
theorem buffersAreLoadedAndUnloaded : Obligations.BuffersAreLoadedAndUnloaded := by
  unfold Obligations.BuffersAreLoadedAndUnloaded
  intro i j a s hij same free open_
  -- a buffer made free, the engine having loaded ahead
  have hfreed (u : State) (h : BufferChanged s u j) (hi : u.te.buf i = .empty) : free u.loadAhead.tryOrder := by
    obtain ⟨hown, hrest⟩ := u.loadAhead_freed hij hi
    simp only [h.other, h.activeRequest, h.sectorDue, h.request] at hown hrest
    simp only [free, State.tryOrder_frame]
    exact ⟨hown, hrest⟩
  refine ⟨fun hc words hw => ?_, fun hc => ?_⟩
  · have hsector : sectorOf words = words := by simp [sectorOf, Config.sectorWords, ← hw]
    generalize hb : (if (s.te.buf i).discarded then SectorBuffer.empty
      else { s.te.buf i with state := .loaded, words := words }) = b
    generalize hu : s.begin.endTransfer.setBuf i b = u
    have hexec : exec (.bufferLoaded words) s = .next u.loadAhead.tryOrder := by
      have hc' : s.begin.hp.current = some (.load i a) := hc
      simp only [exec, execBufferLoaded, hc', hsector]
      rw [← hu, ← hb]
      rfl
    have h : BufferChanged s u j := by
      subst hu
      obtain ⟨h1, h2, h3, h4, h5⟩ := s.te.setBuf_frame i b
      exact ⟨rfl, rfl, rfl, rfl, rfl, rfl, rfl, rfl, h2, h1, h3, h4, h5, Engine.buf_setBuf_other _ hij.symm _⟩
    have hbuf : u.te.buf i = b := by rw [← hu]; exact Engine.buf_setBuf_same _ _ _
    refine ⟨_, hexec, h.same, by rw [← hu]; simp [State.begin], by rw [← hu]; simp [State.endTransfer], fun hd => ?_, fun hd => ?_⟩
    · rw [if_neg (by simp [hd])] at hb
      have hstay : u.loadAhead.te.buf i = b := by
        rw [← hbuf]
        rcases u.loadAhead_engine.2.2 i with h | ⟨r, _, h | ⟨he, _⟩⟩
        · exact h
        · exact h
        · rw [hbuf, ← hb] at he; cases he
      refine ⟨by simpa only [State.tryOrder_frame] using hstay.trans hb.symm, ?_⟩
      rintro r ⟨ha, hp, hl, hfr, hs⟩ ho hown hsi
      refine ⟨_, h.order ha hp hl hfr hs ?_, rfl⟩
      simp only [Engine.bufferReady, (RequestKind.outbound_iff _).mpr ho, if_true, Engine.findBuf_isSome _ _ hij, hstay,
        u.loadAhead_engine.1, h.sector]
      simp [SectorBuffer.loadedFor, ← hb, hown, hsi]
    · exact hfreed u h (by rw [hbuf, ← hb, if_pos hd])
  · generalize hv : (s.begin.endTransfer.emit (.hostWrite (wordsAt a (s.te.buf i).words))).setBuf i .empty = v
    have hexec : exec .bufferUnloaded s = .next (v.askHeldBack (s.te.buf i).owner).loadAhead.tryOrder := by
      have hc' : s.begin.hp.current = some (.unload i a) := hc
      simp only [exec, execBufferUnloaded, hc']
      rw [← hv]
      rfl
    generalize hu : v.askHeldBack (s.te.buf i).owner = u at hexec
    have h : BufferChanged s u j := by
      subst hu hv
      obtain ⟨h1, h2, h3, h4, h5⟩ := s.te.setBuf_frame i .empty
      constructor <;> simp only [State.askHeldBack_frame]
      all_goals first | rfl | assumption | exact Engine.buf_setBuf_other _ hij.symm _
    have hbuf : u.te.buf i = .empty := by
      rw [← hu, ← hv]
      simp only [State.askHeldBack_frame]
      exact Engine.buf_setBuf_same _ _ _
    refine ⟨_, hexec, h.same, by rw [← hu, ← hv]; simp [State.emit, State.begin], by rw [← hu, ← hv]; simp [State.endTransfer], hfreed u h hbuf, ?_, ?_⟩
    · rintro r ⟨ha, hp, hl, hfr, hs⟩ ho
      have hno : r.kind.outbound = false := by
        rw [← Bool.not_eq_true, RequestKind.outbound_iff]; exact ho
      have horder : orderDue r s.te.target = .read s.te.target := by
        cases hk : r.kind <;> simp_all [orderDue, Outbound]
      have hstay : u.loadAhead = u := by
        simp [State.loadAhead, h.activeRequest, ha, hno]
      refine ⟨_, h.order ha hp hl hfr hs ?_, by rw [horder]⟩
      simp [Engine.bufferReady, hno, Engine.findBuf_isSome _ _ hij, hstay, hbuf, SectorBuffer.isEmpty, SectorBuffer.empty]
    · intro x hx
      have hset := v.askHeldBack_settles (s.te.buf i).owner x (by rw [← hv]; exact hx)
      have hun : u.loadAhead.tryOrder.te.unloadingFor x.1 = v.te.unloadingFor x.1 := by
        simp only [State.tryOrder_frame, State.loadAhead_unloadingFor]
        rw [← hu]
        simp only [State.askHeldBack_frame]
      rw [hu] at hset
      rw [hun]
      split at hset
      · rename_i hk
        rw [if_pos hk]
        simpa only [State.tryOrder_frame] using u.loadAhead_waiting _ hset
      · rename_i hk
        rw [if_neg hk]
        simpa using hset

end Sys2Proof.Machine
end

section
/-! The line: a frame of the peer heard, and a notice of this adapter answered (R118, R119, R121, R127); the notices of
ranges, RELEASE and HELLO. -/

namespace Sys2Proof.Machine

open Sys2Proof

/-! A frame of the peer is heard. -/

theorem State.offer_eq {s : State} (h : s.hp.adapter ≠ .silenced) (b : FrameBody) :
    s.offer b = s.onLu fun l => { l with frames := l.frames ++ [⟨b, 0, 0, false⟩] } := if_neg h

theorem State.not_silenced_of_listens {s : State} (h : s.listens = true) : s.hp.adapter ≠ .silenced := by
  simp only [State.listens, Bool.and_eq_true, bne_iff_ne, ne_eq] at h
  exact h.2

theorem State.offer_listening {s : State} (h : s.listens = true) (b : FrameBody) :
    s.offer b = s.onLu fun l => { l with frames := l.frames ++ [⟨b, 0, 0, false⟩] } :=
  State.offer_eq (State.not_silenced_of_listens h) b

/-- The pending frames at the end of the courtesy wait: a tenure asked behind it is offered (R133, R138). -/
def State.askOffered (s : State) : LineUnit :=
  match s.tm.own with
  | .asking c =>
    if s.tm.courtesy = true ∧ s.lu.tenureStands = false then
      { s.lu with frames := s.lu.frames ++ [⟨.tenure c, 0, 0, false⟩] }
    else s.lu
  | _ => s.lu

theorem State.endCourtesy_eq {s : State} (h : s.hp.adapter ≠ .silenced) :
    s.endCourtesy = { s with tm := { s.tm with courtesy := false }, lu := s.askOffered } := by
  simp only [State.endCourtesy]
  cases hc : s.tm.courtesy with
  | false =>
    have htm : s.tm = { s.tm with courtesy := false } := by rw [← hc]
    have hlu : s.askOffered = s.lu := by simp only [State.askOffered, hc]; split <;> simp
    rw [hlu, ← htm]
    rfl
  | true =>
    simp only [if_true, State.onTm_tm]
    split
    · rename_i c ho
      have hlu : s.askOffered = if s.lu.tenureStands = true then s.lu
          else { s.lu with frames := s.lu.frames ++ [⟨.tenure c, 0, 0, false⟩] } := by
        simp only [State.askOffered, ho, hc, true_and]
        cases s.lu.tenureStands <;> simp
      rw [hlu, State.onTm_lu]
      split
      · rfl
      · rw [State.offer_eq (by exact h)]
        simp only [State.onLu, State.onTm]
    · rename_i ho
      have hlu : s.askOffered = s.lu := by simp only [State.askOffered]
      rw [hlu]
      rfl

/-- The presence rule of a frame heard (R127, R138). -/
theorem State.peerPresent_eq {s : State} (h : s.listens = true) : s.peerPresent = present s := by
  have hs := State.not_silenced_of_listens h
  simp only [State.peerPresent]
  rw [State.endCourtesy_eq (by rw [State.onTm_hp]; split <;> exact hs)]
  simp only [present]
  split <;> rfl

/-- The presence rule of a notice decided unanswered (R127, R138). -/
theorem State.peerAbsent_eq {s : State} (h : s.hp.adapter ≠ .silenced) : s.peerAbsent = absent s := by
  simp only [State.peerAbsent]
  rw [State.endCourtesy_eq (by rw [State.onTm_hp]; split <;> exact h)]
  simp only [absent]
  split <;> rfl

theorem present_exchange (s : State) : (present s).lu.exchange = s.lu.exchange := by
  simp only [present]
  repeat' split
  all_goals rfl

theorem present_listens (s : State) : (present s).listens = s.listens := by
  simp only [present, State.listens]
  split <;> rfl

/-- A notice or an order of the peer with no own notice in exchange (R118, R119, R121). -/
theorem State.frameHeard_eq {s : State} (h : Hears s) : s.begin.peerBegins.peerHeard.spoilNotice = peerBegan s := by
  obtain ⟨hl, hx⟩ := h
  have hb : s.begin.peerBegins.peerHeard = peerBegan s :=
    (if_pos hl).trans (State.peerPresent_eq (s := s.begin.peerBegins) hl)
  rw [hb]
  refine State.spoilNotice_of_none fun x hxx => hx x ?_
  rwa [peerBegan, present_exchange] at hxx

theorem peerBegan_listens {s : State} (h : Hears s) : (peerBegan s).listens = true :=
  (present_listens _).trans h.1

theorem State.peerNotice_eq {s : State} (h : Hears s) (takesAnswer : Bool) (act : State → State) :
    s.begin.peerNotice takesAnswer act = act (peerBegan s) := by
  simp only [State.peerNotice, State.frameHeard_eq h, peerBegan_listens h, if_true]

/-- The answer to the own notice in exchange (R119, R127). -/
theorem State.peerAnswer_eq {s : State} {x : Exchange} (h : Noticing s x) {fits : FrameBody → Bool}
    (hf : fits x.frame.body = true) (act : FrameBody → State → State) :
    s.begin.peerAnswer fits act = act x.frame.body (Machine.answered s) := by
  obtain ⟨hx, ha, hd, hl⟩ := h
  have hb : s.begin.peerHeard = present s.begin := (if_pos hl).trans (State.peerPresent_eq hl)
  simp only [State.peerAnswer, hb, present_exchange]
  rw [show s.begin.lu.exchange = some x from hx]
  have hl' : (present s.begin).listens = true := (present_listens _).trans hl
  simp only [ha, if_true, hd, hl', Bool.not_true, Bool.or_self, Bool.false_eq_true, if_false, hf]
  rfl

/-! What goes on of the state at a frame heard. -/

theorem peerBegan_frame (s : State) : (peerBegan s).chains = s.chains ∧ (peerBegan s).ec = s.ec ∧
    (peerBegan s).wq = s.wq ∧ (peerBegan s).te = s.te ∧ (peerBegan s).hm = s.hm ∧ (peerBegan s).rdm = s.rdm ∧
    (peerBegan s).out = [] ∧ (peerBegan s).tm.own = s.tm.own ∧ (peerBegan s).tm.peer = s.tm.peer ∧
    (peerBegan s).hp.adapter = s.hp.adapter ∧ (peerBegan s).lu.station = s.lu.station := by
  refine ⟨rfl, rfl, rfl, rfl, rfl, rfl, rfl, rfl, rfl, ?_, ?_⟩
  · simp only [peerBegan, present]
    split <;> rfl
  · simp only [peerBegan, present]
    repeat' split
    all_goals rfl

theorem answered_frame (s : State) : (answered s).chains = s.chains ∧ (answered s).ec = s.ec ∧
    (answered s).wq = s.wq ∧ (answered s).te = s.te ∧ (answered s).hm = s.hm ∧ (answered s).rdm = s.rdm ∧
    (answered s).out = [] ∧ (answered s).tm.own = s.tm.own ∧ (answered s).tm.peer = s.tm.peer ∧
    (answered s).hp.adapter = s.hp.adapter ∧ (answered s).lu.exchange = none ∧
    (answered s).tm.presence = .present := by
  refine ⟨rfl, rfl, rfl, rfl, rfl, rfl, rfl, rfl, rfl, ?_, rfl, rfl⟩
  simp only [answered, present]
  split <;> rfl

/-! A FREE heard (R38, R159). -/

/-- Entries of the list claimed again one after another, none of their names standing in the line (R153). -/
theorem State.reclaimAll_eq (l : List HoldEntry) {s : State} (hs : s.hp.adapter ≠ .silenced)
    (hl : ∀ x ∈ s.hm.line, x.id ∉ l.map HoldEntry.id) : l.foldl State.reclaimEntry s = { s with
      hm := { s.hm with list := s.hm.list.map fun x => if x.id ∈ l.map HoldEntry.id then x.reclaimed else x }
      lu := { s.lu with frames := s.lu.frames ++ l.map fun e => ⟨e.claim, 0, 0, false⟩ } } := by
  induction l generalizing s with
  | nil => simp
  | cons e l ih =>
    have hline : s.hm.line.map (fun x => if x.id == e.id then x.reclaimed else x) = s.hm.line :=
      (List.map_congr_left fun x hx => if_neg (by
        have := hl x hx
        simp only [List.map_cons, List.mem_cons, not_or] at this
        simpa using this.1)).trans (List.map_id _)
    have hone : s.reclaimEntry e = { s with
        hm := ⟨s.hm.list.map fun x => if x.id == e.id then x.reclaimed else x, s.hm.line, s.hm.nextId⟩
        lu := { s.lu with frames := s.lu.frames ++ [⟨e.claim, 0, 0, false⟩] } } := by
      have hon : s.onEntry e.id (fun x => { x with state := .claiming, refusalRevs := 0 }) = { s with
          hm := ⟨s.hm.list.map fun x => if x.id == e.id then x.reclaimed else x, s.hm.line, s.hm.nextId⟩ } := by
        conv_rhs => rw [← hline]
        rfl
      rw [State.reclaimEntry, hon]
      exact if_neg hs
    have hrest : ∀ x ∈ s.hm.line, x.id ∉ l.map HoldEntry.id := fun x hx hm => hl x hx (List.mem_cons_of_mem _ hm)
    rw [List.foldl_cons, hone]
    refine Eq.trans (ih ?_ ?_) ?_
    · exact hs
    · exact hrest
    have hmap : (s.hm.list.map fun x => if x.id == e.id then x.reclaimed else x).map
        (fun x => if x.id ∈ l.map HoldEntry.id then x.reclaimed else x) =
        s.hm.list.map fun x => if x.id ∈ (e :: l).map HoldEntry.id then x.reclaimed else x := by
      rw [List.map_map]
      refine List.map_congr_left fun x _ => ?_
      by_cases hx : x.id = e.id
      · simp [hx, HoldEntry.reclaimed]
      · simp [hx]
    simp only [hmap, List.append_assoc, List.map_cons, List.cons_append, List.nil_append]

/-- The Hold Manager and the frames pending, once the REFUSED entries that overlap a range are claimed again (R159). -/
theorem State.reclaimRange_eq {s : State} (hs : s.hp.adapter ≠ .silenced) (hq : NamesFresh s) (start count : Nat) :
    let p : HoldEntry → Bool := fun e => e.state = .refused && overlap e.start e.count start count
    s.reclaimRange start count = { s with
      hm := { s.hm with list := s.hm.list.map fun z => if p z then { z with state := .claiming, refusalRevs := 0 } else z }
      lu := { s.lu with frames := s.lu.frames ++
        (s.hm.list.filter p).map fun z => ⟨.claim z.id z.start z.count z.mode, 0, 0, false⟩ } } := by
  intro p
  have hp : (fun e : HoldEntry => e.state == .refused && overlap e.start e.count start count) = p := rfl
  have hn : ((s.hm.list ++ s.hm.line).map HoldEntry.id).Nodup := hq.2.1.1
  rw [List.map_append] at hn
  obtain ⟨hlist, _, hdis⟩ := List.nodup_append.mp hn
  have hmem (z : HoldEntry) (hz : z ∈ s.hm.list) : z.id ∈ (s.hm.list.filter p).map HoldEntry.id ↔ p z = true := by
    constructor
    · intro h
      obtain ⟨y, hy, hyz⟩ := List.mem_map.mp h
      obtain ⟨hy, hpy⟩ := List.mem_filter.mp hy
      obtain rfl : y = z := List.inj_on_of_nodup_map hlist hy hz hyz
      exact hpy
    · intro h
      exact List.mem_map_of_mem (List.mem_filter.mpr ⟨hz, h⟩)
  have hmap : (s.hm.list.map fun x => if x.id ∈ (s.hm.list.filter p).map HoldEntry.id then x.reclaimed else x) =
      s.hm.list.map fun z => if p z then { z with state := .claiming, refusalRevs := 0 } else z :=
    List.map_congr_left fun z hz => by
      simp only [hmem z hz]
      rfl
  simp only [State.reclaimRange, hp]
  rw [State.reclaimAll_eq _ hs fun x hx hm => ?_, hmap]
  · rfl
  · obtain ⟨y, hy, hyz⟩ := List.mem_map.mp hm
    exact hdis _ (List.mem_map_of_mem (List.mem_filter.mp hy).1) _ (List.mem_map_of_mem hx) hyz

end Sys2Proof.Machine
end

section
/-! The notices of ranges, RELEASE and HELLO (R140, R154, R159). -/

namespace Sys2Proof.Machine

open Sys2Proof

theorem rangeOk_of {b w : Word} (hw : w.toNat / 128 % 256 = 0) (h1 : 1 ≤ w.toNat % 128) (h64 : w.toNat % 128 ≤ 64)
    (hb : b.toNat + w.toNat % 128 ≤ 32000) : rangeOk b w = true := by
  have hspare : spareBits w 0x807F = false := by
    rw [spareBits_eq_false_iff]
    intro i hi
    fin_cases i <;> simp at hi ⊢ <;> omega
  simp only [rangeOk, hspare, field]
  simp
  omega

theorem rangeCount_eq (w : Word) : rangeCount w = w.toNat % 128 := by simp [rangeCount, field]

theorem rangeMode_exclusive (w : Word) : (rangeMode w == .exclusive) = w.getLsbD 15 := by
  have hmode (t : Bool) : ((if t then Mode.exclusive else .shared) == .exclusive) = t := by cases t <;> rfl
  exact hmode _

theorem exec_peerClaimHeard {b w : Word} {s : State} (h : Hears s) (hok : rangeOk b w = true) :
    exec (.peerClaimHeard b w) s = .next (State.hearClaim b.toNat (rangeCount w) (rangeMode w) (peerBegan s)) := by
  simp only [exec, execPeerClaimHeard]
  rw [if_pos (show contentOk 22 [b, w] = true from hok), State.peerNotice_eq h]

theorem exec_peerFreeHeard {b w : Word} {s : State} (h : Hears s) (hok : rangeOk b w = true) :
    exec (.peerFreeHeard b w) s = .next (State.hearFree b.toNat (rangeCount w) (flag w 15) (peerBegan s)) := by
  simp only [exec, execPeerFreeHeard]
  rw [if_pos (show contentOk 26 [b, w] = true from hok), State.peerNotice_eq h]

theorem exec_peerReleaseHeard {s : State} (h : Hears s) : exec .peerReleaseHeard s = .next (peerBegan s).peerGone :=
  congrArg Host.Outcome.next (State.peerNotice_eq h false State.peerGone)

theorem exec_peerHelloHeard {s : State} (h : Hears s) : exec .peerHelloHeard s = .next (peerBegan s).hearHello :=
  congrArg Host.Outcome.next (State.peerNotice_eq h false State.hearHello)

/-- An answer to a notice of the peer is the one thing put out (R118). -/
theorem State.answer_peerBegan (s : State) (a : AdapterAnswer) :
    (peerBegan s).answer a = { peerBegan s with out := [.frame (a.words s.lu.station)] } := by
  have hst : (peerBegan s).lu.station = s.lu.station := by simp only [peerBegan_frame]
  simp only [State.answer, State.emit, hst]
  rfl

/-- The Common descriptors a FREE with the written flag marks (R38). -/
theorem Extents.markRange_eq (x : Extents) (start count : Nat) : x.markRange start count = { x with
    comm := x.comm.map fun d =>
      if d.kind ≠ .empty ∧ overlap d.base (d.limit + 1) start count = true then { d with changed := true } else d } := by
  simp only [Extents.markRange, Descriptor.meets]
  congr 2
  funext d
  by_cases hk : d.kind = .empty <;> simp [hk]

/-- Settles O49: CLAIM, FREE, RELEASE and HELLO of the peer. -/
theorem peerNoticesOfRangesAndRelease : Obligations.PeerNoticesOfRangesAndRelease := by
  unfold Obligations.PeerNoticesOfRangesAndRelease
  constructor
  · intro b w s hh hs hq n top y again hw h1 h64 hb
    have hok : rangeOk b w = true := rangeOk_of hw h1 h64 hb
    constructor
    · rw [exec_peerClaimHeard hh hok, State.hearClaim, State.answer_peerBegan]
      have hcheck : (peerBegan s).hm.refusesClaim b.toNat (rangeCount w) (rangeMode w) =
          s.hm.list.any fun y => y.state = .held && overlap y.start y.count b.toNat n && (y.mode = .exclusive || top) := by
        simp only [HoldManager.refusesClaim, rangeCount_eq, rangeMode_exclusive]
        rfl
      rw [hcheck]
      split <;> rfl
    · have hq' : NamesFresh (peerBegan s) := hq
      have hs' : (peerBegan s).hp.adapter ≠ .silenced := by simpa only [peerBegan_frame] using hs
      rw [exec_peerFreeHeard hh hok, State.hearFree, State.reclaimRange_eq hs' hq', rangeCount_eq]
      by_cases ht : w.getLsbD 15 = true
      · rw [if_pos (by exact ht)]
        refine ⟨_, rfl, rfl, rfl, rfl, rfl, rfl, rfl, rfl, rfl, (if_pos ht).symm, ?_⟩
        rw [if_pos ht]
        exact Extents.markRange_eq _ _ _
      · rw [if_neg (by exact ht)]
        exact ⟨_, rfl, rfl, rfl, rfl, rfl, rfl, rfl, rfl, rfl, (if_neg ht).symm, (if_neg ht).symm⟩
  · intro s hh t u
    have hu : (peerBegan s).peerGone = u := by
      simp only [u]
      split
      · rename_i hp
        exact if_pos (by rw [show (peerBegan s).tm.peer = none from hp]; rfl)
      · rename_i p hp
        exact State.peerGone_eq (s := peerBegan s) hp
    refine ⟨by rw [exec_peerReleaseHeard hh, hu], ?_⟩
    have hown : u.tm.own = s.tm.own := by
      simp only [u]
      split <;> rfl
    have hl : u.listens = true := by
      refine Eq.trans ?_ (peerBegan_listens hh)
      simp only [u]
      split <;> rfl
    simp only [exec_peerHelloHeard hh, State.hearHello, hu, hown]
    cases ho : s.tm.own with
    | holding c k =>
      have hstands : u.lu.tenureStands = s.lu.tenureStands := by
        have hlu : t.lu = { s.lu with backoff := 0 } := by simp only [t, peerBegan, present, ho]
        have hfilter (l : List Frame) : (l.filter fun f => !f.body.isPreempt).any (fun f => f.body.isTenure) =
            l.any fun f => f.body.isTenure := by
          rw [List.any_filter]
          refine congrArg _ (funext fun f => ?_)
          cases f.body <;> rfl
        simp only [u]
        split
        · simp only [hlu]
          rfl
        · simp only [LineUnit.tenureStands, LineUnit.isPending, hlu, hfilter]
          rfl
      simp only [hstands]
      split
      · rfl
      · rw [State.offer_listening hl]
        rfl
    | none => rfl
    | asking c => rfl
    | ending c k => rfl

end Sys2Proof.Machine
end

section
/-! The answers to a CLAIM (R152, R160). -/

namespace Sys2Proof.Machine

open Sys2Proof

/-- The HOLD that waited for an entry completes DONE with the count of its range (R50, R152). -/
theorem State.completeHold_done {s : State} {e : HoldEntry} {h : ElemInfo × Table × Nat} (hh : e.holdElem = some h)
    (p : Bool) : ∃ c ∈ asked (s.completeHold e .done none p), c.info = h.1 ∧ c.status = .done ∧ c.fault = none ∧
      c.done = e.count ∧ c.bits.p = p ∧ c.place = some (h.2.1, h.2.2) ∧ c.endsHoldWait = true := by
  obtain ⟨i, x, n⟩ := h
  simp only [State.completeHold, hh]
  exact ⟨_, mem_asked_complete _ _, rfl, rfl, rfl, rfl, rfl, rfl, rfl⟩

theorem exec_grant {s : State} {x : Exchange} (h : Noticing s x) (hf : x.frame.body.isClaim = true) :
    exec .grant s = .next ((Machine.answered s).becomeHeld x.frame.body.claimEntry false) :=
  congrArg Host.Outcome.next
    (State.peerAnswer_eq h hf fun (b : FrameBody) (s : State) => s.becomeHeld b.claimEntry false)

theorem exec_refuse {s : State} {x : Exchange} (h : Noticing s x) (hf : x.frame.body.isClaim = true) :
    exec .refuse s = .next ((Machine.answered s).refuseEntry x.frame.body.claimEntry) :=
  congrArg Host.Outcome.next
    (State.peerAnswer_eq h hf fun (b : FrameBody) (s : State) => s.refuseEntry b.claimEntry)

/-- Settles O51: GRANT and REFUSE. -/
theorem claimsAreGrantedOrRefused : Obligations.ClaimsAreGrantedOrRefused := by
  unfold Obligations.ClaimsAreGrantedOrRefused
  intro x id b n m y s hx hfresh hb hy hid hs
  have hmem : y ∈ (answered s).hm.list ++ (answered s).hm.line := List.mem_append_left _ hy
  have hnames : (((answered s).hm.list ++ (answered s).hm.line).map HoldEntry.id).Nodup := hfresh.2.1.1
  have hfind : (answered s).hm.find id = some y := by rw [← hid]; exact HoldManager.find_of_mem hnames hmem
  have hgrant : exec .grant s = .next ((answered s).becomeHeld id false) := by
    rw [exec_grant hx (by rw [hb]; rfl), hb]
    rfl
  have hrefuse : exec .refuse s = .next ((answered s).refuseEntry id) := by
    rw [exec_refuse hx (by rw [hb]; rfl), hb]
    rfl
  constructor
  · simp only [State.becomeHeld, hfind] at hgrant
    refine ⟨_, hgrant, ?_, ?_, fun h hh => ?_, ?_⟩
    · simp only [State.completeHold_frame, State.wakeRequests_frame]
      rfl
    · simp only [State.completeHold_frame, State.wakeRequests, State.onWq_wq]
      refine List.map_congr_left fun r _ => ?_
      simp
    · obtain ⟨c, hc, hinfo, hst, hf, hdone, hp, hplace, hends⟩ := State.completeHold_done hh (s :=
        ((answered s).onEntry id fun e => { e with state := .held, silent := false, holdElem := none }).wakeRequests id) false
      exact ⟨c, hc, hinfo, hst, hf, hdone, hp, hplace, hends⟩
    · simp only [State.completeHold_frame, State.wakeRequests_frame, State.onEntry_frame, answered_frame, and_self]
  · intro standsRefused
    have hstands (hn : (y.origin == .explicit && y.budget == some 0) = false) : standsRefused := by
      simp only [standsRefused, hrefuse, State.refuseEntry, hfind, hn]
      rfl
    refine ⟨fun hbud => hstands (by simp [hbud]), fun ho _ => hstands (by simp [ho]), fun ho hbud => ?_⟩
    have hgo : (y.origin == .explicit && y.budget == some 0) = true := by simp [ho, hbud]
    simp only [State.refuseEntry, hfind, hgo, if_true] at hrefuse
    obtain ⟨hgone, hfree⟩ := (State.removeEntry_removes hnames hmem).released
    refine ⟨_, hrefuse, ?_, fun h hh => ?_, fun hc => ?_⟩
    · rw [← hid]
      simpa [State.expireEntry] using hgone
    · obtain ⟨c, hc, hinfo, hst, _, hdone, hl, _⟩ := State.completeHold_expired hh (s := (answered s).removeEntry y)
      exact ⟨c, hc, hinfo, hst, hdone, hl⟩
    · simpa [State.expireEntry] using hfree hc (by simpa only [answered_frame] using hs)

end Sys2Proof.Machine
end

section
/-! What the acts of the engine leave alone: of the host port the transfers asked may change, of the tenures the own one,
of the line the frames pending; chains, monitor, clock and what is put out stand. -/

namespace Sys2Proof.Machine

open Sys2Proof

/-- Host port, chains, tenures, line and monitor are the same, but for the transfers asked, the own tenure and the
frames pending. -/
def EngineKept (s t : State) : Prop :=
  (t.hp.address = s.hp.address ∧ t.hp.adapter = s.hp.adapter ∧ t.hp.maintaining = s.hp.maintaining ∧
    t.hp.refusal = s.hp.refusal ∧ t.hp.events = s.hp.events ∧ t.hp.mask = s.hp.mask ∧ t.hp.progress = s.hp.progress ∧
    t.hp.setup = s.hp.setup ∧ t.hp.current = s.hp.current ∧ t.hp.tod = s.hp.tod) ∧
  (t.tm.peer = s.tm.peer ∧ t.tm.cylinder = s.tm.cylinder ∧ t.tm.moving = s.tm.moving ∧
    t.tm.presence = s.tm.presence ∧ t.tm.courtesy = s.tm.courtesy ∧ t.tm.preemptMark = s.tm.preemptMark ∧
    t.tm.peerSeeks = s.tm.peerSeeks) ∧
  (t.lu.station = s.lu.station ∧ t.lu.exchange = s.lu.exchange ∧ t.lu.peerExchange = s.lu.peerExchange ∧
    t.lu.peerSeekFell = s.lu.peerSeekFell ∧ t.lu.backoff = s.lu.backoff ∧ t.lu.failedHeard = s.lu.failedHeard ∧
    t.lu.collisionCount = s.lu.collisionCount ∧ t.lu.lastCollided = s.lu.lastCollided ∧ t.lu.armed = s.lu.armed) ∧
  t.chains = s.chains ∧ t.rdm = s.rdm ∧ t.out = s.out ∧ t.pending = s.pending

theorem EngineKept.refl (s : State) : EngineKept s s := by simp [EngineKept]

theorem EngineKept.trans {s t u : State} (h : EngineKept s t) (k : EngineKept t u) : EngineKept s u := by
  simp_all only [EngineKept, and_self]

section
variable {s t : State} (h : EngineKept s t)
include h

theorem EngineKept.lu : t.lu = { s.lu with frames := t.lu.frames } := by
  obtain ⟨_, _, ⟨h1, h2, h3, h4, h5, h6, h7, h8, h9⟩, _⟩ := h
  show t.lu = ⟨s.lu.station, t.lu.frames, s.lu.exchange, s.lu.peerExchange, s.lu.peerSeekFell, s.lu.backoff,
    s.lu.failedHeard, s.lu.collisionCount, s.lu.lastCollided, s.lu.armed⟩
  rw [← h1, ← h2, ← h3, ← h4, ← h5, ← h6, ← h7, ← h8, ← h9]

theorem EngineKept.tm : t.tm = { s.tm with own := t.tm.own } := by
  obtain ⟨_, ⟨h1, h2, h3, h4, h5, h6, h7⟩, _⟩ := h
  show t.tm = ⟨t.tm.own, s.tm.peer, s.tm.cylinder, s.tm.moving, s.tm.presence, s.tm.courtesy, s.tm.preemptMark,
    s.tm.peerSeeks⟩
  rw [← h1, ← h2, ← h3, ← h4, ← h5, ← h6, ← h7]

theorem EngineKept.exchange : t.lu.exchange = s.lu.exchange := by rw [h.lu]
theorem EngineKept.chains : t.chains = s.chains := h.2.2.2.1
theorem EngineKept.rdm : t.rdm = s.rdm := h.2.2.2.2.1
theorem EngineKept.out : t.out = s.out := h.2.2.2.2.2.1
theorem EngineKept.adapter : t.hp.adapter = s.hp.adapter := h.1.2.1
theorem EngineKept.events : t.hp.events = s.hp.events := h.1.2.2.2.2.1
theorem EngineKept.cylinder : t.tm.cylinder = s.tm.cylinder := by rw [h.tm]
theorem EngineKept.moving : t.tm.moving = s.tm.moving := by rw [h.tm]

end

theorem State.offer_engineKept (s : State) (b : FrameBody) : EngineKept s (s.offer b) := by simp [EngineKept]

theorem State.askTenure_engineKept (s : State) (c : Nat) : EngineKept s (s.askTenure c) := by
  have hask : EngineKept s (s.onTm fun t => { t with own := .asking c }) := .refl s
  have hoffer (u : State) : EngineKept u (u.offer (.tenure c)) := u.offer_engineKept _
  have hretarget : EngineKept s (s.onLu fun l => l.retarget c) := EngineKept.refl s
  grind only [State.askTenure, State.reannounce, EngineKept.refl, EngineKept.trans]

theorem State.suspend_engineKept (s : State) : EngineKept s s.suspend := by simp [EngineKept]

theorem State.positionAt_engineKept (s : State) : EngineKept s s.positionAt := by
  have hwait : EngineKept s s.waitTenure := (EngineKept.refl s : EngineKept s (s.setPhase .tenureWait)).trans
    (State.askTenure_engineKept _ _)
  have hlead : EngineKept s s.enterLead := by simp [EngineKept]
  have hsettle : EngineKept s s.enterSettle := .refl s
  have hphase : EngineKept s (s.setPhase .tenureWait) := .refl s
  have hsuspend := s.suspend_engineKept
  grind only [State.positionAt]

theorem State.position_engineKept (s : State) : EngineKept s s.position := by
  have hplace (f : Engine → Engine) : EngineKept s (s.onTe f) := .refl s
  have hat (u : State) : EngineKept u u.positionAt := u.positionAt_engineKept
  grind only [State.position, EngineKept.refl, EngineKept.trans]

theorem State.loadAhead_engineKept (s : State) : EngineKept s s.loadAhead := by simp [EngineKept]

theorem State.takeRequest_engineKept (s : State) (r : Request) : EngineKept s (s.takeRequest r) := by
  have htake : EngineKept s ((s.onRequest r.id fun x => { x with state := .active }).onTe fun t => { t with
      request := some r.id
      sector := r.done
      target := (s.onRequest r.id fun x => { x with state := .active }).nextTarget r
      lastSlip := .none
      maintenanceOver := false }) := .refl s
  exact (htake.trans (State.loadAhead_engineKept _)).trans (State.position_engineKept _)

theorem State.engineIdled_engineKept (s : State) : EngineKept s s.engineIdled := by
  have hform : EngineKept s s.formEligible := .refl s
  have hselect : EngineKept s s.select := by
    rcases s.select_cases with ⟨h, _⟩ | ⟨_, ⟨h, _⟩ | ⟨r, _, h⟩⟩ <;> rw [h]
    · exact .refl s
    · exact hform
    · exact hform.trans (State.takeRequest_engineKept _ r)
  exact hselect.trans (by simp [EngineKept, State.engineIdled])

theorem State.finish_engineKept (s : State) (st : Status) (f : Option ElementFault) (m : Bool) :
    EngineKept s (s.finish st f m) := by simp [EngineKept]

theorem State.endRequest_engineKept (s : State) (st : Status) (f : Option ElementFault) (m : Bool) :
    EngineKept s (s.endRequest st f m) := (s.finish_engineKept st f m).trans (State.engineIdled_engineKept _)

theorem State.following_engineKept {s : State} {act : State → State} (h : EngineKept s (act s)) :
    EngineKept s (s.following act) := by
  rcases s.following_cases act with ⟨e, _⟩ | ⟨e, _⟩ <;> rw [e]
  · exact h.trans (State.engineIdled_engineKept _)
  · exact h

theorem State.reposition_engineKept (s : State) : EngineKept s s.reposition := State.following_engineKept s.position_engineKept

theorem State.goOn_engineKept {s : State} {k : State → State} (h : EngineKept s (k s)) : EngineKept s (s.goOn k) := by
  rcases s.goOn_cases k with ⟨e, _⟩ | ⟨e, _⟩ <;> rw [e]
  · exact s.suspend_engineKept.trans (State.engineIdled_engineKept _)
  · exact h

theorem State.slip_engineKept (s : State) (cause : SlipCause) : EngineKept s (s.slip cause) := by
  have hwithdraw : EngineKept s (s.withdraw FrameBody.isTransfer) := .refl s
  rcases s.slip_cases cause with ⟨e, _⟩ | ⟨r, _, ⟨_, e⟩ | ⟨_, e⟩⟩ <;> rw [e]
  · exact .refl s
  · exact hwithdraw.trans (State.endRequest_engineKept _ _ _ _)
  · exact State.goOn_engineKept (.refl _)

theorem State.displace_engineKept (s : State) {k : State → State} (hk : ∀ u, EngineKept u (k u)) :
    EngineKept s (s.displace k) := by
  rcases s.displace_cases k with ⟨e, _⟩ | ⟨r, _, ⟨_, e⟩ | ⟨_, e⟩⟩ <;> rw [e]
  · exact .refl s
  · exact s.endRequest_engineKept _ _ _
  · have hcount : EngineKept s (s.onRequest r.id fun x => { x with displacements := x.displacements + 1 }) := .refl s
    split
    · exact hcount.trans (State.goOn_engineKept (hk _))
    · exact hcount.trans ((State.suspend_engineKept _).trans (State.engineIdled_engineKept _))

theorem State.dataCheck_engineKept (s : State) : EngineKept s s.dataCheck := by
  simp only [State.dataCheck]
  split
  · exact .refl s
  · split
    · exact s.endRequest_engineKept _ _ _
    · exact State.goOn_engineKept (.refl _)

theorem State.notDone_engineKept (s : State) {k : State → State} (hk : ∀ u, EngineKept u (k u)) :
    EngineKept s (s.notDone k) := by
  have hrelease : EngineKept s s.releaseReceiving := .refl s
  rcases s.notDone_cases k with ⟨e, _⟩ | ⟨r, _, ⟨_, e⟩ | ⟨_, _, e⟩ | ⟨_, _, e⟩⟩ <;> rw [e]
  · exact .refl s
  · exact hrelease.trans (State.endRequest_engineKept _ _ _ _)
  · exact hrelease.trans (State.endRequest_engineKept _ _ _ _)
  · exact hrelease.trans (hk _)

theorem State.suspendAfterExchange_engineKept (s : State) : EngineKept s s.suspendAfterExchange := by simp [EngineKept]

theorem State.endTenure_engineKept (s : State) : EngineKept s s.endTenure := by simp [EngineKept]

theorem State.offerRelease_engineKept (s : State) : EngineKept s s.offerRelease := by simp [EngineKept]

end Sys2Proof.Machine
end

section
/-! The answers to an own order (R95, R101, R103, R105): the state in which the engine acts, and what becomes of its
request there. -/

namespace Sys2Proof.Machine

open Sys2Proof

/-! What becomes of the engine's request. -/

/-- A suspension in a state whose queue and whose rule of return are those of an earlier one. -/
theorem SuspendedAs.before {s u t : State} {r v : Request} (h : SuspendedAs u t r v)
    (hmay : u.mayNotReturn r = s.mayNotReturn r)
    (hids : u.wq.records.map Request.id = s.wq.records.map Request.id) : SuspendedAs s t r v := by
  simp only [SuspendedAs, Returned, hmay, hids] at h ⊢
  exact h

theorem State.goOn_of_suspend {s : State} (h : s.te.suspendAfter = true) (k : State → State) :
    s.goOn k = s.suspend.engineIdled := if_pos h

theorem State.goOn_of_none {s : State} (h : s.te.suspendAfter = false) (k : State → State) : s.goOn k = k s :=
  if_neg (by simp [h])

section
variable {u : State} {r : Request} (ha : u.activeRequest = some r)
include ha

theorem State.endRequest_ends (st : Status) (f : Option ElementFault) (m : Bool) :
    CompletionAsked (u.endRequest st f m) r st f ∧ Left (u.endRequest st f m) r.id := by
  obtain ⟨_, hasked, hleft, _⟩ := State.finish_leaves ha st f m
  have hi := (u.finish st f m).engineIdled_sheds
  exact ⟨hi.asked hasked, hi.left hleft⟩

theorem State.goOn_suspends (hq : (u.wq.records.map Request.id).Nodup) (hs : u.te.suspendAfter = true)
    (k : State → State) : SuspendedAs u (u.goOn k) r r := by
  rw [State.goOn_of_suspend hs]
  exact State.suspend_engineIdled hq ha

/-- The engine's record changed, then suspended. -/
theorem State.onRequest_suspends (hq : (u.wq.records.map Request.id).Nodup) {f : Request → Request}
    (hf : ∀ x, (f x).id = x.id) (hm : u.mayNotReturn (f r) = u.mayNotReturn r) :
    SuspendedAs u (u.onRequest r.id f).suspend.engineIdled r (f r) := by
  have hids : (u.onRequest r.id f).wq.records.map Request.id = u.wq.records.map Request.id := WorkQueue.modify_ids _ _ hf
  exact (State.suspend_engineIdled (by rwa [hids]) (State.onRequest_activeRequest ha hf)).of_changed (hf r) hm hids

/-! Displacements (R105). -/

theorem State.displace_ends (h3 : 3 ≤ r.displacements) (k : State → State) :
    CompletionAsked (u.displace k) r .fault (some .positionerLost) ∧ Left (u.displace k) r.id := by
  have h : u.displace k = u.endRequest .fault (some .positionerLost) false := by
    simp [State.displace, ha, Config.displacementLimit, h3]
  rw [h]
  exact State.endRequest_ends ha _ _ _

theorem State.displace_of_lt (h3 : r.displacements < 3) (k : State → State) : u.displace k =
    if u.tm.own.isHolding then (u.onRequest r.id fun x => { x with displacements := x.displacements + 1 }).goOn k
    else (u.onRequest r.id fun x => { x with displacements := x.displacements + 1 }).suspend.engineIdled := by
  rcases u.displace_cases k with ⟨_, hn⟩ | ⟨q, hq, h | ⟨_, h⟩⟩
  · simp [ha] at hn
  all_goals obtain rfl : r = q := by simpa [ha] using hq
  · omega
  · exact h

theorem State.displace_suspends (hq : (u.wq.records.map Request.id).Nodup) (h3 : r.displacements < 3)
    (hs : u.tm.own.isHolding = false ∨ u.te.suspendAfter = true) (k : State → State) :
    SuspendedAs u (u.displace k) r { r with displacements := r.displacements + 1 } := by
  have hsus := State.onRequest_suspends ha hq (f := fun x => { x with displacements := x.displacements + 1 })
    (fun _ => rfl) rfl
  rw [State.displace_of_lt ha h3]
  split
  · rename_i hown
    rw [State.goOn_of_suspend (by exact hs.resolve_left (by simpa using hown))]
    exact hsus
  · exact hsus

/-! Slips (R101). -/

theorem State.slip_ends (h8 : 8 ≤ r.slips) (cause : SlipCause) :
    CompletionAsked (u.slip cause) r .fault (some cause.fault) ∧ Left (u.slip cause) r.id := by
  have h : u.slip cause = (u.withdraw FrameBody.isTransfer).endRequest .fault (some cause.fault) false := by
    simp [State.slip, ha, Config.slipLimit, h8]
  rw [h]
  exact State.endRequest_ends (u := u.withdraw FrameBody.isTransfer) ha _ _ _

theorem State.slip_of_lt (h8 : r.slips < 8) (cause : SlipCause) : u.slip cause =
    (((u.withdraw FrameBody.isTransfer).onRequest r.id fun x => { x with slips := x.slips + 1 }).onTe fun t =>
      { t with lastSlip := cause }).goOn fun s => s.setPhase .leadWait := by
  rcases u.slip_cases cause with ⟨_, hn⟩ | ⟨q, hq, h | ⟨_, h⟩⟩
  · simp [ha] at hn
  all_goals obtain rfl : r = q := by simpa [ha] using hq
  · omega
  · exact h

theorem State.slip_suspends (hq : (u.wq.records.map Request.id).Nodup) (h8 : r.slips < 8)
    (hs : u.te.suspendAfter = true) (cause : SlipCause) :
    SuspendedAs u (u.slip cause) r { r with slips := r.slips + 1 } := by
  rw [State.slip_of_lt ha h8, State.goOn_of_suspend (by exact hs)]
  generalize hv : ((u.withdraw FrameBody.isTransfer).onTe fun t => { t with lastSlip := cause }) = v
  have hav : v.activeRequest = some r := by rw [← hv]; exact ha
  have hsame : ((u.withdraw FrameBody.isTransfer).onRequest r.id fun x => { x with slips := x.slips + 1 }).onTe
      (fun t => { t with lastSlip := cause }) = v.onRequest r.id fun x => { x with slips := x.slips + 1 } := by
    rw [← hv]; rfl
  have hids : v.wq.records.map Request.id = u.wq.records.map Request.id := by rw [← hv]; rfl
  rw [hsame]
  refine (State.onRequest_suspends hav (by rwa [hids]) (f := fun x => { x with slips := x.slips + 1 })
    (fun _ => rfl) rfl).before ?_ hids
  rw [← hv]; rfl

/-! Retries (R103). -/

theorem State.dataCheck_ends (hlimit : u.cfg.retryLimit ≤ r.retries) :
    CompletionAsked u.dataCheck r .fault (some .dataCheck) ∧ Left u.dataCheck r.id := by
  have h : u.dataCheck = u.endRequest .fault (some .dataCheck) false := by
    simp [State.dataCheck, ha, hlimit]
  rw [h]
  exact State.endRequest_ends ha _ _ _

theorem State.dataCheck_of_lt (hlimit : r.retries < u.cfg.retryLimit) : u.dataCheck =
    (u.onRequest r.id fun x => { x with retries := x.retries + 1 }).goOn fun s => s.setPhase .leadWait := by
  simp only [State.dataCheck, ha]
  rw [if_neg (by omega)]

theorem State.dataCheck_suspends (hq : (u.wq.records.map Request.id).Nodup) (hlimit : r.retries < u.cfg.retryLimit)
    (hs : u.te.suspendAfter = true) : SuspendedAs u u.dataCheck r { r with retries := r.retries + 1 } := by
  rw [State.dataCheck_of_lt ha hlimit, State.goOn_of_suspend (by exact hs)]
  exact State.onRequest_suspends ha hq (f := fun x => { x with retries := x.retries + 1 }) (fun _ => rfl) rfl

end

/-! The state in which the engine acts on the end of its exchange. -/

/-- `u` is `s` with an answer to the order of its request `r` taken: the engine works on `r` as it did, on the same
queue. -/
structure Taken (s u : State) (r : Request) : Prop where
  active : u.activeRequest = some r
  ids : u.wq.records.map Request.id = s.wq.records.map Request.id
  chains : u.chains = s.chains
  adapter : u.hp.adapter = s.hp.adapter
  own : u.tm.own = s.tm.own
  request : u.te.request = s.te.request
  phase : u.te.phase = s.te.phase
  sector : u.te.sector = s.te.sector
  target : u.te.target = s.te.target
  suspendAfter : u.te.suspendAfter = s.te.suspendAfter
  downAfter : u.te.downAfter = s.te.downAfter
  maintenanceOver : u.te.maintenanceOver = s.te.maintenanceOver

theorem Taken.of_te {s u : State} {r : Request} (ha : s.activeRequest = some r) (hwq : u.wq = s.wq) (hte : u.te = s.te)
    (hchains : u.chains = s.chains) (hadapter : u.hp.adapter = s.hp.adapter) (hown : u.tm.own = s.tm.own) :
    Taken s u r := by
  constructor <;> simp only [State.activeRequest, hwq, hte, hchains, hadapter, hown]
  exact ha

section
variable {s u : State} {r : Request} (h : Taken s u r)
include h

theorem Taken.mayNotReturn : u.mayNotReturn r = s.mayNotReturn r := by
  simp only [State.mayNotReturn, State.chain, h.chains, h.adapter, h.maintenanceOver]

theorem Taken.suspended {t : State} {v : Request} (hs : SuspendedAs u t r v) : SuspendedAs s t r v :=
  hs.before h.mayNotReturn h.ids

theorem Taken.nodup (hq : (s.wq.records.map Request.id).Nodup) : (u.wq.records.map Request.id).Nodup := by rwa [h.ids]

theorem Taken.mem : r ∈ u.wq.records := (State.activeRequest_mem h.active).1

theorem Taken.releaseReceiving : Taken s u.releaseReceiving r := by
  constructor <;> simp only [State.activeRequest, State.releaseReceiving_frame]
  · exact h.active
  · exact h.ids
  · exact h.chains
  · exact h.adapter
  · exact h.own
  · exact h.request
  · exact h.phase
  · exact h.sector
  · exact h.target
  · exact h.suspendAfter
  · exact h.downAfter
  · exact h.maintenanceOver

/-- The positioner record changes, and the review passes the engine's request by (R79, R132). -/
theorem Taken.setPositioner (hs : r.state = .active ∨ r.state = .ending) (c : Option Nat) (m : Bool) :
    Taken s (u.setPositioner c m) r := by
  have hactive : (u.setPositioner c m).activeRequest = some r := by
    rw [State.setPositioner, State.review_activeRequest]
    have hu : (u.onTm fun t => { t with cylinder := c, moving := m }).activeRequest = some r := h.active
    rw [hu]
    rcases hs with hs | hs <;> simp [State.reviewed, hs]
  have hids : (u.setPositioner c m).wq.records.map Request.id = u.wq.records.map Request.id := State.review_ids _
  constructor
  · exact hactive
  · exact hids.trans h.ids
  all_goals simp only [State.setPositioner_frame]
  · exact h.chains
  · exact h.adapter
  · exact h.own
  · exact h.request
  · exact h.phase
  · exact h.sector
  · exact h.target
  · exact h.suspendAfter
  · exact h.downAfter
  · exact h.maintenanceOver

theorem Taken.forOwner {x : Exchange} (hx : x.request = some r.id) (k : State → State) : u.forOwner x k = k u := by
  have hr := (State.activeRequest_mem h.active).2
  simp [State.forOwner, State.ownsExchange, hx, hr]

theorem Taken.notDone (hs : r.state = .active) (hd : s.te.downAfter = false) (k : State → State) :
    u.notDone k = k u.releaseReceiving := by
  simp [State.notDone, h.active, hs, h.downAfter, hd]

end

/-- The exchange in progress of an order that is served, its answer taken (R95, R126). -/
theorem Serving.taken {s : State} {x : Exchange} {r : Request} (h : Serving s x r) :
    Taken s s.begin.endExchange.driveHeard r := by
  obtain ⟨_, _, _, _, _, hreq, hfind, _, _, _⟩ := h
  have ha : s.activeRequest = some r := by simpa only [State.activeRequest, hreq] using hfind
  exact .of_te ha rfl rfl rfl rfl rfl

/-! The command. -/

theorem LineUnit.pastEarly_of_open {l : LineUnit} {x : Exchange} (hx : l.exchange = some x) (h : EarlyOpen x) :
    l.pastEarly = false := by
  simp only [LineUnit.pastEarly, hx]
  cases ht : x.frame.body.isTransfer
  · rfl
  · simp [h ht]

/-- An early answer that begins after its window is no answer (R116). -/
theorem State.earlyAnswer_of_over {s : State} {x : Exchange} (hx : s.lu.exchange = some x)
    (ht : x.frame.body.isTransfer = true) (ho : x.earlyOver = true) (fits : FrameBody → Bool)
    (fitsPeer : PeerOrder → Bool) (own : Exchange → State → State) (peer : State → State) :
    s.earlyAnswer fits fitsPeer own peer = s :=
  if_pos (by simp [LineUnit.pastEarly, hx, ht, ho])

theorem Serving.driveAnswer {s : State} {x : Exchange} {r : Request} (h : Serving s x r) {fits : FrameBody → Bool}
    (hf : fits x.frame.body = true) (fitsPeer : PeerOrder → Bool) (own : Exchange → State → State)
    (peer : State → State) :
    s.begin.driveAnswer fits fitsPeer own peer = own x s.begin.endExchange.driveHeard :=
  State.driveAnswer_of_own _ _ _ _ (s := s.begin) h.1 h.2.1 hf h.2.2.1

theorem Serving.earlyAnswer {s : State} {x : Exchange} {r : Request} (h : Serving s x r) (ho : EarlyOpen x)
    {fits : FrameBody → Bool} (hf : fits x.frame.body = true) (fitsPeer : PeerOrder → Bool)
    (own : Exchange → State → State) (peer : State → State) :
    s.begin.earlyAnswer fits fitsPeer own peer = own x s.begin.endExchange.driveHeard := by
  have hopen : s.lu.pastEarly = false := LineUnit.pastEarly_of_open h.1 ho
  rw [State.earlyAnswer, if_neg (by simp [hopen])]
  exact h.driveAnswer hf _ _ _

end Sys2Proof.Machine
end

section
/-! ACCEPTED and BUSY (R95, R105, R116, R132). -/

namespace Sys2Proof.Machine

open Sys2Proof

/-- The engine acts on BUSY: the moving flag set, the sector displaced (R105, R132). -/
theorem Serving.ownBusy {s : State} {x : Exchange} {r : Request} (h : Serving s x r) :
    State.ownBusy x s.begin.endExchange.driveHeard =
      (s.begin.endExchange.driveHeard.setMoving true).releaseReceiving.displace State.enterSettle := by
  obtain ⟨_, _, _, hlost, hreq, _, _, hs, _, hd⟩ := id h
  have ht : Taken s (s.begin.endExchange.driveHeard.setMoving true) r := h.taken.setPositioner (.inl hs) _ _
  have hrec : s.begin.endExchange.driveHeard.busyRecord x = s.begin.endExchange.driveHeard.setMoving true :=
    if_neg (by simp [hlost])
  rw [State.ownBusy, hrec, ht.forOwner hreq, ht.notDone hs hd]

theorem State.enterSettle_engineKept (s : State) : EngineKept s s.enterSettle := .refl s

/-- Settles O41: ACCEPTED and BUSY to an own order. -/
theorem seekIsAcceptedOrBusy : Obligations.SeekIsAcceptedOrBusy := by
  unfold Obligations.SeekIsAcceptedOrBusy
  intro x r s h hq closed
  obtain ⟨hx, ho, hdis, hlost, hreq, hte, hfind, hs, hsus, hdown⟩ := id h
  have hclosed {v t : State} (hv : v.lu.exchange = none ∧ v.rdm = { s.rdm with silence := 0 } ∧
      v.hp.adapter = s.hp.adapter ∧ v.chains = s.chains) (k : EngineKept v t) : closed t :=
    ⟨k.exchange.trans hv.1, k.rdm.trans hv.2.1, k.adapter.trans hv.2.2.1, k.chains.trans hv.2.2.2⟩
  refine ⟨fun c hc => ?_, fun htr hov => ?_, fun hkind hopen => ?_⟩
  · -- ACCEPTED
    have hseek : x.frame.body.isSeek = true := by rw [hc]; rfl
    have hcyl : x.frame.body.seekCylinder = c := by rw [hc]; rfl
    generalize hv : s.begin.endExchange.driveHeard.setPositioner (some c) true = v
    have ht : Taken s v r := by rw [← hv]; exact h.taken.setPositioner (.inl hs) _ _
    have hexec : exec .accepted s = .next v.releaseReceiving.enterSettle := by
      have hown : State.seekAccepted x s.begin.endExchange.driveHeard = v.releaseReceiving.enterSettle := by
        have hgo : v.releaseReceiving.goOn State.enterSettle = v.releaseReceiving.enterSettle :=
          State.goOn_of_none (by simpa using ht.suspendAfter.trans hsus) _
        simp only [State.seekAccepted, hcyl, hv, hlost, Bool.false_eq_true, if_false]
        rw [ht.forOwner hreq, ht.notDone hs hdown, hgo]
      rw [← hown, ← h.driveAnswer hseek noPeerOrder State.seekAccepted id]
      rfl
    refine ⟨_, hexec, hclosed (v := v) (by rw [← hv]; simp [State.endExchange, State.driveHeard, State.begin]) ?_, ?_, ?_, rfl, rfl, ?_, r, ht.mem, rfl⟩
    · exact (EngineKept.refl v).trans (.refl _)
    · rw [← hv]; simp [State.setPositioner, State.enterSettle]
    · rw [← hv]; simp [State.setPositioner, State.enterSettle]
    · simpa [State.enterSettle] using ht.request
  · have hsame : s.begin.earlyAnswer (fun b => b.isSeek || b.isTransfer) peerTransfers State.ownBusy id = s.begin :=
      State.earlyAnswer_of_over (s := s.begin) hx htr hov _ _ _ _
    exact congrArg Host.Outcome.next hsame
  · -- BUSY
    generalize hv : (s.begin.endExchange.driveHeard.setMoving true).releaseReceiving = v
    have ht : Taken s v r := by rw [← hv]; exact (h.taken.setPositioner (.inl hs) _ _).releaseReceiving
    have hexec : exec .busy s = .next (v.displace State.enterSettle) := by
      rw [← hv, ← h.ownBusy, ← h.earlyAnswer hopen (fits := fun b => b.isSeek || b.isTransfer) (by simpa using hkind)
        peerTransfers State.ownBusy id]
      rfl
    have hk : EngineKept v (v.displace State.enterSettle) := State.displace_engineKept _ State.enterSettle_engineKept
    refine ⟨_, hexec, hclosed (v := v) (by rw [← hv]; simp [State.endExchange, State.driveHeard, State.begin, State.setMoving]) hk, ?_, ?_, fun h3 => ?_,
      fun h3 hown => ?_, fun h3 hown => ?_⟩
    · rw [hk.cylinder, ← hv]; rfl
    · rw [hk.moving, ← hv]; rfl
    · exact State.displace_ends ht.active h3 _
    · rw [State.displace_of_lt ht.active h3, if_pos (by rw [ht.own]; exact hown),
        State.goOn_of_none (by exact ht.suspendAfter.trans hsus)]
      exact ⟨rfl, rfl, _, WorkQueue.mem_modify (fun x : Request => { x with displacements := x.displacements + 1 }) ht.mem, rfl⟩
    · exact ht.suspended (State.displace_suspends ht.active (ht.nodup hq) h3 (.inl (by rw [ht.own]; exact hown)) _)

end Sys2Proof.Machine
end

section
/-! The failures of an order (R101, R103, R104, R163). -/

namespace Sys2Proof.Machine

open Sys2Proof

/-! The drive lost by an answer. -/

theorem State.engineDown_engineKept (s : State) : EngineKept s s.engineDown := by
  have hmark : EngineKept s (s.onTe fun t => { t with downAfter := true }) := .refl s
  have hfinish (st : Status) (f : Option ElementFault) : EngineKept s (s.finish st f false) := s.finish_engineKept _ _ _
  grind only [State.engineDown, EngineKept.refl]

theorem State.tenureDown_lu (s : State) : s.tenureDown.lu = { s.lu with frames := s.tenureDown.lu.frames } :=
  ((State.endTenure_engineKept _).trans (State.offerRelease_engineKept _)).lu

/-- The exchanges at the entry to DOWN: the own one is marked lost (R166). -/
theorem State.driveDown_line (s : State) :
    (s.lu.exchange = none → s.driveDown.lu.exchange = none) ∧ s.driveDown.lu.peerExchange = s.lu.peerExchange := by
  simp only [State.driveDown]
  split
  · exact ⟨id, rfl⟩
  · rw [State.tenureDown_lu, (State.engineDown_engineKept _).lu]
    refine ⟨fun h => ?_, rfl⟩
    show (s.lu.exchange.map fun x => ({ x with lost := true } : Exchange)) = none
    rw [h]
    rfl

theorem State.driveDown_te_of_none {s : State} (h : s.te.request = none) : s.driveDown.te = s.te := by
  simp only [State.driveDown]
  split
  · rfl
  · rename_i hd
    generalize hu : ((s.onRdm Monitor.enterDown).raise .drive).onLu LineUnit.markLost = u
    have hte : u.te = s.te := by rw [← hu]; rfl
    have hnone : u.te.request = none := by rw [hte, h]
    have hengine : u.engineDown = u := by simp [State.engineDown, State.activeRequest, hnone]
    rw [hengine, State.tenureDown_te_of_none hnone, hte]

/-- The drive lost by an answer to an own order: its request has ended first (R104, R112, R163). -/
theorem State.loseDrive_ends {u : State} {r : Request} (ha : u.activeRequest = some r) :
    let t := u.loseDrive true
    CompletionAsked t r (if r.state = .ending then .aborted else .fault)
        (if r.state = .ending then none else some .driveDown) ∧ Left t r.id ∧ t.rdm.drive = .down ∧
      (u.lu.exchange = none → t.lu.exchange = none) ∧ (u.rdm.drive = .down → t.rdm = u.rdm) ∧
      (u.rdm.drive ≠ .down → t.rdm.counter = none ∧ t.rdm.silence = 0 ∧ t.hp.events.getLsbD 9 = true ∧
        t.tm.cylinder = none ∧ t.tm.moving = false ∧ t.tm.own.isHolding = false ∧ t.te.phase = .idle) := by
  intro t
  -- the request has ended
  have hrel : u.releaseReceiving.activeRequest = some r := by simpa [State.activeRequest] using ha
  generalize hst : (if r.state = .ending then Status.aborted else .fault) = st
  generalize hf : (if r.state = .ending then none else some ElementFault.driveDown) = f
  obtain ⟨_, hasked, hleft, hfree⟩ := State.finish_leaves hrel st f false
  generalize hv : u.releaseReceiving.finish st f false = v at hasked hleft hfree
  have hrdm : v.rdm = u.rdm := by rw [← hv]; simp
  have hexchange : v.lu.exchange = u.lu.exchange := by rw [← hv]; simp
  have hact : t = u.following fun _ => v.driveDown := by
    simp only [t, State.loseDrive, State.following, if_true, ha, ← hv, ← hst, ← hf]
    split <;> rfl
  have hcarries := v.driveDown_carries
  have hdown : v.driveDown.rdm.drive = .down := by
    by_cases hd : v.rdm.drive = .down
    · simp [State.driveDown, hd]
    · exact (State.driveDown_lost hd).1.1
  have hstays (hd : u.rdm.drive = .down) : v.driveDown.rdm = u.rdm := by
    rw [← hrdm, State.driveDown, if_pos (by rw [hrdm]; exact hd)]
  rcases u.following_cases fun _ => v.driveDown with ⟨he, _⟩ | ⟨he, _⟩ <;> rw [hact, he]
  · have hi := v.driveDown.engineIdled_sheds
    have hk := v.driveDown.engineIdled_engineKept
    refine ⟨hi.asked (hcarries.sheds.asked hasked), hi.left (hcarries.sheds.left hleft), by rw [hk.rdm]; exact hdown,
      fun hx => by rw [hk.exchange]; exact v.driveDown_line.1 (hexchange.trans hx),
      fun hd => by rw [hk.rdm, hstays hd], fun hd => ?_⟩
    obtain ⟨_, hc, hs, _, hev, hcyl, hmov, hown, _⟩ := (State.driveDown_lost (hrdm ▸ hd)).1.engineIdled
    refine ⟨hc, hs, hev, hcyl, hmov, hown, ?_⟩
    rw [(State.engineIdled_of_not_up (by simp [hdown]) (State.driveDown_lost (hrdm ▸ hd)).1.2.2.2.2.2.2.2.1).1,
      State.driveDown_te_of_none hfree.1]
    exact hfree.2.1
  · refine ⟨hcarries.sheds.asked hasked, hcarries.sheds.left hleft, hdown,
      fun hx => v.driveDown_line.1 (hexchange.trans hx), hstays, fun hd => ?_⟩
    obtain ⟨_, hc, hs, _, hev, hcyl, hmov, hown, _⟩ := (State.driveDown_lost (hrdm ▸ hd)).1
    refine ⟨hc, hs, hev, hcyl, hmov, hown, ?_⟩
    rw [State.driveDown_te_of_none hfree.1]
    exact hfree.2.1

/-- The drive lost by an answer to the peer's order (R163). -/
theorem State.peerNotReady_lost {u : State} (hd : u.rdm.drive ≠ .down) :
    LostDrive u u.peerNotReady ∧ u.peerNotReady.lu.peerExchange = u.lu.peerExchange := by
  have hact : u.peerNotReady = u.following State.driveDown := rfl
  rw [hact]
  refine ⟨(State.following_driveDown hd).1, ?_⟩
  rcases u.following_cases State.driveDown with ⟨he, _⟩ | ⟨he, _⟩ <;> rw [he]
  · have hk := u.driveDown.engineIdled_engineKept
    rw [hk.lu]
    exact u.driveDown_line.2
  · exact u.driveDown_line.2

theorem State.seekUnanswered_taken {s u : State} {x : Exchange} {r : Request} (h : Taken s u r)
    (hs : r.state = .active ∨ r.state = .ending) : Taken s (u.seekUnanswered x) r := by
  simp only [State.seekUnanswered]
  split
  · exact h.setPositioner hs _ _
  · split
    · exact h.setPositioner hs _ _
    · exact h

theorem isSeek_or_isTransfer {b : FrameBody} (h : b.isSeek = true ∨ b.isTransfer = true) :
    (b.isSeek || b.isTransfer) = true := by simpa using h

/-- NOT READY to an own order (R104). -/
theorem Serving.exec_notReady {s : State} {x : Exchange} {r : Request} (h : Serving s x r)
    (hkind : x.frame.body.isSeek = true ∨ x.frame.body.isTransfer = true) (hopen : EarlyOpen x) :
    ∃ u, Taken s u r ∧ u.lu.exchange = none ∧ u.rdm.drive = s.rdm.drive ∧ exec .notReady s = .next (u.loseDrive true) := by
  obtain ⟨_, _, _, _, hreq, hte, _, hs, _, _⟩ := id h
  have ht := h.taken
  refine ⟨s.begin.endExchange.driveHeard.seekUnanswered x, State.seekUnanswered_taken ht (.inl hs), ?_, ?_, ?_⟩
  · simp [State.endExchange]
  · simp [State.driveHeard]
  · have hown : State.ownNotReady x s.begin.endExchange.driveHeard =
        (s.begin.endExchange.driveHeard.seekUnanswered x).loseDrive true := by
      have howns : s.begin.endExchange.driveHeard.ownsExchange x = true := by
        simp [State.ownsExchange, hreq, hte, State.begin]
      rw [State.ownNotReady, howns]
    rw [← hown, ← h.earlyAnswer hopen (fits := fun b => b.isSeek || b.isTransfer) (isSeek_or_isTransfer hkind)
      peerTransfers State.ownNotReady State.peerNotReady]
    rfl

/-- An early answer to the peer's transfer order. -/
theorem State.earlyAnswer_of_peer {s : State} {p : PeerExchange} {o : PeerOrder} (hx : s.lu.exchange = none)
    (hp : s.lu.peerExchange = some p) (ho : p.order = some o) (hne : o ≠ .sense) (fits : FrameBody → Bool)
    (own : Exchange → State → State) (peer : State → State) :
    (p.earlyOver = true → s.earlyAnswer fits peerTransfers own peer = s) ∧
      (p.earlyOver = false → s.earlyAnswer fits peerTransfers own peer =
        peer (s.onLu fun l => { l with peerExchange := none }).driveHeard) := by
  have htr : peerTransfers o = true := by cases o <;> first | rfl | exact absurd rfl hne
  have hpast : s.lu.pastEarly = p.earlyOver := by simp [LineUnit.pastEarly, hx, hp, ho, htr]
  refine ⟨fun h => if_pos (by rw [hpast, h]), fun h => ?_⟩
  rw [State.earlyAnswer, if_neg (by rw [hpast, h]; simp)]
  exact State.driveAnswer_of_peer _ _ _ _ hx hp ho htr

/-- The content of a DATA frame: 128 words and the status (11.7). -/
theorem contentOk_data {words : List Word} (hw : words.length = 128) {status : Word} (hs : status.toNat ≤ 1) :
    contentOk 14 (words ++ [status]) = true := by
  show ((words ++ [status]).length == 129 && decide (((words ++ [status]).getD 128 0).toNat ≤ 1)) = true
  simp [hw, hs]

/-- Settles O43: the failures of an order. -/
theorem ordersFail : Obligations.OrdersFail := by
  unfold Obligations.OrdersFail
  refine ⟨fun s hdrive => ⟨fun x hx htr hov => ?_, fun x r h hkind hopen => ?_, fun p o hx hp ho hne => ?_⟩, ?_⟩
  · have hsame := State.earlyAnswer_of_over (s := s.begin) hx htr hov (fun b => b.isSeek || b.isTransfer) peerTransfers
      State.ownNotReady State.peerNotReady
    exact congrArg Host.Outcome.next hsame
  · obtain ⟨u, ht, hxu, hdu, hexec⟩ := h.exec_notReady hkind hopen
    have hs := h.2.2.2.2.2.2.2.1
    obtain ⟨hasked, hleft, hdown, hexchange, _, hlost⟩ := State.loseDrive_ends ht.active
    obtain ⟨hc, hsil, hev, hcyl, hmov, hown, hphase⟩ := hlost (by rw [hdu]; exact hdrive)
    rw [hs] at hasked
    exact ⟨_, hexec, hdown, hc, hsil, hev, hcyl, hmov, hown, hexchange hxu, hphase, hasked, hleft⟩
  · obtain ⟨hover, hopen⟩ := State.earlyAnswer_of_peer (s := s.begin) hx hp ho hne
      (fun b => b.isSeek || b.isTransfer) State.ownNotReady State.peerNotReady
    refine ⟨fun h => ?_, fun h => congrArg Host.Outcome.next (hover h)⟩
    generalize hu : (s.begin.onLu fun l => { l with peerExchange := none }).driveHeard = u at hopen
    obtain ⟨hlost, hpeer⟩ := State.peerNotReady_lost (u := u) (by rw [← hu]; exact hdrive)
    refine ⟨_, congrArg Host.Outcome.next (hopen h), ?_, by rw [hpeer, ← hu]; rfl⟩
    subst hu
    exact hlost
  intro x r words s h hq hw closed ended
  obtain ⟨hx, ho, hdis, hlost, hreq, hte, hfind, hs, hsus, hdown⟩ := id h
  -- the engine acts in `v`
  generalize hv : s.begin.endExchange.driveHeard.releaseReceiving = v
  have ht : Taken s v r := by rw [← hv]; exact h.taken.releaseReceiving
  have howner (k : State → State) : s.begin.endExchange.driveHeard.forOwner x (fun s => s.notDone k) = k v := by
    rw [h.taken.forOwner hreq, h.taken.notDone hs hdown, hv]
  have hclosed {t : State} (k : EngineKept v t) : closed t := by
    refine ⟨k.exchange.trans ?_, k.rdm.trans ?_, k.chains.trans ht.chains⟩ <;> rw [← hv] <;> rfl
  refine ⟨fun htr hov => ?_, fun htr hov => ?_, fun d hd => ?_, fun d hd => ?_⟩
  · have hsame := State.earlyAnswer_of_over (s := s.begin) hx htr hov FrameBody.isTransfer peerTransfers
      (fun x s => s.forOwner x fun s => s.notDone fun s => s.slip .line) id
    exact congrArg Host.Outcome.next hsame
  · have hexec : exec .missed s = .next (v.slip .line) := by
      rw [← howner fun s => s.slip .line, ← h.earlyAnswer (fun _ => hov) htr peerTransfers
        (fun x s => s.forOwner x fun s => s.notDone fun s => s.slip .line) id]
      rfl
    refine ⟨_, hexec, hclosed (State.slip_engineKept _ _), fun h8 => State.slip_ends ht.active h8 _, fun h8 => ?_⟩
    rw [State.slip_of_lt ht.active h8, State.goOn_of_none (by exact ht.suspendAfter.trans hsus)]
    exact ⟨rfl, rfl, rfl, _, WorkQueue.mem_modify (fun x : Request => { x with slips := x.slips + 1 }) ht.mem, rfl⟩
  · have hexec : exec .writeFault s = .next (v.endRequest .fault (some .writeFault) false) := by
      rw [← howner fun s => s.endRequest .fault (some .writeFault) false,
        ← h.driveAnswer (fits := FrameBody.isWrite) (by rw [hd]; rfl) peerWrites
          (fun x s => s.forOwner x fun s => s.notDone fun s => s.endRequest .fault (some .writeFault) false) id]
      rfl
    exact ⟨_, hexec, hclosed (State.endRequest_engineKept _ _ _ _), State.endRequest_ends ht.active _ _ _⟩
  · have hok : contentOk 14 (words ++ [1]) = true := contentOk_data hw (by decide)
    have hexec : exec (.data words 1) s = .next v.dataCheck := by
      rw [← howner State.dataCheck]
      simp only [exec, execData]
      rw [if_pos hok, h.driveAnswer (by rw [hd]; rfl)]
      rfl
    have hcfg : v.cfg = s.cfg := by rw [← hv]; rfl
    refine ⟨_, hexec, hclosed (State.dataCheck_engineKept _), fun hl => State.dataCheck_ends ht.active (by rwa [hcfg]),
      fun hl => ?_⟩
    rw [State.dataCheck_of_lt ht.active (by rwa [hcfg]), State.goOn_of_none (by exact ht.suspendAfter.trans hsus)]
    exact ⟨rfl, rfl, _, WorkQueue.mem_modify (fun x : Request => { x with retries := x.retries + 1 }) ht.mem, rfl⟩

end Sys2Proof.Machine
end

section
/-! WRONG CYLINDER and SENSE REPLY (R96, R105, R132, R163). -/

namespace Sys2Proof.Machine

open Sys2Proof

/-! The sector positioned again under own tenure (R93). -/

/-- Where the record shows another cylinder than the target, the engine waits for tenure (R93). -/
theorem State.positionAt_wait {s : State} (hown : s.tm.own.isHolding = true)
    (hcyl : s.needsSeek s.te.target = true) : s.positionAt = s.waitTenure := by
  simp only [State.positionAt]
  cases ho : s.tm.own <;> simp_all [OwnTenure.isHolding]

theorem State.waitTenure_te (s : State) : s.waitTenure.te = { s.te with phase := .tenureWait, leadOpen := false } := by
  simp [State.waitTenure, State.setPhase]

theorem State.enterLead_te (s : State) : s.enterLead.te = { s.te with phase := .leadWait, leadOpen := s.inLeadSlot } := by
  simp [State.enterLead]

theorem State.waitTenure_wq (s : State) : s.waitTenure.wq = s.wq := by simp [State.waitTenure, State.setPhase]

theorem State.enterLead_wq (s : State) : s.enterLead.wq = s.wq := by simp [State.enterLead]

theorem State.following_of_phase_ne {s : State} {act : State → State} (h : (act s).te.phase ≠ .idle) :
    s.following act = act s := by
  rcases s.following_cases act with ⟨_, _, hp⟩ | ⟨he, _⟩
  · exact absurd hp h
  · exact he

/-- Under own tenure, the positioner still: LEAD WAIT on the right cylinder, TENURE WAIT elsewhere (R93). -/
theorem State.reposition_held {s : State} {r : Request} (ha : s.activeRequest = some r)
    (hown : s.tm.own.isHolding = true) (hmov : s.tm.moving = false) :
    s.reposition.wq = s.wq ∧ s.reposition.te.request = s.te.request ∧ s.reposition.te.phase =
      if s.tm.cylinder = some (s.nextTarget r).cylinder then .leadWait else .tenureWait := by
  generalize hv : s.onTe (fun t => { t with sector := r.done, target := s.nextTarget r }) = v
  have hpos : s.position = v.positionAt := by simp only [State.position, ha, hv]
  have htarget : v.te.target = s.nextTarget r := by rw [← hv]; rfl
  have hownv : v.tm.own.isHolding = true := by rw [← hv]; exact hown
  have hmovv : v.tm.moving = false := by rw [← hv]; exact hmov
  have hcyl : v.needsSeek v.te.target = decide (s.tm.cylinder ≠ some (s.nextTarget r).cylinder) := by
    rw [htarget, ← hv]
    simp [State.needsSeek, bne, Bool.beq_eq_decide_eq]
  have hreq : v.te.request = s.te.request := by rw [← hv]; rfl
  have hwq : v.wq = s.wq := by rw [← hv]; rfl
  by_cases hc : s.tm.cylinder = some (s.nextTarget r).cylinder
  · have hlead := hpos.trans (State.positionAt_lead hownv (by simp [hcyl, hc]) hmovv)
    have hphase : s.position.te.phase ≠ .idle := by rw [hlead, State.enterLead_te]; simp
    rw [State.reposition, State.following_of_phase_ne hphase, hlead, if_pos hc, State.enterLead_te, State.enterLead_wq]
    exact ⟨hwq, hreq, rfl⟩
  · have hwait := hpos.trans (State.positionAt_wait hownv (by simp [hcyl, hc]))
    have hphase : s.position.te.phase ≠ .idle := by rw [hwait, State.waitTenure_te]; simp
    rw [State.reposition, State.following_of_phase_ne hphase, hwait, if_neg hc, State.waitTenure_te,
      State.waitTenure_wq]
    exact ⟨hwq, hreq, rfl⟩

/-- A displacement under own tenure, with no suspension to come, the positioner still (R93, R105). -/
theorem State.displace_repositions {v : State} {r : Request} (ha : v.activeRequest = some r) (h3 : r.displacements < 3)
    (hown : v.tm.own.isHolding = true) (hsus : v.te.suspendAfter = false) (hmov : v.tm.moving = false) :
    { r with displacements := r.displacements + 1 } ∈ (v.displace State.reposition).wq.records ∧
      (v.displace State.reposition).te.request = v.te.request ∧ (v.displace State.reposition).te.phase =
        if v.tm.cylinder = some (v.nextTarget r).cylinder then .leadWait else .tenureWait := by
  rw [State.displace_of_lt ha h3]
  have haw := State.onRequest_activeRequest ha (f := fun x => { x with displacements := x.displacements + 1 }) fun _ => rfl
  generalize hw : (v.onRequest r.id fun x => { x with displacements := x.displacements + 1 }) = w at haw
  have hte : w.te = v.te := by rw [← hw]; rfl
  have htm : w.tm = v.tm := by rw [← hw]; rfl
  have htarget : w.nextTarget { r with displacements := r.displacements + 1 } = v.nextTarget r := by rw [← hw]; rfl
  rw [if_pos hown, State.goOn_of_none (by rw [hte]; exact hsus)]
  obtain ⟨hwq, hrequest, hphase⟩ := State.reposition_held haw (by rw [htm]; exact hown) (by rw [htm]; exact hmov)
  rw [hwq, hrequest, hphase, htarget, htm, hte]
  exact ⟨(State.activeRequest_mem haw).1, rfl, rfl⟩

/-! The content. -/

theorem contentOk_sense {flags cylinder : Word} (hc : cylinder.toNat ≤ 399) (hf : flags.toNat ≤ 3) :
    contentOk 15 [flags, cylinder] = true := by
  have hspare : spareBits flags 3 = false := by
    rw [spareBits_eq_false_iff]
    intro i hi
    fin_cases i <;> simp at hi ⊢ <;> omega
  show (!spareBits flags 3 && cylinderOk cylinder) = true
  rw [hspare]
  exact decide_eq_true hc

/-! An answer that does not fit (R119). -/

/-- An order whose exchange ends as a silence below the third, the request served and no slot ordered (R95, R96, R126). -/
theorem Serving.orderSilent {s : State} {x : Exchange} {r : Request} (h : Serving s x r)
    (hb : x.frame.body.isTransfer = false) (hfell : x.frame.body.isSeek = false ∨ x.cylinderFell = false)
    (hsil : s.rdm.silence < 2) : s.begin.orderSilent x =
      (s.begin.endExchange.onRdm fun m => { m with silence := m.silence + 1 }).releaseReceiving := by
  obtain ⟨_, _, hdis, hlost, hreq, hte, hfind, hs, hsus, hdown⟩ := id h
  generalize hv : s.begin.endExchange.onRdm (fun m => { m with silence := m.silence + 1 }) = v
  have ha : s.activeRequest = some r := by simpa only [State.activeRequest, hte] using hfind
  have ht : Taken s v r := .of_te ha (by rw [← hv]; rfl) (by rw [← hv]; rfl) (by rw [← hv]; rfl) (by rw [← hv]; rfl)
    (by rw [← hv]; rfl)
  have hun : s.begin.endExchange.seekUnanswered x = s.begin.endExchange := by
    rcases hfell with hf | hf <;> simp [State.seekUnanswered, hlost, hf]
  have howned : s.begin.endExchange.ownsExchange x = true := by
    simp [State.ownsExchange, hreq, hte, State.begin]
  have hlimit : ¬ Config.silenceLimit ≤ s.begin.endExchange.rdm.silence + 1 := by
    simp only [Config.silenceLimit, State.endExchange_frame, State.begin]
    omega
  have hgo : v.releaseReceiving.goOn id = v.releaseReceiving :=
    State.goOn_of_none (ht.releaseReceiving.suspendAfter.trans hsus) _
  simp only [State.orderSilent, hun, hdis, hlost, Bool.false_eq_true, if_false, howned, if_neg hlimit, hv, if_true,
    State.orderUnanswered, hb]
  rw [ht.notDone hs hdown, hgo]

theorem exec_wrongCylinder {s : State} {cylinder : Word} (hc : cylinder.toNat ≤ 399) :
    exec (.wrongCylinder cylinder) s = .next (s.begin.earlyAnswer FrameBody.isTransfer peerTransfers
      (fun x s => (State.actualCylinder cylinder s).forOwner x fun s => s.notDone fun s => s.displace State.reposition)
      (State.actualCylinder cylinder)) :=
  congrArg Host.Outcome.next (if_pos (decide_eq_true hc))

theorem exec_senseReply {s : State} {flags cylinder : Word} (hc : cylinder.toNat ≤ 399) (hf : flags.toNat ≤ 3) :
    exec (.senseReply flags cylinder) s = .next (s.begin.driveAnswer FrameBody.isSense peerSenses
      (State.ownSense flags cylinder) (State.peerSense flags cylinder)) :=
  congrArg Host.Outcome.next (if_pos (contentOk_sense hc hf))

/-- The order is of another kind than its neighbours in the table of replies. -/
theorem not_isTransfer_of_sense_or_seek {b : FrameBody} (h : b = .sense ∨ b.isSeek = true) : b.isTransfer = false := by
  rcases h with rfl | h
  · rfl
  · cases b <;> first | rfl | cases h

/-- Settles O45: WRONG CYLINDER and SENSE REPLY. -/
theorem driveTellsItsCylinder : Obligations.DriveTellsItsCylinder := by
  unfold Obligations.DriveTellsItsCylinder
  intro flags cylinder s hc hf
  refine ⟨fun x hx htr hov => ?_, fun x r h htr hov hq => ?_, fun x r h hkind hsil => ?_, fun x r h hb => ?_,
    fun p o hx hp ho => ⟨fun hne hov => ?_, fun hne hov => ?_, fun hsense hflag => ?_, fun hsense hflag => ?_⟩⟩
  · rw [exec_wrongCylinder hc, State.earlyAnswer_of_over (s := s.begin) hx htr hov]
    rfl
  · obtain ⟨_, _, _, _, hreq, hte, _, hs, hsus, hdown⟩ := id h
    generalize hv : (State.actualCylinder cylinder s.begin.endExchange.driveHeard).releaseReceiving = v
    have hta : Taken s (State.actualCylinder cylinder s.begin.endExchange.driveHeard) r :=
      h.taken.setPositioner (.inl hs) _ _
    have ht : Taken s v r := by rw [← hv]; exact hta.releaseReceiving
    have hexec : exec (.wrongCylinder cylinder) s = .next (v.displace State.reposition) := by
      rw [exec_wrongCylinder hc, h.earlyAnswer (fun _ => hov) htr, hta.forOwner hreq, hta.notDone hs hdown, hv]
    have hk : EngineKept v (v.displace State.reposition) := State.displace_engineKept _ State.reposition_engineKept
    have hcyl : v.tm.cylinder = some cylinder.toNat ∧ v.tm.moving = false := by rw [← hv]; exact ⟨rfl, rfl⟩
    refine ⟨_, hexec, hk.cylinder.trans hcyl.1, hk.moving.trans hcyl.2, hk.exchange.trans (by rw [← hv]; rfl),
      hk.rdm.trans (by rw [← hv]; rfl), fun h3 => State.displace_ends ht.active h3 _, fun h3 hown => ?_, fun h3 hown =>
        ht.suspended (State.displace_suspends ht.active (ht.nodup hq) h3 (.inl (by rw [ht.own]; exact hown)) _)⟩
    obtain ⟨hmem, hrequest, hphase⟩ := State.displace_repositions ht.active h3 (by rw [ht.own]; exact hown)
      (ht.suspendAfter.trans hsus) hcyl.2
    have htarget : v.nextTarget r = s.nextTarget r := by rw [← hv]; rfl
    refine ⟨hmem, hrequest.trans ht.request, ?_⟩
    rw [hphase, hcyl.1, htarget]
    simp only [Option.some.injEq, eq_comm]
  · have htr : x.frame.body.isTransfer = false :=
      not_isTransfer_of_sense_or_seek (hkind.imp_right fun h => h.1)
    have hexec : exec (.wrongCylinder cylinder) s = .next (s.begin.orderSilent x) := by
      rw [exec_wrongCylinder hc, State.earlyAnswer,
        if_neg (by simp [LineUnit.pastEarly, show s.lu.exchange = some x from h.1, htr]), State.driveAnswer,
        show s.begin.lu.exchange = some x from h.1]
      simp only [h.2.1, htr, if_true, Bool.false_and, Bool.false_eq_true, if_false]
    refine ⟨_, hexec, ?_⟩
    rw [h.orderSilent htr (hkind.imp (fun hb => by rw [hb]; rfl) fun h => h.2) hsil]
    exact ⟨rfl, rfl, rfl, rfl, rfl, rfl⟩
  · obtain ⟨_, _, _, _, hreq, hte, _, hs, hsus, hdown⟩ := id h
    have hexec : exec (.senseReply flags cylinder) s =
        .next (State.ownSense flags cylinder x s.begin.endExchange.driveHeard) := by
      rw [exec_senseReply hc hf, h.driveAnswer (by rw [hb]; rfl)]
    by_cases hflag : flags.getLsbD 1 = true
    · generalize hv : (State.sensed flags cylinder s.begin.endExchange.driveHeard).releaseReceiving = v
      have hta : Taken s (State.sensed flags cylinder s.begin.endExchange.driveHeard) r :=
        h.taken.setPositioner (.inl hs) _ _
      have hown : State.ownSense flags cylinder x s.begin.endExchange.driveHeard = v.goOn State.reposition := by
        rw [State.ownSense, if_pos (by exact hflag), hta.forOwner hreq, hta.notDone hs hdown, hv]
      have hk : EngineKept v (v.goOn State.reposition) := State.goOn_engineKept (State.reposition_engineKept _)
      rw [hown] at hexec
      have hrdm : (v.goOn State.reposition).rdm = { s.rdm with silence := 0 } := hk.rdm.trans (by rw [← hv]; rfl)
      exact ⟨_, hexec, hk.exchange.trans (by rw [← hv]; rfl), by rw [hrdm], fun _ =>
        ⟨hk.cylinder.trans (by rw [← hv]; rfl), hk.moving.trans (by rw [← hv]; rfl), hrdm⟩,
        fun hn => absurd (hflag.symm.trans hn) (by decide)⟩
    · have howns : s.begin.endExchange.driveHeard.ownsExchange x = true := by
        simp [State.ownsExchange, hreq, hte, State.begin]
      have hown : State.ownSense flags cylinder x s.begin.endExchange.driveHeard =
          s.begin.endExchange.driveHeard.loseDrive true := by
        rw [State.ownSense, if_neg (by exact hflag), howns]
      rw [hown] at hexec
      obtain ⟨hasked, hleft, hdrive, hexchange, hstays, hlost⟩ := State.loseDrive_ends h.taken.active
      rw [hs] at hasked
      refine ⟨_, hexec, hexchange rfl, ?_, fun hn => absurd hn hflag, fun _ => ⟨hdrive, fun hd => ?_⟩⟩
      · by_cases hd : s.rdm.drive = .down
        · rw [hstays hd]
          rfl
        · exact (hlost hd).2.1
      · obtain ⟨_, _, hev, hcyl, _⟩ := hlost hd
        exact ⟨hcyl, hev, hasked, hleft⟩
  · rw [exec_wrongCylinder hc, (State.earlyAnswer_of_peer (s := s.begin) hx hp ho hne _ _ _).1 hov]
    rfl
  · rw [exec_wrongCylinder hc, (State.earlyAnswer_of_peer (s := s.begin) hx hp ho hne _ _ _).2 hov]
    exact ⟨_, rfl, rfl, rfl, rfl, rfl⟩
  · rw [exec_senseReply hc hf, State.driveAnswer_of_peer (s := s.begin) _ _ _ _ hx hp ho (by rw [hsense]; rfl),
      State.peerSense, if_pos (by exact hflag)]
    exact ⟨_, rfl, rfl, rfl, rfl, rfl⟩
  · rw [exec_senseReply hc hf, State.driveAnswer_of_peer (s := s.begin) _ _ _ _ hx hp ho (by rw [hsense]; rfl),
      State.peerSense, if_neg (by rw [flag, hflag]; simp)]
    generalize hu : (s.begin.onLu fun l => { l with peerExchange := none }).driveHeard = u
    refine ⟨fun hd => ?_, fun hd => ?_⟩
    · obtain ⟨hlost, hpeer⟩ := State.peerNotReady_lost (u := u) (by rw [← hu]; exact hd)
      refine ⟨_, rfl, ?_, by rw [hpeer, ← hu]; rfl⟩
      subst hu
      exact hlost
    · have hstay : u.peerNotReady = u := State.following_driveDown_of_down (by rw [← hu]; exact hd)
      rw [hstay, ← hu]
      rfl

end Sys2Proof.Machine
end

section
/-! A sector done, where the queue holds a READY request of a STOPPING chain. -/

namespace Sys2Proof.Machine

open Sys2Proof

/-- A READY request of chain 1, which is STOPPING, on the same sectors as the request served; it relies on entry 0. -/
def leftBehind : Request :=
  { Tests.request 1 .read .ready with
    elem := ⟨1, 900, .disk .read, false, false, false⟩
    hold := some 0 }

/-- The implicit entry it relies on. -/
def leftBehindEntry : HoldEntry := ⟨0, 100, 3, .shared, 1, .implicit, .held, true, false, false, 1, none, 0, none, none⟩

/-- The first of three sectors of a WRITE is on the line, neither tenure stands, and the positioner moves. -/
def servedWhileMoving : State :=
  let s := Tests.serving (.write ⟨1, 1, 0⟩) (Tests.doing .write 0)
  { s with
    chains := s.chains.set 1 { Chain.reset with state := .stopping, inFlight := 1 }
    wq := ⟨[leftBehind, Tests.doing .write 0], 2⟩
    hm := ⟨[leftBehindEntry], [], 1⟩
    tm := { s.tm with own := .none, moving := true } }

theorem servedWhileMoving_serves :
    Serving servedWhileMoving (Tests.order (.write ⟨1, 1, 0⟩)) (Tests.doing .write 0) := by
  refine ⟨rfl, rfl, rfl, rfl, rfl, rfl, rfl, rfl, rfl, rfl⟩

theorem servedWhileMoving_namesFresh : NamesFresh servedWhileMoving :=
  ⟨by decide, by decide, by decide⟩

/-- The sector is done, the request is suspended, the READY one is chosen and suspended at once: it leaves ABORTED, and
its entry is gone. -/
theorem servedWhileMoving_written : (Tests.after .written servedWhileMoving).hm.list = [] := by decide

/-- Refutes O42: where the request served goes on, the Hold Manager need not stand. Positioning may suspend the request
(R93, R97), and the selection that follows may then take a READY request of another chain, which the statement does not
say to be RUNNING; suspended at once it leaves ABORTED (R85), and its reference to its entry ends (R155). -/
theorem not_sectorIsDone : ¬ Obligations.SectorIsDone := by
  unfold Obligations.SectorIsDone
  rintro ⟨h, -⟩
  obtain ⟨t, hexec, -, -, -, -, -, -, hholds, -⟩ := h (Tests.order (.write ⟨1, 1, 0⟩)) (Tests.doing .write 0)
    (List.replicate 128 0) servedWhileMoving servedWhileMoving_serves (by decide) List.length_replicate
    (fun hdirect => absurd hdirect (by decide)) rfl .written (.inl ⟨rfl, rfl, rfl⟩)
  have hstands : t.hm = servedWhileMoving.hm := (hholds servedWhileMoving_namesFresh).1 rfl
  have hgone := servedWhileMoving_written
  rw [Tests.after, hexec] at hgone
  rw [hstands] at hgone
  exact absurd hgone (by decide)

end Sys2Proof.Machine
end

section
/-! A sector done (R102): the counts, the marks and the fill mark, and what leaves the tables alone. -/

namespace Sys2Proof.Machine

open Sys2Proof

set_option Elab.async false

/-! The tables through the acts of the engine: an APPEND that leaves returns its reservation and its ownership, and no
other field of a descriptor changes (R35). -/

/-- Each descriptor is the same but for its reserved count and its owner. -/
def LogsKept (s t : State) : Prop :=
  ∀ x i, ∃ n o, t.ec.get x i = { s.ec.get x i with reserved := n, owner := o }

theorem LogsKept.of_ec {s t : State} (h : t.ec = s.ec) : LogsKept s t := fun x i => ⟨_, _, by rw [h]⟩

theorem LogsKept.refl (s : State) : LogsKept s s := .of_ec rfl

theorem LogsKept.trans {s t u : State} (h : LogsKept s t) (k : LogsKept t u) : LogsKept s u := by
  intro x i
  obtain ⟨n, o, ht⟩ := h x i
  obtain ⟨m, p, hu⟩ := k x i
  exact ⟨m, p, by rw [hu, ht]⟩

theorem getD_modify (l : List Descriptor) (i j : Nat) (f : Descriptor → Descriptor) (d : Descriptor) :
    (l.modify i f).getD j d = l.getD j d ∨ (l.modify i f).getD j d = f (l.getD j d) := by
  simp only [List.getD_eq_getElem?_getD, List.getElem?_modify]
  cases l[j]? with
  | none => exact .inl rfl
  | some e =>
    by_cases h : i = j
    · right; simp [h]
    · left; simp [h]

/-- A place of the tables after a change at one place. -/
theorem Extents.get_modify_cases (x : Extents) (t u : Table) (i j : Nat) (f : Descriptor → Descriptor) :
    (x.modify t i f).get u j = x.get u j ∨ (x.modify t i f).get u j = f (x.get u j) := by
  cases t <;> cases u
  · exact getD_modify x.priv i j f .empty
  · exact .inl rfl
  · exact .inl rfl
  · exact getD_modify x.comm i j f .empty

theorem State.leaveQueue_logsKept (s : State) (r : Request) (st : Status) (f : Option ElementFault) (m p : Bool) :
    LogsKept s (s.leaveQueue r st f m p) := by
  have hask (c : Completion) : LogsKept s (s.completeAfterData r.id c) := .of_ec (by simp)
  have hhold {u : State} (id : Nat) (hu : LogsKept s u) : LogsKept s (u.endReference id) := hu.trans (.of_ec (by simp))
  have hreturn {u : State} (t : Table) (i rest : Nat) (hu : LogsKept s u) :
      LogsKept s (u.onDescriptor t i fun d => d.returned r.id rest) := by
    refine hu.trans fun x j => ?_
    rcases u.ec.get_modify_cases t x i j (fun d => d.returned r.id rest) with h | h
    · exact ⟨_, _, h.trans rfl⟩
    · exact ⟨_, _, h⟩
  have hdrop {u : State} (hu : LogsKept s u) : LogsKept s (u.dropRequest r.id) := hu.trans (.of_ec rfl)
  simp only [State.leaveQueue]
  split <;> split
  · exact hdrop (hreturn _ _ _ (hask _))
  · exact hdrop (hreturn _ _ _ (hhold _ (hask _)))
  · exact hdrop (hask _)
  · exact hdrop (hhold _ (hask _))

theorem State.finish_logsKept (s : State) (st : Status) (f : Option ElementFault) (m : Bool) :
    LogsKept s (s.finish st f m) := by
  have hleave (u : State) (r : Request) : LogsKept u (u.completeRequest r st f m) := u.leaveQueue_logsKept r st f m _
  have hidle (u : State) : LogsKept u u.idleEngine := .of_ec (by simp)
  grind only [State.finish, LogsKept.trans]

theorem State.suspend_logsKept (s : State) : LogsKept s s.suspend := by
  have hstate (id : Nat) : LogsKept s (s.onRequest id fun x => { x with state := .ready }) := .of_ec rfl
  have hfinish : LogsKept s (s.finish .aborted none false) := s.finish_logsKept _ _ _
  have hidle (u : State) : LogsKept u u.idleEngine := .of_ec (by simp)
  grind only [State.suspend, State.handBack, LogsKept.trans]

theorem State.positionAt_logsKept (s : State) : LogsKept s s.positionAt := by
  have hwait : LogsKept s s.waitTenure := .of_ec (by simp [State.waitTenure, State.setPhase])
  have hlead : LogsKept s s.enterLead := .of_ec (by simp)
  have hsettle : LogsKept s s.enterSettle := .of_ec rfl
  have hphase : LogsKept s (s.setPhase .tenureWait) := .of_ec rfl
  have hsuspend := s.suspend_logsKept
  grind only [State.positionAt]

theorem State.position_logsKept (s : State) : LogsKept s s.position := by
  have hplace (f : Engine → Engine) : LogsKept s (s.onTe f) := .of_ec rfl
  have hat (u : State) : LogsKept u u.positionAt := u.positionAt_logsKept
  grind only [State.position, LogsKept.refl, LogsKept.trans]

theorem State.takeRequest_logsKept (s : State) (r : Request) : LogsKept s (s.takeRequest r) :=
  (LogsKept.of_ec (by simp)).trans (State.position_logsKept _)

theorem State.suspendAfterExchange_logsKept (s : State) : LogsKept s s.suspendAfterExchange := by
  have hmark : LogsKept s (s.onTe fun t => { t with suspendAfter := true }) := .of_ec rfl
  have hsuspend := s.suspend_logsKept
  grind only [State.suspendAfterExchange, LogsKept.refl]

theorem State.endTenure_logsKept (s : State) : LogsKept s s.endTenure := by
  simp only [State.endTenure]
  split
  · rename_i c n _
    have h1 : LogsKept s ((s.setOwn (.ending c n)).withdraw FrameBody.isTenure) := .of_ec rfl
    exact (h1.trans (State.suspendAfterExchange_logsKept _)).trans (.of_ec (by simp))
  · exact .refl s

theorem State.engineIdled_logsKept (s : State) : LogsKept s s.engineIdled := by
  have hform : LogsKept s s.formEligible := .of_ec rfl
  have hselect : LogsKept s s.select := by
    rcases s.select_cases with ⟨h, _⟩ | ⟨_, ⟨h, _⟩ | ⟨r, _, h⟩⟩ <;> rw [h]
    · exact .refl s
    · exact hform
    · exact hform.trans (State.takeRequest_logsKept _ r)
  have htest : LogsKept s.select s.select.idleTenureTest := by
    have hend := s.select.endTenure_logsKept
    grind only [State.idleTenureTest, LogsKept.refl]
  exact (hselect.trans htest).trans (.of_ec (by simp [State.engineIdled]))

theorem State.endRequest_logsKept (s : State) (st : Status) (f : Option ElementFault) (m : Bool) :
    LogsKept s (s.endRequest st f m) := (s.finish_logsKept st f m).trans (State.engineIdled_logsKept _)

/-! The counts of a sector done. -/

/-- The record with one sector more done (R102). -/
def Request.counted (r : Request) : Request := { r with done := r.done + 1, retries := 0, displacements := 0, slips := 0 }

/-- `w` is `u` with a sector of its request done: the counts of the record, the engine's sector and buffers, the data
asked, and the marks. -/
structure SectorCounted (u w : State) (r : Request) : Prop where
  active : w.activeRequest = some r.counted
  queue : w.wq = u.wq.modify r.id Request.counted
  kept : EngineKept u w
  own : w.tm.own = u.tm.own
  request : w.te.request = u.te.request
  phase : w.te.phase = u.te.phase
  suspendAfter : w.te.suspendAfter = u.te.suspendAfter
  downAfter : w.te.downAfter = u.te.downAfter
  maintenanceOver : w.te.maintenanceOver = u.te.maintenanceOver

theorem State.countSector_counted {u v : State} {r : Request} (ha : u.activeRequest = some r) (hwq : v.wq = u.wq)
    (hreq : v.te.request = u.te.request) (hphase : v.te.phase = u.te.phase)
    (hsus : v.te.suspendAfter = u.te.suspendAfter) (hdown : v.te.downAfter = u.te.downAfter)
    (hover : v.te.maintenanceOver = u.te.maintenanceOver) (hk : EngineKept u v) (hown : v.tm.own = u.tm.own) :
    SectorCounted u (v.countSector r) r where
  active := by
    have hav : v.activeRequest = some r := by simpa only [State.activeRequest, hwq, hreq] using ha
    exact State.onRequest_activeRequest hav (f := Request.counted) fun _ => rfl
  queue := by rw [← hwq]; rfl
  kept := hk.trans (.refl v)
  own := hown
  request := hreq
  phase := hphase
  suspendAfter := hsus
  downAfter := hdown
  maintenanceOver := hover

/-- The tables and the holds after a sector written (R34, R37, R158). -/
theorem State.reportWritten_marks (s : State) (r : Request) {p : Table × Nat} (hp : r.extent = some p)
    (hk : r.kind = .write ∨ r.kind = .append) :
    let d := s.ec.get p.1 p.2
    let e := (s.reportWritten r).ec.get p.1 p.2
    d.kind ≠ .empty → e.written = true ∧ (r.kind = .append → e.fill =
      if d.wrap = true ∧ d.limit ≤ d.fill then 0 else d.fill + 1) := by
  intro d e hd
  rcases hk with hk | hk
  · have he : e = { d with written := true } := by
      have hec : (s.reportWritten r).ec = s.ec.modify p.1 p.2 fun d => { d with written := true } := by
        simp only [State.reportWritten, hk, hp]
        split <;> rfl
      exact (congrArg (fun x : Extents => x.get p.1 p.2) hec).trans (Extents.get_modify _ hd)
    rw [he]
    exact ⟨rfl, fun h => by rw [hk] at h; cases h⟩
  · have he : e = d.appended := by
      have hec : (s.reportWritten r).ec = s.ec.modify p.1 p.2 Descriptor.appended := by
        simp only [State.reportWritten, hk, hp]
        rfl
      exact (congrArg (fun x : Extents => x.get p.1 p.2) hec).trans (Extents.get_modify _ hd)
    rw [he]
    simp only [Descriptor.appended, Descriptor.advanceFill]
    by_cases hw : d.wrap = true
    · by_cases hl : d.limit ≤ d.fill
      · simp [hw, hl]
      · simp [hw, hl]
    · simp [hw]

/-- A buffer replaced leaves the rest of the engine. -/
theorem Engine.setBuf_eq (t : Engine) (n : BufferName) (b : SectorBuffer) :
    t.setBuf n b = { t with bufA := (t.setBuf n b).bufA, bufB := (t.setBuf n b).bufB } := by cases n <;> rfl

theorem State.emptyLoaded_te (u : State) (r : Request) : (u.emptyLoaded r).te =
    { u.te with bufA := (u.emptyLoaded r).te.bufA, bufB := (u.emptyLoaded r).te.bufB } := by
  simp only [State.emptyLoaded]
  split
  · rfl
  · exact Engine.setBuf_eq _ _ _

theorem State.unloadSector_te (u : State) (r : Request) (words : List Word) : (u.unloadSector r words).te =
    { u.te with bufA := (u.unloadSector r words).te.bufA, bufB := (u.unloadSector r words).te.bufB } := by
  simp only [State.unloadSector]
  split
  · rfl
  · exact Engine.setBuf_eq _ _ _

/-- WRITTEN to the engine's WRITE order, up to what becomes of the request (R102). -/
theorem State.sectorWritten_counts {u : State} {r : Request} (ha : u.activeRequest = some r) :
    let w := ((u.emptyLoaded r).countSector r).reportWritten r
    SectorCounted u w r ∧ u.sectorWritten = w.afterSector r true := by
  refine ⟨?_, by simp only [State.sectorWritten, ha]⟩
  have hempty := u.emptyLoaded_te r
  obtain ⟨hactive, hqueue, hkept, hown, h1, h2, h3, h4, h5⟩ := State.countSector_counted (v := u.emptyLoaded r) ha
    (by simp) (by rw [hempty]) (by rw [hempty]) (by rw [hempty]) (by rw [hempty]) (by rw [hempty])
    (by simp [EngineKept]) (by simp)
  have hte := State.reportWritten_frame ((u.emptyLoaded r).countSector r) r
  constructor
  · simpa only [State.activeRequest, hte] using hactive
  · simpa only [hte] using hqueue
  · exact hkept.trans (by simp [EngineKept])
  all_goals simpa only [hte]

/-- The engine through the data of a sector: only its buffers may change (R99, R106, R107). -/
theorem State.handleData_te (u : State) (r : Request) (words : List Word) : (u.handleData r words).te =
    { u.te with bufA := (u.handleData r words).te.bufA, bufB := (u.handleData r words).te.bufB } := by
  simp only [State.handleData]
  split
  · exact u.unloadSector_te r words
  · exact u.unloadSector_te r words
  · exact u.emptyLoaded_te r
  · rfl
  · rfl

/-- Clean DATA to the engine's READ order, up to what becomes of the request (R102). -/
theorem State.dataClean_counts {u : State} {r : Request} (ha : u.activeRequest = some r) (words : List Word) :
    let w := (u.handleData r words).countSector r
    SectorCounted u w r ∧ u.dataClean words = w.afterSector r (u.sectorTest r words) := by
  refine ⟨?_, by simp only [State.dataClean, ha]⟩
  have hte := u.handleData_te r words
  exact State.countSector_counted ha (by simp) (by rw [hte]) (by rw [hte]) (by rw [hte]) (by rw [hte]) (by rw [hte])
    (by simp [EngineKept]) (by simp)

end Sys2Proof.Machine
end

section
/-! The end of the exchange of a request that does not go on, or that is to be suspended (R97, R111, R112, R166). -/

namespace Sys2Proof.Machine

open Sys2Proof

/-! An own order's exchange that ends, by an answer or by none. -/

section
variable {s : State} {x : Exchange} (hx : s.lu.exchange = some x) (ho : x.frame.body.isOrder = true)
  (hd : x.discarded = false)
include hx ho hd

theorem State.ownAnswer {fits : FrameBody → Bool} (hf : fits x.frame.body = true) (fitsPeer : PeerOrder → Bool)
    (own : Exchange → State → State) (peer : State → State) :
    s.begin.driveAnswer fits fitsPeer own peer = own x s.begin.endExchange.driveHeard :=
  State.driveAnswer_of_own _ _ _ _ (s := s.begin) hx ho hf hd

theorem State.ownEarlyAnswer (hopen : EarlyOpen x) {fits : FrameBody → Bool} (hf : fits x.frame.body = true)
    (fitsPeer : PeerOrder → Bool) (own : Exchange → State → State) (peer : State → State) :
    s.begin.earlyAnswer fits fitsPeer own peer = own x s.begin.endExchange.driveHeard := by
  have hpast : s.lu.pastEarly = false := LineUnit.pastEarly_of_open hx hopen
  rw [State.earlyAnswer, if_neg (by simp [hpast])]
  exact State.ownAnswer hx ho hd hf _ _ _

omit hx ho in
/-- The silence of an own order whose request the engine works on (R104, R112, R126, R166). -/
theorem State.orderSilent_eq {r : Request} (hreq : x.request = some r.id) (hte : s.te.request = some r.id) :
    s.begin.orderSilent x =
      let v := s.begin.endExchange.seekUnanswered x
      if x.lost then v.notDone id
      else if 2 ≤ s.rdm.silence then v.loseDrive true
      else (v.onRdm fun m => { m with silence := m.silence + 1 }).orderUnanswered x.frame.body := by
  have howned : (s.begin.endExchange.seekUnanswered x).ownsExchange x = true := by
    simp [State.ownsExchange, hreq, hte, State.begin]
  have hsil : (s.begin.endExchange.seekUnanswered x).rdm = s.rdm := by simp
  simp only [State.orderSilent, hd, Bool.false_eq_true, if_false, howned, if_true, hsil, Config.silenceLimit]
  split
  · rfl
  · by_cases h2 : 2 ≤ s.rdm.silence
    · rw [if_pos (by omega), if_pos h2]
    · rw [if_neg (by omega), if_neg h2]

omit hd in
theorem exec_answerWindowClose_order {elapsed : Nat} (hw : x.window ≤ elapsed)
    (hlast : x.frame.body.isTransfer = false ∨ x.earlyOver = true ∨ x.slotBegun = false) :
    exec (.answerWindowClose elapsed) s = .next (s.begin.orderSilent x) := by
  have hends : x.ends elapsed = true := by
    simp only [Exchange.ends, Bool.and_eq_true, decide_eq_true_eq, Bool.or_eq_true, Bool.not_eq_true']
    exact ⟨hw, by tauto⟩
  have hclose := State.closeWindow_of_own (s := s.begin) elapsed hx
  rw [if_pos hends, State.exchangeSilent, if_pos ho] at hclose
  exact congrArg Host.Outcome.next hclose

end

theorem State.ownAnswer_taken {s : State} {r : Request} (hte : s.te.request = some r.id)
    (hfind : s.wq.find r.id = some r) : Taken s s.begin.endExchange.driveHeard r := by
  have ha : s.activeRequest = some r := by simpa only [State.activeRequest, hte] using hfind
  exact .of_te ha rfl rfl rfl rfl rfl

theorem State.noAnswer_taken {s : State} {r : Request} (hte : s.te.request = some r.id)
    (hfind : s.wq.find r.id = some r) : Taken s s.begin.endExchange r := by
  have ha : s.activeRequest = some r := by simpa only [State.activeRequest, hte] using hfind
  exact .of_te ha rfl rfl rfl rfl rfl

/-! The request does not go on (R111, R112). -/

/-- The status of a request that does not go on after its exchange. -/
def Request.endStatus (r : Request) : Status := if r.state = .ending then .aborted else .fault

/-- Its fault. -/
def Request.endFault (r : Request) : Option ElementFault := if r.state = .ending then none else some .driveDown

/-- The request will not go on after its exchange. -/
abbrev Finishes (s : State) (r : Request) : Prop := r.state = .ending ∨ r.state = .active ∧ s.te.downAfter = true

theorem Finishes.busy {s : State} {r : Request} (h : Finishes s r) : r.state = .active ∨ r.state = .ending :=
  h.elim .inr fun h => .inl h.1

theorem Taken.notDone_finishes {s u : State} {r : Request} (h : Taken s u r) (hf : Finishes s r) (k : State → State) :
    u.notDone k = u.releaseReceiving.endRequest r.endStatus r.endFault false := by
  rcases hf with hs | ⟨hs, hd⟩
  · simp [State.notDone, h.active, Request.endStatus, Request.endFault, hs]
  · simp [State.notDone, h.active, Request.endStatus, Request.endFault, hs, h.downAfter, hd]

theorem Taken.notDone_ends {s u : State} {r : Request} (h : Taken s u r) (hf : Finishes s r) (k : State → State) :
    EngineKept u (u.notDone k) ∧ CompletionAsked (u.notDone k) r r.endStatus r.endFault ∧ Left (u.notDone k) r.id := by
  rw [h.notDone_finishes hf]
  have hk : EngineKept u u.releaseReceiving := .refl u
  exact ⟨hk.trans (State.endRequest_engineKept _ _ _ _), State.endRequest_ends h.releaseReceiving.active _ _ _⟩

/-- A sector done of a request that does not go on counts first (R102, R111, R112). -/
theorem SectorCounted.finishes {u w : State} {r : Request} (h : SectorCounted u w r) (hf : Finishes u r) (same : Bool) :
    w.afterSector r same = w.endRequest r.endStatus r.endFault false := by
  rcases hf with hs | ⟨hs, hd⟩
  · simp [State.afterSector, Request.endStatus, Request.endFault, hs]
  · simp [State.afterSector, Request.endStatus, Request.endFault, hs, h.downAfter, hd]

/-- A sector done of a request to be suspended counts first (R97, R102). -/
theorem SectorCounted.suspends {s u w : State} {r : Request} (hu : Taken s u r) (h : SectorCounted u w r)
    (hq : (s.wq.records.map Request.id).Nodup) (hs : r.state = .active) (hsus : s.te.suspendAfter = true)
    (hdown : s.te.downAfter = false) {same : Bool} (hstops : r.stops same = none) :
    SuspendedAs s (w.afterSector r same) r r.counted := by
  have hafter : w.afterSector r same = w.goOn fun s => s.loadAhead.reposition := by
    simp [State.afterSector, hs, h.downAfter, hu.downAfter, hdown, hstops]
  have hids : w.wq.records.map Request.id = s.wq.records.map Request.id := by
    rw [h.queue, WorkQueue.modify_ids _ _ (f := Request.counted) fun _ => rfl, hu.ids]
  have hmay : w.mayNotReturn r.counted = s.mayNotReturn r := by
    rw [← hu.mayNotReturn]
    simp only [State.mayNotReturn, State.chain, h.kept.chains, h.kept.adapter, h.maintenanceOver]
    rfl
  rw [hafter]
  exact (State.goOn_suspends h.active (by rwa [hids]) (h.suspendAfter.trans (hu.suspendAfter.trans hsus)) _).of_changed
    rfl hmay hids

/-! The answers, and what each leaves before the engine acts. -/

/-- `u` is `s` with the answer of the drive taken. -/
abbrev Heard (s u : State) : Prop := u.lu.exchange = none ∧ u.rdm = { s.rdm with silence := 0 } ∧ u.chains = s.chains

theorem Heard.of_kept {s u t : State} (h : Heard s u) (hk : EngineKept u t) : Heard s t :=
  ⟨hk.exchange.trans h.1, hk.rdm.trans h.2.1, hk.chains.trans h.2.2⟩

theorem Heard.begin (s : State) : Heard s s.begin.endExchange.driveHeard := ⟨rfl, rfl, rfl⟩

theorem Heard.setPositioner {s u : State} (h : Heard s u) (c : Option Nat) (m : Bool) : Heard s (u.setPositioner c m) := by
  simpa [Heard] using h

/-- The positioner record that an ACCEPTED leaves (R132, R166). -/
def State.acceptedRecord (s : State) (x : Exchange) : State :=
  let u := s.setPositioner (some x.frame.body.seekCylinder) true
  if x.lost then u.setPositioner none false else u

section
variable {s u : State} {r : Request} {x : Exchange}

theorem Taken.acceptedRecord (h : Taken s u r) (hs : r.state = .active ∨ r.state = .ending) :
    Taken s (u.acceptedRecord x) r := by
  simp only [State.acceptedRecord]
  split
  · exact (h.setPositioner hs _ _).setPositioner hs _ _
  · exact h.setPositioner hs _ _

theorem Heard.acceptedRecord (h : Heard s u) : Heard s (u.acceptedRecord x) := by
  simp only [State.acceptedRecord]
  split
  · exact (h.setPositioner _ _).setPositioner _ _
  · exact h.setPositioner _ _

theorem State.acceptedRecord_tm : (u.acceptedRecord x).tm.cylinder = (if x.lost then none else some x.frame.body.seekCylinder) ∧
    (u.acceptedRecord x).tm.moving = !x.lost := by
  simp only [State.acceptedRecord]
  cases x.lost <;> exact ⟨rfl, rfl⟩

theorem Taken.busyRecord (h : Taken s u r) (hs : r.state = .active ∨ r.state = .ending) :
    Taken s (u.busyRecord x) r := by
  simp only [State.busyRecord, State.setMoving]
  split
  · exact h.setPositioner hs _ _
  · exact h.setPositioner hs _ _

theorem Heard.busyRecord (h : Heard s u) : Heard s (u.busyRecord x) := by
  simp only [State.busyRecord, State.setMoving]
  split
  · exact h.setPositioner _ _
  · exact h.setPositioner _ _

theorem State.busyRecord_tm : if x.frame.body.isSeek = true ∧ x.lost = true then
      (u.busyRecord x).tm.cylinder = none ∧ (u.busyRecord x).tm.moving = false
    else (u.busyRecord x).tm.cylinder = u.tm.cylinder ∧ (u.busyRecord x).tm.moving = true := by
  simp only [State.busyRecord, State.setMoving, Bool.and_eq_true]
  split <;> exact ⟨rfl, rfl⟩

end

theorem exec_accepted {s : State} {x : Exchange} (hx : s.lu.exchange = some x) (ho : x.frame.body.isOrder = true)
    (hd : x.discarded = false) (hf : x.frame.body.isSeek = true) :
    exec .accepted s = .next (State.seekAccepted x s.begin.endExchange.driveHeard) :=
  congrArg Host.Outcome.next (State.ownAnswer hx ho hd hf noPeerOrder State.seekAccepted id)

theorem exec_busy {s : State} {x : Exchange} (hx : s.lu.exchange = some x) (ho : x.frame.body.isOrder = true)
    (hd : x.discarded = false) (hopen : EarlyOpen x) (hf : x.frame.body.isSeek = true ∨ x.frame.body.isTransfer = true) :
    exec .busy s = .next (State.ownBusy x s.begin.endExchange.driveHeard) :=
  congrArg Host.Outcome.next (State.ownEarlyAnswer hx ho hd hopen (fits := fun b => b.isSeek || b.isTransfer)
    (isSeek_or_isTransfer hf) peerTransfers State.ownBusy id)

theorem exec_missed {s : State} {x : Exchange} (hx : s.lu.exchange = some x) (ho : x.frame.body.isOrder = true)
    (hd : x.discarded = false) (hov : x.earlyOver = false) (hf : x.frame.body.isTransfer = true) :
    exec .missed s = .next (s.begin.endExchange.driveHeard.forOwner x fun s => s.notDone fun s => s.slip .line) :=
  congrArg Host.Outcome.next (State.ownEarlyAnswer hx ho hd (fun _ => hov) hf peerTransfers
    (fun x s => s.forOwner x fun s => s.notDone fun s => s.slip .line) id)

theorem exec_writeFault {s : State} {x : Exchange} (hx : s.lu.exchange = some x) (ho : x.frame.body.isOrder = true)
    (hd : x.discarded = false) (hf : x.frame.body.isWrite = true) :
    exec .writeFault s = .next (s.begin.endExchange.driveHeard.forOwner x fun s =>
      s.notDone fun s => s.endRequest .fault (some .writeFault) false) :=
  congrArg Host.Outcome.next (State.ownAnswer hx ho hd hf peerWrites
    (fun x s => s.forOwner x fun s => s.notDone fun s => s.endRequest .fault (some .writeFault) false) id)

theorem exec_written {s : State} {x : Exchange} (hx : s.lu.exchange = some x) (ho : x.frame.body.isOrder = true)
    (hd : x.discarded = false) (hf : x.frame.body.isWrite = true) :
    exec .written s = .next (s.begin.endExchange.driveHeard.forOwner x State.sectorWritten) :=
  congrArg Host.Outcome.next (State.ownAnswer hx ho hd hf peerWrites (fun x s => s.forOwner x State.sectorWritten) id)

theorem exec_data {s : State} {x : Exchange} (hx : s.lu.exchange = some x) (ho : x.frame.body.isOrder = true)
    (hd : x.discarded = false) (hf : x.frame.body.isRead = true) {words : List Word} (hw : words.length = 128)
    {status : Word} (hst : status.toNat ≤ 1) : exec (.data words status) s =
      .next (s.begin.endExchange.driveHeard.forOwner x (State.ownData words (status == 0))) := by
  simp only [exec, execData]
  rw [if_pos (contentOk_data hw hst), State.ownAnswer hx ho hd hf]

theorem exec_notReady_order {s : State} {x : Exchange} (hx : s.lu.exchange = some x) (ho : x.frame.body.isOrder = true)
    (hd : x.discarded = false) (hopen : EarlyOpen x) (hf : x.frame.body.isSeek = true ∨ x.frame.body.isTransfer = true) :
    exec .notReady s = .next (State.ownNotReady x s.begin.endExchange.driveHeard) :=
  congrArg Host.Outcome.next (State.ownEarlyAnswer hx ho hd hopen (fits := fun b => b.isSeek || b.isTransfer)
    (isSeek_or_isTransfer hf) peerTransfers State.ownNotReady State.peerNotReady)

end Sys2Proof.Machine
end

section
/-! The exchange of a request that does not go on, or that is to be suspended, ends (R97, R111, R112, R166). -/

namespace Sys2Proof.Machine

open Sys2Proof

theorem isSense_of {b : FrameBody} (h : b = .sense) : b.isSense = true := by rw [h]; rfl

theorem seekCylinder_of {b : FrameBody} {y : Nat} (h : b = .seek y) : b.seekCylinder = y := by rw [h]; rfl

/-- A sector done counts first, then the request ends (R102, R111, R112). -/
theorem SectorCounted.ends {s u w : State} {r : Request} {same : Bool} (hu : Taken s u r) (hh : Heard s u)
    (h : SectorCounted u w r) (hf : Finishes s r) :
    let t := w.afterSector r same
    Heard s t ∧ Left t r.id ∧ LogsKept w t ∧
      ∃ c ∈ asked t, c.info = r.elem ∧ c.status = r.endStatus ∧ c.fault = r.endFault ∧ c.done = r.done + 1 ∧
        c.place = r.extent := by
  have hfu : Finishes u r := hf.imp_right fun h => ⟨h.1, hu.downAfter.trans h.2⟩
  rw [h.finishes hfu]
  obtain ⟨⟨c, hc, hinfo, hst, hfault, hdone, hplace, _⟩, hleft⟩ :=
    State.endRequest_ends h.active r.endStatus r.endFault false
  exact ⟨(hh.of_kept h.kept).of_kept (State.endRequest_engineKept _ _ _ _), hleft, State.endRequest_logsKept _ _ _ _,
    c, hc, hinfo, hst, hfault, hdone, hplace⟩

/-- The marks of a sector written stay when its request ends. -/
theorem LogsKept.marks {w t : State} (h : LogsKept w t) (p : Table × Nat) :
    (t.ec.get p.1 p.2).written = (w.ec.get p.1 p.2).written ∧ (t.ec.get p.1 p.2).fill = (w.ec.get p.1 p.2).fill := by
  obtain ⟨n, o, he⟩ := h p.1 p.2
  rw [he]
  exact ⟨rfl, rfl⟩

/-- WRITTEN, or clean DATA, to the order of a request that does not go on. -/
theorem sectorDone_finishes {s : State} {x : Exchange} {r : Request} {words : List Word} (h : Finishing s x r)
    (hw : words.length = 128) {y : Instr} (hy : y = .written ∧ x.frame.body.isWrite = true ∧ r.kind.writes = true ∨
      y = .data words 0 ∧ x.frame.body.isRead = true ∧ r.kind.writes = false) :
    ∃ t, exec y s = .next t ∧ Heard s t ∧ Left t r.id ∧
      (∃ u ∈ asked t, u.info = r.elem ∧ u.status = r.endStatus ∧ u.fault = r.endFault ∧ u.done = r.done + 1 ∧
        u.place = r.extent) ∧
      ∀ p, r.extent = some p → r.kind = .write ∨ r.kind = .append →
        let d := s.ec.get p.1 p.2
        let e := t.ec.get p.1 p.2
        d.kind ≠ .empty → e.written = true ∧ (r.kind = .append → e.fill =
          if d.wrap = true ∧ d.limit ≤ d.fill then 0 else d.fill + 1) := by
  obtain ⟨hx, ho, hd, hreq, hte, hfind, hf⟩ := h
  have ht := State.ownAnswer_taken hte hfind
  have hh := Heard.begin s
  rcases hy with ⟨rfl, hb, _⟩ | ⟨rfl, hb, hk⟩
  · obtain ⟨hcount, hdone⟩ := State.sectorWritten_counts ht.active
    obtain ⟨hheard, hleft, hlogs, hasked⟩ := hcount.ends (same := true) ht hh hf
    refine ⟨_, (exec_written hx ho hd hb).trans (by rw [ht.forOwner hreq, hdone]), hheard, hleft, hasked,
      fun p hp hkind => ?_⟩
    intro d e hkd
    obtain ⟨hwritten, hfill⟩ := hlogs.marks p
    have hec : ((s.begin.endExchange.driveHeard.emptyLoaded r).countSector r).ec = s.ec := by
      simp [State.endExchange, State.driveHeard, State.begin]
    have hmarks := State.reportWritten_marks
      ((s.begin.endExchange.driveHeard.emptyLoaded r).countSector r) r hp hkind
    simp only [hec] at hmarks
    obtain ⟨hm, hfm⟩ := hmarks hkd
    exact ⟨hwritten.trans hm, fun ha => hfill.trans (hfm ha)⟩
  · obtain ⟨hcount, hdone⟩ := State.dataClean_counts ht.active words
    obtain ⟨hheard, hleft, hlogs, hasked⟩ := hcount.ends ht hh hf
    refine ⟨_, (exec_data hx ho hd hb hw (by decide)).trans (by rw [ht.forOwner hreq]; exact congrArg _ hdone),
      hheard, hleft, hasked, fun p hp hkind => ?_⟩
    exfalso
    rcases hkind with hkind | hkind <;> simp [hkind, RequestKind.writes] at hk

/-- WRITTEN, or clean DATA, to the order of a request to be suspended, with a sector left. -/
theorem sectorDone_suspends {s : State} {x : Exchange} {r : Request} {words : List Word} (h : Suspending s x r)
    (hq : (s.wq.records.map Request.id).Nodup) (hw : words.length = 128) (hleft : r.done + 1 < r.count) {y : Instr}
    (hy : y = .written ∧ x.frame.body.isWrite = true ∧ r.kind.writes = true ∨
      y = .data words 0 ∧ x.frame.body.isRead = true ∧ (r.kind = .read ∨ r.kind = .directRead)) :
    ∃ t, exec y s = .next t ∧ Heard s t ∧ SuspendedAs s t r r.counted := by
  obtain ⟨hx, ho, hd, _, hreq, hte, hfind, hs, hsus, hdown⟩ := h
  have ht := State.ownAnswer_taken hte hfind
  have hh := Heard.begin s
  have hkept {u w : State} (hk : SectorCounted u w r) (same : Bool) : EngineKept w (w.afterSector r same) := by
    have hload (u : State) : EngineKept u u.loadAhead.reposition :=
      (State.loadAhead_engineKept u).trans (State.reposition_engineKept _)
    simp only [State.afterSector]
    repeat' split
    · exact State.endRequest_engineKept _ _ _ _
    · exact State.endRequest_engineKept _ _ _ _
    · exact State.endRequest_engineKept _ _ _ _
    · exact State.goOn_engineKept (hload _)
  have hstops (hk : r.kind ≠ .compare ∧ r.kind ≠ .scan) (same : Bool) : r.stops same = none := by
    simp only [Request.stops]
    split
    · exact absurd ‹_› hk.1
    · exact absurd ‹_› hk.2
    · rw [if_neg (by omega)]
  rcases hy with ⟨rfl, hb, hk⟩ | ⟨rfl, hb, hk⟩
  · obtain ⟨hcount, hdone⟩ := State.sectorWritten_counts ht.active
    refine ⟨_, (exec_written hx ho hd hb).trans (by rw [ht.forOwner hreq, hdone]),
      (hh.of_kept hcount.kept).of_kept (hkept hcount _), hcount.suspends ht hq hs hsus hdown (hstops ?_ _)⟩
    constructor <;> intro hkind <;> simp [hkind, RequestKind.writes] at hk
  · obtain ⟨hcount, hdone⟩ := State.dataClean_counts ht.active words
    refine ⟨_, (exec_data hx ho hd hb hw (by decide)).trans (by rw [ht.forOwner hreq]; exact congrArg _ hdone),
      (hh.of_kept hcount.kept).of_kept (hkept hcount _), hcount.suspends ht hq hs hsus hdown (hstops ?_ _)⟩
    constructor <;> intro hkind <;> simp [hkind] at hk

/-- Settles O44: the exchange of a request that does not go on, and of one that is to be suspended. -/
theorem exchangesOfEndingRequestsEnd : Obligations.ExchangesOfEndingRequestsEnd := by
  unfold Obligations.ExchangesOfEndingRequestsEnd
  constructor
  · intro x r words c elapsed s h hq hw hc st f b heard ended record lostSeek
    obtain ⟨hx, ho, hd, hreq, hte, hfind, hf⟩ := id h
    have ht := State.ownAnswer_taken hte hfind
    have hh := Heard.begin s
    have hbusy : r.state = .active ∨ r.state = .ending := Finishes.busy (s := s) hf
    -- the engine is told of the end
    have hend {u : State} (hu : Taken s u r) (hhu : Heard s u) (k : State → State) :
        heard (u.forOwner x fun s => s.notDone k) ∧ ended (u.forOwner x fun s => s.notDone k) ∧
          EngineKept u (u.forOwner x fun s => s.notDone k) := by
      rw [hu.forOwner hreq]
      obtain ⟨hk, hasked, hleft⟩ := hu.notDone_ends hf k
      exact ⟨hhu.of_kept hk, ⟨hasked, hleft⟩, hk⟩
    refine ⟨fun hb => ?_, fun hb hopen => ?_, fun hb hov => ⟨?_, ?_⟩, fun hb => ?_, fun hb => ?_, fun hb => ?_,
      fun hb hopen => ?_, fun y hy => sectorDone_finishes h hw hy, fun hwin hlast => ?_⟩
    · have hu := ht.acceptedRecord (x := x) hbusy
      obtain ⟨hheard, hended, hk⟩ := hend hu hh.acceptedRecord fun s => s.goOn State.enterSettle
      refine ⟨_, exec_accepted hx ho hd hb, hheard, hended, fun y hy => ?_⟩
      obtain ⟨hcyl, hmov⟩ := State.acceptedRecord_tm (u := s.begin.endExchange.driveHeard) (x := x)
      rw [seekCylinder_of hy] at hcyl
      cases hl : x.lost <;> rw [hl] at hcyl hmov
      · exact ⟨hk.cylinder.trans hcyl, hk.moving.trans hmov⟩
      · exact ⟨hk.cylinder.trans hcyl, hk.moving.trans hmov⟩
    · have hu := ht.busyRecord (x := x) hbusy
      obtain ⟨hheard, hended, hk⟩ := hend hu hh.busyRecord fun s => s.displace State.enterSettle
      refine ⟨_, exec_busy hx ho hd hopen hb, hheard, hended, ?_⟩
      have htm := State.busyRecord_tm (u := s.begin.endExchange.driveHeard) (x := x)
      split at htm
      · rename_i hl
        rw [if_pos hl]
        exact ⟨hk.cylinder.trans htm.1, hk.moving.trans htm.2⟩
      · rename_i hl
        rw [if_neg hl]
        exact ⟨hk.cylinder.trans htm.1, hk.moving.trans htm.2⟩
    · obtain ⟨hheard, hended, _⟩ := hend ht hh fun s => s.slip .line
      exact ⟨_, exec_missed hx ho hd hov hb, hheard, hended⟩
    · have hu := ht.setPositioner hbusy (some c.toNat) false
      obtain ⟨hheard, hended, hk⟩ := hend hu (hh.setPositioner _ _) fun s => s.displace State.reposition
      refine ⟨_, (exec_wrongCylinder hc).trans (congrArg _ (State.ownEarlyAnswer hx ho hd (fun _ => hov) hb _ _ _)),
        hheard, hended, hk.cylinder, hk.moving⟩
    · obtain ⟨hheard, hended, _⟩ := hend ht hh fun s => s.endRequest .fault (some .writeFault) false
      exact ⟨_, exec_writeFault hx ho hd hb, hheard, hended⟩
    · obtain ⟨hheard, hended, _⟩ := hend ht hh State.dataCheck
      exact ⟨_, exec_data hx ho hd hb hw (by decide), hheard, hended⟩
    · have hu := ht.setPositioner hbusy (some c.toNat) false
      obtain ⟨hheard, hended, hk⟩ := hend hu (hh.setPositioner _ _) fun s => s.goOn State.reposition
      refine ⟨_, (exec_senseReply hc (by decide)).trans (congrArg _ (State.ownAnswer hx ho hd (isSense_of hb) _ _ _)),
        hheard, hended, hk.cylinder, hk.moving⟩
    · have hu := State.seekUnanswered_taken (x := x) ht hbusy
      have howns : s.begin.endExchange.driveHeard.ownsExchange x = true := by
        simp [State.ownsExchange, hreq, hte, State.begin]
      obtain ⟨hasked, hleft, hdown, hexchange, _⟩ := State.loseDrive_ends hu.active
      refine ⟨_, (exec_notReady_order hx ho hd hopen hb).trans (congrArg _ (by rw [State.ownNotReady, howns])), hexchange ?_,
        hdown, hasked, hleft⟩
      simp [State.endExchange]
    · have hv := State.seekUnanswered_taken (x := x) (State.noAnswer_taken hte hfind) hbusy
      have hexv : (s.begin.endExchange.seekUnanswered x).lu.exchange = none := by simp [State.endExchange]
      have hrdmv : (s.begin.endExchange.seekUnanswered x).rdm = s.rdm := by simp [State.begin]
      have hsilent := State.orderSilent_eq hd hreq hte
      refine ⟨_, exec_answerWindowClose_order hx ho hwin hlast, ?_⟩
      rw [hsilent]
      cases hl : x.lost
      · by_cases h2 : 2 ≤ s.rdm.silence
        · obtain ⟨hasked, hleft, hdown, hexchange, _⟩ := State.loseDrive_ends hv.active
          simp only [Bool.false_eq_true, if_false, if_pos h2]
          exact ⟨hexchange hexv, ⟨hasked, hleft⟩, by simp, fun _ h => by omega, fun _ _ => hdown⟩
        · have hvs : Taken s ((s.begin.endExchange.seekUnanswered x).onRdm fun m => { m with silence := m.silence + 1 }) r :=
            ⟨hv.1, hv.2, hv.3, hv.4, hv.5, hv.6, hv.7, hv.8, hv.9, hv.10, hv.11, hv.12⟩
          obtain ⟨hk, hasked, hleft⟩ := hvs.notDone_ends hf fun s => if b.isTransfer then s.slip .line else s.goOn id
          simp only [Bool.false_eq_true, if_false, if_neg h2]
          refine ⟨hk.exchange.trans hexv, ⟨hasked, hleft⟩, by simp, fun _ _ => hk.rdm.trans ?_, fun _ h => absurd h h2⟩
          rw [State.onRdm_rdm, hrdmv]
      · obtain ⟨hk, hasked, hleft⟩ := hv.notDone_ends hf id
        simp only [if_true]
        refine ⟨hk.exchange.trans hexv, ⟨hasked, hleft⟩, fun _ => ⟨hk.rdm.trans hrdmv, fun hb => ?_⟩, by simp, by simp⟩
        have hrec : s.begin.endExchange.seekUnanswered x = s.begin.endExchange.setPositioner none false :=
          if_pos (by simp [hl]; exact hb)
        rw [hrec] at hk
        rw [hrec]
        exact ⟨hk.cylinder, hk.moving⟩
  · intro x r words c elapsed s h hq hw hc b heard displaced slipped
    obtain ⟨hx, ho, hd, hlost, hreq, hte, hfind, hs, hsus, hdown⟩ := id h
    have ht := State.ownAnswer_taken hte hfind
    have hh := Heard.begin s
    -- the engine acts by `k` on a sector that is not done
    have hgo {u : State} (hu : Taken s u r) (k : State → State) :
        Taken s u.releaseReceiving r ∧ (u.forOwner x fun s => s.notDone k) = k u.releaseReceiving :=
      ⟨hu.releaseReceiving, by rw [hu.forOwner hreq, hu.notDone hs hdown]⟩
    have hsusv {v : State} (hv : Taken s v r) : v.te.suspendAfter = true := hv.suspendAfter.trans hsus
    refine ⟨fun hb => ?_, fun hb hopen h3 => ?_, fun hb hov => ⟨fun h8 => ?_, fun h3 => ?_⟩, fun hb hlimit => ?_, fun hb => ?_,
      fun y hy hleft => sectorDone_suspends h hq hw hleft hy, fun hwin hlast h2 => ?_⟩
    · obtain ⟨hv, hact⟩ := hgo (ht.acceptedRecord (x := x) (.inl hs)) fun s => s.goOn State.enterSettle
      exact ⟨_, (exec_accepted hx ho hd hb).trans (congrArg _ hact),
        hh.acceptedRecord.of_kept (u := (s.begin.endExchange.driveHeard.acceptedRecord x).releaseReceiving)
          (State.goOn_engineKept (State.enterSettle_engineKept _)),
        hv.suspended (State.goOn_suspends hv.active (hv.nodup hq) (hsusv hv) _)⟩
    · obtain ⟨hv, hact⟩ := hgo (ht.busyRecord (x := x) (.inl hs)) fun s => s.displace State.enterSettle
      exact ⟨_, (exec_busy hx ho hd hopen hb).trans (congrArg _ hact),
        hh.busyRecord.of_kept (u := (s.begin.endExchange.driveHeard.busyRecord x).releaseReceiving)
          (State.displace_engineKept _ State.enterSettle_engineKept),
        hv.suspended (State.displace_suspends hv.active (hv.nodup hq) h3 (.inr (hsusv hv)) _)⟩
    · obtain ⟨hv, hact⟩ := hgo ht fun s => s.slip .line
      exact ⟨_, (exec_missed hx ho hd hov hb).trans (congrArg _ hact),
        hh.of_kept (u := s.begin.endExchange.driveHeard.releaseReceiving) (State.slip_engineKept _ _),
        hv.suspended (State.slip_suspends hv.active (hv.nodup hq) h8 (hsusv hv) _)⟩
    · obtain ⟨hv, hact⟩ := hgo (ht.setPositioner (.inl hs) (some c.toNat) false) fun s => s.displace State.reposition
      exact ⟨_, ((exec_wrongCylinder hc).trans (congrArg _ (State.ownEarlyAnswer hx ho hd (fun _ => hov) hb _ _ _))).trans
          (congrArg _ hact),
        (hh.setPositioner (some c.toNat) false).of_kept
          (u := (s.begin.endExchange.driveHeard.setPositioner (some c.toNat) false).releaseReceiving)
          (State.displace_engineKept _ State.reposition_engineKept),
        hv.suspended (State.displace_suspends hv.active (hv.nodup hq) h3 (.inr (hsusv hv)) _)⟩
    · obtain ⟨hv, hact⟩ := hgo ht State.dataCheck
      have hcfg : s.begin.endExchange.driveHeard.releaseReceiving.cfg = s.cfg := rfl
      exact ⟨_, (exec_data hx ho hd hb hw (by decide)).trans (congrArg _ hact),
        hh.of_kept (u := s.begin.endExchange.driveHeard.releaseReceiving) (State.dataCheck_engineKept _),
        hv.suspended (State.dataCheck_suspends hv.active (hv.nodup hq) (by rwa [hcfg]) (hsusv hv))⟩
    · obtain ⟨hv, hact⟩ := hgo (ht.setPositioner (.inl hs) (some c.toNat) false) fun s => s.goOn State.reposition
      exact ⟨_, ((exec_senseReply hc (by decide)).trans (congrArg _ (State.ownAnswer hx ho hd (isSense_of hb) _ _ _))).trans
          (congrArg _ hact),
        (hh.setPositioner (some c.toNat) false).of_kept
          (u := (s.begin.endExchange.driveHeard.setPositioner (some c.toNat) false).releaseReceiving)
          (State.goOn_engineKept (State.reposition_engineKept _)),
        hv.suspended (State.goOn_suspends hv.active (hv.nodup hq) (hsusv hv) _)⟩
    · have hsilent := State.orderSilent_eq hd hreq hte
      simp only [hlost, Bool.false_eq_true, if_false, if_neg (show ¬ 2 ≤ s.rdm.silence by omega)] at hsilent
      generalize hu : (s.begin.endExchange.seekUnanswered x).onRdm (fun m => { m with silence := m.silence + 1 }) = u
        at hsilent
      have hv := State.seekUnanswered_taken (x := x) (State.noAnswer_taken hte hfind) (.inl hs)
      have hus : Taken s u r := by
        rw [← hu]
        exact ⟨hv.1, hv.2, hv.3, hv.4, hv.5, hv.6, hv.7, hv.8, hv.9, hv.10, hv.11, hv.12⟩
      have hexu : u.lu.exchange = none := by rw [← hu]; simp [State.endExchange]
      have hrdmu : u.rdm = { s.rdm with silence := s.rdm.silence + 1 } := by rw [← hu]; simp [State.begin]
      have hw' : Taken s u.releaseReceiving r := hus.releaseReceiving
      refine ⟨_, exec_answerWindowClose_order hx ho hwin hlast, ?_⟩
      rw [hsilent, State.orderUnanswered, hus.notDone hs hdown]
      cases hb : x.frame.body.isTransfer
      · simp only [Bool.false_eq_true, if_false]
        have hk : EngineKept u.releaseReceiving (u.releaseReceiving.goOn id) := State.goOn_engineKept (.refl _)
        refine ⟨hk.exchange.trans hexu, hk.rdm.trans hrdmu, fun _ => ?_, by simp⟩
        exact hw'.suspended (State.goOn_suspends hw'.active (hw'.nodup hq) (hsusv hw') _)
      · simp only [if_true]
        have hk : EngineKept u.releaseReceiving (u.releaseReceiving.slip .line) := State.slip_engineKept _ _
        refine ⟨hk.exchange.trans hexu, hk.rdm.trans hrdmu, by simp, fun _ h8 => ?_⟩
        exact hw'.suspended (State.slip_suspends hw'.active (hw'.nodup hq) h8 (hsusv hw') _)

end Sys2Proof.Machine
end

section
/-! The engine where no own tenure stands (R78, R82, R93, R97): what follows an idle engine leaves BLOCKED requests
where they are, finds nothing where nothing may ride along, and asks nothing while the peer's record stands. -/

namespace Sys2Proof.Machine

open Sys2Proof

/-! Records that selection passes by. -/

theorem State.eligible_ready {s : State} {r : Request} (h : s.eligible r = true) : r.state = .ready := by
  simp only [State.eligible, Bool.and_eq_true, beq_iff_eq] at h
  exact h.1.1.1.1.1

theorem State.formEligible_mem {s : State} {r : Request} (hr : r ∈ s.wq.records) (h : s.eligible r = false) :
    r ∈ s.formEligible.wq.records := by
  simp only [State.formEligible, State.onWq_wq]
  exact List.mem_map.mpr ⟨r, hr, by simp [h]⟩

/-- A record taken leaves every other that is not in HOLD-WAIT where it is. -/
theorem State.takeRequest_mem {s : State} {q r : Request} (hr : r ∈ s.wq.records) (hs : r.state ≠ .holdWait)
    (hne : q.id ≠ r.id) : r ∈ (s.takeRequest q).wq.records := by
  simp only [State.takeRequest]
  generalize ht : ((s.onRequest q.id fun x => { x with state := .active }).onTe fun t => { t with
    request := some q.id
    sector := q.done
    target := (s.onRequest q.id fun x => { x with state := .active }).nextTarget q
    lastSlip := .none
    maintenanceOver := false }).loadAhead = t
  have hreq : t.te.request = some q.id := by rw [← ht]; simp [State.loadAhead_te]
  have hmem : r ∈ t.wq.records := by
    rw [← ht]
    simp only [State.loadAhead_frame, State.onTe_wq, State.onRequest, State.onWq_wq]
    exact WorkQueue.mem_modify_of_ne _ hr (Ne.symm hne)
  simp only [State.position]
  split
  · exact hmem
  · rename_i v _
    generalize hp : t.onTe (fun e => { e with sector := v.done, target := t.nextTarget v }) = p
    have hpw : p.wq = t.wq ∧ p.te.request = t.te.request := by rw [← hp]; simp
    rcases p.positionAt_cases with h | ⟨h, _⟩
    · rw [h]
      exact (p.suspend_queue (by rwa [hpw.1]) hs (by rw [hpw.2, hreq]; simpa using hne)).2.2
    · rw [h, hpw.1]
      exact hmem

theorem State.select_blocked {s : State} {r : Request} (hq : (s.wq.records.map Request.id).Nodup)
    (hr : r ∈ s.wq.records) (hs : r.state = .blocked) : r ∈ s.select.wq.records := by
  have hnot (u : State) : u.eligible r = false := by
    by_contra h
    have := State.eligible_ready (by simpa using h)
    simp [hs] at this
  have hform := State.formEligible_mem hr (hnot s)
  rcases s.select_cases with ⟨h, _⟩ | ⟨_, ⟨h, _⟩ | ⟨q, hc, h⟩⟩ <;> rw [h]
  · exact hr
  · exact hform
  · obtain ⟨hqm, hqe⟩ := State.choice_mem hc
    refine State.takeRequest_mem hform (by simp [hs]) fun hid => ?_
    obtain rfl : q = r := List.inj_on_of_nodup_map (by rwa [s.formEligible_ids]) hqm hform hid
    simp [hnot] at hqe

/-- A BLOCKED request stands where it is after an engine has gone IDLE (R79, R82). -/
theorem State.engineIdled_blocked {s : State} {r : Request} (hq : (s.wq.records.map Request.id).Nodup)
    (hr : r ∈ s.wq.records) (hs : r.state = .blocked) : r ∈ s.engineIdled.wq.records := by
  have hmem := State.select_blocked hq hr hs
  have hneeds : s.select.wq.needsPositioner = true :=
    List.any_eq_true.mpr ⟨r, hmem, by simp [hs]⟩
  have htest : s.select.idleTenureTest = s.select := by simp [State.idleTenureTest, hneeds]
  rw [State.engineIdled, htest]
  simpa using hmem

/-- An engine gone IDLE has not taken a BLOCKED request. -/
theorem State.engineIdled_spares {s : State} {r : Request} (hq : (s.wq.records.map Request.id).Nodup)
    (hr : r ∈ s.wq.records) (hs : r.state = .blocked) (hreq : s.te.request ≠ some r.id) :
    s.engineIdled.te.request ≠ some r.id := by
  have hmem := State.select_blocked hq hr hs
  have hneeds : s.select.wq.needsPositioner = true :=
    List.any_eq_true.mpr ⟨r, hmem, by simp [hs]⟩
  have htest : s.select.idleTenureTest = s.select := by simp [State.idleTenureTest, hneeds]
  rw [State.engineIdled, htest, (State.offerRelease_frame _).2.2.2.2.1]
  have hnot : s.eligible r = false := by
    by_contra h
    have := State.eligible_ready (by simpa using h)
    simp [hs] at this
  rcases s.select_cases with ⟨h, _⟩ | ⟨_, ⟨h, _⟩ | ⟨q, hc, h⟩⟩ <;> rw [h]
  · exact hreq
  · exact hreq
  · obtain ⟨hqm, hqe⟩ := State.choice_mem hc
    have hne : q.id ≠ r.id := fun hid => by
      obtain rfl : q = r := List.inj_on_of_nodup_map (by rwa [s.formEligible_ids]) hqm (State.formEligible_mem hr hnot) hid
      have := State.eligible_ready hqe
      simp [hs] at this
    simp only [State.takeRequest]
    rcases State.position_request _ with he | he <;> rw [he]
    · simpa [State.loadAhead_te] using hne
    · simp

/-! Nothing may be selected. -/

theorem State.select_of_none {s : State} (h : ∀ q ∈ s.wq.records, s.eligible q = false) : s.select = s := by
  have hform : s.formEligible = s := by
    have hmap : s.wq.records.map (fun r => if s.eligible r then s.withCost r else r) = s.wq.records :=
      (List.map_congr_left fun q hq => by simp [h q hq]).trans (List.map_id _)
    simp only [State.formEligible, State.onWq, hmap]
  have hchoice : s.choice = none := by
    have hnil : s.wq.records.filter (fun r => s.eligible r) = [] := List.filter_eq_nil_iff.mpr fun q hq => by simp [h q hq]
    simp only [State.choice, hnil]
    rfl
  simp only [State.select, hform, hchoice]
  split <;> rfl

/-- With no own tenure and nothing that may be selected, an idle engine stays so. -/
theorem State.engineIdled_of_none {s : State} (ho : s.tm.own = .none)
    (h : ∀ q ∈ s.wq.records, s.eligible q = false) : s.engineIdled = s := by
  rw [State.engineIdled, State.select_of_none h, State.idleTenureTest_of_not_holding (by simp [ho, OwnTenure.isHolding])]
  simp [State.offerRelease, ho, OwnTenure.isEnding]

/-- Under the peer's tenure a request that needs a seek is not selected (R78, R81). -/
theorem State.not_eligible_of_seek {s : State} {q : Request} (ho : s.tm.own = .none) (hp : s.tm.peer.isSome = true)
    (hn : NeedsSeek s q) : s.eligible q = false := by
  obtain ⟨p, hp⟩ := Option.isSome_iff_exists.mp hp
  have hseek : s.needsSeek (s.nextTarget q) = true := by simpa [State.needsSeek] using hn
  simp [State.eligible, State.hasAccess, ho, hp, hseek]

/-! The peer's tenure stands, and no own one. -/

/-- Where no own tenure stands and the peer's does, none comes to stand and no TENURE is offered. -/
def Rides (s t : State) : Prop := t.tm = s.tm ∧ NoNew FrameBody.isTenure s t

theorem Rides.refl (s : State) : Rides s s := ⟨rfl, .refl s⟩

theorem Rides.trans {s t u : State} (h : Rides s t) (k : Rides t u) : Rides s u :=
  ⟨k.1.trans h.1, h.2.trans k.2⟩

theorem State.handBack_rides (s : State) (q : Request → RequestState) : Rides s (s.handBack q) :=
  ⟨by simp, s.handBack_noNew sparesHolds_isTenure q⟩

theorem State.tryOrder_noTenure (s : State) : NoNew FrameBody.isTenure s s.tryOrder := by
  simp only [State.tryOrder]
  split
  · exact .refl _
  · split
    · refine State.offer_noNew _ ?_
      simp only [Engine.order]
      split <;> rfl
    · exact .refl _

theorem State.enterLead_rides (s : State) : Rides s s.enterLead := by
  have hlead : NoNew FrameBody.isTenure s (s.onTe fun t => { t with phase := .leadWait, leadOpen := s.inLeadSlot }) :=
    .of_frames rfl
  exact ⟨by simp, hlead.trans (State.tryOrder_noTenure _)⟩

section
variable {s : State} (ho : s.tm.own = .none) (hp : s.tm.peer.isSome = true)
include ho hp

theorem State.positionAt_rides : Rides s s.positionAt := by
  obtain ⟨p, hp⟩ := Option.isSome_iff_exists.mp hp
  simp only [State.positionAt, ho, hp]
  split
  · exact s.handBack_rides _
  · exact s.enterLead_rides

theorem State.position_rides : Rides s s.position := by
  simp only [State.position]
  split
  · exact .refl s
  · have hplace (f : Engine → Engine) : Rides s (s.onTe f) := ⟨rfl, .of_frames rfl⟩
    exact (hplace _).trans (State.positionAt_rides ho hp)

theorem State.engineIdled_rides : Rides s s.engineIdled := by
  have hform : Rides s s.formEligible := ⟨rfl, .of_frames rfl⟩
  have hselect : Rides s s.select := by
    rcases s.select_cases with ⟨h, _⟩ | ⟨_, ⟨h, _⟩ | ⟨r, _, h⟩⟩ <;> rw [h]
    · exact .refl s
    · exact hform
    · simp only [State.takeRequest]
      generalize ht : ((s.formEligible.onRequest r.id fun x => { x with state := .active }).onTe _).loadAhead = t
      have htm : t.tm = s.tm := by rw [← ht]; simp
      have hst : Rides s t := ⟨htm, .of_frames (by rw [← ht]; simp)⟩
      exact hst.trans (State.position_rides (by rw [htm, ho]) (by rw [htm, hp]))
  have hend : s.engineIdled = s.select := by
    rw [State.engineIdled, State.idleTenureTest_of_not_holding (by rw [hselect.1, ho]; rfl), State.offerRelease,
      hselect.1, ho]
    rfl
  rw [hend]
  exact hselect

theorem State.reposition_rides : Rides s s.reposition := by
  have hpos := State.position_rides ho hp
  rcases s.following_cases State.position with ⟨h, _⟩ | ⟨h, _⟩ <;> rw [State.reposition, h]
  · exact hpos.trans (State.engineIdled_rides (by rw [hpos.1, ho]) (by rw [hpos.1, hp]))
  · exact hpos

theorem State.tenureRefused_rides : Rides s s.tenureRefused := by
  simp only [State.tenureRefused]
  split
  · have hback : Rides s s.giveBack := s.handBack_rides _
    exact hback.trans (State.engineIdled_rides (by rw [hback.1, ho]) (by rw [hback.1, hp]))
  · exact .refl s

end

end Sys2Proof.Machine
end

section
/-! The own TENURE settled by ACK or CLASH (R94, R133, R134, R136, R139). -/

namespace Sys2Proof.Machine

open Sys2Proof

/-! An ask refused: what becomes of the request that waited (R85, R86, R94). -/

/-- A return in a state whose queue bears the names of an earlier one, of the record before its state changed. -/
theorem Returned.before {s u t : State} {r : Request} {st : RequestState} (h : Returned u t { r with state := st })
    (hids : u.wq.records.map Request.id = s.wq.records.map Request.id) : Returned s t r := by
  obtain ⟨⟨v, hv, hplace, hafresh⟩, hsub, hfree⟩ := h
  exact ⟨⟨v, hv, hplace, hafresh⟩, hids ▸ hsub, hfree⟩

theorem MayWait.of_mayNotReturn {s t : State} {r : Request} (h : s.mayNotReturn r = false) (st : RequestState)
    (hchains : t.chains = s.chains) (hadapter : t.hp.adapter = s.hp.adapter) : MayWait t { r with state := st } := by
  simp only [State.mayNotReturn, Bool.or_eq_false_iff, Bool.and_eq_false_iff, beq_eq_false_iff_ne] at h
  refine ⟨by simpa only [State.chain, hchains] using h.1, fun hd => ?_⟩
  have hd' : r.isDirect = true := hd
  rcases h.2 with hn | ⟨hm, _⟩
  · simp [hd'] at hn
  · simpa [hadapter] using hm

/-- The engine gives its request back in a state (R85, R86). -/
theorem State.handBack_gives {s : State} {r : Request} (ha : s.activeRequest = some r) (hm : s.mayNotReturn r = false)
    (q : Request → RequestState) :
    EngineFree (s.handBack q) ∧ (s.handBack q).wq = s.wq.modify r.id fun x => { x with state := q x } := by
  have h : s.handBack q = (s.onRequest r.id fun x => { x with state := q x }).idleEngine := by
    simp [State.handBack, ha, hm]
  rw [h]
  exact ⟨State.idleEngine_free _, by simp [State.onRequest]⟩

theorem State.tenureRefused_eq {s : State} (hp : s.te.phase = .tenureWait) : s.tenureRefused = s.giveBack.engineIdled :=
  if_pos (by simp [hp])

section
variable {s : State} {r : Request} (hp : s.te.phase = .tenureWait) (ha : s.activeRequest = some r)
include hp ha

theorem State.tenureRefused_aborts (hm : s.mayNotReturn r = true) :
    CompletionAsked s.tenureRefused r .aborted none ∧ Left s.tenureRefused r.id := by
  have h : s.giveBack = s.finish .aborted none false := by simp [State.giveBack, State.handBack, ha, hm]
  obtain ⟨_, hasked, hleft, _⟩ := State.finish_leaves ha .aborted none false
  have hi := s.giveBack.engineIdled_sheds
  rw [State.tenureRefused_eq hp]
  rw [← h] at hasked hleft
  exact ⟨hi.asked hasked, hi.left hleft⟩

theorem State.tenureRefused_blocks (hm : s.mayNotReturn r = false) (hq : (s.wq.records.map Request.id).Nodup)
    (hs : r.started = false) :
    { r with state := .blocked } ∈ s.tenureRefused.wq.records ∧ s.tenureRefused.te.request ≠ some r.id := by
  obtain ⟨hfree, hwq⟩ := State.handBack_gives ha hm fun r => if r.started then .ready else .blocked
  have hmem : { r with state := .blocked } ∈ s.giveBack.wq.records := by
    rw [State.giveBack, hwq]
    have := WorkQueue.mem_modify (fun x : Request => { x with state := if x.started then .ready else .blocked })
      (State.activeRequest_mem ha).1
    simpa [hs] using this
  have hids : (s.giveBack.wq.records.map Request.id).Nodup := by
    rw [State.giveBack, hwq, WorkQueue.modify_ids _ _ (by simp)]
    exact hq
  rw [State.tenureRefused_eq hp]
  exact ⟨State.engineIdled_blocked hids hmem rfl,
    State.engineIdled_spares (r := { r with state := .blocked }) hids hmem rfl (by rw [State.giveBack, hfree.1]; simp)⟩

theorem State.tenureRefused_returns (hm : s.mayNotReturn r = false) (hq : (s.wq.records.map Request.id).Nodup)
    (hs : r.started = true) : Returned s s.tenureRefused r := by
  obtain ⟨hfree, hwq⟩ := State.handBack_gives ha hm fun r => if r.started then .ready else .blocked
  have hmem : { r with state := .ready } ∈ s.giveBack.wq.records := by
    rw [State.giveBack, hwq]
    have := WorkQueue.mem_modify (fun x : Request => { x with state := if x.started then .ready else .blocked })
      (State.activeRequest_mem ha).1
    simpa [hs] using this
  have hids : s.giveBack.wq.records.map Request.id = s.wq.records.map Request.id := by
    rw [State.giveBack, hwq, WorkQueue.modify_ids _ _ (by simp)]
  rw [State.tenureRefused_eq hp]
  exact (State.engineIdled_returns (by rwa [hids]) hmem rfl
    (MayWait.of_mayNotReturn hm .ready (by simp [State.giveBack]) (by simp [State.giveBack])) hfree).before hids

end

/-- Under the peer's tenure, with nothing left that may ride along, the engine stays IDLE (R78, R82, R94). -/
theorem State.tenureRefused_stays {s : State} {r : Request} (hp : s.te.phase = .tenureWait)
    (ha : s.activeRequest = some r) (hm : s.mayNotReturn r = false) (hq : (s.wq.records.map Request.id).Nodup)
    (ho : s.tm.own = .none) (hpeer : s.tm.peer.isSome = true)
    (hseek : ∀ q ∈ s.wq.records, q.state = .ready → NeedsSeek s q) (hr : r.started = true → NeedsSeek s r) :
    s.tenureRefused.te.phase = .idle ∧ s.tenureRefused.te.request = none ∧
      s.tenureRefused.wq = s.wq.modify r.id fun x => { x with state := if x.started then .ready else .blocked } := by
  obtain ⟨hfree, hwq⟩ := State.handBack_gives ha hm fun r => if r.started then .ready else .blocked
  have hstay : s.giveBack.engineIdled = s.giveBack := by
    refine State.engineIdled_of_none (by simp [State.giveBack, ho]) fun q hqm => ?_
    rw [State.giveBack, hwq] at hqm
    by_cases hs : q.state = .ready
    · refine State.not_eligible_of_seek (by simp [State.giveBack, ho]) (by simpa [State.giveBack] using hpeer) ?_
      have hnext : s.tm.cylinder ≠ some (s.nextTarget q).cylinder := by
        obtain ⟨q', hq', rfl⟩ := List.mem_map.mp hqm
        by_cases hid : q'.id = r.id
        · obtain rfl : q' = r := List.inj_on_of_nodup_map hq hq' (State.activeRequest_mem ha).1 hid
          have hst : q'.started = true := by
            by_contra hns
            simp [hns] at hs
          simp only [BEq.rfl, if_true]
          exact hr hst
        · rw [if_neg (by simpa using hid)] at hs ⊢
          exact hseek q' hq' hs
      have hsame : s.giveBack.nextTarget q = s.nextTarget q := by
        have h : s.giveBack = (s.onRequest r.id fun x => { x with state := if x.started then .ready else .blocked }).idleEngine := by
          simp [State.giveBack, State.handBack, ha, hm]
        rw [h]
        simp [State.nextTarget, State.sectorTarget, State.blockOf, State.descriptorOf, State.cfg]
      rw [NeedsSeek, hsame]
      simpa [State.giveBack] using hnext
    · simp [State.eligible, hs]
  rw [State.tenureRefused_eq hp, hstay]
  exact ⟨hfree.2.1, hfree.1, hwq⟩

/-- The review of a record that needs a seek, under the peer's tenure (R79). -/
theorem State.reviewed_of_seek {s : State} (hp : s.tm.peer.isSome = true) {r : Request}
    (hn : r.state = .ready ∨ r.state = .blocked → NeedsSeek s r) :
    s.reviewed r = if r.state = .ready then { r with state := .blocked } else r := by
  have hseek (h : r.state = .ready ∨ r.state = .blocked) : s.needsSeek (s.nextTarget r) = true := by
    simpa [State.needsSeek] using hn h
  cases hs : r.state <;> simp_all [State.reviewed, Option.isSome_iff_ne_none]

theorem State.reviewed_of_active {s : State} {r : Request} (h : r.state = .active) : s.reviewed r = r := by
  simp [State.reviewed, h]

theorem State.handBack_free (s : State) (q : Request → RequestState) : EngineFree (s.handBack q) := by
  rcases s.handBack_cases q with ⟨h, _⟩ | ⟨r, hr, ⟨_, h⟩ | ⟨_, h⟩⟩ <;> rw [h]
  · exact State.idleEngine_free _
  · exact (State.finish_leaves hr _ _ _).2.2.2
  · exact State.idleEngine_free _

/-! A tenure HOLDING: the engine positions without giving up its request or the tenure (R93). -/

theorem State.position_held {s : State} (ho : s.tm.own.isHolding = true) :
    s.position.tm = s.tm ∧ (s.te.phase ≠ .idle → s.position.te.phase ≠ .idle) := by
  simp only [State.position]
  split
  · exact ⟨rfl, id⟩
  · rename_i r _
    generalize hv : s.onTe (fun t => { t with sector := r.done, target := s.nextTarget r }) = v
    have htm : v.tm = s.tm := by rw [← hv]; rfl
    rw [← htm] at ho ⊢
    simp only [State.positionAt]
    cases hown : v.tm.own <;> simp [hown, OwnTenure.isHolding] at ho ⊢
    split
    · simp [State.waitTenure, State.setPhase, State.askTenure, hown]
    · split
      · simp [State.enterSettle]
      · simp [State.enterLead]

theorem State.reposition_held_tm {s : State} (ho : s.tm.own.isHolding = true) : s.reposition.tm = s.tm := by
  obtain ⟨htm, hphase⟩ := State.position_held ho
  rcases s.following_cases State.position with ⟨_, hp, hq⟩ | ⟨h, _⟩
  · exact absurd hq (hphase hp)
  · rw [State.reposition, h, htm]

theorem State.tenureGranted_tm {s : State} (ho : s.tm.own.isHolding = true) (c : Nat) : (s.tenureGranted c).tm = s.tm := by
  simp only [State.tenureGranted]
  repeat' split
  · simp
  · exact State.reposition_held_tm ho
  · rfl

theorem State.tenureGranted_engineKept (s : State) (c : Nat) : EngineKept s (s.tenureGranted c) := by
  have hseek : EngineKept s s.offerSeek := by simp [EngineKept]
  have hrepos := s.reposition_engineKept
  grind only [State.tenureGranted, EngineKept.refl]

/-! The obligation. -/

theorem exec_ack {s : State} {x : Exchange} {c : Nat} (h : Noticing s x) (hb : x.frame.body = .tenure c) :
    exec .ack s = .next ((answered s).tenureSettled c) := by
  have hexec : exec .ack s = .next ((answered s).tenureSettled x.frame.body.tenureCylinder) :=
    congrArg Host.Outcome.next (State.peerAnswer_eq h (fits := FrameBody.isTenure) (by rw [hb]; rfl)
      fun (b : FrameBody) (s : State) => s.tenureSettled b.tenureCylinder)
  rwa [hb] at hexec

theorem exec_clash {s : State} {x : Exchange} {c : Nat} (h : Noticing s x) (hb : x.frame.body = .tenure c) {n : Word}
    (hn : n.toNat ≤ 15) : exec (.clash n) s = .next ((answered s).tenureClashed n.toNat) := by
  simp only [exec, execClash]
  rw [if_pos (show contentOk 18 [n] = true from decide_eq_true hn),
    State.peerAnswer_eq h (fits := FrameBody.isTenure) (by rw [hb]; rfl)]

theorem answered_cfg (s : State) : (answered s).cfg = s.cfg := by
  simp only [answered, present, State.cfg]
  split <;> rfl

theorem Noticing.exchangeInProgress {s : State} {x : Exchange} (h : Noticing s x) : s.exchangeInProgress = false := by
  obtain ⟨hx, ha, _, _⟩ := h
  have ho : x.frame.body.isOrder = false := by
    cases hb : x.frame.body <;> simp_all [FrameBody.isAnswered, FrameBody.isOrder]
  simp [State.exchangeInProgress, hx, ho]

/-- An own tenure that an answer makes ENDING (R136, R137). -/
theorem Noticing.endTenure {s : State} {x : Exchange} (h : Noticing s x) (d k : Nat) :
    let t := ((answered s).setOwn (.holding d k)).endTenure
    t.tm = { (answered s).tm with own := .ending d k } ∧ ReleaseStands t ∧ t.lu.exchange = none ∧
      (∀ f ∈ t.lu.frames, f.body.isTenure = false) ∧ t.rdm = s.rdm ∧ t.chains = s.chains ∧
      ∀ r, s.activeRequest = some r → r.state = .active → t.te.phase = .idle ∧ t.te.request = none ∧
        if s.mayNotReturn r then CompletionAsked t r .aborted none ∧ Left t r.id
        else { r with state := .ready } ∈ t.wq.records := by
  obtain ⟨hchains, _, hwq, hte, _, hrdm, _, _, _, hadapter, hexch, _⟩ := answered_frame s
  generalize hu : ((answered s).setOwn (.ending d k)).withdraw FrameBody.isTenure = u
  have ht : ((answered s).setOwn (.holding d k)).endTenure = u.suspendAfterExchange.offerRelease := by rw [← hu]; rfl
  have hux : u.lu.exchange = none := by rw [← hu]; exact hexch
  have hxp : u.exchangeInProgress = false := by simp [State.exchangeInProgress, hux]
  intro t
  rw [show t = u.suspendAfterExchange.offerRelease from ht]
  refine ⟨by simp [← hu, State.setOwn], State.offerRelease_stands _, by simpa using hux, ?_, by simp [← hu, hrdm],
    by simp [← hu, hchains], fun r ha hs => ?_⟩
  · refine ((u.suspendAfterExchange_noNew sparesHolds_isTenure).trans (State.offerRelease_noNew rfl _)).none ?_
    rw [← hu]
    exact State.withdraw_none _ _
  · obtain ⟨⟨hnow, _⟩, hidle⟩ := State.suspensionTaken_offerRelease ha (u := u) (by rw [← hu]; exact hte)
      (by rw [← hu]; exact hwq) (by rw [← hu]; exact hchains) (by rw [← hu]; exact hadapter)
      (by rw [hxp, h.exchangeInProgress])
    obtain ⟨hphase, hready⟩ := hidle hs h.exchangeInProgress
    have hau : u.activeRequest = some r := by
      rw [← hu]
      exact ha
    have hsus : u.suspendAfterExchange = u.suspend := by simp [State.suspendAfterExchange, hau, hs, hxp]
    refine ⟨hphase, by simpa [hsus, State.suspend] using (u.handBack_free fun _ => .ready).1, ?_⟩
    split
    · rename_i hm
      have := hnow hs h.exchangeInProgress
      rwa [SuspendedAs, if_pos hm] at this
    · rename_i hm
      exact hready (by simpa using hm)

/-- The state in which the engine takes notice of a TENURE answered CLASH: no own tenure, the peer's at UNKNOWN (R133,
R139). -/
def clashTaken (s : State) (n : Nat) : State :=
  (((answered s).setOwn .none).withdraw FrameBody.isTenure).peerHolds none n

theorem clashTaken_frame (s : State) (n : Nat) :
    (clashTaken s n).tm = { (answered s).tm with
      own := .none, peer := some ⟨none, n⟩, preemptMark := s.tm.preemptMark && s.tm.peer.isSome } ∧
    (clashTaken s n).lu.exchange = none ∧ (clashTaken s n).rdm = s.rdm ∧ (clashTaken s n).te = s.te ∧
    (clashTaken s n).chains = s.chains ∧ (clashTaken s n).hp.adapter = s.hp.adapter ∧
    (∀ f ∈ (clashTaken s n).lu.frames, f.body.isTenure = false) ∧
    (∀ q, NeedsSeek (clashTaken s n) q ↔ NeedsSeek s q) := by
  obtain ⟨hchains, _, _, hte, _, hrdm, _, _, hpeer, hadapter, hexch, _⟩ := answered_frame s
  refine ⟨?_, hexch, hrdm, hte, hchains, hadapter, State.withdraw_none _ _, fun q => ?_⟩
  · simp only [clashTaken, State.peerHolds, State.review, State.onWq_tm, State.onTm_tm, State.withdraw_frame, State.setOwn,
      hpeer]
    cases s.tm.peer with
    | none => simp
    | some _ => simp; rfl
  · have hcfg := answered_cfg s
    have hn : (clashTaken s n).nextTarget q = s.nextTarget q := by
      simp only [State.nextTarget, State.sectorTarget, State.blockOf, State.descriptorOf,
        show (clashTaken s n).cfg = s.cfg from hcfg]
      rfl
    simp only [NeedsSeek, hn]
    rfl

theorem clashTaken_records (s : State) (n : Nat) :
    ∃ v : State, v.tm.peer.isSome = true ∧ (∀ q, NeedsSeek v q ↔ NeedsSeek s q) ∧
      (clashTaken s n).wq.records = s.wq.records.map v.reviewed ∧
      (clashTaken s n).activeRequest = s.activeRequest.map v.reviewed := by
  refine ⟨((((answered s).setOwn .none).withdraw FrameBody.isTenure).onTm fun t => { t with
    peer := some ⟨none, n⟩, preemptMark := if t.peer.isNone then false else t.preemptMark }), rfl, fun q => ?_, rfl, ?_⟩
  · exact (clashTaken_frame s n).2.2.2.2.2.2.2 q
  · exact State.review_activeRequest _

theorem tenureClashed_eq (s : State) (n : Nat) : (answered s).tenureClashed n =
    if (s.te.phase == .seek && !(clashTaken s n).exchangeInProgress) = true then
      ((clashTaken s n).withdraw FrameBody.isOrder).reposition
    else (clashTaken s n).tenureRefused := rfl

/-- Settles O50: by the answer and the own tenure. -/
theorem tenureNoticesAreSettled : Obligations.TenureNoticesAreSettled := by
  unfold Obligations.TenureNoticesAreSettled
  intro x c n s h hb hn
  obtain ⟨hchains, hec, hwq, hte, hhm, hrdm, hout, hown, hpeer, hadapter, hexch, hpres⟩ := answered_frame s
  refine ⟨fun d ho hd => ?_, fun d ho hd => ?_, fun d k ho => ?_, fun d k ho => ?_, ?_⟩
  · rw [exec_ack h hb]
    have ht : (answered s).tenureSettled c = ((answered s).setOwn (.holding d s.cfg.tenure)).tenureGranted d := by
      simp only [State.tenureSettled, hown, ho, State.holdTenure, answered_cfg]
      exact if_pos (hrdm ▸ hd)
    have htm := State.tenureGranted_tm (s := (answered s).setOwn (.holding d s.cfg.tenure)) rfl d
    have hk := State.tenureGranted_engineKept ((answered s).setOwn (.holding d s.cfg.tenure)) d
    refine ⟨_, congrArg _ ht, by rw [htm]; rfl, by rw [htm]; exact hpeer, by rw [htm]; exact hpres,
      hk.exchange.trans hexch, hk.rdm.trans hrdm, fun hp htarget _ => ?_⟩
    have hseek : ((answered s).setOwn (.holding d s.cfg.tenure)).tenureGranted d =
        ((answered s).setOwn (.holding d s.cfg.tenure)).offerSeek := by
      simp only [State.tenureGranted]
      rw [if_pos (by simpa [hte] using hp), if_pos (by simpa [hte] using htarget)]
    have hl : (answered s).listens = true := (present_listens _).trans h.2.2.2
    rw [hseek]
    refine ⟨by simp [State.offerSeek, State.setPhase], ⟨.seek d, 0, 0, false⟩, ?_, rfl⟩
    rw [State.offerSeek, State.offer_listening (by exact hl), State.onLu_lu]
    simp [State.setOwn, hte, htarget]
  · refine ⟨_, exec_ack h hb, ?_⟩
    have ht : (answered s).tenureSettled c = ((answered s).setOwn (.holding d s.cfg.tenure)).endTenure := by
      simp only [State.tenureSettled, hown, ho, State.holdTenure, answered_cfg]
      exact if_neg (hrdm ▸ hd)
    rw [ht]
    exact Noticing.endTenure h d s.cfg.tenure
  · refine ⟨_, exec_ack h hb, ?_⟩
    have ht : (answered s).tenureSettled c = ((answered s).setOwn (.holding c k)).tenureGranted c := by
      simp only [State.tenureSettled, hown, ho]
    have htm := State.tenureGranted_tm (s := (answered s).setOwn (.holding c k)) rfl c
    have hk := State.tenureGranted_engineKept ((answered s).setOwn (.holding c k)) c
    rw [ht]
    exact ⟨by rw [htm]; rfl, by rw [htm]; exact hpeer, hk.exchange.trans hexch, hk.rdm.trans hrdm⟩
  · refine ⟨_, exec_ack h hb, ?_⟩
    have ht : (answered s).tenureSettled c = ((answered s).setOwn (.ending c k)).offerRelease := by
      simp only [State.tenureSettled, hown, ho]
    rw [ht]
    exact ⟨by simp [State.setOwn], by simp [State.setOwn, hpeer], by simp [State.setOwn, hexch],
      by simp [State.setOwn, hrdm], by simp [State.setOwn, hte]⟩
  · refine ⟨_, exec_clash h hb hn, ?_⟩
    obtain ⟨htm, hux, hur, hut, huc, hua, huf, hus⟩ := clashTaken_frame s n.toNat
    obtain ⟨v, hvp, hvs, hvr, hva⟩ := clashTaken_records s n.toNat
    have heq := tenureClashed_eq s n.toNat
    have hids : (clashTaken s n.toNat).wq.records.map Request.id = s.wq.records.map Request.id :=
      State.review_ids _
    generalize clashTaken s n.toNat = u at *
    generalize (answered s).tenureClashed n.toNat = t at *
    have ho : u.tm.own = .none := by rw [htm]
    have hp : u.tm.peer.isSome = true := by rw [htm]; rfl
    have hkept : Rides u t ∧ EngineKept u t := by
      rw [heq]
      split
      · have hw : Rides u (u.withdraw FrameBody.isOrder) := ⟨rfl, u.withdraw_noNew _⟩
        exact ⟨hw.trans (State.reposition_rides ho hp),
          (EngineKept.refl u : EngineKept u (u.withdraw FrameBody.isOrder)).trans (State.reposition_engineKept _)⟩
      · refine ⟨State.tenureRefused_rides ho hp, ?_⟩
        simp only [State.tenureRefused]
        split
        · have hback : EngineKept u u.giveBack := by simp [EngineKept, State.giveBack]
          exact hback.trans (State.engineIdled_engineKept _)
        · exact .refl u
    obtain ⟨hrides, hkept⟩ := hkept
    refine ⟨by rw [hrides.1, ho], by rw [hrides.1, htm], by rw [hrides.1, htm]; exact hpres, hkept.exchange.trans hux,
      by rw [hrides.1, htm], hkept.rdm.trans hur, hrides.2.none huf, fun r hphase ha hs hq => ?_⟩
    have hphase' : u.te.phase = .tenureWait := by rw [hut, hphase]
    have ht : t = u.tenureRefused := by rw [heq, if_neg (by simp [hphase])]
    have hau : u.activeRequest = some r := by rw [hva, ha, Option.map_some, State.reviewed_of_active hs]
    have hmay : u.mayNotReturn r = s.mayNotReturn r := by
      simp only [State.mayNotReturn, State.chain, hut, huc, hua]
    have hq' : (u.wq.records.map Request.id).Nodup := by rwa [hids]
    rw [ht, ← hmay]
    refine ⟨State.tenureRefused_aborts hphase' hau, fun hm => ⟨fun hst =>
      (State.tenureRefused_blocks hphase' hau hm hq' hst).1, fun hst => ?_, fun hall hr => ?_⟩⟩
    · exact Returned.before (st := r.state) (State.tenureRefused_returns hphase' hau hm hq' hst) hids
    · have hrev (q : Request) (hqm : q ∈ s.wq.records) :
          v.reviewed q = if q.state = .ready then { q with state := .blocked } else q :=
        State.reviewed_of_seek hvp fun hqs => (hvs q).mpr (hall q hqm hqs)
      obtain ⟨h1, h2, h3⟩ := State.tenureRefused_stays hphase' hau hm hq' ho hp (fun q hqm hqs => by
        rw [hvr] at hqm
        obtain ⟨q', hq', rfl⟩ := List.mem_map.mp hqm
        rw [hrev q' hq'] at hqs
        split at hqs
        · cases hqs
        · contradiction) fun hst => (hus r).mpr (hr hst)
      refine ⟨h1, h2, ?_⟩
      rw [h3]
      simp only [WorkQueue.modify, hvr, List.map_map]
      refine List.map_congr_left fun q hqm => ?_
      simp only [Function.comp_apply, hrev q hqm]
      by_cases hid : q.id = r.id
      · obtain rfl : q = r := List.inj_on_of_nodup_map hq hqm (State.activeRequest_mem ha).1 hid
        simp [hs]
      · by_cases hqs : q.state = .ready <;> simp [hid, hqs]

end Sys2Proof.Machine
end

section
/-! The peer's TENURE heard (R97, R139): answered CLASH under an own tenure, else ACK, and what the engine works on. -/

namespace Sys2Proof.Machine

open Sys2Proof

/-! The peer's record comes to HOLDING. -/

theorem State.peerHolds_tm (s : State) (c : Option Nat) (n : Nat) :
    (s.peerHolds c n).tm = { s.tm with peer := some ⟨c, n⟩, preemptMark := s.tm.preemptMark && s.tm.peer.isSome } := by
  simp only [State.peerHolds, State.review, State.onWq_tm, State.onTm_tm]
  cases s.tm.peer <;> simp

/-- The queue reviewed as the peer's record comes to HOLDING (R79). -/
theorem State.peerHolds_records (s : State) (c : Option Nat) (n : Nat) :
    ∃ v : State, v.tm.peer.isSome = true ∧ (∀ q, NeedsSeek v q ↔ NeedsSeek s q) ∧
      (s.peerHolds c n).wq.records = s.wq.records.map v.reviewed ∧
      (s.peerHolds c n).activeRequest = s.activeRequest.map v.reviewed :=
  ⟨s.onTm fun t => { t with peer := some ⟨c, n⟩, preemptMark := if t.peer.isNone then false else t.preemptMark }, rfl,
    fun _ => Iff.rfl, rfl, State.review_activeRequest _⟩

/-! The engine's request as the engine is told. -/

/-- A suspension taken by an engine that is followed up (R82, R97). -/
theorem State.suspensionTaken_following {s u : State} {r : Request} (hau : u.activeRequest = some r) (hte : u.te = s.te)
    (hids : u.wq.records.map Request.id = s.wq.records.map Request.id) (hchains : u.chains = s.chains)
    (hadapter : u.hp.adapter = s.hp.adapter) (hx : u.exchangeInProgress = s.exchangeInProgress)
    (hq : (s.wq.records.map Request.id).Nodup) : SuspensionTaken s (u.following State.suspendAfterExchange) r := by
  have hmay : u.mayNotReturn r = s.mayNotReturn r := by
    simp only [State.mayNotReturn, State.chain, hte, hchains, hadapter]
  have hr := (State.activeRequest_mem hau).1
  have hstays (v : State) (h : u.suspendAfterExchange = v) (hv : v.te.phase = u.te.phase) :
      u.following State.suspendAfterExchange = v := by
    rcases u.following_cases State.suspendAfterExchange with ⟨_, hp, hi⟩ | ⟨hf, _⟩
    · rw [h, hv] at hi
      exact absurd hi hp
    · rw [hf, h]
  refine ⟨fun hs hp => ?_, fun hs hp => ?_, fun hs => ?_⟩
  · have hnow : u.suspendAfterExchange = u.suspend := by simp [State.suspendAfterExchange, hau, hs, hx, hp]
    have hidled := State.suspend_engineIdled (by rwa [hids]) hau
    have hbare : SuspendedAs u u.suspend r r := by
      simp only [SuspendedAs]
      split
      · rename_i hm
        have h : u.suspend = u.finish .aborted none false := by simp [State.suspend, State.handBack, hau, hm]
        obtain ⟨_, h1, h2, _⟩ := State.finish_leaves hau .aborted none false
        rw [h]
        exact ⟨h1, h2⟩
      · rename_i hm
        obtain ⟨hf, hids, hback⟩ := u.suspend_request hau (by simpa using hm)
        exact ⟨⟨_, hback, .inl ⟨rfl, by rw [hf.1]; simp⟩, rfl⟩, by simp [hids], fun _ => ⟨hf.2.1, hf.2.2⟩⟩
    rcases u.following_cases State.suspendAfterExchange with ⟨hf, _⟩ | ⟨hf, _⟩ <;> rw [hf, hnow]
    · exact hidled.of_changed rfl hmay hids
    · exact hbare.of_changed rfl hmay hids
  · have h : u.suspendAfterExchange = u.onTe fun t => { t with suspendAfter := true } := by
      simp [State.suspendAfterExchange, hau, hs, hx, hp]
    rw [hstays _ h rfl]
    exact ⟨by simp [hte], by simpa using hr⟩
  · have h : u.suspendAfterExchange = u := by simp [State.suspendAfterExchange, hau, hs]
    rw [hstays _ h rfl]
    exact ⟨hte, hr⟩

/-- An ask refused (R85, R86, R94), in the terms of an earlier state. -/
theorem State.tenureRefused_gives {s u : State} {r : Request} (hphase : u.te.phase = .tenureWait)
    (hau : u.activeRequest = some r) (hte : u.te = s.te)
    (hids : u.wq.records.map Request.id = s.wq.records.map Request.id) (hchains : u.chains = s.chains)
    (hadapter : u.hp.adapter = s.hp.adapter) (hq : (s.wq.records.map Request.id).Nodup) :
    (s.mayNotReturn r = true → CompletionAsked u.tenureRefused r .aborted none ∧ Left u.tenureRefused r.id) ∧
    (s.mayNotReturn r = false →
      (r.started = false →
        { r with state := .blocked } ∈ u.tenureRefused.wq.records ∧ u.tenureRefused.te.request ≠ some r.id) ∧
      (r.started = true → Returned s u.tenureRefused r)) := by
  have hmay : u.mayNotReturn r = s.mayNotReturn r := by
    simp only [State.mayNotReturn, State.chain, hte, hchains, hadapter]
  have hq' : (u.wq.records.map Request.id).Nodup := by rwa [hids]
  rw [← hmay]
  exact ⟨State.tenureRefused_aborts hphase hau, fun hm => ⟨State.tenureRefused_blocks hphase hau hm hq', fun hs =>
    Returned.before (st := r.state) (State.tenureRefused_returns hphase hau hm hq' hs) hids⟩⟩

theorem State.suspendAfterExchange_rides (s : State) : Rides s s.suspendAfterExchange :=
  ⟨by simp, s.suspendAfterExchange_noNew sparesHolds_isTenure⟩

theorem State.tenureRefused_engineKept (s : State) : EngineKept s s.tenureRefused := by
  have hback : EngineKept s s.giveBack := by simp [EngineKept, State.giveBack]
  have hidled := hback.trans (State.engineIdled_engineKept _)
  grind only [State.tenureRefused, EngineKept.refl]

/-! The obligation. -/

theorem peerBegan_cfg (s : State) : (peerBegan s).cfg = s.cfg := by
  simp only [peerBegan, present, State.cfg]
  split <;> rfl

theorem exec_peerTenureHeard {s : State} (h : Hears s) {c n : Word} (hc : c.toNat ≤ 399) (h1 : 1 ≤ n.toNat)
    (hn : n.toNat ≤ 15) :
    exec (.peerTenureHeard c n) s = .next ((peerBegan s).hearTenure c.toNat n.toNat) := by
  have hok : (cylinderOk c && decide (1 ≤ n.toNat) && decide (n.toNat ≤ 15)) = true := by
    simp [cylinderOk, h1, hn, hc]
  simp only [exec, execPeerTenureHeard]
  rw [if_pos (show contentOk 16 [c, n] = true from hok), State.peerNotice_eq h]

/-- Settles O47: by the own tenure. -/
theorem peerTenureIsAnswered : Obligations.PeerTenureIsAnswered := by
  unfold Obligations.PeerTenureIsAnswered
  intro c n s h hc h1 hn
  rw [exec_peerTenureHeard h hc h1 hn]
  obtain ⟨hchains, hec, hwq, hte, hhm, hrdm, hout, hown, hpeer, hadapter, hstation⟩ := peerBegan_frame s
  have hlu : (peerBegan s).lu.exchange = s.lu.exchange := present_exchange _
  refine ⟨fun a r ho => ?_, fun ho => ⟨_, rfl, ?_⟩⟩
  · have hclash : (peerBegan s).hearTenure c.toNat n.toNat = (peerBegan s).answer (.clash r) := by
      rcases ho with ho | ho <;> simp only [State.hearTenure, hown, ho]
    rw [hclash, State.answer_peerBegan]
    rfl
  -- the state in which the engine is told
  have hstep : ∃ v u : State, v.tm = { (peerBegan s).tm with own := .none } ∧ v.te = s.te ∧ v.wq = s.wq ∧ v.rdm = s.rdm ∧
      v.lu.exchange = s.lu.exchange ∧ v.chains = s.chains ∧ v.hp.adapter = s.hp.adapter ∧
      v.out = [.frame (frameWords s.lu.station 17 [])] ∧ u = v.peerHolds (some c.toNat) n.toNat ∧
      (s.tm.own = .none → (peerBegan s).hearTenure c.toNat n.toNat =
        if s.te.target.cylinder = c.toNat then u else u.following State.suspendAfterExchange) ∧
      (s.tm.own ≠ .none → (∀ f ∈ v.lu.frames, f.body.isTenure = false) ∧
        (peerBegan s).hearTenure c.toNat n.toNat = u.tenureRefused) := by
    rcases ho with ho | ⟨a, ho⟩
    · refine ⟨(peerBegan s).answer .ack, _, ?_, hte, hwq, hrdm, hlu, hchains, hadapter, ?_, rfl, fun _ => ?_,
        fun hno => absurd ho hno⟩
      · rw [State.answer_peerBegan, ← ho, ← hown]
      · rw [State.answer_peerBegan]; rfl
      · simp only [State.hearTenure, hown, ho]
        rfl
    · refine ⟨(((peerBegan s).answer .ack).setOwn .none).withdraw FrameBody.isTenure, _, ?_, hte, hwq, hrdm, hlu, hchains,
        hadapter, ?_, rfl, fun hno => absurd (ho.symm.trans hno) (by simp), fun _ => ⟨State.withdraw_none _ _, ?_⟩⟩
      · rw [State.answer_peerBegan]; rfl
      · rw [State.answer_peerBegan]; rfl
      · simp only [State.hearTenure, hown, ho]
  generalize (peerBegan s).hearTenure c.toNat n.toNat = t at hstep
  obtain ⟨v, u, hvtm, hvte, hvwq, hvrdm, hvx, hvc, hva, hvo, hu, htnone, htask⟩ := hstep
  obtain ⟨w, hwp, hws, hwr, hwa⟩ := State.peerHolds_records v (some c.toNat) n.toNat
  have hids : (v.peerHolds (some c.toNat) n.toNat).wq.records.map Request.id = v.wq.records.map Request.id :=
    State.review_ids _
  have hutm := v.peerHolds_tm (some c.toNat) n.toNat
  rw [← hu] at hwr hwa hids hutm
  have hva' : v.activeRequest = s.activeRequest := by simp only [State.activeRequest, hvte, hvwq]
  rw [hva'] at hwa
  rw [hvwq] at hids hwr
  have huf : u.te = s.te ∧ u.lu = v.lu ∧ u.rdm = s.rdm ∧ u.chains = s.chains ∧ u.hp.adapter = s.hp.adapter ∧
      u.out = v.out := by rw [hu]; simp [hvte, hvrdm, hvc, hva]
  obtain ⟨hute, hulu, hurdm, huc, hua, huo⟩ := huf
  have huown : u.tm.own = .none := by rw [hutm, hvtm]
  have hupeer : u.tm.peer.isSome = true := by rw [hutm]; rfl
  have huact {r : Request} (ha : s.activeRequest = some r) (hs : r.state = .active ∨ r.state = .ending) :
      u.activeRequest = some r := by
    rw [hwa, ha, Option.map_some]
    rcases hs with hs | hs <;> simp [State.reviewed, hs]
  have hkept : Rides u t ∧ EngineKept u t := by
    by_cases ho' : s.tm.own = .none
    · rw [htnone ho']
      split
      · exact ⟨.refl u, .refl u⟩
      · refine ⟨?_, State.following_engineKept u.suspendAfterExchange_engineKept⟩
        have hsus := u.suspendAfterExchange_rides
        rcases u.following_cases State.suspendAfterExchange with ⟨hf, _⟩ | ⟨hf, _⟩ <;> rw [hf]
        · exact hsus.trans (State.engineIdled_rides (by rw [hsus.1, huown]) (by rw [hsus.1, hupeer]))
        · exact hsus
    · rw [(htask ho').2]
      exact ⟨State.tenureRefused_rides huown hupeer, u.tenureRefused_engineKept⟩
  obtain ⟨hrides, hkept⟩ := hkept
  have htm : t.tm = { (peerBegan s).tm with
      own := .none, peer := some ⟨some c.toNat, n.toNat⟩, preemptMark := s.tm.preemptMark && s.tm.peer.isSome } := by
    rw [hrides.1, hutm, hvtm]
    rfl
  refine ⟨by rw [hkept.out, huo, hvo], by rw [htm], by rw [htm], by rw [htm]; rfl, by rw [htm], by rw [htm]; rfl,
    by rw [htm]; rfl, fun f hf hft => ?_, hkept.rdm.trans hurdm, hkept.chains.trans huc, hkept.adapter.trans hua,
    fun hidle => ?_, fun r ha hq => ⟨fun ho' hs htarget => ?_, fun ho' htarget => ?_, fun ho' hp hs => ?_⟩⟩
  · by_contra hno
    have := hrides.2.none (by rw [hulu]; exact (htask hno).1) f hf
    simp [hft] at this
  · obtain ⟨hphase, hreq⟩ := hidle
    have hfol : u.following State.suspendAfterExchange = u := by
      rcases u.following_cases State.suspendAfterExchange with ⟨_, hp, _⟩ | ⟨hf, _⟩
      · rw [hute] at hp
        exact absurd hphase hp
      · rw [hf, State.suspendAfterExchange_of_none (by simp [State.activeRequest, hute, hreq])]
    by_cases ho' : s.tm.own = .none
    · rw [htnone ho', hfol]
      split <;> exact hute
    · rw [(htask ho').2, State.tenureRefused, if_neg (by simp [hute, hphase])]
      exact hute
  · rw [htnone ho', if_pos htarget]
    exact ⟨hute, (State.activeRequest_mem (huact ha (.inl hs))).1⟩
  · have hx : u.exchangeInProgress = s.exchangeInProgress := by
      simp only [State.exchangeInProgress, hulu, hvx, hute]
    rw [htnone ho', if_neg htarget]
    by_cases hs : r.state = .active ∨ r.state = .ending
    · exact State.suspensionTaken_following (huact ha hs) hute hids huc hua hx hq
    · exact ⟨fun h => absurd (.inl h) hs, fun h => absurd (.inl h) hs, fun h => absurd (.inr h) hs⟩
  · have hgive := State.tenureRefused_gives (by rw [hute, hp]) (huact ha (.inl hs)) hute hids huc hua hq
    rw [(htask ho').2]
    cases hm : s.mayNotReturn r with
    | true => simpa [hm] using hgive.1 hm
    | false =>
      cases hst : r.started with
      | true => simpa [hst] using (hgive.2 hm).2 hst
      | false => simpa [hst] using (hgive.2 hm).1 hst

end Sys2Proof.Machine
end

section
/-! The peer's PREEMPT heard (R142): kept or yielded by the least slack, and an ask withdrawn. -/

namespace Sys2Proof.Machine

open Sys2Proof

/-! A RELEASE, one at most standing (R137). -/

theorem State.offerReleaseOnce_eq {s : State} (hs : s.hp.adapter ≠ .silenced)
    (hx : s.lu.inExchange FrameBody.isRelease = false) : s.offerReleaseOnce = { s with
      lu := { s.lu with frames :=
        s.lu.frames ++ if s.lu.frames.any fun f => f.body.isRelease then [] else [⟨.release, 0, 0, false⟩] } } := by
  simp only [State.offerReleaseOnce, LineUnit.isPending, hx, Bool.or_false]
  split
  · simp
  · exact if_neg hs

theorem State.offerReleaseOnce_stands {s : State} (hs : s.hp.adapter ≠ .silenced)
    (hx : s.lu.inExchange FrameBody.isRelease = false) : ∃ f ∈ s.offerReleaseOnce.lu.frames, f.body = .release := by
  rw [State.offerReleaseOnce_eq hs hx]
  cases hp : s.lu.frames.any fun f => f.body.isRelease with
  | false => exact ⟨⟨.release, 0, 0, false⟩, by simp, rfl⟩
  | true =>
    obtain ⟨f, hf, hr⟩ := List.any_eq_true.mp hp
    refine ⟨f, by simp [hf], ?_⟩
    revert hr
    cases f.body <;> simp [FrameBody.isRelease]

theorem State.offerReleaseOnce_noNew {p : FrameBody → Bool} (hp : p .release = false) (s : State) :
    NoNew p s s.offerReleaseOnce := by
  have hrel := s.offer_noNew hp
  grind only [State.offerReleaseOnce, NoNew.refl]

/-! An engine without tenure that may ask anew. -/

/-- No own tenure stands and no TENURE is pending, or the engine waits with an ask, its fresh TENURE the only one
pending (R133). -/
def AskedAnew (t : State) : Prop :=
  match t.tm.own with
  | .none => ∀ f ∈ t.lu.frames, f.body.isTenure = false
  | .asking d => t.te.phase = .tenureWait ∧ ∀ f ∈ t.lu.frames, f.body.isTenure = true → f = ⟨.tenure d, 0, 0, false⟩
  | _ => False

section
variable {s : State} (ho : s.tm.own = .none) (hf : ∀ f ∈ s.lu.frames, f.body.isTenure = false)
include ho hf

theorem Rides.askedAnew {t : State} (h : Rides s t) : AskedAnew t := by
  simp only [AskedAnew, h.1, ho]
  exact h.2.none hf

theorem State.waitTenure_askedAnew : AskedAnew s.waitTenure := by
  have hph : Rides s (s.setPhase .tenureWait) := ⟨rfl, .of_frames rfl⟩
  simp only [State.waitTenure, State.askTenure, show (s.setPhase .tenureWait).tm.own = .none from ho]
  split
  · exact hph.askedAnew ho hf
  · generalize hu : (s.setPhase .tenureWait).onTm (fun t => { t with own := .asking s.te.target.cylinder }) = u
    have hlu : u.lu = s.lu := by rw [← hu]; rfl
    have hown : u.tm.own = .asking s.te.target.cylinder := by rw [← hu]; rfl
    have hphase : u.te.phase = .tenureWait := by rw [← hu]; rfl
    have hnone (f : Frame) (hfm : f ∈ u.lu.frames) (ht : f.body.isTenure = true) :
        f = ⟨.tenure s.te.target.cylinder, 0, 0, false⟩ := by
      rw [hlu] at hfm
      simp [hf f hfm] at ht
    split
    · simp only [AskedAnew, hown]
      exact ⟨hphase, hnone⟩
    · simp only [AskedAnew, State.offer_frame, hown]
      refine ⟨hphase, fun f hfm ht => ?_⟩
      simp only [State.offer] at hfm
      split at hfm
      · exact hnone f hfm ht
      · rcases List.mem_append.mp hfm with h | h
        · exact hnone f h ht
        · simpa using h

theorem State.positionAt_askedAnew : AskedAnew s.positionAt := by
  have hback := (s.handBack_rides fun _ => .ready).askedAnew ho hf
  have hlead := s.enterLead_rides.askedAnew ho hf
  have hwait := State.waitTenure_askedAnew ho hf
  simp only [State.positionAt, ho]
  split
  · split
    · exact hback
    · exact hlead
  · split
    · exact hwait
    · split
      · exact hback
      · exact hlead

theorem State.position_askedAnew : AskedAnew s.position := by
  have hplace (f : Engine → Engine) : Rides s (s.onTe f) := ⟨rfl, .of_frames rfl⟩
  simp only [State.position]
  split
  · exact (Rides.refl s).askedAnew ho hf
  · exact State.positionAt_askedAnew ho hf

theorem State.engineIdled_askedAnew : AskedAnew s.engineIdled := by
  have hselect : AskedAnew s.select := by
    have hform : Rides s s.formEligible := ⟨rfl, .of_frames rfl⟩
    rcases s.select_cases with ⟨h, _⟩ | ⟨_, ⟨h, _⟩ | ⟨r, _, h⟩⟩ <;> rw [h]
    · exact (Rides.refl s).askedAnew ho hf
    · exact hform.askedAnew ho hf
    · simp only [State.takeRequest]
      generalize ht : ((s.formEligible.onRequest r.id fun x => { x with state := .active }).onTe _).loadAhead = t
      have htm : t.tm = s.tm := by rw [← ht]; simp
      have hlu : t.lu.frames = s.lu.frames := by rw [← ht]; simp
      exact State.position_askedAnew (by rw [htm, ho]) (by rwa [hlu])
  have hend : s.engineIdled = s.select := by
    revert hselect
    simp only [AskedAnew]
    cases ho' : s.select.tm.own with
    | none | asking =>
      intro _
      rw [State.engineIdled, State.idleTenureTest_of_not_holding (by rw [ho']; rfl), State.offerRelease, ho']
      rfl
    | holding | ending => exact False.elim
  rw [hend]
  exact hselect

theorem State.tenureRefused_askedAnew : AskedAnew s.tenureRefused := by
  have hback : Rides s s.giveBack := s.handBack_rides _
  simp only [State.tenureRefused]
  split
  · exact State.engineIdled_askedAnew (by rw [hback.1, ho]) (hback.2.none hf)
  · exact (Rides.refl s).askedAnew ho hf

end

/-- An ask refused with no other READY request: the engine stays IDLE (R82, R86). -/
theorem State.tenureRefused_idles {s : State} {r : Request} (hp : s.te.phase = .tenureWait)
    (ha : s.activeRequest = some r) (hm : s.mayNotReturn r = false) (hs : r.started = false)
    (hq : (s.wq.records.map Request.id).Nodup) (ho : s.tm.own = .none) (hnot : ∀ q ∈ s.wq.records, q.state ≠ .ready) :
    s.tenureRefused.te.phase = .idle ∧ s.tenureRefused.te.request = none ∧ s.tenureRefused.tm.own = .none ∧
      s.tenureRefused.wq = s.wq.modify r.id fun x => { x with state := .blocked } := by
  obtain ⟨hfree, hwq⟩ := State.handBack_gives ha hm fun r => if r.started then .ready else .blocked
  have hmod : (s.wq.modify r.id fun x => { x with state := if x.started then .ready else .blocked }) =
      s.wq.modify r.id fun x => { x with state := .blocked } := by
    simp only [WorkQueue.modify]
    congr 1
    refine List.map_congr_left fun q hqm => ?_
    by_cases hid : q.id = r.id
    · obtain rfl : q = r := List.inj_on_of_nodup_map hq hqm (State.activeRequest_mem ha).1 hid
      simp [hs]
    · simp [hid]
  rw [hmod] at hwq
  have hown : s.giveBack.tm.own = .none := by simp [State.giveBack, ho]
  have hstay : s.giveBack.engineIdled = s.giveBack := by
    refine State.engineIdled_of_none hown fun q hqm => ?_
    rw [State.giveBack, hwq] at hqm
    obtain ⟨q', hq', rfl⟩ := List.mem_map.mp hqm
    by_cases hid : q'.id = r.id <;> simp [State.eligible, hid, hnot q' hq']
  rw [State.tenureRefused_eq hp, hstay]
  exact ⟨hfree.2.1, hfree.1, hown, hwq⟩

/-! The obligation. -/

theorem exec_peerPreemptHeard {s : State} (h : Hears s) {k : Word} (hlo : -1264 ≤ k.toInt) (hhi : k.toInt ≤ -1) :
    exec (.peerPreemptHeard k) s = .next ((peerBegan s).hearPreempt k.toInt) := by
  have hok : (decide (-1264 ≤ k.toInt) && decide (k.toInt ≤ -1)) = true := by simp [hlo, hhi]
  simp only [exec, execPeerPreemptHeard]
  rw [if_pos (show contentOk 19 [k] = true from hok), State.peerNotice_eq h]

/-- The own work keeps the tenure (R80, R142). -/
theorem State.keeps_iff (s : State) (c : Nat) (k : Int) :
    s.keeps c k = true ↔ ∃ a, s.leastSlackAt c = some a ∧ a ≤ k := by
  simp only [State.keeps]
  cases s.leastSlackAt c <;> simp [slackLt]

theorem Returned.offerReleaseOnce {s t : State} {r : Request} (h : Returned s t r) : Returned s t.offerReleaseOnce r := by
  obtain ⟨hback, hsub, hfree⟩ := h
  exact ⟨by simpa using hback, by simpa using hsub, fun hn => ⟨by simpa using (hfree (by simpa using hn)).1,
    (t.offerReleaseOnce_noNew rfl).none (hfree (by simpa using hn)).2⟩⟩

theorem AskedAnew.offerReleaseOnce {t : State} (h : AskedAnew t) : AskedAnew t.offerReleaseOnce := by
  have hno : NoNew FrameBody.isTenure t t.offerReleaseOnce := t.offerReleaseOnce_noNew rfl
  simp only [AskedAnew, State.offerReleaseOnce_frame] at h ⊢
  cases ho : t.tm.own with
  | none =>
    rw [ho] at h
    exact hno.none h
  | asking d =>
    rw [ho] at h
    exact ⟨h.1, fun f hf ht => h.2 f (hno f hf ht) ht⟩
  | holding _ _ | ending _ _ => rw [ho] at h; exact h

/-- Settles O48: by the own tenure. -/
theorem peerPreemptIsAnswered : Obligations.PeerPreemptIsAnswered := by
  unfold Obligations.PeerPreemptIsAnswered
  intro k s h hlo hhi hs out compared kept
  rw [exec_peerPreemptHeard h hlo hhi]
  obtain ⟨hchains, hec, hwq, hte, hhm, hrdm, hout, hown, hpeer, hadapter, hstation⟩ := peerBegan_frame s
  have hlu : (peerBegan s).lu.exchange = s.lu.exchange := present_exchange _
  have hyield := State.answer_peerBegan s .yield
  have hs' : (peerBegan s).hp.adapter ≠ .silenced := by rwa [hadapter]
  have hkept (c : Nat) : (peerBegan s).keeps c k.toInt = true ↔ kept c := by
    have hnext (r : Request) : (peerBegan s).nextTarget r = s.nextTarget r := by
      simp only [State.nextTarget, State.sectorTarget, State.blockOf, State.descriptorOf, peerBegan_cfg, hec]
    simp only [State.keeps_iff, State.leastSlackAt_le, State.slackOf_le, hwq, hnext, peerBegan_cfg]
    exact Iff.rfl
  refine ⟨fun c r ho hk => ?_, fun c r ho hk => ⟨_, rfl, ?_⟩, fun c r ho => ?_, fun ho hall hx => ?_, fun a ho hx => ?_⟩
  · have ht : (peerBegan s).hearPreempt k.toInt = (peerBegan s).answer .keep := by
      simp only [State.hearPreempt, hown, ho]
      exact if_pos ((hkept c).mpr hk)
    rw [ht, State.answer_peerBegan]
    rfl
  · generalize hu : (((peerBegan s).answer .yield).setOwn (.ending c r)).withdraw FrameBody.isTenure = u
    have ht : (peerBegan s).hearPreempt k.toInt = u.suspendAfterExchange.offerRelease := by
      have hend : (peerBegan s).hearPreempt k.toInt = ((peerBegan s).answer .yield).endTenure := by
        simp only [State.hearPreempt, hown, ho]
        exact if_neg (by rwa [hkept])
      rw [hend, State.endTenure, ← hu]
      simp only [hyield, hown, ho]
    have hux : u.lu.exchange = s.lu.exchange := by rw [← hu]; exact hlu
    rw [ht]
    refine ⟨?_, ?_, ?_, by simp [← hu, hrdm, hyield], State.offerRelease_stands _, fun r ha => ?_⟩
    · simp [← hu, State.setOwn, hyield, out]
      rfl
    · simp [← hu, State.setOwn, hyield]
    · refine ((u.suspendAfterExchange_noNew sparesHolds_isTenure).trans (State.offerRelease_noNew rfl _)).none ?_
      rw [← hu]
      exact State.withdraw_none _ _
    · exact (State.suspensionTaken_offerRelease ha (u := u) (by rw [← hu]; exact hte) (by rw [← hu]; exact hwq)
        (by rw [← hu]; exact hchains) (by rw [← hu]; exact hadapter)
        (by simp only [State.exchangeInProgress, hux]; rw [← hu]; rfl)).1
  · have ht : (peerBegan s).hearPreempt k.toInt = (peerBegan s).answer .yield := by
      simp only [State.hearPreempt, hown, ho]
    rw [ht, hyield]
    rfl
  · have ht : (peerBegan s).hearPreempt k.toInt = ((peerBegan s).answer .yield).offerReleaseOnce := by
      simp only [State.hearPreempt, hown, ho]
    have hfr : (peerBegan s).lu.frames = s.lu.frames := by simp only [peerBegan, present, ho]
    have hnone : s.lu.frames.any (fun f => f.body.isRelease) = false := by
      simpa [List.any_eq_false, List.all_eq_true] using hall
    rw [ht, State.offerReleaseOnce_eq (by rw [hyield]; exact hs')
      (by rw [hyield]; simpa only [LineUnit.inExchange, hlu] using hx), hyield]
    simp only [hfr, hnone, Bool.false_eq_true, if_false]
    rfl
  · generalize hu : (((peerBegan s).answer .yield).setOwn .none).withdraw FrameBody.isTenure = u
    have ht : (peerBegan s).hearPreempt k.toInt = u.tenureRefused.offerReleaseOnce := by
      simp only [State.hearPreempt, hown, ho, State.withdrawAsk]
      rw [hu]
    have hue : u = { peerBegan s with
        out := out 20
        tm := { (peerBegan s).tm with own := .none }
        lu := { (peerBegan s).lu with frames := (peerBegan s).lu.frames.filter fun f => !f.body.isTenure } } := by
      rw [← hu, hyield]
      rfl
    have hute : u.te = s.te := by rw [hue]; exact hte
    have hux : u.lu.inExchange FrameBody.isRelease = false := by
      rw [hue]
      simpa only [LineUnit.inExchange, hlu] using hx
    have hua : u.hp.adapter = s.hp.adapter := by rw [hue]; exact hadapter
    have hfr : ∀ f ∈ u.lu.frames, f.body.isTenure = false := by rw [← hu]; exact State.withdraw_none _ _
    have huo : u.tm.own = .none := by rw [hue]
    intro v kept
    refine ⟨fun hp => ?_, fun hp => ⟨_, congrArg Host.Outcome.next ht, ?_⟩⟩
    · have hno : u.tenureRefused = u := if_neg (by simp [hute, hp])
      rw [ht, hno, State.offerReleaseOnce_eq (by rwa [hua]) hux, hue]
    · have hk := u.tenureRefused_engineKept
      have hasked := (State.tenureRefused_askedAnew huo hfr).offerReleaseOnce
      have huwq : u.wq = s.wq := by rw [hue]; exact hwq
      have huc : u.chains = s.chains := by rw [hue]; exact hchains
      refine ⟨?_, State.offerReleaseOnce_stands (by rwa [hk.adapter, hua])
        (by simpa only [LineUnit.inExchange, hk.exchange] using hux), ?_, ?_, hasked, fun r ha hs hq => ?_⟩
      · simp only [State.offerReleaseOnce_frame]
        rw [hk.out, hue]
      · simp only [State.offerReleaseOnce_frame, hk.rdm]
        rw [hue, hrdm]
      · simp only [State.offerReleaseOnce_frame]
        rw [hk.tm, hue]
        rfl
      · have hau : u.activeRequest = some r := by simpa only [State.activeRequest, hute, huwq] using ha
        have hgive := State.tenureRefused_gives (by rw [hute, hp]) hau hute (by rw [huwq]) huc hua hq
        have hmay : u.mayNotReturn r = s.mayNotReturn r := by
          simp only [State.mayNotReturn, State.chain, hute, huc, hua]
        refine ⟨fun hm => ?_, fun hm => ⟨fun hst => ?_, fun hst => ((hgive.2 hm).2 hst).offerReleaseOnce,
          fun hst hnot => ?_⟩⟩
        · obtain ⟨h1, h2⟩ := hgive.1 hm
          exact ⟨by simpa [CompletionAsked, asked] using h1, by simpa [Left] using h2⟩
        · simpa using ((hgive.2 hm).1 hst).1
        · obtain ⟨h1, h2, h3, h4⟩ := State.tenureRefused_idles (by rw [hute, hp]) hau (by rw [hmay, hm]) hst
            (by rwa [huwq]) huo (by rwa [huwq])
          simp only [State.offerReleaseOnce_frame, h1, h2, h3, h4, huwq, WorkQueue.modify, true_and, beq_iff_eq]

end Sys2Proof.Machine
end

section
/-! The peer's orders followed (R121, R132): the end of its SEEK exchange, and another order remembered. -/

namespace Sys2Proof.Machine

open Sys2Proof

/-- The peer's SEEK with a cylinder in range, at the end of its exchange (R121, R132). -/
theorem exec_peerSeek {s : State} (h : Hears s) {c : Word} (hc : c.toNat ≤ 399) (a : SeekAnswer) (lost : Bool) :
    exec (.peerSeek c a lost) s = .next ((((peerBegan s).peerSeekEnds c.toNat a).seekAfterLoss lost).onLu fun l =>
      { l with peerSeekFell := false }) := by
  simp only [exec, execPeerSeek]
  rw [if_pos (show cylinderOk c = true from decide_eq_true hc), State.frameHeard_eq h]

theorem peerBegan_exchangeInProgress (s : State) : (peerBegan s).exchangeInProgress = s.exchangeInProgress := by
  simp only [State.exchangeInProgress, show (peerBegan s).lu.exchange = s.lu.exchange from present_exchange _]
  rfl

theorem peerBegan_line (s : State) :
    (peerBegan s).lu.backoff = 0 ∧ (peerBegan s).lu.peerSeekFell = s.lu.peerSeekFell ∧
      (peerBegan s).lu.peerExchange = s.lu.peerExchange := by
  simp only [peerBegan, present]
  repeat' split
  all_goals exact ⟨rfl, rfl, rfl⟩

theorem State.reviewed_of_engine {s : State} {r : Request} (h : r.state = .active ∨ r.state = .ending) :
    s.reviewed r = r := by
  rcases h with h | h <;> simp [State.reviewed, h]

/-- The peer's seeks counted at the end of its exchange (R132). -/
theorem State.peerSeekEnds_counts (s : State) (c : Nat) (a : SeekAnswer) : (s.peerSeekEnds c a).tm.peerSeeks =
    if a = .accepted then min 255 (s.tm.peerSeeks + 1) else s.tm.peerSeeks := by
  cases a with
  | accepted =>
    simp only [State.peerSeekEnds, State.peerSeekAccepted]
    split
    · rfl
    · rw [(State.following_engineKept (State.suspendAfterExchange_engineKept _)).tm]
      rfl
  | busy => rfl
  | notReady => simp [State.peerSeekEnds, State.driveHeard]
  | silent =>
    simp only [State.peerSeekEnds]
    split <;> rfl

/-- The records after the end of the peer's SEEK exchange ACCEPTED, before the engine is told (R132). -/
theorem State.peerSeekAccepted_eq (s : State) (c : Nat) : ∃ u : State,
    u.tm = { s.tm with cylinder := some c, moving := true, peerSeeks := min 255 (s.tm.peerSeeks + 1) } ∧ u.te = s.te ∧
    u.lu = s.lu ∧ u.rdm = { s.rdm with silence := 0 } ∧ u.chains = s.chains ∧ u.hp = s.hp ∧
    u.wq.records.map Request.id = s.wq.records.map Request.id ∧
    (∀ r, s.activeRequest = some r → r.state = .active ∨ r.state = .ending → u.activeRequest = some r) ∧
    s.peerSeekAccepted c =
      if s.tm.own.isHolding = true then u else u.following State.suspendAfterExchange := by
  refine ⟨((s.setPositioner (some c) true).countPeerSeek).driveHeard, rfl, rfl, rfl, rfl, rfl, rfl, State.review_ids _,
    fun r ha hs => ?_, ?_⟩
  · have hrev := (s.onTm fun t => { t with cylinder := some c, moving := true }).review_activeRequest
    rw [show (s.onTm fun t => { t with cylinder := some c, moving := true }).activeRequest = some r from ha,
      Option.map_some, State.reviewed_of_engine hs] at hrev
    exact hrev
  · simp only [State.peerSeekAccepted]
    rfl

/-- Settles O46: by the answer to the peer's order. -/
theorem peerOrdersAreFollowed : Obligations.PeerOrdersAreFollowed := by
  unfold Obligations.PeerOrdersAreFollowed
  intro c o s h
  obtain ⟨hchains, hec, hwq, hte, hhm, hrdm, hout, hown, hpeer, hadapter, hstation⟩ := peerBegan_frame s
  have hexch : (peerBegan s).lu.exchange = s.lu.exchange := present_exchange _
  obtain ⟨hback, hfell, hstood⟩ := peerBegan_line s
  refine ⟨fun hc a l => ?_, fun hc => ⟨⟨_, exec_peerSeek h hc _ _, ?_⟩, ⟨_, exec_peerSeek h hc _ _, ?_⟩,
    fun a => ⟨_, exec_peerSeek h hc _ _, ?_⟩, ⟨_, exec_peerSeek h hc _ _, ?_⟩, ⟨_, exec_peerSeek h hc _ _, ?_⟩⟩, ?_⟩
  · have hbad : ¬ cylinderOk c = true := by simpa [cylinderOk] using hc
    simp only [exec, execPeerSeek]
    rw [if_neg hbad]
    rfl
  -- ACCEPTED
  · obtain ⟨u, hutm, hute, hulu, hurdm, huc, huhp, hids, huact, heq⟩ := (peerBegan s).peerSeekAccepted_eq c.toNat
    simp only [State.peerSeekEnds, State.seekAfterLoss, Bool.false_eq_true, if_false]
    generalize hw : (peerBegan s).peerSeekAccepted c.toNat = w at heq
    rw [hown] at heq
    have hk : EngineKept u w := by
      rw [heq]
      split
      · exact .refl u
      · exact State.following_engineKept u.suspendAfterExchange_engineKept
    have htm : w.tm = { u.tm with own := w.tm.own } := hk.tm
    have hlu : w.lu = { u.lu with frames := w.lu.frames } := hk.lu
    refine ⟨?_, ?_, ?_, ?_, ?_, ?_, ?_, ?_, fun hor => ?_, fun r ha hno hq => ?_⟩
    · exact (congrArg TenureManager.presence htm).trans (by rw [hutm]; rfl)
    · exact (congrArg TenureManager.courtesy htm).trans (by rw [hutm]; rfl)
    · exact (congrArg TenureManager.cylinder htm).trans (by rw [hutm])
    · exact (congrArg TenureManager.moving htm).trans (by rw [hutm])
    · exact (congrArg TenureManager.peerSeeks htm).trans (by rw [hutm]; rfl)
    · exact hk.rdm.trans (by rw [hurdm, hrdm])
    · exact hk.exchange.trans (by rw [hulu, hexch])
    · exact (congrArg LineUnit.backoff hlu).trans (by rw [hulu, hback])
    · refine Eq.trans ?_ (hute.trans hte)
      rw [State.onLu_te, heq]
      rcases hor with hh | ⟨hphase, hreq⟩
      · rw [if_pos hh]
      · have hnone : u.suspendAfterExchange = u :=
          State.suspendAfterExchange_of_none (by simp [State.activeRequest, hute, hte, hreq])
        split
        · rfl
        · rcases u.following_cases State.suspendAfterExchange with ⟨_, hp, _⟩ | ⟨hf, _⟩
          · rw [hute, hte] at hp
            exact absurd hphase hp
          · rw [hf, hnone]
    · have ht : SuspensionTaken s w r := by
        rw [heq, if_neg (by simp [hno])]
        by_cases hs : r.state = .active ∨ r.state = .ending
        · refine State.suspensionTaken_following (huact r ha hs) (hute.trans hte) (hids.trans (by rw [hwq]))
            (huc.trans hchains) (by rw [huhp, hadapter]) ?_ hq
          simp only [State.exchangeInProgress, hulu, hute, hexch, hte]
        · exact ⟨fun h => absurd (.inl h) hs, fun h => absurd (.inl h) hs, fun h => absurd (.inr h) hs⟩
      exact ht
  -- BUSY
  · exact ⟨rfl, rfl, rfl, rfl, rfl⟩
  -- the drive lost meanwhile
  · refine ⟨?_, rfl, rfl, rfl, ?_⟩
    · simp [show (peerBegan s).tm.presence = .present from rfl]
    · exact (peerBegan s).peerSeekEnds_counts c.toNat a
  -- NOT READY
  · simp only [State.peerSeekEnds, State.seekAfterLoss, Bool.false_eq_true, if_false]
    have hact : (peerBegan s).driveHeard.loseDrive false = (peerBegan s).driveHeard.following State.driveDown := rfl
    have hrd : (peerBegan s).driveHeard.rdm.drive = s.rdm.drive := by simp [State.driveHeard, hrdm]
    rw [hact]
    by_cases hd : s.rdm.drive = .down
    · refine ⟨?_, fun hn => absurd hd hn⟩
      rw [State.onLu_rdm, State.following_driveDown_of_down (hrd.trans hd)]
      exact hrd.trans hd
    · obtain ⟨hlost, hrdm'⟩ := State.following_driveDown (s := (peerBegan s).driveHeard) (by rwa [hrd])
      generalize (peerBegan s).driveHeard.following State.driveDown = t at hlost hrdm'
      have hx : (peerBegan s).driveHeard.exchangeInProgress = s.exchangeInProgress := peerBegan_exchangeInProgress s
      refine ⟨by rw [State.onLu_rdm, hrdm']; rfl, fun _ => ?_⟩
      obtain ⟨h1, h2, h3, h4, h5, h6, h7, h8, hend⟩ := hlost
      exact ⟨h1, h2, h3, h4, h5, h6, h7, h8, fun r ha hs hp => hend r ha hs (hx.trans hp)⟩
  -- silence
  · simp only [State.peerSeekEnds, State.seekAfterLoss, Bool.false_eq_true, if_false, hfell]
    cases s.lu.peerSeekFell with
    | false =>
      simp only [Bool.false_eq_true, if_false, Bool.or_false, State.onLu_te, State.onLu_rdm, State.onLu_tm, hte, hrdm, true_and]
      rfl
    | true => simp [hrdm, hte, State.setPositioner, State.review]
  · simp only [exec, execPeerOrderHeard, State.frameHeard_eq h, State.peerStands, State.onLu, hexch, hstood]
    cases s.lu.exchange <;> rfl

end Sys2Proof.Machine
end

section
/-! The arbiter: the choice of the frame that goes out, and its start (R100, R115, R120). -/

namespace Sys2Proof.Machine

open Sys2Proof

/-! The choice (R120). -/

theorem chosenAt_ok {ok : Frame → Bool} {l : List Frame} {i : Nat} {f : Frame} (h : chosenAt ok l = some (i, f)) :
    ok f = true := by
  induction l generalizing i with
  | nil => simp [chosenAt] at h
  | cons a rest ih =>
    cases hc : chosenAt ok rest with
    | none =>
      simp only [chosenAt, hc, Option.ite_none_right_eq_some, Option.some.injEq, Prod.mk.injEq] at h
      exact h.2.2 ▸ h.1
    | some p =>
      obtain ⟨j, g⟩ := p
      by_cases ha : (ok a && a.body.rank ≤ g.body.rank) = true
      · simp only [chosenAt, hc, if_pos ha, Option.some.injEq, Prod.mk.injEq] at h
        exact h.2 ▸ (Bool.and_eq_true _ _ ▸ ha).1
      · simp only [chosenAt, hc, if_neg ha, Option.some.injEq, Prod.mk.injEq] at h
        obtain ⟨_, rfl⟩ := h
        exact ih hc

/-- The first of least rank among the frames that may start is the choice. -/
theorem chosenAt_eq {ok : Frame → Bool} {l : List Frame} {i : Nat} {f : Frame} (hi : l[i]? = some f)
    (hok : ok f = true) (hmin : ∀ g ∈ l, ok g = true → f.body.rank ≤ g.body.rank)
    (hfirst : ∀ j < i, ∀ g, l[j]? = some g → ok g = true → f.body.rank < g.body.rank) :
    chosenAt ok l = some (i, f) := by
  induction l generalizing i with
  | nil => simp at hi
  | cons a rest ih =>
    have hrest : ∀ g ∈ rest, ok g = true → f.body.rank ≤ g.body.rank := fun g hg => hmin g (List.mem_cons_of_mem _ hg)
    cases i with
    | zero =>
      obtain rfl : a = f := by simpa using hi
      simp only [chosenAt]
      split
      · simp [hok]
      · rename_i j g hc
        simp [hok, hrest g (chosenAt_mem hc) (chosenAt_ok hc)]
    | succ i =>
      have hc := ih (i := i) (by simpa using hi) hrest fun j hj g hg => hfirst (j + 1) (by omega) g (by simpa using hg)
      simp only [chosenAt, hc]
      by_cases ha : ok a = true
      · have := hfirst 0 (by omega) a (by simp) ha
        rw [if_neg (by simp only [Bool.and_eq_true, decide_eq_true_eq, not_and]; omega)]
      · simp [ha]

theorem chosenAt_none {ok : Frame → Bool} {l : List Frame} (h : ∀ g ∈ l, ¬ ok g = true) : chosenAt ok l = none := by
  induction l with
  | nil => rfl
  | cons a rest ih =>
    simp only [List.forall_mem_cons] at h
    simp [chosenAt, ih h.2, h.1]

theorem State.mayStart_iff (s : State) (g : Frame) :
    s.mayStart g = true ↔ ¬ (s.tm.courtesy = true ∧ ∃ c, g.body = .tenure c) := by
  have htenure : g.body.isTenure = true ↔ ∃ c, g.body = .tenure c := by cases g.body <;> simp [FrameBody.isTenure]
  rw [← htenure]
  simp only [State.mayStart]
  cases s.tm.courtesy <;> simp

theorem State.lineFree_iff (s : State) (line : LineTime) : s.lineFree line = true ↔
    s.lu.exchange = none ∧ s.lu.peerExchange = none ∧ 2 + s.lu.backoff ≤ line.free ∧
      (s.lu.failedHeard = true → 7 + s.lu.backoff ≤ line.sinceFailed) := by
  simp only [State.lineFree, Config.lineGap, Config.failedFrameHold, Bool.and_eq_true, Option.isNone_iff_eq_none,
    decide_eq_true_eq, Bool.or_eq_true, Bool.not_eq_true', and_assoc]
  cases s.lu.failedHeard <;> simp

/-! The start of a frame (R100, R115). -/

/-- A transfer order of the engine's request has begun (R34, R76, R99, R100). -/
theorem State.orderBegins_starts {s : State} {r : Request} (ha : s.activeRequest = some r) :
    s.orderBegins.te.phase = .exchange ∧ s.orderBegins.te.leadOpen = false ∧
    (∃ u ∈ s.orderBegins.wq.records, u.id = r.id ∧ u.started = true ∧ u.done = r.done) ∧
    (s.orderBegins.hp = s.hp ∧ s.orderBegins.tm = s.tm ∧ s.orderBegins.hm = s.hm ∧ s.orderBegins.rdm = s.rdm ∧
      s.orderBegins.chains = s.chains ∧ s.orderBegins.lu = s.lu ∧ s.orderBegins.out = s.out) ∧
    (Outbound r.kind → s.orderBegins.te.bufA = s.te.bufA ∧ s.orderBegins.te.bufB = s.te.bufB) ∧
    (¬ Outbound r.kind → (∃ n, (s.te.buf n).state = .empty) → ∃ n, (s.te.buf n).state = .empty ∧
      s.orderBegins.te.buf n = ⟨.receiving, r.done, [], r.id, false⟩ ∧
        ∀ m, m ≠ n → s.orderBegins.te.buf m = s.te.buf m) ∧
    ∀ p, r.kind = .append → r.started = false → r.extent = some p → (s.ec.get p.1 p.2).kind = .log →
      (s.orderBegins.ec.get p.1 p.2).owner = some r.id := by
  generalize hu : s.startRequest r = u
  have hbegins : s.orderBegins = (u.reserveBuffer r).setPhase .exchange := by simp only [State.orderBegins, ha, hu]
  have hframe : u.te = s.te ∧ u.hp = s.hp ∧ u.tm = s.tm ∧ u.hm = s.hm ∧ u.rdm = s.rdm ∧ u.chains = s.chains ∧
      u.lu = s.lu ∧ u.out = s.out := by rw [← hu]; simp
  obtain ⟨hte, hhp, htm, hhm, hrdm, hchains, hlu, hout⟩ := hframe
  have hstart : (∃ v ∈ u.wq.records, v.id = r.id ∧ v.started = true ∧ v.done = r.done) ∧
      ∀ p, r.kind = .append → r.started = false → r.extent = some p → (s.ec.get p.1 p.2).kind = .log →
        (u.ec.get p.1 p.2).owner = some r.id := by
    have hr := (State.activeRequest_mem ha).1
    rw [← hu]
    simp only [State.startRequest]
    split
    · rename_i hst
      exact ⟨⟨r, hr, rfl, hst, rfl⟩, fun p _ hno => by simp [hst] at hno⟩
    · split
      · rename_i t n _ hext
        refine ⟨⟨_, WorkQueue.mem_modify
          (fun x : Request => { x with started := true, firstBlock := (s.ec.get t n).base + (s.ec.get t n).fill }) hr,
          rfl, rfl, rfl⟩, fun p _ _ hp hlog => ?_⟩
        obtain rfl : (t, n) = p := by simpa [hext] using hp
        exact (congrArg Descriptor.owner
          (Extents.get_modify (fun d => { d with owner := some r.id }) (by exact hlog ▸ (by simp)))).trans rfl
      · rename_i hno
        refine ⟨⟨_, WorkQueue.mem_modify (fun x : Request => { x with started := true }) hr, rfl, rfl, rfl⟩,
          fun p hk _ hp => ?_⟩
        exact absurd hp (hno p.1 p.2 hk)
  generalize hw : u.reserveBuffer r = w at hbegins
  have hwf : w.wq = u.wq ∧ w.ec = u.ec ∧ w.hp = u.hp ∧ w.tm = u.tm ∧ w.hm = u.hm ∧ w.rdm = u.rdm ∧
      w.chains = u.chains ∧ w.lu = u.lu ∧ w.out = u.out := by rw [← hw]; simp
  obtain ⟨h1, h2, h3, h4, h5, h6, h7, h8, h9⟩ := hwf
  rw [hbegins]
  refine ⟨rfl, rfl, ?_, ⟨h3.trans hhp, h4.trans htm, h5.trans hhm, h6.trans hrdm, h7.trans hchains, h8.trans hlu,
    h9.trans hout⟩, fun ho => ?_, fun ho hemp => ?_, ?_⟩
  · rw [show ((w.setPhase .exchange).wq) = u.wq from h1]
    exact hstart.1
  · have hsame : w = u := by rw [← hw, State.reserveBuffer, if_pos ((RequestKind.outbound_iff _).mpr ho)]
    rw [hsame, ← hte]
    exact ⟨rfl, rfl⟩
  · have hno : ¬ r.kind.outbound = true := fun h => ho ((RequestKind.outbound_iff _).mp h)
    have hres (n : BufferName) (hfind : s.te.findBuf SectorBuffer.isEmpty = some n) :
        w = u.setBuf n ⟨.receiving, r.done, [], r.id, false⟩ := by
      rw [← hw, State.reserveBuffer, if_neg hno, hte]
      simp only [hfind]
    have hbuf (n : BufferName) : (u.setBuf n ⟨.receiving, r.done, [], r.id, false⟩ |>.setPhase .exchange).te.buf n =
        ⟨.receiving, r.done, [], r.id, false⟩ ∧
        ∀ m, m ≠ n → (u.setBuf n ⟨.receiving, r.done, [], r.id, false⟩ |>.setPhase .exchange).te.buf m = s.te.buf m := by
      rw [← hte]
      refine ⟨?_, fun m hm => ?_⟩
      · cases n <;> rfl
      · cases n <;> cases m <;> first | rfl | exact absurd rfl hm
    by_cases hA : s.te.bufA.state = .empty
    · have hfind : s.te.findBuf SectorBuffer.isEmpty = some .a := by simp [Engine.findBuf, SectorBuffer.isEmpty, hA]
      rw [hres _ hfind]
      exact ⟨.a, hA, hbuf .a⟩
    · have hB : s.te.bufB.state = .empty := by
        obtain ⟨n, hn⟩ := hemp
        cases n with
        | a => exact absurd hn hA
        | b => exact hn
      have hfind : s.te.findBuf SectorBuffer.isEmpty = some .b := by
        simp [Engine.findBuf, SectorBuffer.isEmpty, hA, hB]
      rw [hres _ hfind]
      exact ⟨.b, hB, hbuf .b⟩
  · rw [show ((w.setPhase .exchange).ec) = u.ec from h2]
    exact hstart.2

/-! The obligation. -/

theorem exec_exchangeStart {s : State} {line : LineTime} {i : Nat} {f : Frame} (hl : s.lineFree line = true)
    (hc : s.chosen = some (i, f)) : exec (.exchangeStart line) s = .next (s.begin.startFrame i f) := by
  simp only [exec, execExchangeStart]
  rw [if_pos (show s.begin.lineFree line = true from hl), State.startChosen,
    show s.begin.chosen = some (i, f) from hc]

/-- Settles O36: the choice is the arbiter's, and each kind of frame starts by its row. -/
theorem arbiterStartsTheHighestRank : Obligations.ArbiterStartsTheHighestRank := by
  unfold Obligations.ArbiterStartsTheHighestRank
  intro line s rank mayStart
  refine ⟨fun hno => ?_, ?_⟩
  · have hstill : (if s.begin.lineFree line = true then s.begin.startChosen else s.begin) = s.begin := by
      by_cases hl : s.begin.lineFree line = true
      · obtain ⟨h1, h2, h3, h4⟩ := (State.lineFree_iff _ _).mp hl
        have hnone : s.begin.chosen = none := by
          refine chosenAt_none fun g hg hok => ?_
          have hall : ∀ g ∈ s.lu.frames, ¬ mayStart g := by
            rcases hno with h | ⟨h, h'⟩ | h | h | h
            · exact absurd h (Nat.not_lt.mpr h3)
            · exact absurd h' (Nat.not_lt.mpr (h4 h))
            · exact absurd h1 h
            · exact absurd h2 h
            · exact h
          exact hall g hg ((State.mayStart_iff s g).mp hok)
        rw [if_pos hl, State.startChosen, hnone]
      · rw [if_neg hl]
    exact congrArg Host.Outcome.next hstill
  · intro i f hi hfree hfailed hx hpx hmay hmin hfirst x revolutions sent
    have hl : s.lineFree line = true := (State.lineFree_iff _ _).mpr ⟨hx, hpx, hfree, hfailed⟩
    have hc : s.chosen = some (i, f) := chosenAt_eq hi ((State.mayStart_iff s f).mpr hmay)
      (fun g hg hok => hmin g hg ((State.mayStart_iff s g).mp hok))
      fun j hj g hg hok => hfirst j hj g hg ((State.mayStart_iff s g).mp hok)
    rw [exec_exchangeStart hl hc]
    have hrev : s.tenureRevolutions = revolutions := by
      simp only [State.tenureRevolutions, revolutions]
      cases s.tm.own <;> rfl
    have hsent : s.begin.startFrame i f = (sent.emitData f.body).frameStarted f.body := by
      simp only [sent, ← hrev]
      rfl
    have hsa : sent.activeRequest = s.activeRequest := rfl
    rw [hsent]
    cases hb : f.body with
    | read d =>
      intro r ha
      obtain ⟨h1, h2, h3, ⟨h4, h5, h6, h7, h8, h9, h10⟩, h11, h12, _⟩ := State.orderBegins_starts (hsa.trans ha)
      exact ⟨_, rfl, h9, h10, h1, h2, h3, h4, h5, h6, h7, h8, h11, h12⟩
    | write d =>
      intro r ha
      have hdata : sent.emitData (.write d) = sent.emit (.frame (frameWords s.lu.station 4 (s.te.loadedWords r))) := by
        simp only [State.emitData, hsa, ha]
        rfl
      rw [hdata]
      obtain ⟨h1, h2, h3, ⟨h4, h5, h6, h7, h8, h9, h10⟩, _, _, h13⟩ := State.orderBegins_starts
        (s := sent.emit (.frame (frameWords s.lu.station 4 (s.te.loadedWords r)))) (hsa.trans ha)
      exact ⟨_, rfl, h9, h10, h1, h2, h3, h4, h5, h6, h7, h8, h13⟩
    | seek _ | sense | release | free _ _ _ | hello | preempt _ | claim _ _ _ _ => rfl
    | tenure d => simp only [sent, hb]; rfl

end Sys2Proof.Machine
end

section
/-! Notices that go unanswered and frames abandoned (R122 to R125, R133, R134, R152). -/

namespace Sys2Proof.Machine

open Sys2Proof

/-! The frames of an engine under own tenure. -/

/-- The frames pending are the same, one TENURE's cylinder changed, or one fresh frame more. -/
def FramesMoved (l m : List Frame) : Prop :=
  m = l ∨ (∃ c, m = l.map fun f => if f.body.isTenure then { f with body := .tenure c } else f) ∨
    ∃ b, m = l ++ [⟨b, 0, 0, false⟩]

theorem State.offer_moved (s : State) (b : FrameBody) : FramesMoved s.lu.frames (s.offer b).lu.frames := by
  simp only [State.offer]
  split
  · exact .inl rfl
  · exact .inr (.inr ⟨b, rfl⟩)

theorem FramesMoved.counts {l m : List Frame} (h : FramesMoved l m) {g : Frame} (hg : g ∈ m) :
    (∃ f ∈ l, f.body.isTenure = g.body.isTenure ∧ f.collisions = g.collisions ∧ f.silences = g.silences) ∨
      g.collisions = 0 ∧ g.silences = 0 := by
  rcases h with rfl | ⟨c, rfl⟩ | ⟨b, rfl⟩
  · exact .inl ⟨g, hg, rfl, rfl, rfl⟩
  · obtain ⟨f, hf, rfl⟩ := List.mem_map.mp hg
    refine .inl ⟨f, hf, ?_⟩
    split
    · rename_i ht
      exact ⟨ht, rfl, rfl⟩
    · exact ⟨rfl, rfl, rfl⟩
  · rcases List.mem_append.mp hg with hg | hg
    · exact .inl ⟨g, hg, rfl, rfl, rfl⟩
    · obtain rfl := List.mem_singleton.mp hg
      exact .inr ⟨rfl, rfl⟩

/-- A TENURE pending before stands with its counts. -/
theorem FramesMoved.tenure {l m : List Frame} (h : FramesMoved l m) {f : Frame} (hf : f ∈ l)
    (ht : f.body.isTenure = true) :
    ∃ g ∈ m, g.body.isTenure = true ∧ g.silences = f.silences ∧ g.collisions = f.collisions := by
  rcases h with rfl | ⟨c, rfl⟩ | ⟨b, rfl⟩
  · exact ⟨f, hf, ht, rfl, rfl⟩
  · exact ⟨_, List.mem_map_of_mem hf, by rw [if_pos ht]; rfl, by rw [if_pos ht], by rw [if_pos ht]⟩
  · exact ⟨f, List.mem_append_left _ hf, ht, rfl, rfl⟩

theorem State.tryOrder_moved (s : State) : FramesMoved s.lu.frames s.tryOrder.lu.frames := by
  simp only [State.tryOrder]
  repeat' split
  · exact .inl rfl
  · exact State.offer_moved _ _
  · exact .inl rfl

theorem State.askTenure_moved {s : State} (ho : s.tm.own.isHolding = true) (c : Nat) :
    FramesMoved s.lu.frames (s.askTenure c).lu.frames := by
  have hre : FramesMoved s.lu.frames (s.reannounce c).lu.frames := by
    simp only [State.reannounce]
    repeat' split
    · exact .inr (.inl ⟨c, rfl⟩)
    · exact .inl rfl
    · exact State.offer_moved _ _
  simp only [State.askTenure]
  cases hh : s.tm.own <;> simp only [hh, OwnTenure.isHolding, Bool.false_eq_true] at ho ⊢
  exact hre

theorem State.position_moved {s : State} (ho : s.tm.own.isHolding = true) :
    FramesMoved s.lu.frames s.position.lu.frames := by
  simp only [State.position]
  split
  · exact .inl rfl
  · rename_i r _
    generalize hv : s.onTe (fun t => { t with sector := r.done, target := s.nextTarget r }) = v
    have hlu : v.lu = s.lu := by rw [← hv]; rfl
    have hown : v.tm.own.isHolding = true := by rw [← hv]; exact ho
    rw [← hlu]
    simp only [State.positionAt]
    cases hh : v.tm.own <;> simp only [hh, OwnTenure.isHolding, Bool.false_eq_true] at hown ⊢
    split
    · exact State.askTenure_moved (s := v.setPhase .tenureWait) (by exact hh ▸ rfl) _
    · split
      · exact .inl rfl
      · exact State.tryOrder_moved _

theorem State.reposition_moved {s : State} (ho : s.tm.own.isHolding = true) :
    FramesMoved s.lu.frames s.reposition.lu.frames := by
  rcases s.following_cases State.position with ⟨_, hp, hq⟩ | ⟨h, _⟩
  · exact absurd hq ((State.position_held ho).2 hp)
  · rw [State.reposition, h]
    exact State.position_moved ho

theorem State.tenureGranted_moved {s : State} (ho : s.tm.own.isHolding = true) (c : Nat) :
    FramesMoved s.lu.frames (s.tenureGranted c).lu.frames := by
  simp only [State.tenureGranted]
  split
  · split
    · exact State.offer_moved _ _
    · exact State.reposition_moved ho
  · exact .inl rfl

/-! Orders that come afresh. -/

/-- Each order pending was pending before, or has met no collision. -/
def FreshOrders (s t : State) : Prop :=
  ∀ g ∈ t.lu.frames, g.body.isOrder = true → g ∈ s.lu.frames ∨ g.collisions = 0

theorem NoNew.freshOrders {s t : State} (h : NoNew FrameBody.isOrder s t) : FreshOrders s t :=
  fun g hg ho => .inl (h g hg ho)

theorem FreshOrders.trans {s t u : State} (h : FreshOrders s t) (k : FreshOrders t u) : FreshOrders s u := by
  intro g hg ho
  rcases k g hg ho with hg | hg
  · exact h g hg ho
  · exact .inr hg

theorem State.offer_freshOrders (s : State) (b : FrameBody) : FreshOrders s (s.offer b) := by
  intro g hg _
  rcases (s.offer_moved b) with h | ⟨c, h⟩ | ⟨b', h⟩
  · exact .inl (h ▸ hg)
  · simp only [State.offer] at hg
    split at hg
    · exact .inl hg
    · rcases List.mem_append.mp hg with hg | hg
      · exact .inl hg
      · exact .inr (by rw [List.mem_singleton.mp hg])
  · rw [h] at hg
    rcases List.mem_append.mp hg with hg | hg
    · exact .inl hg
    · exact .inr (by rw [List.mem_singleton.mp hg])

theorem State.tryOrder_freshOrders (s : State) : FreshOrders s s.tryOrder := by
  simp only [State.tryOrder]
  repeat' split
  · exact (NoNew.refl s).freshOrders
  · exact State.offer_freshOrders _ _
  · exact (NoNew.refl s).freshOrders

theorem State.askTenure_noOrder (s : State) (c : Nat) : NoNew FrameBody.isOrder s (s.askTenure c) := by
  have hask : NoNew FrameBody.isOrder s (s.onTm fun t => { t with own := .asking c }) := .of_frames rfl
  have hoffer (u : State) : NoNew FrameBody.isOrder u (u.offer (.tenure c)) := u.offer_noNew rfl
  have hretarget : NoNew FrameBody.isOrder s (s.onLu fun l => l.retarget c) := by
    intro g hg ho
    obtain ⟨f, hf, rfl⟩ := List.mem_map.mp hg
    by_cases ht : f.body.isTenure = true
    · simp [ht, FrameBody.isOrder] at ho
    · rwa [if_neg ht]
  grind only [State.askTenure, State.reannounce, NoNew.refl, NoNew.trans]

theorem State.positionAt_freshOrders (s : State) : FreshOrders s s.positionAt := by
  have hphase (p : Phase) : FreshOrders s (s.setPhase p) := (NoNew.of_frames rfl).freshOrders
  have hwait : FreshOrders s s.waitTenure := (hphase .tenureWait).trans (State.askTenure_noOrder _ _).freshOrders
  have hlead : FreshOrders s s.enterLead := by
    have hopen : FreshOrders s (s.onTe fun t => { t with phase := .leadWait, leadOpen := s.inLeadSlot }) :=
      (NoNew.of_frames rfl).freshOrders
    exact hopen.trans (State.tryOrder_freshOrders _)
  have hsettle : FreshOrders s s.enterSettle := (NoNew.of_frames rfl).freshOrders
  have hsuspend : FreshOrders s s.suspend := (s.suspend_noNew sparesHolds_isOrder).freshOrders
  have hset := hphase .tenureWait
  grind only [State.positionAt]

theorem State.endTenure_noNew {p : FrameBody → Bool} (hp : SparesHolds p) (hr : p .release = false) (s : State) :
    NoNew p s s.endTenure := by
  have hown (o : OwnTenure) : NoNew p s (s.setOwn o) := .of_frames rfl
  have hwithdraw (u : State) : NoNew p u (u.withdraw FrameBody.isTenure) := u.withdraw_noNew _
  have hsuspend (u : State) : NoNew p u u.suspendAfterExchange := u.suspendAfterExchange_noNew hp
  have hrelease (u : State) : NoNew p u u.offerRelease := u.offerRelease_noNew hr
  grind only [State.endTenure, NoNew.refl, NoNew.trans]

theorem State.idleTenureTest_noOrder (s : State) : NoNew FrameBody.isOrder s s.idleTenureTest := by
  have hend := s.endTenure_noNew sparesHolds_isOrder rfl
  grind only [State.idleTenureTest, NoNew.refl]

theorem State.engineIdled_freshOrders (s : State) : FreshOrders s s.engineIdled := by
  have hform : FreshOrders s s.formEligible := (NoNew.of_frames rfl).freshOrders
  have hposition (u : State) : FreshOrders u u.position := by
    simp only [State.position]
    split
    · exact (NoNew.refl u).freshOrders
    · have hplace (f : Engine → Engine) : FreshOrders u (u.onTe f) := (NoNew.of_frames rfl).freshOrders
      exact (hplace _).trans (State.positionAt_freshOrders _)
  have hselect : FreshOrders s s.select := by
    rcases s.select_cases with ⟨h, _⟩ | ⟨_, ⟨h, _⟩ | ⟨r, _, h⟩⟩ <;> rw [h]
    · exact (NoNew.refl s).freshOrders
    · exact hform
    · simp only [State.takeRequest]
      generalize ht : ((s.formEligible.onRequest r.id fun x => { x with state := .active }).onTe _).loadAhead = t
      have hlu : t.lu.frames = s.lu.frames := by rw [← ht]; simp
      have hst : FreshOrders s t := (NoNew.of_frames hlu).freshOrders
      exact hst.trans (hposition t)
  have htest := s.select.idleTenureTest_noOrder
  exact hselect.trans (htest.trans (State.offerRelease_noNew rfl _)).freshOrders

/-- After the engine's request has ended every order pending is a fresh one (R110). -/
theorem State.endRequest_freshOrders (s : State) (st : Status) (f : Option ElementFault) (m : Bool) :
    ∀ g ∈ (s.endRequest st f m).lu.frames, g.body.isOrder = true → g.collisions = 0 := by
  have hnone : ∀ g ∈ (s.finish st f m).lu.frames, g.body.isOrder = false := by
    simp only [State.finish]
    split
    · exact (State.idleEngine_free _).2.2
    · exact (State.idleEngine_free _).2.2
  intro g hg ho
  rcases State.engineIdled_freshOrders _ g hg ho with h | h
  · simp [hnone g h] at ho
  · exact h

/-! A notice decided unanswered. -/

theorem State.settleAsk_eq (s : State) (b : FrameBody) :
    s.settleAsk b = if askedElsewhere s b = true then s.reposition else s := by
  cases b <;> simp [State.settleAsk, askedElsewhere, and_assoc]

theorem HoldManager.find_modify_map (h : HoldManager) (id : Nat) {f : HoldEntry → HoldEntry}
    (hf : ∀ e, (f e).id = e.id) : (h.modify id f).find id = (h.find id).map f := by
  have hsame : ((fun e : HoldEntry => e.id == id) ∘ fun e => if e.id == id then f e else e) = fun e => e.id == id := by
    funext e
    simp only [Function.comp_apply]
    split <;> simp [hf]
  simp only [HoldManager.find, HoldManager.modify, ← List.map_append, List.find?_map, hsame]
  cases hfind : (h.list ++ h.line).find? fun e => e.id == id with
  | none => rfl
  | some e =>
    have he : e.id = id := by simpa using List.find?_some hfind
    simp [he]

/-- The silence of an entry's CLAIM decides it (R152). -/
theorem State.silentEntry_held {s : State} {id : Nat} {y : HoldEntry} (hf : s.hm.find id = some y) :
    (s.silentEntry id).lu = s.lu ∧ (s.silentEntry id).tm = s.tm ∧
      ∃ z ∈ (s.silentEntry id).hm.list ++ (s.silentEntry id).hm.line,
        z.id = y.id ∧ z.state = .held ∧ z.silent = true ∧ z.claimed = true := by
  have hmem : y ∈ s.hm.list ++ s.hm.line := List.mem_of_find?_eq_some hf
  have hid : y.id = id := by simpa using List.find?_some hf
  have hfind : (s.onEntry id fun x => { x with claimed := true }).hm.find id = some { y with claimed := true } := by
    rw [show (s.onEntry id fun x => { x with claimed := true }).hm = s.hm.modify id fun x => { x with claimed := true } from
      rfl, HoldManager.find_modify_map _ _ (f := fun x => { x with claimed := true }) fun _ => rfl, hf]
    rfl
  simp only [State.silentEntry, State.becomeHeld, hfind, State.completeHold_frame, State.wakeRequests_frame]
  refine ⟨by simp, by simp, { y with state := .held, silent := true, holdElem := none, claimed := true }, ?_,
    rfl, rfl, rfl, rfl⟩
  simp only [State.onEntry, State.onHm, HoldManager.modify, ← List.map_append, List.map_map]
  exact List.mem_map.mpr ⟨y, hmem, by simp [hid]⟩

/-- An own TENURE settled (R133, R134, R136): the tenure it leaves, and no TENURE pending that was sent before. -/
theorem State.tenureSettled_settles (v : State) (d : Nat) :
    EngineKept v (v.tenureSettled d) ∧
    ((∀ g ∈ v.lu.frames, g.body.isTenure = true → g.collisions = 0 ∧ g.silences = 0) →
      ∀ g ∈ (v.tenureSettled d).lu.frames, g.body.isTenure = true → g.collisions = 0 ∧ g.silences = 0) ∧
    (v.tenureSettled d).tm.own = match v.tm.own with
      | .asking e => if v.rdm.drive = .up then .holding e v.cfg.tenure else .ending e v.cfg.tenure
      | .holding _ r => .holding d r
      | .ending _ r => .ending d r
      | .none => .none := by
  have hgranted (o : OwnTenure) (ho : o.isHolding = true) (c : Nat) :
      EngineKept v ((v.setOwn o).tenureGranted c) ∧
      ((∀ g ∈ v.lu.frames, g.body.isTenure = true → g.collisions = 0 ∧ g.silences = 0) →
        ∀ g ∈ ((v.setOwn o).tenureGranted c).lu.frames, g.body.isTenure = true → g.collisions = 0 ∧ g.silences = 0) ∧
      ((v.setOwn o).tenureGranted c).tm.own = o := by
    refine ⟨(EngineKept.refl v : EngineKept v (v.setOwn o)).trans (State.tenureGranted_engineKept _ c),
      fun hf g hg ht => ?_, by rw [State.tenureGranted_tm (by exact ho)]; rfl⟩
    rcases (State.tenureGranted_moved (s := v.setOwn o) (by exact ho) c).counts hg with ⟨f, hfm, hft, h1, h2⟩ | h
    · rw [← h1, ← h2]
      exact hf f hfm (by rw [hft, ht])
    · exact h
  simp only [State.tenureSettled]
  cases hown : v.tm.own with
  | none => exact ⟨.refl v, id, hown⟩
  | holding e r => exact hgranted _ rfl d
  | ending e r =>
    refine ⟨(EngineKept.refl v : EngineKept v (v.setOwn (.ending d r))).trans (State.offerRelease_engineKept _),
      fun hf g hg ht => ?_, by simp [State.setOwn]⟩
    rcases State.offerRelease_frames _ g hg with h | h
    · exact hf g h ht
    · simp [h, FrameBody.isTenure] at ht
  | asking e =>
    simp only [State.holdTenure]
    by_cases hd : v.rdm.drive = .up
    · rw [if_pos (by exact hd), if_pos hd]
      exact hgranted _ rfl e
    · rw [if_neg (by exact hd), if_neg hd]
      generalize hu : ((v.setOwn (.holding e v.cfg.tenure)).setOwn (.ending e v.cfg.tenure)).withdraw FrameBody.isTenure = u
      have hend : (v.setOwn (.holding e v.cfg.tenure)).endTenure = u.suspendAfterExchange.offerRelease := by rw [← hu]; rfl
      have hku : EngineKept v u := by rw [← hu]; exact .refl v
      rw [hend]
      refine ⟨hku.trans (u.suspendAfterExchange_engineKept.trans (State.offerRelease_engineKept _)), fun _ g hg ht => ?_,
        by simp [← hu, State.setOwn]⟩
      have hno := ((u.suspendAfterExchange_noNew sparesHolds_isTenure).trans (State.offerRelease_noNew rfl _)).none
        (by rw [← hu]; exact State.withdraw_none _ _) g hg
      simp [hno] at ht

end Sys2Proof.Machine
end

section
/-! Collisions (R122 to R125): the backoff and the record, and the eighth. -/

namespace Sys2Proof.Machine

open Sys2Proof

theorem backoffOf_eq (station : Bool) (k : Nat) : backoffOf station k =
    if station then (if k % 2 = 1 then 2 * k else k) else (if k % 2 = 1 then k else 2 * k) := by
  by_cases hk : k % 2 = 1 <;> cases station <;> simp [backoffOf, hk]

/-- The frame at a place collides for the last time: it is abandoned (R123, R124). -/
theorem State.collide_last {s : State} {i : Nat} {f : Frame} (hf : f.collisions = 7) :
    s.begin.collide i f = (abandoned s i f).abandonFrame { f with collisions := 8 } := by
  have hgone : ((((if s.begin.lu.armed then s.begin.raise .line else s.begin).onLu fun l => { (l.record f.body.code) with
      backoff := backoffOf l.station 8, failedHeard := false }).onLu fun l =>
        { l with frames := l.frames.eraseIdx i }).raise .line) = abandoned s i f := by
    have hback (t : Bool) : backoffOf t 8 = if t then 8 else 16 := by cases t <;> rfl
    have harm : s.begin.lu.armed = s.lu.armed := rfl
    rw [harm]
    cases s.lu.armed with
    | false =>
      simp only [Bool.false_eq_true, if_false, State.onLu, hback]
      rfl
    | true =>
      have htwice (e b : BitVec 12) : (e ||| b) ||| b = e ||| b := by rw [BitVec.or_assoc, BitVec.or_self]
      simp only [if_true, State.onLu, hback, State.raise, State.onHp, htwice]
      rfl
  simp only [State.collide, hf]
  rw [if_pos (show Config.collisionLimit ≤ 7 + 1 by decide), hgone]

theorem State.collide_before {s : State} {i : Nat} {f : Frame} (hf : f.collisions + 1 < 8) :
    s.begin.collide i f = { s with
      out := []
      hp := if s.lu.armed then { s.hp with events := s.hp.events ||| BitVec.twoPow 12 8 } else s.hp
      lu := { s.lu with
        frames := s.lu.frames.set i { f with collisions := f.collisions + 1 }
        backoff := backoffOf s.lu.station (f.collisions + 1)
        failedHeard := false
        collisionCount := min 255 (s.lu.collisionCount + 1)
        lastCollided := f.body.code
        armed := false } } := by
  simp only [State.collide]
  rw [if_neg (show ¬ Config.collisionLimit ≤ f.collisions + 1 from Nat.not_le.mpr hf)]
  have harm : s.begin.lu.armed = s.lu.armed := rfl
  rw [harm]
  cases s.lu.armed <;> rfl

/-- The last word of the own RELEASE, or its abandonment (R123, R137, R138). -/
theorem State.releaseGone_eq (s : State) (reset : Bool) : s.releaseGone reset = { s with
    tm := { s.tm with
      own := if s.tm.own.isEnding then .none else s.tm.own
      courtesy := s.tm.courtesy || !(reset || decide (s.tm.presence = .absent)) } } := by
  have hown : (if s.tm.own.isEnding = true then s.setOwn .none else s) =
      s.setOwn (if s.tm.own.isEnding = true then .none else s.tm.own) := by
    split <;> rfl
  simp only [State.releaseGone, hown]
  cases reset with
  | true =>
    simp only [if_true, Bool.true_or, Bool.not_true, Bool.or_false]
    rfl
  | false =>
    by_cases hp : s.tm.presence = .absent
    · have hb : (s.setOwn (if s.tm.own.isEnding = true then .none else s.tm.own)).beginCourtesy =
          s.setOwn (if s.tm.own.isEnding = true then .none else s.tm.own) := if_pos hp
      simp only [Bool.false_eq_true, if_false, hb, decide_eq_true hp, Bool.or_true, Bool.not_true, Bool.or_false]
      rfl
    · have hb : (s.setOwn (if s.tm.own.isEnding = true then .none else s.tm.own)).beginCourtesy =
          (s.setOwn (if s.tm.own.isEnding = true then .none else s.tm.own)).onTm fun t => { t with courtesy := true } :=
        if_neg hp
      simp only [Bool.false_eq_true, if_false, hb, hp, decide_false, Bool.or_false, Bool.not_false, Bool.or_true]
      rfl

/-- Settles O37: the collision recorded, and the eighth by the frame's owner. -/
theorem collisionsBackOffAndAbandon : Obligations.CollisionsBackOffAndAbandon := by
  unfold Obligations.CollisionsBackOffAndAbandon
  intro line i f s hi hfree rank mayStart hfailed hx hpx hmay hs hmin hfirst k
  have hl : s.begin.lineFree line = true := (State.lineFree_iff s line).mpr ⟨hx, hpx, hfree, hfailed⟩
  have hc : s.begin.chosen = some (i, f) := chosenAt_eq hi ((State.mayStart_iff s f).mpr hmay)
    (fun g hg hok => hmin g hg ((State.mayStart_iff s g).mp hok))
    fun j hj g hg hok => hfirst j hj g hg ((State.mayStart_iff s g).mp hok)
  have hcollide : exec (.collision line) s = .next (s.begin.collide i f) := by
    simp only [exec, execCollision]
    rw [if_pos hl, State.collideChosen, hc]
    rfl
  refine ⟨fun hk => ⟨?_, ?_⟩, fun hk c hcmd => ?_⟩
  · simp only [exec, execFrameAbandoned]
    rw [if_pos hl, State.collideChosen, hc]
    have hno : (f.collisions + 1 == Config.collisionLimit) = false := beq_eq_false_iff_ne.mpr (Nat.ne_of_lt hk)
    simp only [hno, Bool.false_eq_true, if_false]
    rfl
  · rw [hcollide, State.collide_before hk, backoffOf_eq]
  · intro gone
    have hf7 : f.collisions = 7 := by omega
    have hexec : exec c s = .next (gone.abandonFrame { f with collisions := 8 }) := by
      rw [← State.collide_last hf7]
      rcases hcmd with rfl | rfl
      · exact hcollide
      · simp only [exec, execFrameAbandoned]
        rw [if_pos hl, State.collideChosen, hc]
        exact congrArg Host.Outcome.next (if_pos (by rw [hf7]; rfl))
    have habsent : gone.peerAbsent = absent gone := State.peerAbsent_eq (by exact hs)
    rw [hexec]
    -- a notice that takes an answer
    have hnotice (ha : f.body.isAnswered = true) :
        gone.abandonFrame { f with collisions := 8 } = gone.noticeSilence { f with collisions := 8 } := by
      have ho : f.body.isOrder = false := by
        cases hb : f.body <;> simp [hb, FrameBody.isAnswered, FrameBody.isOrder] at ha ⊢
      simp [State.abandonFrame, ho, ha]
    have hdecided (ha : f.body.isAnswered = true) (h : f.silences ≠ 0 ∨ s.tm.presence = .absent) :
        gone.abandonFrame { f with collisions := 8 } = gone.noticeUnanswered f.body := by
      rw [hnotice ha, State.noticeSilence]
      exact if_neg fun hh => h.elim (fun h => h hh.1) (fun h => hh.2 h)
    refine ⟨fun hb => ?_, fun hb => ?_, fun ha h0 hp => ?_, fun h => ⟨fun v hb => ?_, fun y id b n m hb hy => ?_,
      fun d hb hno => ?_⟩, fun ho => ⟨_, rfl, ?_⟩⟩
    · rcases hb with hb | ⟨b, n, w, hb⟩ <;>
        simp [State.abandonFrame, hb, FrameBody.isOrder, FrameBody.isAnswered, FrameBody.isRelease]
    · have hrel : gone.abandonFrame { f with collisions := 8 } = gone.releaseGone f.reset := by
        simp [State.abandonFrame, hb, FrameBody.isOrder, FrameBody.isAnswered, FrameBody.isRelease]
      rw [hrel, State.releaseGone_eq]
      rfl
    · have hsil : gone.noticeSilence { f with collisions := 8 } =
          (gone.onLu fun l => { l with frames := { f with silences := 1, collisions := 0 } :: l.frames }).settleAsk f.body := by
        rw [State.noticeSilence]
        exact if_pos ⟨h0, hp⟩
      rw [hnotice ha, hsil, State.settleAsk_eq,
        show askedElsewhere (gone.onLu fun l => { l with frames := { f with silences := 1, collisions := 0 } :: l.frames })
          f.body = askedElsewhere s f.body from rfl]
      refine ⟨fun he => by rw [he]; rfl, fun he => ⟨_, rfl, ?_⟩⟩
      have hhold : s.tm.own.isHolding = true ∧ f.body.isTenure = true := by
        cases hb : f.body <;> simp_all [askedElsewhere, FrameBody.isTenure]
      rw [he, if_pos rfl]
      exact (State.reposition_moved (by exact hhold.1)).tenure (f := { f with silences := 1, collisions := 0 })
        (List.mem_cons_self ..) hhold.2
    · rw [hdecided (by rw [hb]; rfl) h, hb]
      exact congrArg Host.Outcome.next habsent
    · have hsettled : gone.noticeUnanswered f.body = (absent gone).silentEntry id := by
        rw [hb, State.noticeUnanswered, habsent]
      rw [hdecided (by rw [hb]; rfl) h, hsettled]
      obtain ⟨hlu, htm, hz⟩ := State.silentEntry_held (s := absent gone) hy
      exact ⟨_, rfl, hlu, htm, hz⟩
    · have hsettled : gone.noticeUnanswered f.body = (absent gone).tenureSettled d := by
        rw [hb, State.noticeUnanswered, habsent]
      have hfr : ∀ g ∈ (absent gone).lu.frames, g.body.isTenure = true → g.collisions = 0 ∧ g.silences = 0 := by
        intro g hg ht
        simp only [absent] at hg
        split at hg
        · split at hg
          · rcases List.mem_append.mp hg with hg | hg
            · simp [hno g hg] at ht
            · rw [List.mem_singleton.mp hg]
              exact ⟨rfl, rfl⟩
          · simp [hno g hg] at ht
        · simp [hno g hg] at ht
      obtain ⟨hk, hcounts, hown⟩ := (absent gone).tenureSettled_settles d
      have hcfg : (absent gone).cfg = s.cfg := by
        simp only [absent, State.cfg]
        split <;> rfl
      rw [show (absent gone).tm.own = s.tm.own from rfl, hcfg, show (absent gone).rdm = s.rdm from rfl] at hown
      rw [hdecided (by rw [hb]; rfl) h, hsettled]
      refine ⟨_, rfl, ?_, fun hp => ?_, hcounts hfr, fun e he hd => ?_, fun e he hd => ?_, fun e r he => ?_, fun e r he => ?_⟩
      · exact (congrArg TenureManager.presence hk.tm).trans rfl
      · rw [hk.events]
        simp only [absent]
        rw [if_neg (by exact hp)]
        simp
      all_goals simp_all
    · have hend : gone.abandonFrame { f with collisions := 8 } = gone.endRequest .fault (some .line) false := by
        simp [State.abandonFrame, ho]
      rw [hend]
      have hk := gone.endRequest_engineKept .fault (some .line) false
      refine ⟨?_, hk.lu, hk.rdm, gone.endRequest_freshOrders _ _ _, fun r ha => ?_⟩
      · rw [hk.events]
        simp [gone, abandoned]
      · exact State.endRequest_ends (u := gone) ha .fault (some .line) false

end Sys2Proof.Machine
end

section
/-! Windows that close, and the silences they make (R104, R116, R119, R125, R126). -/

namespace Sys2Proof.Machine

open Sys2Proof

/-! Which windows close (R116). -/

theorem Exchange.ends_iff (x : Exchange) (elapsed : Nat) : x.ends elapsed = true ↔
    x.window ≤ elapsed ∧ (x.frame.body.isTransfer = false ∨ x.earlyOver = true ∨ x.slotBegun = false) := by
  simp only [Exchange.ends, Bool.and_eq_true, decide_eq_true_eq, Bool.or_eq_true, Bool.not_eq_true', or_assoc]

theorem PeerExchange.ends_iff (p : PeerExchange) (elapsed : Nat) : p.ends elapsed = true ↔
    p.window ≤ elapsed ∧ (p.order.any peerTransfers = false ∨ p.earlyOver = true ∨ p.slotBegun = false) := by
  simp only [PeerExchange.ends, Bool.and_eq_true, decide_eq_true_eq, Bool.or_eq_true, Bool.not_eq_true', or_assoc]

theorem earlyCloses_iff (transfer past : Bool) (elapsed : Nat) :
    earlyCloses transfer past elapsed = true ↔ transfer = true ∧ past = false ∧ 5 ≤ elapsed := by
  simp [earlyCloses, Config.shortWindow, and_assoc]

theorem peerTransfers_iff (o : Option PeerOrder) :
    o.any peerTransfers = true ↔ o ≠ none ∧ o ≠ some .sense := by
  cases o with
  | none => simp
  | some o => cases o <;> simp [peerTransfers]

theorem Exchange.window_unbegun {x : Exchange} (ht : x.frame.body.isTransfer = true) (hs : x.slotBegun = false) :
    x.window = 64 := by
  cases hb : x.frame.body <;> simp [hb, FrameBody.isTransfer] at ht <;> simp [Exchange.window, hb, hs, Config.noPulseWindow]

theorem PeerExchange.window_unbegun {p : PeerExchange} (ht : p.order.any peerTransfers = true) (hs : p.slotBegun = false) :
    p.window = 64 := by
  cases hb : p.order with
  | none => simp [hb] at ht
  | some o => cases o <;> simp [hb, peerTransfers] at ht <;> simp [PeerExchange.window, hb, hs, Config.noPulseWindow]

/-- The early window of a transfer order closes before the exchange ends (R116). -/
theorem Exchange.not_ends_early {x : Exchange} {elapsed : Nat} (ht : x.frame.body.isTransfer = true)
    (ho : x.earlyOver = false) (h : x.slotBegun = true ∨ elapsed < 64) : ¬ x.ends elapsed = true := by
  rw [Exchange.ends_iff, ht, ho]
  rintro ⟨hw, h' | h' | hs⟩
  · cases h'
  · cases h'
  · rw [Exchange.window_unbegun ht hs] at hw
    rw [hs] at h
    simp only [Bool.false_eq_true, false_or] at h
    omega

theorem PeerExchange.not_ends_early {p : PeerExchange} {elapsed : Nat} (ht : p.order.any peerTransfers = true)
    (ho : p.earlyOver = false) (h : p.slotBegun = true ∨ elapsed < 64) : ¬ p.ends elapsed = true := by
  rw [PeerExchange.ends_iff, ht, ho]
  rintro ⟨hw, h' | h' | hs⟩
  · cases h'
  · cases h'
  · rw [PeerExchange.window_unbegun ht hs] at hw
    rw [hs] at h
    simp only [Bool.false_eq_true, false_or] at h
    omega

theorem exec_answerWindowClose_own {s : State} {x : Exchange} (hx : s.lu.exchange = some x) (elapsed : Nat) :
    exec (.answerWindowClose elapsed) s = .next (
      if x.ends elapsed = true then s.begin.exchangeSilent x
      else if earlyCloses x.frame.body.isTransfer x.earlyOver elapsed = true then
        s.begin.onLu fun l => { l with exchange := some { x with earlyOver := true } }
      else s.begin) :=
  congrArg Host.Outcome.next (State.closeWindow_of_own (s := s.begin) elapsed hx)

theorem exec_answerWindowClose_peer {s : State} {p : PeerExchange} (hx : s.lu.exchange = none)
    (hp : s.lu.peerExchange = some p) (elapsed : Nat) :
    exec (.answerWindowClose elapsed) s = .next (
      if p.ends elapsed = true then s.begin.onLu fun l => { l with peerExchange := none }
      else if earlyCloses (p.order.any peerTransfers) p.earlyOver elapsed = true then
        s.begin.onLu fun l => { l with peerExchange := some { p with earlyOver := true } }
      else s.begin) := by
  refine congrArg Host.Outcome.next ?_
  simp only [State.closeWindow, show s.begin.lu.exchange = none from hx, show s.begin.lu.peerExchange = some p from hp]

theorem exec_driveSilenceLimit_of {s : State} {x : Exchange} (hx : s.lu.exchange = some x) (elapsed : Nat) :
    exec (.driveSilenceLimit elapsed) s =
      .next (if s.begin.silenceDue x elapsed = true then s.begin.orderSilent x else s.begin) := by
  simp only [exec, execDriveSilenceLimit, show s.begin.lu.exchange = some x from hx]

theorem State.silenceDue_iff (s : State) (x : Exchange) (elapsed : Nat) : s.silenceDue x elapsed = true ↔
    x.frame.body.isOrder = true ∧ x.discarded = false ∧ x.lost = false ∧ s.rdm.silence = 2 ∧ x.ends elapsed = true := by
  simp [State.silenceDue, Config.silenceLimit, and_assoc]

/-! The silence of an order (R104, R126). -/

theorem State.orderUnanswered_engineKept (s : State) (b : FrameBody) : EngineKept s (s.orderUnanswered b) := by
  refine s.notDone_engineKept fun u => ?_
  split
  · exact u.slip_engineKept _
  · exact State.goOn_engineKept (.refl u)

/-- The silence of an order below the third (R126). -/
theorem State.orderSilent_counts {s : State} {x : Exchange} (hd : x.discarded = false) (hl : x.lost = false)
    (hs : s.rdm.silence < 2) : (s.begin.orderSilent x).rdm = { s.rdm with silence := s.rdm.silence + 1 } ∧
      (s.begin.orderSilent x).lu.exchange = none := by
  generalize hv : (s.begin.endExchange.seekUnanswered x).onRdm (fun m => { m with silence := m.silence + 1 }) = v
  have hvr : v.rdm = { s.rdm with silence := s.rdm.silence + 1 } ∧ v.lu.exchange = none := by
    rw [← hv]; simp [State.endExchange]
  have hsil : (s.begin.endExchange.seekUnanswered x).rdm.silence = s.rdm.silence := by simp
  have heq : s.begin.orderSilent x =
      if (s.begin.endExchange.seekUnanswered x).ownsExchange x = true then v.orderUnanswered x.frame.body else v := by
    simp only [State.orderSilent, hd, hl, Bool.false_eq_true, if_false, hsil, Config.silenceLimit]
    rw [if_neg (by omega), hv]
  rw [heq]
  split
  · have hk := v.orderUnanswered_engineKept x.frame.body
    exact ⟨hk.rdm.trans hvr.1, hk.exchange.trans hvr.2⟩
  · exact hvr

/-- The third silence of an order loses the drive (R104, R126, R163). -/
theorem State.orderSilent_loses {s : State} {x : Exchange} (hd : x.discarded = false) (hl : x.lost = false)
    (hs : s.rdm.silence = 2) (hdown : s.rdm.drive ≠ .down) :
    let t := s.begin.orderSilent x
    t.rdm.drive = .down ∧ t.rdm.silence = 0 ∧ t.rdm.counter = none ∧ t.hp.events.getLsbD 9 = true ∧
      t.tm.cylinder = none ∧ t.tm.moving = false ∧ t.lu.exchange = none ∧
      ∀ r, s.activeRequest = some r → r.state = .active → x.request = some r.id →
        CompletionAsked t r .fault (some .driveDown) ∧ Left t r.id := by
  generalize hv : s.begin.endExchange.seekUnanswered x = v
  have hvf : v.rdm = s.rdm ∧ v.lu.exchange = none ∧ v.te = s.te := by
    rw [← hv]; simp [State.endExchange]
  obtain ⟨hvr, hvx, hvte⟩ := hvf
  intro t
  have heq : t = v.loseDrive (v.ownsExchange x) := by
    have hsil : v.rdm.silence = 2 := by rw [hvr, hs]
    simp only [t, State.orderSilent, hd, hl, Bool.false_eq_true, if_false, hv, hsil, Config.silenceLimit]
    rfl
  have hact (r : Request) (ha : s.activeRequest = some r) (hst : r.state = .active) : v.activeRequest = some r := by
    rw [← hv]
    exact (State.seekUnanswered_taken (x := x) (s := s) (u := s.begin.endExchange)
      (.of_te ha rfl rfl rfl rfl rfl) (.inl hst)).active
  have hdv : v.rdm.drive ≠ .down := by rwa [hvr]
  rw [heq]
  by_cases hno : v.ownsExchange x = true ∧ v.activeRequest ≠ none
  · obtain ⟨howns, hsome⟩ := hno
    obtain ⟨q, hq⟩ := Option.ne_none_iff_exists'.mp hsome
    obtain ⟨hasked, hleft, h1, h2, _, h4⟩ := State.loseDrive_ends hq
    obtain ⟨h5, h6, h7, h8, h9, _, _⟩ := h4 hdv
    rw [howns]
    refine ⟨h1, h6, h5, h7, h8, h9, h2 hvx, fun r ha hst _ => ?_⟩
    obtain rfl : q = r := by simpa [hq] using hact r ha hst
    simp only [hst, reduceCtorEq, if_false] at hasked
    exact ⟨hasked, hleft⟩
  · have hfol : v.loseDrive (v.ownsExchange x) = v.following State.driveDown := by
      simp only [State.loseDrive, State.following]
      cases ho : v.ownsExchange x with
      | false => rfl
      | true =>
        have hnone : v.activeRequest = none := by simpa [ho] using hno
        simp only [hnone, if_true]
    obtain ⟨h1, h2, h3, _, h5, h6, h7, _⟩ := (State.following_driveDown hdv).1
    rw [hfol]
    refine ⟨h1, h3, h2, h5, h6, h7, ?_, fun r ha hst hx => ?_⟩
    · rcases v.following_cases State.driveDown with ⟨he, _⟩ | ⟨he, _⟩ <;> rw [he]
      · rw [v.driveDown.engineIdled_engineKept.exchange]
        exact v.driveDown_line.1 hvx
      · exact v.driveDown_line.1 hvx
    · refine absurd ⟨?_, by rw [hact r ha hst]; simp⟩ hno
      simp [State.ownsExchange, hx, hvte, (State.activeRequest_mem ha).2]

/-- The silence of an order whose request the engine serves (R95, R96, R99, R101, R104, R132). -/
theorem Serving.orderSilent_unanswered {s : State} {x : Exchange} {r : Request} (h : Serving s x r)
    (hsil : s.rdm.silence < 2) :
    let w := (s.begin.endExchange.seekUnanswered x).onRdm fun m => { m with silence := m.silence + 1 }
    Taken s w r ∧ s.begin.orderSilent x =
      if x.frame.body.isTransfer then w.releaseReceiving.slip .line else w.releaseReceiving := by
  obtain ⟨_, _, hdis, hlost, hreq, hte, hfind, hs, hsus, hdown⟩ := id h
  have ha : s.activeRequest = some r := by simpa only [State.activeRequest, hte] using hfind
  have hv := State.seekUnanswered_taken (x := x) (State.noAnswer_taken hte hfind) (.inl hs)
  intro w
  have hw : Taken s w r :=
    ⟨hv.active, hv.ids, hv.chains, hv.adapter, hv.own, hv.request, hv.phase, hv.sector, hv.target, hv.suspendAfter,
      hv.downAfter, hv.maintenanceOver⟩
  refine ⟨hw, ?_⟩
  rw [State.orderSilent_eq hdis hreq hte]
  simp only [hlost, Bool.false_eq_true, if_false]
  rw [if_neg (by omega), State.orderUnanswered, hw.notDone hs hdown]
  have hgo : w.releaseReceiving.goOn id = w.releaseReceiving :=
    State.goOn_of_none (by exact hw.suspendAfter.trans hsus) id
  rw [hgo]

theorem State.slip_waits {u : State} {r : Request} (ha : u.activeRequest = some r) (h8 : r.slips < 8)
    (hs : u.te.suspendAfter = false) (cause : SlipCause) : u.slip cause = { u with
      wq := u.wq.modify r.id fun x => { x with slips := x.slips + 1 }
      te := { u.te with phase := .leadWait, leadOpen := false, lastSlip := cause }
      lu := { u.lu with frames := u.lu.frames.filter fun f => !f.body.isTransfer } } := by
  rw [State.slip_of_lt ha h8, State.goOn_of_none (by exact hs)]
  rfl

/-! The silence of a notice (R125, R133, R134, R152). -/

theorem exec_answerWindowClose_notice {s : State} {x : Exchange} (hx : s.lu.exchange = some x) {elapsed : Nat}
    (hw : x.window ≤ elapsed) (ha : x.frame.body.isAnswered = true) (hd : x.discarded = false) :
    exec (.answerWindowClose elapsed) s = .next (s.begin.endExchange.noticeSilence x.frame) := by
  have hkind : x.frame.body.isTransfer = false ∧ x.frame.body.isOrder = false ∧ x.frame.body.isRelease = false := by
    cases hb : x.frame.body <;>
      simp [hb, FrameBody.isAnswered, FrameBody.isTransfer, FrameBody.isOrder, FrameBody.isRelease] at ha ⊢
  obtain ⟨htr, ho, hr⟩ := hkind
  rw [exec_answerWindowClose_own hx, if_pos ((x.ends_iff elapsed).mpr ⟨hw, .inl htr⟩), State.exchangeSilent, if_neg (by simp [ho]),
    if_neg (by simp [hr]), State.noticeSilent, if_neg (by simp [hd])]

theorem State.reposition_of_held {s : State} (ho : s.tm.own.isHolding = true) : s.reposition = s.position := by
  rcases s.following_cases State.position with ⟨_, hp, hq⟩ | ⟨h, _⟩
  · exact absurd hq ((State.position_held ho).2 hp)
  · rw [State.reposition, h]

/-- The engine of a held tenure positions a sector on another cylinder, its TENURE pending: the TENURE takes that
cylinder (R93, R134). -/
theorem State.position_retargets {u : State} {r : Request} (ha : u.activeRequest = some r)
    (ho : u.tm.own.isHolding = true) (hn : NeedsSeek u r) (hp : u.lu.isPending FrameBody.isTenure = true) :
    u.position = { u with
      te := { u.te with sector := r.done, target := u.nextTarget r, phase := .tenureWait, leadOpen := false }
      lu := u.lu.retarget (u.nextTarget r).cylinder } := by
  simp only [State.position, ha]
  generalize hv : u.onTe (fun t => { t with sector := r.done, target := u.nextTarget r }) = v
  have hseek : v.needsSeek v.te.target = true := by rw [← hv]; simpa [State.needsSeek] using hn
  have hwait : v.waitTenure = (v.setPhase .tenureWait).onLu fun l => l.retarget (u.nextTarget r).cylinder := by
    have hpv : (v.setPhase .tenureWait).lu.isPending FrameBody.isTenure = true := by rw [← hv]; exact hp
    have htarget : v.te.target = u.nextTarget r := by rw [← hv]; rfl
    have hre : (v.setPhase .tenureWait).reannounce v.te.target.cylinder =
        (v.setPhase .tenureWait).onLu fun l => l.retarget (u.nextTarget r).cylinder := by
      rw [State.reannounce, if_pos hpv, htarget]
    rw [← hre, State.waitTenure, State.askTenure]
    cases hh : u.tm.own <;> simp only [hh, OwnTenure.isHolding, Bool.false_eq_true] at ho
    rw [show (v.setPhase .tenureWait).tm.own = u.tm.own by rw [← hv]; rfl, hh]
  have hat : v.positionAt = v.waitTenure := by
    rw [State.positionAt]
    cases hh : u.tm.own <;> simp only [hh, OwnTenure.isHolding, Bool.false_eq_true] at ho
    rw [show v.tm.own = u.tm.own by rw [← hv]; rfl, hh]
    exact if_pos hseek
  rw [hat, hwait, ← hv]
  rfl

theorem State.tryOrder_mem {s : State} {f : Frame} (h : f ∈ s.lu.frames) : f ∈ s.tryOrder.lu.frames := by
  have hoffer (b : FrameBody) : f ∈ (s.offer b).lu.frames := by
    simp only [State.offer]
    split
    · exact h
    · exact List.mem_append_left _ h
  simp only [State.tryOrder]
  repeat' split
  · exact h
  · exact hoffer _
  · exact h

/-- The engine of a held tenure positions a sector on the cylinder at hand (R93). -/
theorem State.position_stays {u : State} {r : Request} (ha : u.activeRequest = some r)
    (ho : u.tm.own.isHolding = true) (hn : ¬ NeedsSeek u r) :
    u.position.te.phase = (if u.tm.moving then .settle else .leadWait) ∧
      ∀ f ∈ u.lu.frames, f ∈ u.position.lu.frames := by
  simp only [State.position, ha]
  generalize hv : u.onTe (fun t => { t with sector := r.done, target := u.nextTarget r }) = v
  have hvf : v.lu = u.lu ∧ v.tm = u.tm := by rw [← hv]; exact ⟨rfl, rfl⟩
  have hseek : v.needsSeek v.te.target = false := by
    rw [← hv]
    simpa [State.needsSeek, NeedsSeek] using hn
  rw [State.positionAt, hvf.2, ← hvf.1]
  cases hh : u.tm.own <;> simp only [hh, OwnTenure.isHolding, Bool.false_eq_true] at ho
  simp only [hseek, Bool.false_eq_true, if_false]
  split
  · exact ⟨rfl, fun f hf => hf⟩
  · exact ⟨by simp [State.enterLead], fun f hf => State.tryOrder_mem hf⟩

/-- The peer reported silent (R127, R138). -/
theorem State.peerAbsent_tm (s : State) :
    s.peerAbsent.tm = { s.tm with presence := .absent, courtesy := false } ∧
      (s.tm.presence ≠ .absent → s.peerAbsent.hp.events.getLsbD 7 = true) := by
  have hend (u : State) : u.endCourtesy.tm = { u.tm with courtesy := false } ∧ u.endCourtesy.hp = u.hp := by
    simp only [State.endCourtesy]
    cases hc : u.tm.courtesy with
    | false =>
      refine ⟨?_, rfl⟩
      simp only [Bool.false_eq_true, if_false]
      rw [← hc]
    | true =>
      simp only [if_true]
      repeat' split
      all_goals simp
  constructor
  · rw [State.peerAbsent, (hend _).1]
    split <;> rfl
  · intro hp
    rw [State.peerAbsent, (hend _).2, if_neg hp]
    simp [State.raise, Attention.bit]

end Sys2Proof.Machine
end

section
/-! A slot event at an engine without work: a DIRECT request outside MAINTENANCE, and a record ACTIVE with the engine
IDLE. -/

namespace Sys2Proof.Machine

open Sys2Proof

/-! A DIRECT request that is READY while the adapter is RUNNING. -/

/-- A DIRECT READ of the slot after next, at the cylinder the positioner is on. -/
def directLeft : Request := { Tests.request 0 .directRead .ready with extent := none, direct := ⟨1, 1, 0⟩ }

/-- It waits in the queue of a RUNNING adapter; no tenure stands, and the positioner moves. -/
def directWaiting : State :=
  let s := Tests.choosing [directLeft] 5 1 .none
  { s with tm := { s.tm with moving := true } }

/-- The record as selection reads it. -/
theorem directWaiting_choice : tierChoice directWaiting.cfg.urgency
    ((directWaiting.wq.records.map (slotRecord directWaiting 6)).filter fun r => decide (MaySelect directWaiting r)) =
      some (slotRecord directWaiting 6 directLeft) := by decide

/-- It is chosen, suspended at once, and leaves, since it may not return outside MAINTENANCE. -/
theorem directWaiting_leaves : (Tests.after (.sectorPulse Tests.pulse) directWaiting).wq.records = [] := by decide

/-- Refutes O29: a RUNNING adapter may select a DIRECT request (R81), which the suspension at once does not return to
the queue though its chain is not STOPPING (R65, R85). -/
theorem not_slotEventSelectsByTiers : ¬ Obligations.SlotEventSelectsByTiers := by
  unfold Obligations.SlotEventSelectsByTiers
  intro h
  obtain ⟨t, hexec, hchosen⟩ := h directWaiting (.sectorPulse Tests.pulse) 6
    ⟨rfl, by decide, by decide, .inr ⟨.inl ⟨⟨false, rfl⟩, rfl⟩, rfl⟩⟩ ⟨by decide, by decide, by decide⟩ rfl rfl
  rw [directWaiting_choice] at hchosen
  obtain ⟨-, hhalted, -⟩ := hchosen
  obtain ⟨-, -, hstays⟩ := hhalted ⟨rfl, rfl, by decide, rfl⟩
  rw [if_neg (by decide)] at hstays
  have hgone := directWaiting_leaves
  rw [Tests.after, hexec] at hgone
  rw [hgone] at hstays
  exact absurd hstays (List.not_mem_nil)

/-! A record ACTIVE, and named by the engine, while the engine is IDLE. -/

/-- The own tenure stands at cylinder 1; the engine is IDLE and names request 0, the only record, which is ACTIVE. -/
def idleWithRequest : State :=
  let s := Tests.choosing [Tests.request 0 .write .active] 5 1 (.holding 1 4)
  { s with te := { s.te with request := some 0 } }

/-- The tenure ends for want of work, and its end suspends the record, which is READY then. -/
theorem idleWithRequest_ends :
    (Tests.after (.sectorPulse Tests.pulse) idleWithRequest).tm.own = .ending 1 4 ∧
      (Tests.after (.sectorPulse Tests.pulse) idleWithRequest).wq.records.any (fun r => r.state = .ready) = true := by
  decide

/-- Refutes O30: with the engine IDLE but naming an ACTIVE record, an own tenure HOLDING ends at the slot event for want
of work (R136); the end suspends that record, so that one needs the positioner while the tenure is ENDING (R97). -/
theorem not_slotEventLeadSlotAndPreempt : ¬ Obligations.SlotEventLeadSlotAndPreempt := by
  unfold Obligations.SlotEventLeadSlotAndPreempt
  rintro ⟨-, h⟩
  obtain ⟨t, hexec, -, -, -, htenure, -⟩ := h idleWithRequest (.sectorPulse Tests.pulse) false (.inl ⟨rfl, rfl⟩) (by decide)
  obtain ⟨hown, hneeds⟩ := idleWithRequest_ends
  simp only [Tests.after, hexec] at hown hneeds
  obtain ⟨r, hr, hready⟩ := List.any_eq_true.mp hneeds
  have hstill := (htenure (by decide)).2 1 4 rfl rfl (.inr ⟨r, hr, .inl (by simpa using hready)⟩)
  rw [hown] at hstill
  cases hstill

end Sys2Proof.Machine
end

section
/-! The commands that are slot events (R6 to R8): the state the slot event begins on. -/

namespace Sys2Proof.Machine

open Sys2Proof

/-- The state `x` at which a slot event begins, with nothing lost: the monitor, the marks and the attention may have
changed. -/
structure SlotBegins (s x : State) : Prop where
  wq : x.wq = s.wq
  te : x.te = s.te
  tm : x.tm = s.tm
  hm : x.hm = s.hm
  chains : x.chains = s.chains
  adapter : x.hp.adapter = s.hp.adapter
  maintaining : x.hp.maintaining = s.hp.maintaining
  setup : x.hp.setup = s.hp.setup
  frames : x.lu.frames = s.lu.frames
  exchange : x.exchangeInProgress = s.exchangeInProgress

/-- A slot event, and the revolution event it may be (R10). -/
def State.slotAnd (s : State) (synthetic revolution : Bool) : State :=
  if revolution then (s.slotEvent synthetic none).revolutionEvent else s.slotEvent synthetic none

theorem SlotBegins.of_rdm (s : State) (m : Monitor) (sending : Bool) :
    SlotBegins s { s with out := [], rdm := m, lu := s.lu.pulse sending } where
  wq := rfl
  te := rfl
  tm := rfl
  hm := rfl
  chains := rfl
  adapter := rfl
  maintaining := rfl
  setup := rfl
  frames := rfl
  exchange := by cases h : s.lu.exchange <;> simp [State.exchangeInProgress, LineUnit.pulse, h]

theorem SlotBegins.driveUp {s x : State} (h : SlotBegins s x) : SlotBegins s x.driveUp where
  wq := by simp [State.driveUp, h.wq]
  te := by simp [State.driveUp, h.te]
  tm := by simp [State.driveUp, h.tm]
  hm := by simp [State.driveUp, h.hm]
  chains := by simp [State.driveUp, h.chains]
  adapter := by simp [State.driveUp, h.adapter]
  maintaining := by simp [State.driveUp, h.maintaining]
  setup := by simp [State.driveUp, h.setup]
  frames := by simp [State.driveUp, h.frames]
  exchange := by rw [← h.exchange]; simp [State.driveUp, State.exchangeInProgress]

/-- A pulse in time or a synthetic slot is a slot event, the loss of the spindle taken before it (R6 to R8). -/
theorem exec_slot {s : State} {b : Bool} {c : Instr} (hlate : c = .syntheticSlot none ∨ s.rdm.lateLeft = 0)
    (hc : c = .indexPulse ⟨none, b⟩ ∨ c = .sectorPulse ⟨none, b⟩ ∨ c = .syntheticSlot none) :
    ∃ x synthetic revolution, SlotBegins s x ∧
      (exec c s = .next (x.slotAnd synthetic revolution) ∨
        c = .syntheticSlot none ∧ s.rdm.synthRun = 19 ∧ exec c s = .next (x.driveDown.slotAnd synthetic revolution)) := by
  rcases hc with rfl | rfl | rfl
  · have hl : ¬ 0 < s.rdm.lateLeft := by simpa using hlate
    generalize hx : (s.begin.onLu (fun l => l.pulse b)).onRdm (fun m => { m.pulse.index with revCount := 0 }) = x
    have hbegins : SlotBegins s x := hx ▸ .of_rdm s _ b
    refine ⟨if s.rdm.completes then x.driveUp else x, false, true, ?_, .inl ?_⟩
    · split
      · exact hbegins.driveUp
      · exact hbegins
    · subst hx
      exact congrArg Host.Outcome.next (if_neg hl)
  · have hl : ¬ 0 < s.rdm.lateLeft := by simpa using hlate
    exact ⟨_, false, s.rdm.substitutes, .of_rdm s s.rdm.pulse.advance.countSlot b,
      .inl (congrArg Host.Outcome.next (if_neg hl))⟩
  · have hbegins : SlotBegins s (s.begin.onRdm Monitor.synthetic) :=
      ⟨rfl, rfl, rfl, rfl, rfl, rfl, rfl, rfl, rfl, rfl⟩
    refine ⟨_, true, s.rdm.substitutes, hbegins, ?_⟩
    have hexec : exec (.syntheticSlot none) s = .next (State.slotAnd
      (if s.rdm.losesSpindle then (s.begin.onRdm Monitor.synthetic).driveDown else s.begin.onRdm Monitor.synthetic)
      true s.rdm.substitutes) := rfl
    by_cases hlost : s.rdm.losesSpindle = true
    · rw [if_pos hlost] at hexec
      refine .inr ⟨rfl, ?_, hexec⟩
      simp only [Monitor.losesSpindle, Bool.and_eq_true, beq_iff_eq, Config.spindleLimit] at hlost
      omega
    · rw [if_neg hlost] at hexec
      exact .inl hexec

/-- A slot event that brings the counter to `p` loses nothing. -/
theorem exec_slotTo {s : State} {c : Instr} {p : Nat} (h : SlotTo s c p) :
    ∃ x synthetic revolution, SlotBegins s x ∧ exec c s = .next (x.slotAnd synthetic revolution) := by
  obtain ⟨_, _, _, hc⟩ := h
  obtain ⟨b, hlate, hc, hrun⟩ : ∃ b, (c = .syntheticSlot none ∨ s.rdm.lateLeft = 0) ∧
      (c = .indexPulse ⟨none, b⟩ ∨ c = .sectorPulse ⟨none, b⟩ ∨ c = .syntheticSlot none) ∧
      (c = .syntheticSlot none → s.rdm.synthRun ≠ 19) := by
    rcases hc with ⟨⟨b, rfl⟩, hl, _⟩ | ⟨⟨⟨b, rfl⟩, hl⟩ | ⟨rfl, hr⟩, _⟩
    · exact ⟨b, .inr hl, .inl rfl, by simp⟩
    · exact ⟨b, .inr hl, .inr (.inl rfl), by simp⟩
    · exact ⟨false, .inl rfl, .inr (.inr rfl), fun _ => hr⟩
  obtain ⟨x, y, r, hx, he | ⟨he, hs, _⟩⟩ := exec_slot hlate hc
  · exact ⟨x, y, r, hx, he⟩
  · exact absurd hs (hrun he)

end Sys2Proof.Machine
end

section
/-! A slot event that finds the engine at a SEEK or SENSE (R95, R96): the orders that stand through it. -/

namespace Sys2Proof.Machine

open Sys2Proof

/-- Every order pending in `s` is pending in `t`. -/
def OrdersStand (s t : State) : Prop := ∀ f ∈ s.lu.frames, f.body.isOrder = true → f ∈ t.lu.frames

theorem OrdersStand.of_frames {s t : State} (h : t.lu.frames = s.lu.frames) : OrdersStand s t := fun _ hf _ => h ▸ hf

theorem OrdersStand.refl (s : State) : OrdersStand s s := .of_frames rfl

theorem OrdersStand.trans {s t u : State} (h : OrdersStand s t) (k : OrdersStand t u) : OrdersStand s u :=
  fun f hf ho => k f (h f hf ho) ho

theorem OrdersStand.foldl {β : Type} {f : State → β → State} (h : ∀ s b, OrdersStand s (f s b)) (l : List β)
    (s : State) : OrdersStand s (l.foldl f s) := by
  induction l generalizing s with
  | nil => exact .refl s
  | cons b l ih => exact (h s b).trans (ih _)

theorem State.offer_ordersStand (s : State) (b : FrameBody) : OrdersStand s (s.offer b) := by
  intro f hf _
  simp only [State.offer]
  split
  · exact hf
  · exact List.mem_append_left _ hf

theorem State.withdraw_ordersStand {q : FrameBody → Bool} (hq : ∀ b, q b = true → b.isOrder = false) (s : State) :
    OrdersStand s (s.withdraw q) := by
  intro f hf ho
  refine List.mem_filter.mpr ⟨hf, ?_⟩
  have := mt (hq f.body)
  simp_all

theorem FrameBody.isOrder_of_isPreempt (b : FrameBody) (h : b.isPreempt = true) : b.isOrder = false := by
  cases b <;> first | rfl | cases h

theorem FrameBody.isOrder_of_isClaimOf (id : Nat) (b : FrameBody) (h : b.isClaimOf id = true) : b.isOrder = false := by
  cases b <;> first | rfl | cases h

theorem State.joinList_ordersStand (s : State) (e : HoldEntry) : OrdersStand s (s.joinList e) := by
  have hjoin : OrdersStand s (s.onHm fun h => { h with list := h.list ++ [{ e with state := .claiming }] }) :=
    .of_frames rfl
  have hheld (u : State) (silent : Bool) : OrdersStand u (u.becomeHeld e.id silent) := .of_frames (by simp)
  have hclaim (u : State) : OrdersStand u (u.offer e.claim) := u.offer_ordersStand _
  grind only [State.joinList, OrdersStand.trans]

theorem State.recheckLine_ordersStand (s : State) : OrdersStand s s.recheckLine := by
  refine OrdersStand.foldl (fun u e => ?_) _ s
  have hout : OrdersStand u (u.onHm fun h => { h with line := h.line.filter fun x => x.id != e.id }) := .of_frames rfl
  simp only [State.recheckEntry]
  split
  · exact .refl u
  · exact hout.trans (State.joinList_ordersStand _ e)

theorem State.removeEntry_ordersStand (s : State) (e : HoldEntry) : OrdersStand s (s.removeEntry e) := by
  have hgone : OrdersStand s (s.onHm fun h => { h with
      list := h.list.filter fun x => x.id != e.id
      line := h.line.filter fun x => x.id != e.id }) := .of_frames rfl
  have hclaim (u : State) : OrdersStand u (u.settleClaim e.id) :=
    u.withdraw_ordersStand (FrameBody.isOrder_of_isClaimOf e.id)
  have hfree (u : State) : OrdersStand u (u.offer e.free) := u.offer_ordersStand _
  have hline (u : State) : OrdersStand u u.recheckLine := u.recheckLine_ordersStand
  grind only [State.removeEntry, OrdersStand.trans]

theorem State.holdSlot_ordersStand (s : State) : OrdersStand s s.holdSlot := by
  have hdone (u : State) (e : HoldEntry) : OrdersStand u (u.completeHold e .expired none false) := .of_frames (by simp)
  have hexpire (u : State) (id : Nat) : OrdersStand u (u.expireIfDue id) := by
    simp only [State.expireIfDue]
    repeat' split
    · exact .refl u
    · exact (u.removeEntry_ordersStand _).trans (hdone _ _)
    · exact .refl u
  have hcount : OrdersStand s (s.onHm fun h => { h with
      list := h.list.map HoldEntry.countDown, line := h.line.map HoldEntry.countDown }) := .of_frames rfl
  exact hcount.trans (.foldl hexpire _ _)

theorem State.preemptSlot_ordersStand (s : State) : OrdersStand s s.preemptSlot := by
  simp only [State.preemptSlot]
  repeat' split
  · exact s.withdraw_ordersStand FrameBody.isOrder_of_isPreempt
  · intro f hf ho
    refine List.mem_map.mpr ⟨f, hf, if_neg fun hp => ?_⟩
    rw [FrameBody.isOrder_of_isPreempt _ hp] at ho
    cases ho
  · exact s.offer_ordersStand _
  · exact .refl s

/-- A revolution event that does not end the own tenure leaves the engine and the orders pending (R135). -/
theorem State.revolutionEvent_standing {s : State} (h : s.tm.own.isHolding = true → 2 ≤ s.tm.own.fields.2.1) :
    s.revolutionEvent.te = s.te ∧ OrdersStand s s.revolutionEvent := by
  have hown : s.ownRevolution.te = s.te ∧ s.ownRevolution.lu = s.lu := by
    simp only [State.ownRevolution]
    split
    · rename_i c n ho
      have hn : ¬ n ≤ 1 := by
        have := h (by simp [ho, OwnTenure.isHolding])
        simp only [ho, OwnTenure.fields] at this
        omega
      rw [if_neg hn]
      exact ⟨rfl, rfl⟩
    · exact ⟨rfl, rfl⟩
    · exact ⟨rfl, rfl⟩
  have hpeer (u : State) : OrdersStand u u.peerRevolution := by
    simp only [State.peerRevolution, State.peerGone]
    repeat' split
    · exact .refl u
    · exact .of_frames (by simp)
    · exact .refl u
    · exact (State.withdraw_ordersStand (s := u.onTm fun t => { t with peer := none, preemptMark := false })
        FrameBody.isOrder_of_isPreempt).trans (.of_frames (by simp))
  have hcourtesy (u : State) : OrdersStand u u.endCourtesy := by
    have hoff : OrdersStand u (u.onTm fun t => { t with courtesy := false }) := .of_frames rfl
    simp only [State.endCourtesy]
    repeat' split
    · exact hoff
    · exact hoff.trans (State.offer_ordersStand _ _)
    · exact hoff
    · exact .refl u
  have hreclaim (u : State) (e : HoldEntry) : OrdersStand u (u.reclaimEntry e) := by
    have hclaiming : OrdersStand u (u.onEntry e.id fun x => { x with state := .claiming, refusalRevs := 0 }) :=
      .of_frames rfl
    exact hclaiming.trans (State.offer_ordersStand _ _)
  have hholds (u : State) : OrdersStand u u.holdRevolution := by
    have hcount : OrdersStand u (u.onHm fun h => { h with list := h.list.map HoldEntry.countRevolution }) :=
      .of_frames rfl
    exact hcount.trans (.foldl hreclaim _ _)
  refine ⟨by simp [State.revolutionEvent, hown.1], ?_⟩
  have hfirst : OrdersStand s s.ownRevolution := .of_frames (by rw [hown.2])
  exact hfirst.trans ((hpeer _).trans ((hcourtesy _).trans ((hholds _).trans (.of_frames rfl))))

/-- What a slot event does after the engine's own part. -/
def State.afterEngine (s : State) : State := s.queueSlot.holdSlot.leadSlotBegins.idleTenureTest.offerRelease.preemptSlot

/-- With the engine at a SEEK or SENSE and no budget running out, the slot event leaves engine, tenure and orders. -/
theorem State.afterEngine_standing {s : State} (hphase : s.te.phase = .seek ∨ s.te.phase = .sense)
    (hdue : ∀ r ∈ s.wq.records, r.budget ≠ some 1) :
    s.afterEngine.te = s.te ∧ s.afterEngine.tm.own = s.tm.own ∧ OrdersStand s s.afterEngine := by
  have hnone : s.wq.expiring = [] := by
    simpa [WorkQueue.expiring] using hdue
  have hidle : (s.te.phase == Phase.idle) = false := by rcases hphase with h | h <;> simp [h]
  have hlead : (s.te.phase == Phase.leadWait) = false := by rcases hphase with h | h <;> simp [h]
  have hqueue : s.queueSlot = s.countBudgets.formSlacks.review := by
    simp only [State.queueSlot, hnone, List.foldl_nil]
    refine (if_neg ?_)
    simp [State.review, State.formSlacks, State.countBudgets, hidle]
  generalize hv : s.queueSlot.holdSlot = v
  have hvte : v.te = s.te := by rw [← hv, hqueue]; simp
  have hvtm : v.tm = s.tm := by rw [← hv, hqueue]; simp
  have hvo : OrdersStand s v := by
    have hw : OrdersStand s s.queueSlot := .of_frames (by rw [hqueue]; simp)
    exact hv ▸ hw.trans (State.holdSlot_ordersStand _)
  have hstill : s.afterEngine = v.preemptSlot := by
    rw [State.afterEngine, hv, show v.leadSlotBegins = v from if_neg (by simp [hvte, hlead]),
      show v.idleTenureTest = v from if_neg (by simp [hvte, hidle]),
      show v.offerRelease = v from if_neg (by simp [hvte, hidle])]
  rw [hstill]
  exact ⟨by simpa using hvte, by simp [hvtm], hvo.trans v.preemptSlot_ordersStand⟩

theorem State.slotEvent_eq (s : State) (b : Bool) :
    s.slotEvent b none = ((s.onHp fun h => { h with tod := h.tod.pass }).onRdm
      fun m => { m with slotSynthetic := b }).engineSlot.afterEngine := rfl

/-- A slot event on which the engine offers its SEEK or SENSE again leaves the engine at it, the offer pending. -/
theorem State.slotAnd_orderAgain {s x u : State} (y n : Bool)
    (hdue : ∀ r ∈ s.wq.records, r.budget ≠ some 1)
    (hrevs : s.tm.own.isHolding = true → 2 ≤ s.tm.own.fields.2.1)
    (hu : ((x.onHp fun h => { h with tod := h.tod.pass }).onRdm fun m => { m with slotSynthetic := y }).engineSlot = u)
    (hphase : u.te.phase = .seek ∨ u.te.phase = .sense) (hwq : u.wq = s.wq) (htm : u.tm = s.tm) :
    let t := x.slotAnd y n
    t.te = u.te ∧ OrdersStand u t ∧ (∀ a k, s.tm.own = .holding a k → ∃ k, t.tm.own = .holding a k) := by
  obtain ⟨hte, hown, ho⟩ := State.afterEngine_standing hphase (by rwa [hwq])
  rw [htm] at hown
  intro t
  have ht : t = if n then u.afterEngine.revolutionEvent else u.afterEngine := by
    simp only [t, State.slotAnd, State.slotEvent_eq, hu]
  obtain ⟨hrte, hro⟩ := State.revolutionEvent_standing (s := u.afterEngine) (by rwa [hown])
  cases n
  · rw [ht, if_neg Bool.false_ne_true]
    exact ⟨hte, ho, fun a k h => ⟨k, hown.trans h⟩⟩
  · rw [ht, if_pos rfl]
    refine ⟨hrte.trans hte, ho.trans hro, fun a k h => ⟨k - 1, ?_⟩⟩
    have hk : 2 ≤ k := by simpa [h, OwnTenure.isHolding, OwnTenure.fields] using hrevs
    rw [State.revolutionEvent_own, State.ownRevolution, hown, h]
    simp only
    rw [if_neg (by omega)]
    rfl

end Sys2Proof.Machine
end

section
/-! Windows that close (R116, R119, R125, R126): the commands, row by row. -/

namespace Sys2Proof.Machine

open Sys2Proof

theorem sparesHolds_isSeek : SparesHolds FrameBody.isSeek := ⟨fun _ _ _ => rfl, fun _ _ _ _ => rfl⟩

theorem NoNew.seek {s t : State} (h : NoNew FrameBody.isOrder s t) : NoNew FrameBody.isSeek s t :=
  fun f hf hs => h f hf (by cases hb : f.body <;> simp [hb, FrameBody.isSeek] at hs ⊢; rfl)

theorem State.tryOrder_noSeek (s : State) : NoNew FrameBody.isSeek s s.tryOrder := by
  simp only [State.tryOrder]
  repeat' split
  · exact .refl s
  · exact s.offer_noNew (by simp only [Engine.order]; split <;> rfl)
  · exact .refl s

theorem State.position_noSeek (s : State) : NoNew FrameBody.isSeek s s.position := by
  have hphase (u : State) (p : Phase) : NoNew FrameBody.isSeek u (u.setPhase p) := .of_frames rfl
  have hwait (u : State) : NoNew FrameBody.isSeek u u.waitTenure :=
    (hphase u .tenureWait).trans (State.askTenure_noOrder _ _).seek
  have hlead (u : State) : NoNew FrameBody.isSeek u u.enterLead := by
    have hopen : NoNew FrameBody.isSeek u (u.onTe fun t => { t with phase := .leadWait, leadOpen := u.inLeadSlot }) :=
      .of_frames rfl
    exact hopen.trans (State.tryOrder_noSeek _)
  have hsettle (u : State) : NoNew FrameBody.isSeek u u.enterSettle := .of_frames rfl
  have hsuspend (u : State) : NoNew FrameBody.isSeek u u.suspend := u.suspend_noNew sparesHolds_isSeek
  have hplace (f : Engine → Engine) : NoNew FrameBody.isSeek s (s.onTe f) := .of_frames rfl
  have hat (u : State) : NoNew FrameBody.isSeek u u.positionAt := by
    grind only [State.positionAt]
  grind only [State.position, NoNew.refl, NoNew.trans]

theorem State.select_noSeek (s : State) : NoNew FrameBody.isSeek s s.select := by
  have hform : NoNew FrameBody.isSeek s s.formEligible := .of_frames rfl
  rcases s.select_cases with ⟨h, _⟩ | ⟨_, ⟨h, _⟩ | ⟨r, _, h⟩⟩ <;> rw [h]
  · exact .refl s
  · exact hform
  · simp only [State.takeRequest]
    generalize ht : ((s.formEligible.onRequest r.id fun x => { x with state := .active }).onTe _).loadAhead = t
    have hst : NoNew FrameBody.isSeek s t := .of_frames (by rw [← ht]; simp)
    exact hst.trans t.position_noSeek

theorem State.idleTenureTest_noSeek (s : State) : NoNew FrameBody.isSeek s s.idleTenureTest :=
  s.idleTenureTest_noOrder.seek

theorem State.reposition_noSeek (s : State) : NoNew FrameBody.isSeek s s.reposition := by
  have hidled (u : State) : NoNew FrameBody.isSeek u u.engineIdled :=
    u.select_noSeek.trans (u.select.idleTenureTest_noSeek.trans (State.offerRelease_noNew rfl _))
  rw [State.reposition]
  rcases s.following_cases State.position with ⟨h, _⟩ | ⟨h, _⟩ <;> rw [h]
  · exact s.position_noSeek.trans (hidled _)
  · exact s.position_noSeek

/-- After the engine's own part nothing of a slot event offers a SEEK. -/
theorem State.afterEngine_noSeek (s : State) : NoNew FrameBody.isSeek s s.afterEngine := by
  have hexpire (u : State) (r : Request) : NoNew FrameBody.isSeek u (u.expire (r.state == .holdWait) r.id) := by
    have hmark (id : Nat) (f : Request → Request) : NoNew FrameBody.isSeek u (u.onRequest id f) := .of_frames rfl
    have hleave (q : Request) (b : Bool) : NoNew FrameBody.isSeek u (u.leaveQueue q .expired none false b) :=
      u.leaveQueue_noNew sparesHolds_isSeek q _ _ _ _
    have hdone (q : Request) : NoNew FrameBody.isSeek u (u.completeRequest q .expired none false) :=
      u.completeRequest_noNew sparesHolds_isSeek q _ _ _
    have hidle (v : State) : NoNew FrameBody.isSeek v v.idleEngine := v.idleEngine_noNew
    grind only [State.expire, NoNew.refl, NoNew.trans]
  have hcount : NoNew FrameBody.isSeek s s.countBudgets := .of_frames rfl
  have hform (u : State) : NoNew FrameBody.isSeek u u.formSlacks.review := .of_frames rfl
  have hqueue : NoNew FrameBody.isSeek s s.queueSlot :=
    hcount.trans ((NoNew.foldl hexpire _ _).trans ((hform _).trans (State.select_noSeek _)))
  have hhold (u : State) : NoNew FrameBody.isSeek u u.holdSlot := by
    have hdown : NoNew FrameBody.isSeek u (u.onHm fun h => { h with
        list := h.list.map HoldEntry.countDown, line := h.line.map HoldEntry.countDown }) := .of_frames rfl
    refine hdown.trans (NoNew.foldl (fun v id => ?_) _ _)
    have hend (e : HoldEntry) : NoNew FrameBody.isSeek v (v.expireEntry e) :=
      (v.removeEntry_noNew sparesHolds_isSeek e).trans (State.completeHold_noNew _ e _ _ _)
    grind only [State.expireIfDue, NoNew.refl]
  have hlead (u : State) : NoNew FrameBody.isSeek u u.leadSlotBegins := by
    have hopen : NoNew FrameBody.isSeek u (u.onTe fun t => { t with leadOpen := true }) := .of_frames rfl
    have htry (v : State) : NoNew FrameBody.isSeek v v.tryOrder := v.tryOrder_noSeek
    grind only [State.leadSlotBegins, NoNew.refl, NoNew.trans]
  have hpreempt (u : State) : NoNew FrameBody.isSeek u u.preemptSlot := by
    have hwithdraw : NoNew FrameBody.isSeek u (u.withdraw FrameBody.isPreempt) := u.withdraw_noNew _
    have hoffer (k : Int) : NoNew FrameBody.isSeek u (u.offer (.preempt k)) := u.offer_noNew rfl
    have hslack (k : Int) : NoNew FrameBody.isSeek u (u.onLu fun l => l.reslack k) := by
      intro f hf hs
      obtain ⟨g, hg, rfl⟩ := List.mem_map.mp hf
      by_cases hp : g.body.isPreempt = true
      · simp [hp, FrameBody.isSeek] at hs
      · rwa [if_neg hp]
    simp only [State.preemptSlot]
    repeat' split
    · exact hwithdraw
    · exact hslack _
    · exact hoffer _
    · exact .refl u
  exact hqueue.trans ((hhold _).trans ((hlead _).trans ((State.idleTenureTest_noSeek _).trans
    ((State.offerRelease_noNew rfl _).trans (hpreempt _)))))

theorem State.revolutionEvent_noSeek (s : State) : NoNew FrameBody.isSeek s s.revolutionEvent := by
  have hown : NoNew FrameBody.isSeek s s.ownRevolution := by
    have hset (o : OwnTenure) : NoNew FrameBody.isSeek s (s.setOwn o) := .of_frames rfl
    have hend (u : State) : NoNew FrameBody.isSeek u u.endTenure := u.endTenure_noNew sparesHolds_isSeek rfl
    grind only [State.ownRevolution, NoNew.refl, NoNew.trans]
  have hpeer (u : State) : NoNew FrameBody.isSeek u u.peerRevolution := by
    have hwithdraw (v : State) : NoNew FrameBody.isSeek v (v.withdraw FrameBody.isPreempt) := v.withdraw_noNew _
    have htm (f : TenureManager → TenureManager) : NoNew FrameBody.isSeek u (u.onTm f) := .of_frames rfl
    have hreview (v : State) : NoNew FrameBody.isSeek v v.review := .of_frames rfl
    grind only [State.peerRevolution, State.peerGone, NoNew.refl, NoNew.trans]
  have hcourtesy (u : State) : NoNew FrameBody.isSeek u u.endCourtesy := by
    have htm : NoNew FrameBody.isSeek u (u.onTm fun t => { t with courtesy := false }) := .of_frames rfl
    have hoffer (v : State) (c : Nat) : NoNew FrameBody.isSeek v (v.offer (.tenure c)) := v.offer_noNew rfl
    grind only [State.endCourtesy, NoNew.refl, NoNew.trans]
  have hholds (u : State) : NoNew FrameBody.isSeek u u.holdRevolution := by
    have hcount : NoNew FrameBody.isSeek u (u.onHm fun h => { h with list := h.list.map HoldEntry.countRevolution }) :=
      .of_frames rfl
    refine hcount.trans (NoNew.foldl (fun v e => ?_) _ _)
    have hclaiming : NoNew FrameBody.isSeek v
        (v.onEntry e.id fun x => { x with state := .claiming, refusalRevs := 0 }) := .of_frames rfl
    exact hclaiming.trans (State.offer_noNew _ rfl)
  exact hown.trans ((hpeer _).trans ((hcourtesy _).trans ((hholds _).trans (.of_frames rfl))))

theorem slotAnd_noSeek {w x : State} {y : Bool} (h : NoNew FrameBody.isSeek w (x.slotEvent y none)) (n : Bool) :
    NoNew FrameBody.isSeek w (x.slotAnd y n) := by
  cases n
  · rwa [State.slotAnd, if_neg Bool.false_ne_true]
  · rw [State.slotAnd, if_pos rfl]
    exact h.trans (State.revolutionEvent_noSeek _)

theorem State.offerSeek_offers {s : State} (h : s.hp.adapter ≠ .silenced) :
    s.offerSeek.te = { s.te with phase := .seek, leadOpen := false } ∧ s.offerSeek.wq = s.wq ∧ s.offerSeek.tm = s.tm ∧
      s.offerSeek.lu.frames = s.lu.frames ++ [⟨.seek s.te.target.cylinder, 0, 0, false⟩] := by
  rw [State.offerSeek, State.offer_eq (s := s.setPhase .seek) h]
  exact ⟨rfl, rfl, rfl, rfl⟩

theorem State.offerSense_offers {s : State} (h : s.hp.adapter ≠ .silenced) :
    s.offerSense.te = { s.te with phase := .sense, leadOpen := false } ∧ s.offerSense.wq = s.wq ∧
      s.offerSense.tm = s.tm ∧ s.offerSense.lu.frames = s.lu.frames ++ [⟨.sense, 0, 0, false⟩] := by
  rw [State.offerSense, State.offer_eq (s := s.setPhase .sense) h]
  exact ⟨rfl, rfl, rfl, rfl⟩

/-- An engine at its SEEK that is not on the line offers it under its own tenure there, and positions afresh else. -/
theorem State.engineSlot_of_seek {s : State} (hp : s.te.phase = .seek) (hx : s.exchangeInProgress = false)
    (hf : s.lu.isPending FrameBody.isSeek = false) :
    (∀ n, s.tm.own = .holding s.te.target.cylinder n → s.engineSlot = s.offerSeek) ∧
      ((∀ n, s.tm.own ≠ .holding s.te.target.cylinder n) → s.engineSlot = s.reposition) := by
  refine ⟨fun n h => ?_, fun h => ?_⟩
  · simp only [State.engineSlot, hp, hx, hf, h, Bool.or_false, Bool.false_eq_true, if_false, if_true]
  · cases ho : s.tm.own with
    | holding c n =>
      have hc : c ≠ s.te.target.cylinder := fun hc => h n (hc ▸ ho)
      simp only [State.engineSlot, hp, hx, hf, ho, hc, Bool.or_false, Bool.false_eq_true, if_false]
    | _ => simp only [State.engineSlot, hp, hx, hf, ho, Bool.or_false, Bool.false_eq_true, if_false]

theorem State.engineSlot_of_sense {s : State} (hp : s.te.phase = .sense) (hx : s.exchangeInProgress = false)
    (hf : s.lu.isPending FrameBody.isSense = false) : s.engineSlot = s.offerSense := by
  simp only [State.engineSlot, hp, hx, hf, Bool.or_false, Bool.false_eq_true, if_false]

/-- The SEEK or SENSE that is neither pending nor in its exchange is offered again at the next slot event (R95, R96). -/
theorem slotTo_offersAgain {s : State} {c : Instr} {p : Nat} (hc : SlotTo s c p) (hx : s.exchangeInProgress = false)
    (hns : s.hp.adapter ≠ .silenced) :
    (s.te.phase = .seek → (∀ f ∈ s.lu.frames, f.body.isSeek = false) → ∃ t, exec c s = .next t ∧
      ((∃ n, s.tm.own = .holding s.te.target.cylinder n) →
        t.te = { s.te with leadOpen := false } ∧ (∃ n, t.tm.own = .holding s.te.target.cylinder n) ∧
          ∃ f ∈ t.lu.frames, f = ⟨.seek s.te.target.cylinder, 0, 0, false⟩) ∧
      ((∀ n, s.tm.own ≠ .holding s.te.target.cylinder n) → ∀ f ∈ t.lu.frames, f.body.isSeek = false)) ∧
    (s.te.phase = .sense → (∀ f ∈ s.lu.frames, f.body ≠ .sense) → ∃ t, exec c s = .next t ∧
      t.te = { s.te with leadOpen := false } ∧ ∃ f ∈ t.lu.frames, f = ⟨.sense, 0, 0, false⟩) := by
  obtain ⟨x, y, n, hbegins, hexec⟩ := exec_slotTo hc
  generalize hw : (x.onHp fun h => { h with tod := h.tod.pass }).onRdm (fun m => { m with slotSynthetic := y }) = w
  have hwte : w.te = s.te := by rw [← hw, ← hbegins.te]; rfl
  have hwtm : w.tm = s.tm := by rw [← hw, ← hbegins.tm]; rfl
  have hwwq : w.wq = s.wq := by rw [← hw, ← hbegins.wq]; rfl
  have hwframes : w.lu.frames = s.lu.frames := by rw [← hw, ← hbegins.frames]; rfl
  have hwx : w.exchangeInProgress = false := by rw [← hw, ← hx, ← hbegins.exchange]; rfl
  have hwns : w.hp.adapter ≠ .silenced := by rw [← hw]; exact hbegins.adapter ▸ hns
  refine ⟨fun hphase hnone => ?_, fun hphase hnone => ?_⟩
  · have hpend : w.lu.isPending FrameBody.isSeek = false := by
      simpa [LineUnit.isPending, hwframes] using hnone
    obtain ⟨hagain, hafresh⟩ := State.engineSlot_of_seek (hwte ▸ hphase) hwx hpend
    rw [hwte, hwtm] at hagain hafresh
    refine ⟨_, hexec, fun hown => ?_, fun hnot => ?_⟩
    · obtain ⟨k, hown⟩ := hown
      obtain ⟨hute, huwq, hutm, hframes⟩ := State.offerSeek_offers hwns
      rw [← hagain k hown] at hute huwq hutm hframes
      generalize hu : w.engineSlot = u at hute huwq hutm hframes
      obtain ⟨hte, hord, hkeep⟩ := State.slotAnd_orderAgain y n hc.2.1 hc.2.2.1 (hw ▸ hu)
        (.inl (by rw [hute])) (huwq.trans hwwq) (hutm.trans hwtm)
      rw [hwte] at hframes hute
      refine ⟨hte.trans ?_, hkeep _ _ hown, ⟨.seek s.te.target.cylinder, 0, 0, false⟩, hord _ ?_ rfl, rfl⟩
      · rw [hute, ← hphase]
      · rw [hframes]
        exact List.mem_append_right _ (List.mem_singleton_self _)
    · have hengine := hafresh hnot
      have hslot : NoNew FrameBody.isSeek w (x.slotEvent y none) := by
        rw [State.slotEvent_eq, hw, hengine]
        exact w.reposition_noSeek.trans (State.afterEngine_noSeek _)
      exact (slotAnd_noSeek hslot n).none fun f hf => hnone f (hwframes ▸ hf)
  · have hpend : w.lu.isPending FrameBody.isSense = false := by
      refine List.any_eq_false.mpr fun f hf hs => hnone f (hwframes ▸ hf) ?_
      cases hb : f.body <;> simp [hb, FrameBody.isSense] at hs ⊢
    obtain ⟨hute, huwq, hutm, hframes⟩ := State.offerSense_offers hwns
    rw [← State.engineSlot_of_sense (hwte ▸ hphase) hwx hpend] at hute huwq hutm hframes
    generalize hu : w.engineSlot = u at hute huwq hutm hframes
    obtain ⟨hte, hord, _⟩ := State.slotAnd_orderAgain y n hc.2.1 hc.2.2.1 (hw ▸ hu) (.inr (by rw [hute]))
      (huwq.trans hwwq) (hutm.trans hwtm)
    rw [hwte] at hute
    refine ⟨_, hexec, hte.trans ?_, ⟨.sense, 0, 0, false⟩, hord _ ?_ rfl, rfl⟩
    · rw [hute, ← hphase]
    · rw [hframes]
      exact List.mem_append_right _ (List.mem_singleton_self _)

/-- Settles O39: by the exchange whose window it is, and the slot event after. -/
theorem windowsCloseAsSilences : Obligations.WindowsCloseAsSilences := by
  unfold Obligations.WindowsCloseAsSilences
  refine ⟨fun elapsed s => ⟨fun x hx hlt => ⟨?_, fun hno => ?_⟩, fun x hx htr hover h5 hopen => ⟨?_, ?_⟩,
    fun p hx hp => ?_, fun x hx hw hlast ho hd hl => ⟨fun hsil => ⟨?_, ?_⟩, fun hsil hdown c hc => ?_⟩,
    fun x hx hw ha hd => ⟨fun h0 hp => ?_, fun hdec => ?_⟩⟩, ?_⟩
  -- a window not yet over
  · rw [exec_driveSilenceLimit_of hx, if_neg]
    · rfl
    · rw [State.silenceDue_iff, Exchange.ends_iff]
      omega
  · rw [exec_answerWindowClose_own hx, if_neg (by rw [Exchange.ends_iff]; omega), if_neg]
    · rfl
    · rw [earlyCloses_iff]
      rintro ⟨h1, h2, h3⟩
      rcases hno with h | h | h
      · simp [h] at h1
      · simp [h] at h2
      · omega
  -- the window of the early answers
  · have hends : ¬ x.ends elapsed = true := Exchange.not_ends_early htr hover hopen
    rw [exec_driveSilenceLimit_of hx, if_neg]
    · rfl
    · rw [State.silenceDue_iff]
      tauto
  · rw [exec_answerWindowClose_own hx, if_neg (Exchange.not_ends_early htr hover hopen),
      if_pos ((earlyCloses_iff _ _ _).mpr ⟨htr, hover, h5⟩)]
    rfl
  -- the peer's exchange
  · intro transfer
    have htransfer : ¬ transfer ↔ p.order.any peerTransfers = false := by
      rw [← Bool.not_eq_true, peerTransfers_iff]
    refine ⟨fun hw hlast => ?_, fun hw hlast => ?_, fun htr hover h5 hopen => ?_⟩ <;> rw [exec_answerWindowClose_peer hx hp]
    · rw [if_pos ((p.ends_iff elapsed).mpr ⟨hw, by rwa [← htransfer]⟩)]
      rfl
    · rw [if_neg (by rw [PeerExchange.ends_iff]; omega), if_neg]
      · rfl
      · rw [earlyCloses_iff]
        rw [htransfer] at hlast
        rintro ⟨h1, h2, h3⟩
        rcases hlast with h | h | h
        · simp [h] at h1
        · simp [h] at h2
        · omega
    · have htr' : p.order.any peerTransfers = true := (peerTransfers_iff _).mpr htr
      rw [if_neg (PeerExchange.not_ends_early htr' hover hopen), if_pos ((earlyCloses_iff _ _ _).mpr ⟨htr', hover, h5⟩)]
      rfl
  -- an own order, below the third silence
  · rw [exec_driveSilenceLimit_of hx, if_neg]
    · rfl
    · rw [State.silenceDue_iff]
      simp only [show s.begin.rdm = s.rdm from rfl]
      omega
  · obtain ⟨hrdm, hexch⟩ := State.orderSilent_counts hd hl hsil
    refine ⟨_, exec_answerWindowClose_order hx ho hw hlast, hrdm, hexch, fun r h hq => ?_⟩
    intro unused engine
    refine ⟨fun htr => ?_, fun htr => ?_⟩
    · obtain ⟨ht, heq⟩ := h.orderSilent_unanswered hsil
      rw [if_pos htr] at heq
      refine ⟨fun h8 => ?_, fun h8 => ?_⟩
      · have hseek : s.begin.endExchange.seekUnanswered x = s.begin.endExchange := by
          have : x.frame.body.isSeek = false := by
            cases hb : x.frame.body <;> simp [hb, FrameBody.isTransfer, FrameBody.isSeek] at htr ⊢
          simp [State.seekUnanswered, this]
        have hsus := ht.releaseReceiving.suspendAfter.trans h.2.2.2.2.2.2.2.2.1
        rw [heq, State.slip_waits ht.releaseReceiving.active h8 hsus, hseek]
        rfl
      · rw [heq]
        exact State.slip_ends ht.releaseReceiving.active h8 .line
    · obtain ⟨ht, heq⟩ := h.orderSilent_unanswered hsil
      rw [if_neg (by simp [htr])] at heq
      rw [heq]
      have hrm : r ∈ ((s.begin.endExchange.seekUnanswered x).onRdm fun m => { m with silence := m.silence + 1 }).wq.records :=
        ht.mem
      have hlost := h.2.2.2.1
      refine ⟨?_, hrm, ?_⟩
      · simp only [State.releaseReceiving, State.onTe_te, State.onRdm_te, State.seekUnanswered_frame]
        rfl
      · simp only [State.seekUnanswered, hlost, Bool.and_false, Bool.false_eq_true, if_false]
        by_cases hf : x.frame.body.isSeek = true ∧ x.cylinderFell = true
        · rw [if_pos (by simp [hf]), if_pos hf]
          exact ⟨rfl, rfl, rfl, rfl, rfl, rfl⟩
        · rw [if_neg (by simpa using hf), if_neg hf]
          exact ⟨rfl, rfl, rfl, rfl, rfl, rfl, rfl⟩
  · have hloses := State.orderSilent_loses (x := x) hd hl hsil hdown
    have hends : x.ends elapsed = true := (x.ends_iff elapsed).mpr ⟨hw, hlast⟩
    refine ⟨s.begin.orderSilent x, ?_, hloses⟩
    rcases hc with rfl | rfl
    · exact exec_answerWindowClose_order hx ho hw hlast
    · rw [exec_driveSilenceLimit_of hx, if_pos ((State.silenceDue_iff s.begin _ _).mpr ⟨ho, hd, hl, hsil, hends⟩)]
  -- a notice silent for the first time
  · intro again
    have hsil : s.begin.endExchange.noticeSilence x.frame =
        (s.begin.endExchange.onLu fun l => { l with frames := again :: l.frames }).settleAsk x.frame.body := by
      rw [State.noticeSilence]
      exact if_pos ⟨h0, hp⟩
    rw [exec_answerWindowClose_notice hx hw ha hd, hsil, State.settleAsk_eq,
      show askedElsewhere (s.begin.endExchange.onLu fun l => { l with frames := again :: l.frames }) x.frame.body =
        askedElsewhere s x.frame.body from rfl]
    refine ⟨fun he => by rw [he]; rfl, fun he r har hno => ?_⟩
    have hhold : s.tm.own.isHolding = true ∧ x.frame.body.isTenure = true ∧ s.te.phase = .tenureWait := by
      cases hb : x.frame.body <;> simp_all [askedElsewhere, FrameBody.isTenure]
    obtain ⟨hown, htenure, hphase⟩ := hhold
    generalize hu : (s.begin.endExchange.onLu fun l => { l with frames := again :: l.frames }) = u
    have hua : u.activeRequest = some r := by rw [← hu]; exact har
    have huo : u.tm.own.isHolding = true := by rw [← hu]; exact hown
    have hun : NeedsSeek u r ↔ NeedsSeek s r := by rw [← hu]; exact Iff.rfl
    rw [if_pos he, State.reposition_of_held huo]
    refine ⟨fun hn => ?_, fun hn => ⟨_, rfl, ?_⟩⟩
    · have hpend : u.lu.isPending FrameBody.isTenure = true := by
        rw [← hu]
        exact List.any_eq_true.mpr ⟨again, List.mem_cons_self .., htenure⟩
      have hrest : s.lu.frames.map (fun f => if f.body.isTenure then ({ f with body := .tenure (s.nextTarget r).cylinder } : Frame) else f) =
          s.lu.frames := (List.map_congr_left fun f hf => by simp [hno f hf]).trans (List.map_id _)
      have hnext : u.nextTarget r = s.nextTarget r := by rw [← hu]; rfl
      have hlu : u.lu.retarget (u.nextTarget r).cylinder = { s.lu with
          exchange := none
          frames := { again with body := .tenure (s.nextTarget r).cylinder } :: s.lu.frames } := by
        rw [hnext, ← hu]
        simp only [LineUnit.retarget, State.onLu_lu, List.map_cons, State.endExchange]
        rw [show s.begin.lu.frames = s.lu.frames from rfl, hrest, if_pos (show again.body.isTenure = true from htenure)]
        rfl
      rw [State.position_retargets hua huo (hun.mpr hn) hpend, hlu, hnext, ← hu, ← hphase]
      rfl
    · obtain ⟨h1, h2⟩ := State.position_stays hua huo (fun h => hn (hun.mp h))
      refine ⟨h2 again (by rw [← hu]; exact List.mem_cons_self ..), h1.trans ?_⟩
      rw [← hu]
      rfl
  -- a notice decided unanswered
  · have hdecided : s.begin.endExchange.noticeSilence x.frame = s.begin.endExchange.noticeUnanswered x.frame.body := by
      rw [State.noticeSilence]
      exact if_neg fun hh => hdec.elim (fun h => h hh.1) (fun h => hh.2 h)
    rw [exec_answerWindowClose_notice hx hw ha hd, hdecided]
    obtain ⟨htm, hev⟩ := s.begin.endExchange.peerAbsent_tm
    generalize hv : s.begin.endExchange.peerAbsent = v at htm hev
    have hvf : v.lu.exchange = none ∧ v.te = s.te ∧ v.rdm = s.rdm ∧ v.hm = s.hm ∧ v.hp.adapter = s.hp.adapter ∧
        v.hp.setup = s.hp.setup := by rw [← hv]; simp [State.endExchange]
    obtain ⟨hvx, hvte, hvr, hvh, hva, hvs⟩ := hvf
    have hvcfg : v.cfg = s.cfg := by rw [State.cfg, State.cfg, hvs]
    have hvown : v.tm.own = s.tm.own := by rw [htm]; rfl
    -- the owner acts in `t`
    generalize ht : s.begin.endExchange.noticeUnanswered x.frame.body = t
    have htenure (c : Nat) (hb : x.frame.body = .tenure c) : t = v.tenureSettled c := by
      rw [← ht, ← hv, hb, State.noticeUnanswered]
    have hclaim (id b m : Nat) (mode : Mode) (hb : x.frame.body = .claim id b m mode) : t = v.silentEntry id := by
      rw [← ht, ← hv, hb, State.noticeUnanswered]
    have hkept : t.tm.presence = .absent ∧ t.tm.courtesy = false ∧ t.lu.exchange = none ∧ t.hp.events = v.hp.events := by
      have hof (h : EngineKept v t) : t.tm.presence = .absent ∧ t.tm.courtesy = false ∧ t.lu.exchange = none ∧
          t.hp.events = v.hp.events := by
        refine ⟨?_, ?_, h.exchange.trans hvx, h.events⟩
        · exact (congrArg TenureManager.presence h.tm).trans (by rw [htm])
        · exact (congrArg TenureManager.courtesy h.tm).trans (by rw [htm])
      cases hb : x.frame.body with
      | tenure c => exact hof (htenure c hb ▸ (v.tenureSettled_settles c).1)
      | claim id b m mode =>
        rw [hclaim id b m mode hb]
        simp [htm, hvx]
      | preempt k =>
        have : t = v := by rw [← ht, ← hv, hb]; rfl
        exact hof (by rw [this]; exact .refl v)
      | _ => simp [hb, FrameBody.isAnswered] at ha
    obtain ⟨h1, h2, h3, h4⟩ := hkept
    refine ⟨t, rfl, h1, h2, h3, fun hp => ?_, fun c d hb hown => ?_, fun c d n hb hown => ⟨?_, fun hph htc hns => ?_⟩,
      fun c d n hb hown => ?_, fun y id b m mode hb hy => ?_⟩
    · rw [h4]
      exact hev hp
    · rw [htenure c hb, (v.tenureSettled_settles c).2.2, hvown, hown, hvr, hvcfg]
    · rw [htenure c hb, (v.tenureSettled_settles c).2.2, hvown, hown]
    · have hseek : t = (v.setOwn (.holding c n)).offerSeek := by
        rw [htenure c hb, State.tenureSettled, hvown, hown]
        simp only [State.tenureGranted]
        rw [if_pos (by simpa [hvte] using hph), if_pos (by simpa [hvte] using htc)]
      have hoffer := State.offer_eq (s := (v.setOwn (.holding c n)).setPhase .seek) (by exact hva ▸ hns) (.seek s.te.target.cylinder)
      rw [hseek, State.offerSeek, show (v.setOwn (.holding c n)).te = s.te from hvte, hoffer]
      refine ⟨?_, ⟨.seek c, 0, 0, false⟩, by simp [htc], rfl⟩
      rw [← hvte]
      rfl
    · have hend : t = (v.setOwn (.ending c n)).offerRelease := by
        rw [htenure c hb, State.tenureSettled, hvown, hown]
      rw [hend]
      exact ⟨by simp [State.setOwn], by simp [State.setOwn, hvte], State.offerRelease_stands _⟩
    · rw [hclaim id b m mode hb]
      exact (State.silentEntry_held (s := v) (by rw [hvh]; exact hy)).2.2
  -- the next slot event
  · exact fun s c p hc hx hns => slotTo_offersAgain hc hx hns

end Sys2Proof.Machine
end

section
/-! What a slot event may do to the record of one request (R72 to R77, R82, R85): an invariant over its acts. -/

namespace Sys2Proof.Machine

open Sys2Proof

set_option Elab.async false

/-- One request watched through a slot event: its name, what its record satisfies, whether it has to stay in the queue,
whether the engine may take it, and whether what the engine may do with it is left open. `base` gives the chains and the adapter state, which a slot event leaves. -/
structure Watch where
  base : State
  id : Nat
  stays : Prop
  mobile : Prop
  exempt : Prop
  Q : Request → Prop

/-- What a slot event may do to a record keeps what is watched of it. -/
structure Watch.Lawful (w : Watch) : Prop where
  formed : ∀ (s : State) u, w.Q u → w.Q (s.formed u)
  costed : ∀ (s : State) u, w.Q u → u.state = .ready → w.Q (s.withCost u)
  reviewed : ∀ (s : State) u, w.Q u → w.Q (s.reviewed u)
  woken : ∀ u, w.Q u → u.state = .holdWait → w.Q { u with state := .ready }
  taken : ∀ u, w.Q u → u.state = .ready → (w.stays → w.mobile) ∧ w.Q { u with state := .active }
  returns : (w.stays → w.mobile) → ∀ u, w.Q u → w.Q { u with state := .ready }
  slipped : ¬ w.stays → ∀ u k, w.Q u → w.Q { u with slips := k }
  displaced : ¬ w.stays → ∀ u k, w.Q u → w.Q { u with displacements := k }
  late : ∀ u, w.Q u → w.Q { u with late := true }
  budget : ∀ u k, w.Q u → w.Q { u with budget := k }
  /-- One that may be taken may return. -/
  free : w.stays → w.mobile → ∀ u, w.Q u →
    (w.base.chain u.elem.chain).state ≠ .stopping ∧ (u.isDirect = true → w.base.hp.adapter = .maintenance)
  /-- One that has to stay does not leave with its budget. -/
  lasts : w.stays → ∀ u, w.Q u → u.state ≠ .holdWait ∧ (u.started ∨ u.state = .ending ∨ u.lateAction = .carryOn)

/-- What is watched holds in `s`; the engine works on a request that has to stay only where it may return it. -/
structure Watched (w : Watch) (s : State) : Prop where
  names : (s.wq.records.map Request.id).Nodup
  stands : w.stays → ∃ u ∈ s.wq.records, u.id = w.id
  record : ∀ u ∈ s.wq.records, u.id = w.id → w.Q u
  engine : w.stays → ¬ w.exempt → s.te.request = some w.id → w.mobile ∧ s.te.maintenanceOver = false
  chains : s.chains = w.base.chains
  adapter : s.hp.adapter = w.base.hp.adapter

theorem State.activeRequest_request {s : State} {r : Request} (h : s.activeRequest = some r) :
    s.te.request = some r.id := (State.activeRequest_mem h).2

section
variable {w : Watch} {s t : State}

/-- The records changed each at its place, the engine's request kept. -/
theorem Watched.mapRecords (h : Watched w s) {f : Request → Request} (hwq : t.wq.records = s.wq.records.map f)
    (hid : ∀ r, (f r).id = r.id) (hq : ∀ u ∈ s.wq.records, u.id = w.id → w.Q u → w.Q (f u))
    (hte : w.stays → ¬ w.exempt → t.te.request = some w.id → w.mobile ∧ t.te.maintenanceOver = false)
    (hc : t.chains = s.chains) (ha : t.hp.adapter = s.hp.adapter) : Watched w t where
  names := by simpa [hwq, Function.comp_def, hid] using h.names
  stands hs := by
    obtain ⟨u, hu, hi⟩ := h.stands hs
    exact ⟨f u, hwq ▸ List.mem_map_of_mem hu, (hid u).trans hi⟩
  record u hu hi := by
    obtain ⟨r, hr, rfl⟩ := List.mem_map.mp (hwq ▸ hu)
    have hri := (hid r).symm.trans hi
    exact hq r hr hri (h.record r hr hri)
  engine := hte
  chains := hc.trans h.chains
  adapter := ha.trans h.adapter

theorem Watched.of_frame (h : Watched w s) (hwq : t.wq.records = s.wq.records) (hte : t.te.request = s.te.request)
    (ho : t.te.maintenanceOver = s.te.maintenanceOver) (hc : t.chains = s.chains) (ha : t.hp.adapter = s.hp.adapter) :
    Watched w t :=
  h.mapRecords (f := id) (by simpa using hwq) (fun _ => rfl) (fun _ _ _ hq => hq) (by rw [hte, ho]; exact h.engine) hc ha

theorem Watched.onWq (h : Watched w s) {f : Request → Request} (hid : ∀ r, (f r).id = r.id)
    (hq : ∀ u ∈ s.wq.records, u.id = w.id → w.Q u → w.Q (f u)) :
    Watched w (s.onWq fun q => { q with records := q.records.map f }) :=
  h.mapRecords rfl hid hq h.engine rfl rfl

theorem Watched.onRequest (h : Watched w s) {id : Nat} {f : Request → Request} (hid : ∀ r, (f r).id = r.id)
    (hq : id = w.id → ∀ u, w.Q u → w.Q (f u)) : Watched w (s.onRequest id f) :=
  h.onWq (f := fun r => if r.id == id then f r else r) (fun r => by split <;> simp [hid]) fun u _ hi hu => by
    split
    · rename_i he
      exact hq ((by simpa using he : u.id = id).symm.trans hi) u hu
    · exact hu

theorem Watched.woken (h : Watched w s) (hl : w.Lawful) (k : Woken s t) (hte : t.te = s.te) (hc : t.chains = s.chains)
    (ha : t.hp.adapter = s.hp.adapter) : Watched w t := by
  obtain ⟨p, hp⟩ := k
  refine h.mapRecords hp (fun r => ?_) (fun u _ _ hu => ?_) (by rw [hte]; exact h.engine) hc ha
  · simp only [Request.woken]
    split <;> rfl
  · simp only [Request.woken]
    split
    · rename_i hw
      exact hl.woken u hu (by simp_all)
    · exact hu

theorem Watched.drop (h : Watched w s) {id : Nat} (hne : w.stays → id ≠ w.id) : Watched w (s.dropRequest id) where
  names := h.names.sublist (List.filter_sublist.map _)
  stands hs := by
    obtain ⟨u, hu, hi⟩ := h.stands hs
    exact ⟨u, List.mem_filter.mpr ⟨hu, by simpa [hi] using (hne hs).symm⟩, hi⟩
  record u hu hi := h.record u (List.mem_of_mem_filter hu) hi
  engine := h.engine
  chains := h.chains
  adapter := h.adapter

theorem Watched.foldl {β : Type} {f : State → β → State} (hf : ∀ s b, Watched w s → Watched w (f s b)) (l : List β)
    (h : Watched w s) : Watched w (l.foldl f s) := by
  induction l generalizing s with
  | nil => exact h
  | cons b l ih => exact ih (hf s b h)

end

section
variable {w : Watch} (hl : w.Lawful)
include hl

/-! The acts of the queue. -/

theorem State.review_watched {s : State} (h : Watched w s) : Watched w s.review :=
  h.onWq (fun r => (s.reviewed_carried r).1) fun u _ _ hu => hl.reviewed s u hu

theorem State.formSlacks_watched {s : State} (h : Watched w s) : Watched w s.formSlacks :=
  h.onWq (fun r => (s.formed_carried r).1) fun u _ _ hu => hl.formed s u hu

theorem State.countBudgets_watched {s : State} (h : Watched w s) : Watched w s.countBudgets :=
  h.onWq (fun _ => rfl) fun u _ _ hu => hl.budget u _ hu

theorem State.formEligible_watched {s : State} (h : Watched w s) : Watched w s.formEligible := by
  refine h.onWq (fun r => by split <;> rfl) fun u _ _ hu => ?_
  split
  · rename_i he
    simp only [State.eligible, Bool.and_eq_true, beq_iff_eq] at he
    exact hl.costed s u hu he.1.1.1.1.1
  · exact hu

theorem State.endReference_watched {s : State} (id : Nat) (h : Watched w s) : Watched w (s.endReference id) :=
  h.woken hl (s.endReference_woken id) (by simp) (by simp) (by simp)

theorem State.removeEntry_watched {s : State} (e : HoldEntry) (h : Watched w s) : Watched w (s.removeEntry e) :=
  h.woken hl (s.removeEntry_woken e) (by simp) (by simp) (by simp)

theorem State.leaveQueue_watched {s : State} {r : Request} (st : Status) (f : Option ElementFault) (m p : Bool)
    (hne : w.stays → r.id ≠ w.id) (h : Watched w s) : Watched w (s.leaveQueue r st f m p) := by
  have hask {u : State} (c : Completion) (hu : Watched w u) : Watched w (u.completeAfterData r.id c) :=
    hu.of_frame (by simp) (by simp) (by simp) (by simp) (by simp)
  have href {u : State} (id : Nat) (hu : Watched w u) : Watched w (u.endReference id) := u.endReference_watched hl id hu
  have hmark {u : State} (t : Table) (i : Nat) (g : Descriptor → Descriptor) (hu : Watched w u) :
      Watched w (u.onDescriptor t i g) := hu.of_frame (by simp) (by simp) (by simp) (by simp) (by simp)
  simp only [State.leaveQueue]
  refine Watched.drop ?_ hne
  repeat' split
  · exact hmark _ _ _ (hask _ h)
  · exact hmark _ _ _ (href _ (hask _ h))
  · exact hask _ h
  · exact href _ (hask _ h)

theorem State.completeRequest_watched {s : State} {r : Request} (st : Status) (f : Option ElementFault) (m : Bool)
    (hne : w.stays → r.id ≠ w.id) (h : Watched w s) : Watched w (s.completeRequest r st f m) :=
  s.leaveQueue_watched hl st f m _ hne h

omit hl in
theorem State.idleEngine_watched {s : State} (h : Watched w s) : Watched w s.idleEngine :=
  h.mapRecords (f := fun r => r) (by simp) (fun _ => rfl) (fun _ _ _ hq => hq) (by simp [State.idleEngine])
    (by simp) (by simp)

theorem State.finish_watched {s : State} (st : Status) (f : Option ElementFault) (m : Bool)
    (hne : w.stays → s.te.request ≠ some w.id) (h : Watched w s) : Watched w (s.finish st f m) := by
  simp only [State.finish]
  split
  · exact State.idleEngine_watched h
  · rename_i r ha
    refine State.idleEngine_watched (s.completeRequest_watched hl st f m (fun hs he => hne hs ?_) h)
    rw [State.activeRequest_request ha, he]

/-- A budget runs out: one that has to stay is LATE. -/
theorem State.expire_watched {s : State} {waited : Bool} {id : Nat} (hw : w.stays → id = w.id → waited = false)
    (h : Watched w s) : Watched w (s.expire waited id) := by
  simp only [State.expire]
  split
  · exact h
  · rename_i r hr
    have hmem : r ∈ s.wq.records := List.mem_of_find?_eq_some hr
    have hid : r.id = id := by simpa using List.find?_some hr
    have hne (hnot : ¬ (waited = false ∧ (r.started ∨ r.state = .ending ∨ r.lateAction = .carryOn))) :
        w.stays → r.id ≠ w.id := fun hs he =>
      hnot ⟨hw hs (hid.symm.trans he), (hl.lasts hs r (h.record r hmem he)).2⟩
    repeat' split
    · rename_i hwaited
      exact s.leaveQueue_watched hl _ _ _ _ (hne (by simp [hwaited])) h
    · exact h.onRequest (fun _ => rfl) fun _ u hu => hl.late u hu
    · rename_i hk _
      exact State.idleEngine_watched (s.completeRequest_watched hl _ _ _ (hne fun hh => hk hh.2) h)
    · rename_i hk _
      exact s.completeRequest_watched hl _ _ _ (hne fun hh => hk hh.2) h

/-- The records due, decided one after another. -/
theorem State.expireAll_watched {s : State} (due : List Request)
    (hw : w.stays → ∀ r ∈ due, r.id = w.id → r.state ≠ .holdWait) (h : Watched w s) :
    Watched w (due.foldl (fun s r => s.expire (r.state == .holdWait) r.id) s) := by
  induction due generalizing s with
  | nil => exact h
  | cons r due ih =>
    refine ih (fun hs q hq => hw hs q (List.mem_cons_of_mem _ hq)) (s.expire_watched hl (fun hs hid => ?_) h)
    simpa using hw hs r (List.mem_cons_self ..) hid

theorem State.holdSlot_watched {s : State} (h : Watched w s) : Watched w s.holdSlot := by
  have hcount : Watched w (s.onHm fun h => { h with
      list := h.list.map HoldEntry.countDown, line := h.line.map HoldEntry.countDown }) :=
    h.of_frame rfl rfl rfl rfl rfl
  have hend {u : State} (e : HoldEntry) (hu : Watched w u) : Watched w (u.expireEntry e) :=
    (u.removeEntry_watched hl e hu).woken hl (State.completeHold_woken _ _ _ _ _) (by simp [State.expireEntry])
      (by simp [State.expireEntry]) (by simp [State.expireEntry])
  refine hcount.foldl (fun u id hu => ?_) _
  simp only [State.expireIfDue]
  repeat' split
  · exact hu
  · exact hend _ hu
  · exact hu

omit hl in
theorem State.leadSlotBegins_watched {s : State} (h : Watched w s) : Watched w s.leadSlotBegins :=
  h.of_frame (by simp) (by simp) (by simp) (by simp) (by simp)

end

/-! The acts of the engine. -/

section
variable {w : Watch} (hl : w.Lawful) (hx : ¬ w.exempt)
include hl hx

theorem State.suspend_watched {s : State} (h : Watched w s) : Watched w s.suspend := by
  rcases s.handBack_cases fun _ => .ready with ⟨hb, _⟩ | ⟨r, ha, ⟨hm, hb⟩ | ⟨_, hb⟩⟩ <;> rw [State.suspend, hb]
  · exact State.idleEngine_watched h
  · refine s.finish_watched hl _ _ _ (fun hs he => ?_) h
    obtain ⟨hmob, hover⟩ := h.engine hs hx he
    have hid : r.id = w.id := by simpa [State.activeRequest_request ha] using he
    obtain ⟨hstop, hdirect⟩ := hl.free hs hmob r (h.record r (State.activeRequest_mem ha).1 hid)
    simp only [State.mayNotReturn, State.chain, h.chains, h.adapter, hover, Bool.or_eq_true, Bool.and_eq_true,
      beq_iff_eq, bne_iff_ne, Bool.false_eq_true, or_false] at hm
    rcases hm with hm | ⟨hd, hm⟩
    · exact hstop hm
    · exact hm (hdirect hd)
  · refine State.idleEngine_watched (h.onRequest (fun _ => rfl) fun hid => hl.returns fun hs => ?_)
    exact (h.engine hs hx (by rw [State.activeRequest_request ha, hid])).1

theorem State.positionAt_watched {s : State} (h : Watched w s) : Watched w s.positionAt := by
  have hphase {u : State} (p : Phase) (hu : Watched w u) : Watched w (u.setPhase p) := hu.of_frame rfl rfl rfl rfl rfl
  have hwait : Watched w s.waitTenure :=
    (hphase .tenureWait h).of_frame (by simp [State.waitTenure]) (by simp [State.waitTenure])
      (by simp [State.waitTenure]) (by simp [State.waitTenure]) (by simp [State.waitTenure])
  have hlead : Watched w s.enterLead := h.of_frame (by simp) (by simp) (by simp) (by simp) (by simp)
  have hsettle : Watched w s.enterSettle := h.of_frame rfl rfl rfl rfl rfl
  have hsuspend := State.suspend_watched hl hx h
  have hask := hphase .tenureWait h
  grind only [State.positionAt]

theorem State.position_watched {s : State} (h : Watched w s) : Watched w s.position := by
  simp only [State.position]
  split
  · exact h
  · exact State.positionAt_watched hl hx (h.of_frame rfl rfl rfl rfl rfl)

theorem State.select_watched {s : State} (h : Watched w s) : Watched w s.select := by
  have hform := State.formEligible_watched hl h
  rcases s.select_cases with ⟨hs, _⟩ | ⟨_, ⟨hs, _⟩ | ⟨r, hc, hs⟩⟩ <;> rw [hs]
  · exact h
  · exact hform
  · obtain ⟨hr, he⟩ := State.choice_mem hc
    have hready : r.state = .ready := by
      simp only [State.eligible, Bool.and_eq_true, beq_iff_eq] at he
      exact he.1.1.1.1.1
    have hself : ∀ u ∈ s.formEligible.wq.records, u.id = r.id → u = r := fun u hu hi =>
      List.inj_on_of_nodup_map hform.names hu hr hi
    simp only [State.takeRequest]
    have hone {u : State} (q : Request) (hu : Watched w u) : Watched w (u.loadOne q) := by
      have hbuf {v : State} (n : BufferName) (b : SectorBuffer) (hv : Watched w v) : Watched w (v.setBuf n b) :=
        hv.of_frame rfl (by cases n <;> rfl) (by cases n <;> rfl) rfl rfl
      have hask {v : State} (x : Transfer) (hv : Watched w v) : Watched w (v.askTransfer x) :=
        hv.of_frame rfl rfl rfl rfl rfl
      grind only [State.loadOne]
    have hload {u : State} (hu : Watched w u) : Watched w u.loadAhead := by
      grind only [State.loadAhead]
    refine State.position_watched hl hx (hload ?_)
    refine hform.mapRecords rfl (fun q => by split <;> rfl) (fun u hu hi hq => ?_) (fun hs _ he => ?_) rfl rfl
    · split
      · rename_i hid
        obtain rfl := hself u hu (by simpa using hid)
        exact (hl.taken u hq hready).2
      · exact hq
    · have hid : r.id = w.id := by simpa using he
      exact ⟨(hl.taken r (hform.record r hr hid) hready).1 hs, rfl⟩

theorem State.suspendAfterExchange_watched {s : State} (h : Watched w s) : Watched w s.suspendAfterExchange := by
  have hmark : Watched w (s.onTe fun t => { t with suspendAfter := true }) := h.of_frame rfl rfl rfl rfl rfl
  have hsuspend := State.suspend_watched hl hx h
  grind only [State.suspendAfterExchange]

theorem State.endTenure_watched {s : State} (h : Watched w s) : Watched w s.endTenure := by
  have hrelease {u : State} (hu : Watched w u) : Watched w u.offerRelease :=
    hu.of_frame (by simp) (by simp) (by simp) (by simp) (by simp)
  simp only [State.endTenure]
  split
  · exact hrelease (State.suspendAfterExchange_watched hl hx (h.of_frame rfl rfl rfl rfl rfl))
  · exact h

theorem State.idleTenureTest_watched {s : State} (h : Watched w s) : Watched w s.idleTenureTest := by
  have hend := State.endTenure_watched hl hx h
  grind only [State.idleTenureTest]

theorem State.engineIdled_watched {s : State} (h : Watched w s) : Watched w s.engineIdled :=
  (State.idleTenureTest_watched hl hx (State.select_watched hl hx h)).of_frame (by simp [State.engineIdled])
    (by simp [State.engineIdled]) (by simp [State.engineIdled]) (by simp [State.engineIdled]) (by simp [State.engineIdled])

theorem State.endRequest_watched {s : State} (st : Status) (f : Option ElementFault) (m : Bool)
    (hne : w.stays → s.te.request ≠ some w.id) (h : Watched w s) : Watched w (s.endRequest st f m) :=
  State.engineIdled_watched hl hx (s.finish_watched hl st f m hne h)

theorem State.reposition_watched {s : State} (h : Watched w s) : Watched w s.reposition := by
  have hp := State.position_watched hl hx h
  rw [State.reposition]
  rcases s.following_cases State.position with ⟨hf, _⟩ | ⟨hf, _⟩ <;> rw [hf]
  · exact State.engineIdled_watched hl hx hp
  · exact hp

theorem State.goOn_watched {s : State} {k : State → State} (hk : ∀ u, Watched w u → Watched w (k u))
    (h : Watched w s) : Watched w (s.goOn k) := by
  rcases s.goOn_cases k with ⟨hg, _⟩ | ⟨hg, _⟩ <;> rw [hg]
  · exact State.engineIdled_watched hl hx (State.suspend_watched hl hx h)
  · exact hk s h

/-! The acts of a slot event. -/

/-- The engine's own part: one that has to stay is not the engine's. -/
theorem State.engineSlot_watched {s : State} (hne : w.stays → s.te.request ≠ some w.id) (h : Watched w s) :
    Watched w s.engineSlot := by
  have hcount {u : State} {r : Request} (ha : u.activeRequest = some r) (hu : w.stays → u.te.request ≠ some w.id)
      (hid : r.id = w.id) : ¬ w.stays := fun hs => hu hs (by rw [State.activeRequest_request ha, hid])
  have hphase {u : State} (p : Phase) (hu : Watched w u) : Watched w (u.setPhase p) := hu.of_frame rfl rfl rfl rfl rfl
  have hslip (cause : SlipCause) : Watched w (s.slip cause) := by
    rcases s.slip_cases cause with ⟨hs, _⟩ | ⟨r, ha, ⟨_, hs⟩ | ⟨_, hs⟩⟩ <;> rw [hs]
    · exact h
    · exact State.endRequest_watched hl hx _ _ _ hne (h.of_frame rfl rfl rfl rfl rfl)
    · refine State.goOn_watched hl hx (fun u hu => hphase .leadWait hu) ?_
      refine (Watched.onRequest (h.of_frame rfl rfl rfl rfl rfl : Watched w (s.withdraw FrameBody.isTransfer))
        (id := r.id) (f := fun x => { x with slips := x.slips + 1 }) (fun _ => rfl)
        fun hid u hu => hl.slipped (hcount ha hne hid) u _ hu).of_frame rfl rfl rfl rfl rfl
  have hsense {u : State} (hu : Watched w u) : Watched w u.offerSense :=
    hu.of_frame (by simp [State.offerSense]) (by simp [State.offerSense]) (by simp [State.offerSense])
      (by simp [State.offerSense]) (by simp [State.offerSense])
  have hseek : Watched w s.offerSeek :=
    h.of_frame (by simp [State.offerSeek]) (by simp [State.offerSeek]) (by simp [State.offerSeek])
      (by simp [State.offerSeek]) (by simp [State.offerSeek])
  have hout {u : State} (hu : Watched w u) (hune : w.stays → u.te.request ≠ some w.id) : Watched w u.seekTimedOut := by
    rw [State.seekTimedOut]
    rcases u.displace_cases State.offerSense with ⟨hd, _⟩ | ⟨r, ha, ⟨_, hd⟩ | ⟨_, hd⟩⟩
    · rwa [hd]
    · rw [hd]
      exact State.endRequest_watched hl hx _ _ _ hune hu
    · have hcounted : Watched w (u.onRequest r.id fun x => { x with displacements := x.displacements + 1 }) :=
        hu.onRequest (fun _ => rfl) fun hid v hv => hl.displaced (hcount ha hune hid) v _ hv
      rw [hd]
      split
      · exact State.goOn_watched hl hx (fun v hv => hsense hv) hcounted
      · exact State.engineIdled_watched hl hx (State.suspend_watched hl hx hcounted)
  have htick : Watched w (s.onTe fun t => { t with settle := t.settle + 1 }) := h.of_frame rfl rfl rfl rfl rfl
  have hrep := State.reposition_watched hl hx h
  have hs := hsense h
  simp only [State.engineSlot]
  repeat' split
  · exact hslip _
  · exact hslip _
  · exact h
  · exact hout htick hne
  · exact htick
  · exact h
  · exact hseek
  · exact hrep
  · exact hrep
  · exact h
  · exact hsense h
  · exact h

theorem State.queueSlot_watched {s : State} (h : Watched w s) : Watched w s.queueSlot := by
  have hexpired := State.expireAll_watched hl s.wq.expiring (fun hs r hr hid =>
    (hl.lasts hs r (h.record r (List.mem_of_mem_filter hr) hid)).1) (State.countBudgets_watched hl h)
  exact State.select_watched hl hx (State.review_watched hl (State.formSlacks_watched hl hexpired))

theorem State.afterEngine_watched {s : State} (h : Watched w s) : Watched w s.afterEngine := by
  have htest := State.idleTenureTest_watched hl hx (State.leadSlotBegins_watched
    (State.holdSlot_watched hl (State.queueSlot_watched hl hx h)))
  exact htest.of_frame (by simp [State.afterEngine]) (by simp [State.afterEngine]) (by simp [State.afterEngine])
    (by simp [State.afterEngine]) (by simp [State.afterEngine])

theorem State.slotEvent_watched {s : State} (b : Bool) (hne : w.stays → s.te.request ≠ some w.id) (h : Watched w s) :
    Watched w (s.slotEvent b none) := by
  rw [State.slotEvent_eq]
  exact State.afterEngine_watched hl hx (State.engineSlot_watched hl hx hne (h.of_frame rfl rfl rfl rfl rfl))

theorem State.revolutionEvent_watched {s : State} (h : Watched w s) : Watched w s.revolutionEvent := by
  have hown : Watched w s.ownRevolution := by
    have hset (o : OwnTenure) : Watched w (s.setOwn o) := h.of_frame rfl rfl rfl rfl rfl
    have hend {u : State} (hu : Watched w u) : Watched w u.endTenure := State.endTenure_watched hl hx hu
    grind only [State.ownRevolution]
  have hpeer {u : State} (hu : Watched w u) : Watched w u.peerRevolution := by
    have hgone : Watched w u.peerGone := by
      simp only [State.peerGone]
      split
      · exact hu
      · exact State.review_watched hl (hu.of_frame rfl rfl rfl rfl rfl)
    have htm (f : TenureManager → TenureManager) : Watched w (u.onTm f).review :=
      State.review_watched hl (hu.of_frame rfl rfl rfl rfl rfl)
    grind only [State.peerRevolution]
  exact (hpeer hown).of_frame (by simp [State.revolutionEvent]) (by simp [State.revolutionEvent])
    (by simp [State.revolutionEvent]) (by simp [State.revolutionEvent]) (by simp [State.revolutionEvent])

theorem State.slotAnd_watched {s : State} (b n : Bool) (hne : w.stays → s.te.request ≠ some w.id) (h : Watched w s) :
    Watched w (s.slotAnd b n) := by
  have hslot := s.slotEvent_watched hl hx b hne h
  cases n
  · rwa [State.slotAnd, if_neg Bool.false_ne_true]
  · rw [State.slotAnd, if_pos rfl]
    exact State.revolutionEvent_watched hl hx hslot

/-- The loss of the drive: one that has to stay is not the engine's. -/
theorem State.driveDown_watched {s : State} (hne : w.stays → s.te.request ≠ some w.id) (h : Watched w s) :
    Watched w s.driveDown := by
  have hengine {u : State} (hu : Watched w u) (hune : w.stays → u.te.request ≠ some w.id) : Watched w u.engineDown := by
    have hmark : Watched w (u.onTe fun t => { t with downAfter := true }) := hu.of_frame rfl rfl rfl rfl rfl
    have hfinish (st : Status) (f : Option ElementFault) : Watched w (u.finish st f false) :=
      u.finish_watched hl st f false hune hu
    grind only [State.engineDown]
  have htenure {u : State} (hu : Watched w u) : Watched w u.tenureDown := by
    have hpos : Watched w (u.setPositioner none false) := State.review_watched hl (hu.of_frame rfl rfl rfl rfl rfl)
    exact (State.endTenure_watched hl hx hpos).of_frame (by simp [State.tenureDown]) (by simp [State.tenureDown])
      (by simp [State.tenureDown]) (by simp [State.tenureDown]) (by simp [State.tenureDown])
  simp only [State.driveDown]
  split
  · exact h
  · exact htenure (hengine (h.of_frame rfl rfl rfl rfl rfl) hne)

end

end Sys2Proof.Machine
end

section
/-! A slot event counts the budgets (R72, R73, R75 to R77). -/

namespace Sys2Proof.Machine

open Sys2Proof

set_option Elab.async false

/-! What is watched of a record. -/

/-- A request not started and DROP, its chain not having stopped it. -/
def dropWatch (s : State) (id : Nat) : Watch :=
  ⟨s, id, False, True, False, fun u => u.started = false ∧ u.lateAction = .drop ∧ u.state ≠ .ending⟩

theorem dropWatch_lawful (s : State) (id : Nat) : (dropWatch s id).Lawful where
  formed v u h := by
    simp only [State.formed]
    split <;> exact h
  costed v u h _ := h
  reviewed v u h := by
    obtain ⟨h1, h2, h3⟩ := h
    simp only [State.reviewed]
    repeat' split
    all_goals exact ⟨h1, h2, by simp_all⟩
  woken u h _ := ⟨h.1, h.2.1, by simp⟩
  taken u h _ := ⟨fun _ => trivial, h.1, h.2.1, by simp⟩
  returns _ u h := ⟨h.1, h.2.1, by simp⟩
  slipped _ _ _ h := h
  displaced _ _ _ h := h
  late _ h := h
  budget _ _ h := h
  free hs := hs.elim
  lasts hs := hs.elim

/-- The request `r` of the queue, but for its budget, its LATE mark and what selection forms. -/
def queueWatch (s : State) (r : Request) : Watch :=
  ⟨s, r.id, True, True, False, fun u => (u.state = .ready ∨ u.state = .blocked ∨ u.state = .active) ∧
    u = { r with
      budget := u.budget, late := u.late, state := u.state, cost := u.cost, slack := u.slack, urgent := u.urgent }⟩

theorem queueWatch_lawful {s : State} {r : Request} (hk : r.started = true ∨ r.lateAction = .carryOn)
    (hm : s.mayNotReturn r = false) : (queueWatch s r).Lawful where
  formed v u h := by
    obtain ⟨h1, h2⟩ := h
    simp only [State.formed, State.withCost, State.withSlack]
    split <;> exact ⟨h1, by rw [h2]⟩
  costed v u h _ := ⟨h.1, by rw [h.2]; rfl⟩
  reviewed v u h := by
    obtain ⟨h1, h2⟩ := h
    simp only [State.reviewed]
    repeat' split
    · exact ⟨.inr (.inl rfl), by rw [h2]⟩
    · exact ⟨h1, h2⟩
    · exact ⟨.inl rfl, by rw [h2]⟩
    · exact ⟨h1, h2⟩
    · exact ⟨h1, h2⟩
  woken u h hw := by simp [queueWatch, hw] at h
  taken u h _ := ⟨fun _ => trivial, .inr (.inr rfl), by rw [h.2]⟩
  returns _ u h := ⟨.inl rfl, by rw [h.2]⟩
  slipped hs := absurd trivial hs
  displaced hs := absurd trivial hs
  late u h := ⟨h.1, by rw [h.2]⟩
  budget u k h := ⟨h.1, by rw [h.2]⟩
  free _ _ u h := by
    simp only [State.mayNotReturn, Bool.or_eq_false_iff, Bool.and_eq_false_iff, beq_eq_false_iff_ne, bne_eq_false_iff_eq] at hm
    obtain ⟨hstop, hd⟩ := hm
    rw [h.2]
    exact ⟨hstop, fun hdirect => (hd.resolve_left (by simp [show r.isDirect = true from hdirect])).1⟩
  lasts _ u h := by
    obtain ⟨h1, h2⟩ := h
    refine ⟨fun hw => by simp [hw] at h1, ?_⟩
    rw [h2]
    exact hk.imp id .inr

/-- The request `r` of the engine, its order on the line, but for its budget, its LATE mark, its slack and its URGENT
mark. -/
def engineWatch (s : State) (r : Request) (exempt : Prop) : Watch :=
  ⟨s, r.id, True, False, exempt, fun u =>
    u = { r with budget := u.budget, late := u.late, slack := u.slack, urgent := u.urgent }⟩

theorem engineWatch_lawful {s : State} {r : Request} (hr : r.state = .active ∨ r.state = .ending)
    (hk : r.started = true ∨ r.state = .ending ∨ r.lateAction = .carryOn) (e : Prop) :
    (engineWatch s r e).Lawful := by
  have hstate {u : Request} (h : (engineWatch s r e).Q u) : u.state = r.state := by rw [h]
  refine ⟨fun v u h => ?_, fun v u h hu => ?_, fun v u h => ?_, fun u h hu => ?_, fun u h hu => ?_, fun hs => ?_,
    fun hs => absurd trivial hs, fun hs => absurd trivial hs, fun u h => ?_, fun u k h => ?_, fun _ hm => hm.elim,
    fun _ u h => ?_⟩
  · have hq : u.queued = false := by
      simp only [Request.queued, hstate h]
      rcases hr with hr | hr <;> simp [hr]
    simp only [State.formed, hq, State.withSlack]
    exact show _ = _ by rw [h]; rfl
  · rw [hstate h] at hu
    simp [hu] at hr
  · have : v.reviewed u = u := by
      simp only [State.reviewed]
      rcases hr with hr | hr <;> simp [hstate h, hr]
    rwa [this]
  · rw [hstate h] at hu
    simp [hu] at hr
  · rw [hstate h] at hu
    simp [hu] at hr
  · exact (hs trivial).elim
  · exact show _ = _ by rw [h]
  · exact show _ = _ by rw [h]
  · rw [hstate h]
    refine ⟨fun hw => by simp [hw] at hr, ?_⟩
    rw [h]
    exact hk

/-! The budgets counted, one record after another. -/

theorem State.leaveQueue_left (s : State) (r : Request) (st : Status) (f : Option ElementFault) (m p : Bool) :
    Left (s.leaveQueue r st f m p) r.id := fun u hu he => by
  simpa [he] using (List.mem_filter.mp hu).2

theorem State.completeRequest_left (s : State) (r : Request) (st : Status) (f : Option ElementFault) (m : Bool) :
    Left (s.completeRequest r st f m) r.id := s.leaveQueue_left r st f m _

theorem State.idleEngine_left {s : State} {id : Nat} (h : Left s id) : Left s.idleEngine id := by
  simpa only [Left, State.idleEngine_frame] using h

/-- A record whose budget has run out is LATE if it is there. -/
theorem State.expire_late (s : State) (waited : Bool) (id : Nat) :
    ∀ u ∈ (s.expire waited id).wq.records, u.id = id → u.late = true := by
  intro u hu he
  simp only [State.expire] at hu
  have hgone {v : State} {r : Request} (hid : r.id = id) (hl : Left v r.id) (hm : u ∈ v.wq.records) :
      u.late = true := absurd (he.trans hid.symm) (hl u hm)
  split at hu
  · rename_i hf
    have := List.find?_eq_none.mp hf u hu
    simp [he] at this
  · rename_i r hf
    have hid : r.id = id := by simpa using List.find?_some hf
    repeat' split at hu
    · exact hgone hid (s.leaveQueue_left r _ _ _ _) hu
    · obtain ⟨q, _, rfl⟩ := List.mem_map.mp hu
      by_cases hq : q.id = id
      · simp [hq]
      · simp [hq] at he
    · exact hgone hid (State.idleEngine_left (s.completeRequest_left r _ _ _)) hu
    · exact hgone hid (s.completeRequest_left r _ _ _) hu

theorem State.expireAll_late (due : List Request) (s : State) :
    ∀ u ∈ (due.foldl (fun s r => s.expire (r.state == .holdWait) r.id) s).wq.records, u.id ∈ due.map Request.id →
      u.late = true := by
  induction due generalizing s with
  | nil => intro u _ h; simp at h
  | cons r due ih =>
    intro u hu hid
    rcases List.mem_cons.mp hid with he | hid
    · obtain ⟨q, hq, hqid, _, hlate⟩ := (State.expireAll_carries (s.expire (r.state == .holdWait) r.id) due).record u hu
      exact hlate (s.expire_late _ _ q hq (hqid.symm.trans he))
    · exact ih _ u hu hid

/-- Each record left after a slot event has one slot less; one whose budget ran out is LATE (R73, R75). -/
def Counted (s t : State) : Prop :=
  (∀ u ∈ t.wq.records, ∃ r ∈ s.wq.records, r.id = u.id ∧ u.budget = r.budget.map (fun b => b - 1) ∧
    (r.budget = some 1 → u.late = true)) ∧
    (t.wq.records.map Request.id).Sublist (s.wq.records.map Request.id)

theorem Counted.after {s t v : State} (h : Counted s t) (k : Carries t v) : Counted s v := by
  refine ⟨fun u hu => ?_, k.sheds.2.trans h.2⟩
  obtain ⟨q, hq, hid, hb, hl⟩ := k.record u hu
  obtain ⟨r, hr, hri, hrb, hrl⟩ := h.1 q hq
  exact ⟨r, hr, hri.trans hid.symm, hb.trans hrb, fun h1 => hl (hrl h1)⟩

theorem Counted.before {s t v : State} (k : Carries s t) (h : Counted t v) : Counted s v := by
  refine ⟨fun u hu => ?_, h.2.trans k.sheds.2⟩
  obtain ⟨q, hq, hid, hb, hl⟩ := h.1 u hu
  obtain ⟨r, hr, hri, hrb, _⟩ := k.record q hq
  exact ⟨r, hr, hri.symm.trans hid, by rw [hb, hrb], fun h1 => hl (hrb.trans h1)⟩

theorem State.formReviewSelect_carries (s : State) : Carries s s.formSlacks.review.select :=
  s.formSlacks_carries.trans ((State.review_carries _).trans (State.select_carries _))

theorem State.afterQueue_carries (s : State) :
    Carries s s.holdSlot.leadSlotBegins.idleTenureTest.offerRelease.preemptSlot :=
  s.holdSlot_carries.trans <| (State.leadSlotBegins_carries _).trans <| (State.idleTenureTest_carries _).trans <|
    (State.offerRelease_carries _).trans (State.preemptSlot_carries _)

theorem State.revolutionEvent_wq (s : State) :
    s.revolutionEvent.wq = s.ownRevolution.peerRevolution.endCourtesy.wq := by
  simp only [State.revolutionEvent, State.onRdm_wq, State.holdRevolution_frame]

theorem State.queueSlot_counted (s : State) : Counted s s.queueSlot := by
  have hcarry := s.countBudgets.expireAll_carries s.wq.expiring
  have hlate := State.expireAll_late s.wq.expiring s.countBudgets
  simp only [State.queueSlot]
  generalize s.wq.expiring.foldl _ s.countBudgets = v at *
  have hcounted : Counted s v := by
    refine ⟨fun u hu => ?_, ?_⟩
    · obtain ⟨q, hq, hid, hb, _⟩ := hcarry.record u hu
      obtain ⟨r, hr, rfl⟩ := List.mem_map.mp hq
      refine ⟨r, hr, hid.symm, hb, fun h1 => hlate u hu ?_⟩
      rw [hid]
      exact List.mem_map.mpr ⟨r, List.mem_filter.mpr ⟨hr, by simp [h1]⟩, rfl⟩
    · have h := hcarry.sheds.2
      simpa [State.countBudgets, Function.comp_def] using h
  exact hcounted.after v.formReviewSelect_carries

theorem State.slotAnd_counted (s : State) (b n : Bool) : Counted s (s.slotAnd b n) := by
  have hbegin : Carries s ((s.onHp fun h => { h with tod := h.tod.pass }).onRdm
      fun m => { m with slotSynthetic := b }) := .of_eq rfl rfl rfl rfl rfl
  have hafter (u : State) : Counted u u.afterEngine := u.queueSlot_counted.after (State.afterQueue_carries _)
  have hslot : Counted s (s.slotEvent b none) := by
    rw [State.slotEvent_eq]
    exact .before (hbegin.trans (State.engineSlot_carries _)) (hafter _)
  cases n
  · rw [State.slotAnd, if_neg Bool.false_ne_true]
    exact hslot
  · rw [State.slotAnd, if_pos rfl]
    have hk := hslot.after (State.tenureRevolution_carries _)
    rw [Counted, State.revolutionEvent_wq]
    exact hk

/-! A record that leaves with its budget (R75 to R77). -/

theorem State.expire_left {s : State} {waited : Bool} {b : State} {id : Nat}
    (h : waited = true ∨ Watched (dropWatch b id) s) : Left (s.expire waited id) id := by
  simp only [State.expire]
  split
  · rename_i hf
    exact fun u hu he => by simpa [he] using List.find?_eq_none.mp hf u hu
  · rename_i r hf
    have hid : r.id = id := by simpa using List.find?_some hf
    split
    · exact hid ▸ s.leaveQueue_left r _ _ _ _
    · rename_i hw
      obtain ⟨h1, h2, h3⟩ := (h.resolve_left hw).record r (List.mem_of_find?_eq_some hf) hid
      rw [if_neg (by simp [h1, h2, h3])]
      split
      · exact State.idleEngine_left (hid ▸ s.completeRequest_left r _ _ _)
      · exact hid ▸ s.completeRequest_left r _ _ _

/-- One of the records due has left, if it was in HOLD-WAIT when the queue counted, or is watched as not started and
DROP. -/
theorem State.expireAll_left {b : State} {r : Request} (due : List Request) (hr : r ∈ due) {s : State}
    (h : r.state = .holdWait ∨ Watched (dropWatch b r.id) s) :
    Left (due.foldl (fun s r => s.expire (r.state == .holdWait) r.id) s) r.id := by
  induction due generalizing s with
  | nil => simp at hr
  | cons q due ih =>
    rcases List.mem_cons.mp hr with rfl | hr
    · exact (State.expireAll_carries _ due).sheds.left (State.expire_left (h.imp (by simp [·]) id))
    · exact ih hr (h.imp id fun h => State.expire_watched (dropWatch_lawful b r.id) (fun hs => hs.elim) h)

theorem State.slotAnd_left {v s b : State} {id : Nat} (y n : Bool)
    (hu : ((v.onHp fun h => { h with tod := h.tod.pass }).onRdm fun m => { m with slotSynthetic := y }).engineSlot = s)
    (hb : ∀ r ∈ s.wq.records, r.id = id → r.budget = some 1 ∧ (r.state = .holdWait ∨ Watched (dropWatch b id) s)) :
    Left (v.slotAnd y n) id := by
  have hcount : Left s.queueSlot id := by
    by_cases hr : ∃ r ∈ s.wq.records, r.id = id
    · obtain ⟨r, hr, rfl⟩ := hr
      obtain ⟨hone, h⟩ := hb r hr rfl
      have hleft := State.expireAll_left (b := b) s.wq.expiring (List.mem_filter.mpr ⟨hr, by simp [hone]⟩)
        (h.imp (fun h => h) (State.countBudgets_watched (dropWatch_lawful b r.id)))
      simp only [State.queueSlot]
      generalize s.wq.expiring.foldl _ s.countBudgets = u at *
      exact u.formReviewSelect_carries.sheds.left hleft
    · intro q hq he
      obtain ⟨r, hrm, hid, _⟩ := s.queueSlot_counted.1 q hq
      exact hr ⟨r, hrm, hid.trans he⟩
  have hslot : Left (v.slotEvent y none) id := by
    rw [State.slotEvent_eq, hu, State.afterEngine]
    exact (State.afterQueue_carries s.queueSlot).sheds.left hcount
  cases n
  · rw [State.slotAnd, if_neg Bool.false_ne_true]
    exact hslot
  · rw [State.slotAnd, if_pos rfl, Left, State.revolutionEvent_wq]
    exact (State.tenureRevolution_carries _).sheds.left hslot

/-! The loss of the drive before the count (R8, R163). -/

theorem State.driveDown_request (s : State) :
    s.driveDown.te.request = s.te.request ∨ s.driveDown.te.request = none := by
  simp only [State.driveDown]
  split
  · exact .inl rfl
  · generalize hu : ((s.onRdm Monitor.enterDown).raise .drive).onLu LineUnit.markLost = u
    have hengine : u.engineDown.te.request = s.te.request ∨ u.engineDown.te.request = none := by
      have hus : u.te.request = s.te.request := by rw [← hu]; rfl
      simp only [State.engineDown, State.finish]
      repeat' split
      all_goals first | exact .inl hus | exact .inr rfl
    simp only [State.tenureDown, State.offerRelease_frame]
    rcases (u.engineDown.setPositioner none false).endTenure_request with h | h
    · rw [h]
      simpa [State.setPositioner] using hengine
    · exact .inr h

/-- With no request in the engine the loss of the drive leaves engine and HOLD-WAIT records as they are. -/
theorem State.driveDown_idle {s : State} (h : s.te.request = none) : s.driveDown.te = s.te ∧
    ∀ q ∈ s.driveDown.wq.records, ∃ r ∈ s.wq.records, r.id = q.id ∧ (r.state = .holdWait → q.state = .holdWait) := by
  simp only [State.driveDown]
  split
  · exact ⟨rfl, fun q hq => ⟨q, hq, rfl, id⟩⟩
  · generalize hu : ((s.onRdm Monitor.enterDown).raise .drive).onLu LineUnit.markLost = u
    have hte : u.te = s.te := by rw [← hu]; rfl
    have hwq : u.wq = s.wq := by rw [← hu]; rfl
    have hnone : u.activeRequest = none := by simp [State.activeRequest, hte, h]
    have hengine : u.engineDown = u := by simp [State.engineDown, hnone]
    rw [hengine]
    refine ⟨(State.tenureDown_te_of_none (hte ▸ h)).trans hte, fun q hq => ?_⟩
    have hstill (v : State) (hv : v.te.request = none) : v.endTenure.wq = v.wq := by
      simp only [State.endTenure]
      split
      · rw [State.suspendAfterExchange_of_none (by simp [State.activeRequest, State.setOwn, hv])]
        simp
      · rfl
    simp only [State.tenureDown, State.offerRelease_frame, hstill _ (show (u.setPositioner none false).te.request = none from
      hte ▸ h)] at hq
    rw [State.setPositioner, State.review, State.onWq_wq, State.onTm_wq, hwq] at hq
    obtain ⟨r, hr, rfl⟩ := List.mem_map.mp hq
    exact ⟨r, hr, (State.reviewed_carried _ r).1.symm, fun hw => by simp [State.reviewed, hw]⟩

/-! The engine's request with its order on the line (R76, R97, R166). -/

/-- The request `r` is the engine's and its exchange is in progress. -/
structure Exchanging (s : State) (r : Request) (t : State) : Prop where
  watched : Watched (engineWatch s r True) t
  request : t.te.request = some r.id
  phase : t.te.phase = .exchange
  exchange : t.exchangeInProgress = true

/-- The request `r` stays: in its exchange, or the engine no longer works on it. -/
def Outlasts (s : State) (r : Request) (t : State) : Prop := Exchanging s r t ∨ Watched (engineWatch s r False) t

theorem exchangeInProgress_congr {s t : State} (hx : t.lu.exchange = s.lu.exchange) (hr : t.te.request = s.te.request) :
    t.exchangeInProgress = s.exchangeInProgress := by
  simp only [State.exchangeInProgress, hx, hr]

theorem State.preemptSlot_exchange (s : State) : s.preemptSlot.lu.exchange = s.lu.exchange := by
  simp only [State.preemptSlot]
  repeat' split
  · rfl
  · rfl
  · simp
  · rfl

section
variable {s t u : State} {r : Request}

theorem Exchanging.of_eq (h : Exchanging s r t) (hw : Watched (engineWatch s r True) u)
    (hr : u.te.request = t.te.request) (hp : u.te.phase = t.te.phase) (hx : u.lu.exchange = t.lu.exchange) :
    Exchanging s r u :=
  ⟨hw, hr.trans h.request, hp.trans h.phase, (exchangeInProgress_congr hx hr).trans h.exchange⟩

theorem Exchanging.of_frame (h : Exchanging s r t) (hwq : u.wq.records = t.wq.records)
    (hr : u.te.request = t.te.request) (hp : u.te.phase = t.te.phase)
    (ho : u.te.maintenanceOver = t.te.maintenanceOver) (hx : u.lu.exchange = t.lu.exchange) (hc : u.chains = t.chains)
    (ha : u.hp.adapter = t.hp.adapter) : Exchanging s r u :=
  h.of_eq (h.watched.of_frame hwq hr ho hc ha) hr hp hx

/-- With the engine no longer at work on it, the request is watched as one the engine does not take again. -/
theorem Watched.idle (h : Watched (engineWatch s r True) t) (hne : t.te.request = none) :
    Watched (engineWatch s r False) t :=
  ⟨h.names, h.stands, h.record, fun _ _ he => by simp [hne] at he, h.chains, h.adapter⟩

theorem Exchanging.suspendAfterExchange (h : Exchanging s r t) : Exchanging s r t.suspendAfterExchange := by
  simp only [State.suspendAfterExchange]
  repeat' split
  · exact h
  · exact h
  · exact h.of_frame rfl rfl rfl rfl rfl rfl rfl
  · rename_i hx
    exact absurd h.exchange hx

theorem Exchanging.endTenure (h : Exchanging s r t) : Exchanging s r t.endTenure := by
  simp only [State.endTenure]
  split
  · have hend (o : OwnTenure) : Exchanging s r ((t.setOwn o).withdraw FrameBody.isTenure) :=
      h.of_frame rfl rfl rfl rfl rfl rfl rfl
    have hrelease {v : State} (hv : Exchanging s r v) : Exchanging s r v.offerRelease :=
      hv.of_frame (by simp) (by simp) (by simp) (by simp) (by simp) (by simp) (by simp)
    exact hrelease (hend _).suspendAfterExchange
  · exact h

section
variable (hl : ∀ e, (engineWatch s r e).Lawful)
include hl

theorem Exchanging.review (h : Exchanging s r t) : Exchanging s r t.review :=
  h.of_eq (State.review_watched (hl _) h.watched) rfl rfl rfl

theorem Exchanging.driveDown (h : Exchanging s r t) : Exchanging s r t.driveDown := by
  have hengine {v : State} (hv : Exchanging s r v) : Exchanging s r v.engineDown := by
    simp only [State.engineDown]
    split
    · exact hv
    · rw [if_pos hv.exchange]
      exact hv.of_frame rfl rfl rfl rfl rfl rfl rfl
  have htenure {v : State} (hv : Exchanging s r v) : Exchanging s r v.tenureDown := by
    have hpos : Exchanging s r (v.setPositioner none false) :=
      Exchanging.review hl (hv.of_frame rfl rfl rfl rfl rfl rfl rfl)
    exact hpos.endTenure.of_frame (by simp [State.tenureDown]) (by simp [State.tenureDown]) (by simp [State.tenureDown])
      (by simp [State.tenureDown]) (by simp [State.tenureDown]) (by simp [State.tenureDown]) (by simp [State.tenureDown])
  simp only [State.driveDown]
  split
  · exact h
  · refine htenure (hengine ⟨h.watched.of_frame rfl rfl rfl rfl rfl, h.request, h.phase, ?_⟩)
    rw [← h.exchange]
    cases hx : t.lu.exchange <;> simp [State.exchangeInProgress, LineUnit.markLost, hx]

theorem Outlasts.expire (h : Outlasts s r t) {waited : Bool} {id : Nat} (hw : id = r.id → waited = false) :
    Outlasts s r (t.expire waited id) := by
  rcases h with h | h
  · have hwatched := State.expire_watched (hl True) (fun _ => hw) h.watched
    have hkept : (t.expire waited id).te = t.te ∧ (t.expire waited id).lu.exchange = t.lu.exchange ∨
        (t.expire waited id).te.request = none := by
      simp only [State.expire]
      repeat' split
      · exact .inl ⟨rfl, rfl⟩
      · exact .inl (by simp)
      · exact .inl (by simp)
      · exact .inr (by simp [State.idleEngine])
      · exact .inl (by simp)
    rcases hkept with ⟨hte, hx⟩ | hn
    · exact .inl (h.of_eq hwatched (by rw [hte]) (by rw [hte]) hx)
    · exact .inr (hwatched.idle hn)
  · exact .inr (State.expire_watched (hl False) (fun _ => hw) h)

theorem Outlasts.queueSlot (h : Exchanging s r t) : Outlasts s r t.queueSlot := by
  have hdue : ∀ q ∈ t.wq.expiring, q.id = r.id → (q.state == RequestState.holdWait) = false := fun q hq hid => by
    simpa using ((hl True).lasts trivial q (h.watched.record q (List.mem_of_mem_filter hq) hid)).1
  have hexpired : ∀ (due : List Request) (v : State), (∀ q ∈ due, q.id = r.id → (q.state == RequestState.holdWait) = false) →
      Outlasts s r v → Outlasts s r (due.foldl (fun s r => s.expire (r.state == .holdWait) r.id) v) := by
    intro due
    induction due with
    | nil => exact fun v _ hv => hv
    | cons q due ih =>
      exact fun v hq hv => ih _ (fun p hp => hq p (List.mem_cons_of_mem _ hp))
        (Outlasts.expire hl hv (hq q (List.mem_cons_self ..)))
  have hcount : Exchanging s r t.countBudgets := h.of_eq (State.countBudgets_watched (hl _) h.watched) rfl rfl rfl
  have hv := hexpired t.wq.expiring t.countBudgets hdue (.inl hcount)
  simp only [State.queueSlot]
  generalize t.wq.expiring.foldl _ t.countBudgets = v at *
  rcases hv with hv | hv
  · have hform : Exchanging s r v.formSlacks.review :=
      Exchanging.review hl (hv.of_eq (State.formSlacks_watched (hl _) hv.watched) rfl rfl rfl)
    have hselect : v.formSlacks.review.select = v.formSlacks.review := if_neg (by simp [hv.phase])
    rw [hselect]
    exact .inl hform
  · exact .inr (State.select_watched (hl _) id (State.review_watched (hl _) (State.formSlacks_watched (hl _) hv)))

theorem Exchanging.afterQueue (h : Exchanging s r t) :
    Exchanging s r t.holdSlot.leadSlotBegins.idleTenureTest.offerRelease.preemptSlot := by
  have hhold : Exchanging s r t.holdSlot := h.of_eq (State.holdSlot_watched (hl _) h.watched) (by simp) (by simp) (by simp)
  generalize t.holdSlot = v at hhold
  have hlead : v.leadSlotBegins = v := by simp [State.leadSlotBegins, hhold.phase]
  have htest : v.idleTenureTest = v := by simp [State.idleTenureTest, hhold.phase]
  rw [hlead, htest]
  exact hhold.of_frame (by simp) (by simp) (by simp) (by simp) (by rw [State.preemptSlot_exchange]; simp) (by simp) (by simp)

theorem Exchanging.revolutionEvent (h : Exchanging s r t) : Exchanging s r t.revolutionEvent := by
  have hown : Exchanging s r t.ownRevolution := by
    have hset (o : OwnTenure) : Exchanging s r (t.setOwn o) := h.of_frame rfl rfl rfl rfl rfl rfl rfl
    simp only [State.ownRevolution]
    repeat' split
    · exact (hset _).endTenure
    · exact hset _
    · exact hset _
    · exact h
  have hpeer {v : State} (hv : Exchanging s r v) : Exchanging s r v.peerRevolution := by
    simp only [State.peerRevolution, State.peerGone]
    repeat' split
    · exact hv
    · exact Exchanging.review hl (hv.of_frame rfl rfl rfl rfl rfl rfl rfl)
    · exact hv
    · exact Exchanging.review hl (hv.of_frame rfl rfl rfl rfl rfl rfl rfl)
  exact (hpeer hown).of_frame (by simp [State.revolutionEvent]) (by simp [State.revolutionEvent])
    (by simp [State.revolutionEvent]) (by simp [State.revolutionEvent]) (by simp [State.revolutionEvent])
    (by simp [State.revolutionEvent]) (by simp [State.revolutionEvent])

theorem Exchanging.slotAnd (h : Exchanging s r t) (b n : Bool) : Outlasts s r (t.slotAnd b n) := by
  generalize hu : (t.onHp fun h => { h with tod := h.tod.pass }).onRdm (fun m => { m with slotSynthetic := b }) = v
  have hv : Exchanging s r v := hu ▸ h.of_frame rfl rfl rfl rfl rfl rfl rfl
  have hengine : v.engineSlot = v := by simp only [State.engineSlot, hv.phase]
  have hafter : Outlasts s r v.afterEngine := by
    rcases Outlasts.queueSlot hl hv with hq | hq
    · exact .inl (Exchanging.afterQueue hl hq)
    · rw [State.afterEngine]
      have htest := State.idleTenureTest_watched (hl _) id (State.leadSlotBegins_watched (State.holdSlot_watched (hl _) hq))
      exact .inr (htest.of_frame (by simp) (by simp) (by simp) (by simp) (by simp))
  have hslot : Outlasts s r (t.slotEvent b none) := by
    rw [State.slotEvent_eq, hu, hengine]
    exact hafter
  cases n
  · rw [State.slotAnd, if_neg Bool.false_ne_true]
    exact hslot
  · rw [State.slotAnd, if_pos rfl]
    exact hslot.imp (Exchanging.revolutionEvent hl) (State.revolutionEvent_watched (hl _) id)

end
end

theorem Watched.begins {w : Watch} {s x : State} (h : SlotBegins s x) (hs : Watched w s) : Watched w x :=
  hs.of_frame (by rw [h.wq]) (by rw [h.te]) (by rw [h.te]) h.chains h.adapter

/-- Settles O28: by what is watched of each record, and by the outcome of the count. -/
theorem slotEventCountsBudgets : Obligations.SlotEventCountsBudgets := by
  intro s hfresh hlate b c hc
  obtain ⟨x, y, n, hx, hexec⟩ := exec_slot (.inr hlate) hc
  have hnodup : (s.wq.records.map Request.id).Nodup := hfresh.1.1
  obtain ⟨v, hv, hexec⟩ : ∃ v, (v = x ∨ v = x.driveDown) ∧ exec c s = .next (v.slotAnd y n) := by
    rcases hexec with h | ⟨_, _, h⟩
    · exact ⟨x, .inl rfl, h⟩
    · exact ⟨_, .inr rfl, h⟩
  refine ⟨_, hexec, ?_⟩
  have hcarries : Carries x v := by
    rcases hv with rfl | rfl
    · exact .refl _
    · exact x.driveDown_carries
  have hcounted : Counted s (v.slotAnd y n) := by
    have h := Counted.before hcarries (v.slotAnd_counted y n)
    rwa [Counted, hx.wq] at h
  have hlost {w : Watch} (hl : w.Lawful) (he : ¬ w.exempt) (hne : w.stays → s.te.request ≠ some w.id)
      (h : Watched w s) : Watched w v := by
    rcases hv with rfl | rfl
    · exact h.begins hx
    · exact State.driveDown_watched hl he (by rwa [hx.te]) (h.begins hx)
  have hfree (id : Nat) (hne : s.te.request ≠ some id) : v.te.request ≠ some id := by
    rcases hv with rfl | rfl
    · rwa [hx.te]
    · rcases x.driveDown_request with h | h
      · rwa [h, hx.te]
      · simp [h]
  refine ⟨hcounted.1, fun r hr hb hq hstarted hleaves => ?_, fun r hr hb hq hk hne hm => ?_,
    fun r ha hb hq hk hphase hexch => ?_, hcounted.2⟩
  -- one that leaves with its budget
  · have hbudget (u : State) (hu : ((v.onHp fun h => { h with tod := h.tod.pass }).onRdm fun m =>
        { m with slotSynthetic := y }).engineSlot = u) : ∀ q ∈ u.wq.records, q.id = r.id → q.budget = some 1 := by
      intro q hq he
      have hbegin : Carries v ((v.onHp fun h => { h with tod := h.tod.pass }).onRdm
          fun m => { m with slotSynthetic := y }) := .of_eq rfl rfl rfl rfl rfl
      obtain ⟨p, hp, hpid, hpb, _⟩ := (hcarries.trans (hbegin.trans (State.engineSlot_carries _))).record q (hu ▸ hq)
      rw [hx.wq] at hp
      obtain rfl := List.inj_on_of_nodup_map hnodup hp hr (hpid.symm.trans he)
      rw [hpb, hb]
    generalize hu : ((v.onHp fun h => { h with tod := h.tod.pass }).onRdm fun m =>
      { m with slotSynthetic := y }).engineSlot = u
    rcases hleaves with hdrop | ⟨hwait, hidle, hnone⟩
    · have hwatched : Watched (dropWatch s r.id) s :=
        ⟨hnodup, fun h => h.elim, fun u hu he => by
          obtain rfl := List.inj_on_of_nodup_map hnodup hu hr he
          exact ⟨hstarted, hdrop, fun h => by simp [Request.queued, h] at hq⟩, fun h => h.elim, rfl, rfl⟩
      have hl := dropWatch_lawful s r.id
      have huw : Watched (dropWatch s r.id) u :=
        hu ▸ State.engineSlot_watched hl id (fun h => h.elim)
          ((hlost hl id (fun h => h.elim) hwatched).of_frame rfl rfl rfl rfl rfl)
      refine State.slotAnd_left y n hu fun q hq he => ⟨?_, .inr huw⟩
      exact hbudget u hu q hq he
    · have hidlev : v.te = s.te ∧ ∀ q ∈ v.wq.records, q.id = r.id → q.state = .holdWait := by
        rcases hv with rfl | rfl
        · refine ⟨hx.te, fun q hq he => ?_⟩
          rw [hx.wq] at hq
          obtain rfl := List.inj_on_of_nodup_map hnodup hq hr he
          exact hwait
        · obtain ⟨hte, hrecords⟩ := State.driveDown_idle (hx.te ▸ hnone)
          refine ⟨hte.trans hx.te, fun q hq he => ?_⟩
          obtain ⟨p, hp, hpid, hps⟩ := hrecords q hq
          rw [hx.wq] at hp
          obtain rfl := List.inj_on_of_nodup_map hnodup hp hr (hpid.trans he)
          exact hps hwait
      have hstill : u.wq = v.wq := by
        rw [← hu, State.engineSlot]
        simp only [State.onRdm_te, State.onHp_te, hidlev.1, hidle]
        rfl
      refine State.slotAnd_left (b := s) y n hu fun q hq he => ⟨hbudget u hu q hq he, .inl ?_⟩
      exact hidlev.2 q (hstill ▸ hq) he
  -- one of the queue that stays
  · have hl := queueWatch_lawful hk hm
    have hwatched : Watched (queueWatch s r) s :=
      ⟨hnodup, fun _ => ⟨r, hr, rfl⟩, fun u hu he => by
        obtain rfl := List.inj_on_of_nodup_map hnodup hu hr he
        exact ⟨hq.imp id .inl, rfl⟩, fun _ _ he => absurd he hne, rfl, rfl⟩
    have hend : Watched (queueWatch s r) (v.slotAnd y n) :=
      State.slotAnd_watched hl id y n (fun _ => hfree _ hne) (hlost hl id (fun _ => hne) hwatched)
    obtain ⟨u, hu, hid⟩ := hend.stands trivial
    obtain ⟨hstate, hsame⟩ := hend.record u hu hid
    obtain ⟨q, hqm, hqid, hqb, hlateq⟩ := hcounted.1 u hu
    obtain rfl := List.inj_on_of_nodup_map hnodup hqm hr (hqid.trans hid)
    rw [hqb, hb, hlateq hb] at hsame
    exact ⟨u, hu, hstate, hsame⟩
  -- the engine's, its order on the line
  · obtain ⟨hmem, hreq⟩ := State.activeRequest_mem ha
    have hl := engineWatch_lawful (s := s) hq hk
    have hwatched : Exchanging s r s :=
      ⟨⟨hnodup, fun _ => ⟨r, hmem, rfl⟩, fun u hu he => by
        obtain rfl := List.inj_on_of_nodup_map hnodup hu hmem he
        rfl, fun _ he => absurd trivial he, rfl, rfl⟩, hreq, hphase, hexch⟩
    have hx' : Exchanging s r x :=
      ⟨hwatched.watched.begins hx, hx.te ▸ hreq, hx.te ▸ hphase, hx.exchange.trans hexch⟩
    have hv' : Exchanging s r v := by
      rcases hv with rfl | rfl
      · exact hx'
      · exact hx'.driveDown hl
    obtain ⟨u, hu, hid, hsame⟩ : ∃ u ∈ (v.slotAnd y n).wq.records, u.id = r.id ∧ (engineWatch s r False).Q u := by
      rcases hv'.slotAnd hl y n with h | h
      · obtain ⟨u, hu, hid⟩ := h.watched.stands trivial
        exact ⟨u, hu, hid, h.watched.record u hu hid⟩
      · obtain ⟨u, hu, hid⟩ := h.stands trivial
        exact ⟨u, hu, hid, h.record u hu hid⟩
    obtain ⟨q, hqm, hqid, hqb, hlateq⟩ := hcounted.1 u hu
    obtain rfl := List.inj_on_of_nodup_map hnodup hqm hmem (hqid.trans hid)
    have hsame : u = { q with budget := u.budget, late := u.late, slack := u.slack, urgent := u.urgent } := hsame
    rw [hqb, hb, hlateq hb] at hsame
    exact ⟨u, hu, hsame⟩

end Sys2Proof.Machine
end

section
/-! What the acts that end work leave of holds, FREEs and fetches (R44, R54 to R57, R155 to R157): a relation over them.
-/

namespace Sys2Proof.Machine

open Sys2Proof

set_option Elab.async false

/-- The entries of list and line. -/
abbrev State.entries (s : State) : List HoldEntry := s.hm.list ++ s.hm.line

/-- A FREE notice. -/
def FrameBody.isFree : FrameBody → Bool
  | .free _ _ _ => true
  | _ => false

/-- The FREEs pending, in their order. -/
def State.freesOf (s : State) : List Frame := s.lu.frames.filter fun f => f.body.isFree

/-- The entry keeps its name, its range, its chain, and what a FREE of it says. -/
structure HoldEntry.Static (y z : HoldEntry) : Prop where
  id : z.id = y.id
  start : z.start = y.start
  count : z.count = y.count
  mode : z.mode = y.mode
  chain : z.chain = y.chain
  origin : z.origin = y.origin
  claimed : z.claimed = y.claimed
  written : z.written = y.written

theorem HoldEntry.Static.refl (y : HoldEntry) : y.Static y := ⟨rfl, rfl, rfl, rfl, rfl, rfl, rfl, rfl⟩

theorem HoldEntry.Static.trans {y z w : HoldEntry} (h : y.Static z) (k : z.Static w) : y.Static w :=
  ⟨k.id.trans h.id, k.start.trans h.start, k.count.trans h.count, k.mode.trans h.mode, k.chain.trans h.chain,
    k.origin.trans h.origin, k.claimed.trans h.claimed, k.written.trans h.written⟩

theorem HoldEntry.Static.free {y z : HoldEntry} (h : y.Static z) : z.free = y.free := by
  rw [HoldEntry.free, HoldEntry.free, h.start, h.count, h.written]

/-- The entry comes of one before, with no HOLD waiting for it that did not. -/
def HoldEntry.From (y z : HoldEntry) : Prop := y.Static z ∧ (y.holdElem = none → z.holdElem = none)

theorem HoldEntry.From.refl (y : HoldEntry) : y.From y := ⟨.refl y, fun h => h⟩

theorem HoldEntry.From.trans {y z w : HoldEntry} (h : y.From z) (k : z.From w) : y.From w :=
  ⟨h.1.trans k.1, k.2 ∘ h.2⟩

/-- The Hold Manager's part: a SILENCED adapter offers nothing, pending FREEs stay, and each entry comes of one before. -/
structure HoldsFrom (s t : State) : Prop where
  adapter : t.hp.adapter = .silenced ↔ s.hp.adapter = .silenced
  quiet : s.hp.adapter = .silenced → ∀ f ∈ t.lu.frames, f ∈ s.lu.frames
  frees : s.freesOf.Sublist t.freesOf
  back : ∀ z ∈ t.entries, ∃ y ∈ s.entries, y.From z

/-- What an act that ends work leaves besides: completions asked stay asked, no record comes; an entry stands or has been
released with its FREE; fetches asked stay asked, and come of RUNNING chains alone. -/
structure Settled (s t : State) : Prop extends HoldsFrom s t where
  sheds : Sheds s t
  names : NamesFresh s → NamesFresh t
  forth : NamesFresh s → ∀ y ∈ s.entries, (∃ z ∈ t.entries, y.Static z) ∨
    (y.claimed = true → s.hp.adapter ≠ .silenced → ∃ f ∈ t.lu.frames, f.body = y.free)
  fetchKept : ∀ m, .fetch m ∈ s.hp.waiting → .fetch m ∈ t.hp.waiting
  fetchNew : ∀ m, .fetch m ∈ t.hp.waiting → .fetch m ∈ s.hp.waiting ∨ (s.chain m).state = .running
  running : ∀ m, (t.chain m).state = .running → (s.chain m).state = .running

theorem HoldsFrom.free_mem {s t : State} (h : HoldsFrom s t) {f : Frame} (hf : f ∈ s.lu.frames)
    (hfree : f.body.isFree = true) : f ∈ t.lu.frames :=
  List.mem_of_mem_filter (h.frees.subset (List.mem_filter.mpr ⟨hf, hfree⟩))

theorem HoldsFrom.trans {s t u : State} (h : HoldsFrom s t) (k : HoldsFrom t u) : HoldsFrom s u where
  adapter := k.adapter.trans h.adapter
  quiet hs f hf := h.quiet hs f (k.quiet (h.adapter.mpr hs) f hf)
  frees := h.frees.trans k.frees
  back w hw := by
    obtain ⟨z, hz, hzw⟩ := k.back w hw
    obtain ⟨y, hy, hyz⟩ := h.back z hz
    exact ⟨y, hy, hyz.trans hzw⟩

theorem Settled.trans {s t u : State} (h : Settled s t) (k : Settled t u) : Settled s u where
  toHoldsFrom := h.toHoldsFrom.trans k.toHoldsFrom
  sheds := h.sheds.trans k.sheds
  names := k.names ∘ h.names
  forth hn y hy := by
    rcases h.forth hn y hy with ⟨z, hz, hyz⟩ | hfree
    · refine (k.forth (h.names hn) z hz).imp (fun ⟨w, hw, hzw⟩ => ⟨w, hw, hyz.trans hzw⟩) fun hfree hc hs => ?_
      rw [← hyz.free]
      exact hfree (hyz.claimed.trans hc) fun ht => hs (h.adapter.mp ht)
    · refine .inr fun hc hs => ?_
      obtain ⟨f, hf, hb⟩ := hfree hc hs
      exact ⟨f, k.free_mem hf (by rw [hb]; rfl), hb⟩
  fetchKept m hm := k.fetchKept m (h.fetchKept m hm)
  fetchNew m hm := (k.fetchNew m hm).elim (h.fetchNew m) fun hr => .inr (h.running m hr)
  running m hm := h.running m (k.running m hm)

theorem HoldsFrom.of_eq {s t : State} (ha : t.hp.adapter = s.hp.adapter) (hhm : t.hm = s.hm)
    (hf : t.lu.frames = s.lu.frames) : HoldsFrom s t where
  adapter := by rw [ha]
  quiet _ f hm := hf ▸ hm
  frees := by rw [State.freesOf, State.freesOf, hf]
  back z hz := ⟨z, by simpa only [State.entries, hhm] using hz, .refl z⟩

theorem HoldsFrom.refl (s : State) : HoldsFrom s s := .of_eq rfl rfl rfl

/-- Holds and frames are left; what waits changes but for completions and loads alone. -/
theorem Settled.of_frame {s t : State} (hsheds : Sheds s t) (hn : NamesFresh s → NamesFresh t)
    (ha : t.hp.adapter = s.hp.adapter) (hhm : t.hm = s.hm) (hf : t.lu.frames = s.lu.frames)
    (hw : ∀ m, .fetch m ∈ t.hp.waiting ↔ .fetch m ∈ s.hp.waiting)
    (hr : ∀ m, (t.chain m).state = .running → (s.chain m).state = .running) : Settled s t where
  toHoldsFrom := .of_eq ha hhm hf
  sheds := hsheds
  names := hn
  forth _ y hy := .inl ⟨y, by simpa only [State.entries, hhm] using hy, .refl y⟩
  fetchKept m := (hw m).mpr
  fetchNew m hm := .inl ((hw m).mp hm)
  running := hr

theorem Settled.of_eq {s t : State} (ha : t.hp.adapter = s.hp.adapter) (hw : t.hp.waiting = s.hp.waiting)
    (hb : t.hp.heldBack = s.hp.heldBack) (hc : t.chains = s.chains) (hwq : t.wq = s.wq) (hhm : t.hm = s.hm)
    (hf : t.lu.frames = s.lu.frames) : Settled s t :=
  .of_frame (.of_eq hw hb (by rw [hwq])) (fun h => by simpa only [NamesFresh, hwq, hhm] using h) ha hhm hf (by simp [hw])
    (by simp [State.chain, hc])

theorem Settled.refl (s : State) : Settled s s := .of_eq rfl rfl rfl rfl rfl rfl rfl

theorem Settled.foldl {β : Type} {f : State → β → State} (h : ∀ s b, Settled s (f s b)) (l : List β) (s : State) :
    Settled s (l.foldl f s) := by
  induction l generalizing s with
  | nil => exact .refl s
  | cons b l ih => exact (h s b).trans (ih _)

/-! Frames, completions, records. -/

theorem State.offer_settled (s : State) (b : FrameBody) : Settled s (s.offer b) := by
  have hnames := (s.offer_keeps b).names
  simp only [State.offer] at hnames ⊢
  split
  · exact .refl s
  · rename_i hs
    exact { Settled.refl s with
      sheds := .of_eq rfl rfl rfl
      names := fun h => h
      quiet := fun h => absurd h hs
      frees := by
        simp only [State.freesOf, State.onLu_lu, List.filter_append]
        exact List.sublist_append_left _ _
      forth := fun _ y hy => .inl ⟨y, hy, .refl y⟩ }

theorem State.withdraw_settled (s : State) {q : FrameBody → Bool} (hq : ∀ b, b.isFree = true → q b = false) :
    Settled s (s.withdraw q) :=
  { Settled.refl s with
    sheds := .of_eq rfl rfl rfl
    names := fun h => h
    quiet := fun _ f hf => List.mem_of_mem_filter hf
    frees := by
      simp only [State.freesOf, State.withdraw, State.onLu_lu, List.filter_filter]
      have hsame (l : List Frame) : (l.filter fun f => f.body.isFree && !(q f.body)) = l.filter fun f => f.body.isFree :=
        List.filter_congr fun f _ => by
          cases hf : f.body.isFree
          · rfl
          · simp [hq _ hf]
      rw [hsame]
    forth := fun _ y hy => .inl ⟨y, hy, .refl y⟩ }

theorem State.complete_settled (s : State) (c : Completion) : Settled s (s.complete c) :=
  .of_frame ⟨s.complete_asks c, .refl _⟩ (fun h => h) rfl rfl rfl
    (by simp [State.complete, State.askTransfer, State.onHp]) fun _ h => h

theorem State.completeAfterData_settled (s : State) (id : Nat) (c : Completion) :
    Settled s (s.completeAfterData id c) := by
  refine .of_frame ⟨(s.completeAfterData_asks id c).1, by simp⟩ (fun h => by simpa [NamesFresh] using h) (by simp) (by simp)
    (by simp) (fun m => ?_) (by simp [State.chain])
  simp only [State.completeAfterData]
  split
  · rfl
  · simp [State.complete, State.askTransfer, State.onHp]

theorem State.dropRequest_settled (s : State) (id : Nat) : Settled s (s.dropRequest id) :=
  .of_frame ⟨.of_eq rfl rfl, List.filter_sublist.map _⟩ (s.dropRequest_keeps id).names rfl rfl rfl (fun _ => .rfl)
    fun _ h => h

theorem State.wakeRequests_settled (s : State) (id : Nat) : Settled s (s.wakeRequests id) :=
  .of_frame ⟨.of_eq rfl rfl, by rw [(s.wakeRequests_woken id).ids]⟩ (s.wakeRequests_keeps id).names rfl rfl rfl
    (fun _ => .rfl) fun _ h => h

/-! Entries. -/

/-- Entries changed each at its place. -/
theorem State.mapEntries_settled (s : State) {f : HoldEntry → HoldEntry} (hf : ∀ e : HoldEntry, e.From (f e)) :
    Settled s (s.onHm fun h => { h with list := h.list.map f, line := h.line.map f }) :=
  { Settled.refl s with
    sheds := .of_eq rfl rfl rfl
    back := fun z hz => by
      rw [State.entries, State.onHm_hm, ← List.map_append] at hz
      obtain ⟨y, hy, rfl⟩ := List.mem_map.mp hz
      exact ⟨y, hy, hf y⟩
    names := fun h => by
      simpa [NamesFresh, Function.comp_def, (hf _).1.id, or_imp, forall_and] using h
    forth := fun _ y hy => .inl ⟨f y, by
      rw [State.entries, State.onHm_hm, ← List.map_append]
      exact List.mem_map_of_mem hy, (hf y).1⟩ }

theorem State.onEntry_settled (s : State) (id : Nat) {f : HoldEntry → HoldEntry} (hf : ∀ e : HoldEntry, e.From (f e)) :
    Settled s (s.onEntry id f) :=
  s.mapEntries_settled fun e => by
    split
    · exact hf e
    · exact .refl e

theorem State.completeHold_settled (s : State) (e : HoldEntry) (st : Status) (f : Option ElementFault) (p : Bool) :
    Settled s (s.completeHold e st f p) := by
  simp only [State.completeHold]
  split
  · exact .refl s
  · exact s.complete_settled _

theorem State.completeUnhold_settled (s : State) (e : HoldEntry) : Settled s (s.completeUnhold e) := by
  simp only [State.completeUnhold]
  split
  · exact .refl s
  · exact s.complete_settled _

theorem State.becomeHeld_settled (s : State) (id : Nat) (silent : Bool) : Settled s (s.becomeHeld id silent) := by
  have hheld : Settled s (s.onEntry id fun e => { e with state := .held, silent := silent, holdElem := none }) :=
    s.onEntry_settled id fun e => ⟨⟨rfl, rfl, rfl, rfl, rfl, rfl, rfl, rfl⟩, fun _ => rfl⟩
  simp only [State.becomeHeld]
  split
  · exact .refl s
  · exact hheld.trans ((State.wakeRequests_settled _ _).trans (State.completeHold_settled _ _ _ _ _))

/-- An entry that stood before joins the list. -/
theorem HoldsFrom.joinList {s t : State} (h : HoldsFrom s t) {e : HoldEntry} (he : e ∈ s.entries) :
    HoldsFrom s (t.joinList e) := by
  have hjoin : HoldsFrom s (t.onHm fun h => { h with list := h.list ++ [{ e with state := .claiming }] }) :=
    { h with
      back := fun z hz => by
        have hz : z ∈ t.entries ∨ z = { e with state := .claiming } := by
          simp only [State.entries, State.onHm_hm, List.mem_append, List.mem_singleton] at hz ⊢
          tauto
        rcases hz with hz | rfl
        · exact h.back z hz
        · exact ⟨e, he, ⟨rfl, rfl, rfl, rfl, rfl, rfl, rfl, rfl⟩, fun h => h⟩ }
  simp only [State.joinList]
  split
  · exact hjoin.trans (State.becomeHeld_settled _ _ _).toHoldsFrom
  · exact hjoin.trans (State.offer_settled _ _).toHoldsFrom

theorem State.recheckLine_holdsFrom (s : State) : HoldsFrom s s.recheckLine := by
  have hfold : ∀ (l : List HoldEntry) (t : State), (∀ e ∈ l, e ∈ s.entries) → HoldsFrom s t →
      HoldsFrom s (l.foldl State.recheckEntry t) := by
    intro l
    induction l with
    | nil => exact fun t _ ht => ht
    | cons e l ih =>
      intro t hl ht
      refine ih _ (fun x hx => hl x (List.mem_cons_of_mem _ hx)) ?_
      simp only [State.recheckEntry]
      split
      · exact ht
      · have hout : HoldsFrom s (t.onHm fun h => { h with line := h.line.filter fun x => x.id != e.id }) :=
          { ht with
            back := fun z hz => ht.back z (by
              rcases List.mem_append.mp hz with hz | hz
              · exact List.mem_append_left _ hz
              · exact List.mem_append_right _ (List.mem_of_mem_filter hz)) }
        exact hout.joinList (hl e (List.mem_cons_self ..))
  exact hfold _ s (fun e he => List.mem_append_right _ he) (.refl s)

theorem FrameBody.isClaimOf_of_isFree (id : Nat) (b : FrameBody) (h : b.isFree = true) : b.isClaimOf id = false := by
  cases b <;> first | rfl | cases h

theorem State.removeEntry_holdsFrom (s : State) (e : HoldEntry) : HoldsFrom s (s.removeEntry e) := by
  have hgone : HoldsFrom s (s.onHm fun h => { h with
      list := h.list.filter fun x => x.id != e.id
      line := h.line.filter fun x => x.id != e.id }) :=
    { HoldsFrom.refl s with
      back := fun z hz => ⟨z, (List.filter_sublist.append List.filter_sublist).subset hz, .refl z⟩ }
  have hclaim (u : State) : HoldsFrom u (u.settleClaim e.id) :=
    (u.withdraw_settled (FrameBody.isClaimOf_of_isFree e.id)).toHoldsFrom
  have hfree (u : State) : HoldsFrom u (u.offer e.free) := (u.offer_settled _).toHoldsFrom
  have hline (u : State) : HoldsFrom u u.recheckLine := u.recheckLine_holdsFrom
  grind only [State.removeEntry, HoldsFrom.trans]

/-- The fetches asked are those asked before. -/
def FetchesStay (s t : State) : Prop := ∀ m, .fetch m ∈ t.hp.waiting ↔ .fetch m ∈ s.hp.waiting

theorem FetchesStay.of_eq {s t : State} (h : t.hp.waiting = s.hp.waiting) : FetchesStay s t := fun m => by rw [h]

theorem FetchesStay.refl (s : State) : FetchesStay s s := fun _ => .rfl

theorem FetchesStay.trans {s t u : State} (h : FetchesStay s t) (k : FetchesStay t u) : FetchesStay s u :=
  fun m => (k m).trans (h m)

theorem FetchesStay.foldl {β : Type} {f : State → β → State} (h : ∀ s b, FetchesStay s (f s b)) (l : List β)
    (s : State) : FetchesStay s (l.foldl f s) := by
  induction l generalizing s with
  | nil => exact .refl s
  | cons b l ih => exact (h s b).trans (ih _)

theorem State.complete_fetches (s : State) (c : Completion) : FetchesStay s (s.complete c) := fun m => by
  simp [State.complete, State.askTransfer, State.onHp]

theorem State.offer_fetches (s : State) (b : FrameBody) : FetchesStay s (s.offer b) := .of_eq (by simp)

theorem State.removeEntry_fetches (s : State) (e : HoldEntry) : FetchesStay s (s.removeEntry e) := by
  have hhold (u : State) (y : HoldEntry) (b : Bool) : FetchesStay u (u.completeHold y .done none b) := by
    simp only [State.completeHold]
    split
    · exact .refl u
    · exact u.complete_fetches _
  have hheld (u : State) (id : Nat) (b : Bool) : FetchesStay u (u.becomeHeld id b) := by
    have hentry (f : HoldEntry → HoldEntry) : FetchesStay u ((u.onEntry id f).wakeRequests id) := .of_eq rfl
    simp only [State.becomeHeld]
    split
    · exact .refl u
    · exact (hentry _).trans (hhold _ _ _)
  have hjoin (u : State) (y : HoldEntry) : FetchesStay u (u.joinList y) := by
    have happended : FetchesStay u (u.onHm fun h => { h with list := h.list ++ [{ y with state := .claiming }] }) :=
      .of_eq rfl
    simp only [State.joinList]
    split
    · exact happended.trans (hheld _ _ _)
    · exact happended.trans (State.offer_fetches _ _)
  have hline (u : State) : FetchesStay u u.recheckLine := by
    refine .foldl (fun v y => ?_) _ _
    have hout : FetchesStay v (v.onHm fun h => { h with line := h.line.filter fun x => x.id != y.id }) := .of_eq rfl
    simp only [State.recheckEntry]
    split
    · exact .refl v
    · exact hout.trans (hjoin _ _)
  have hgone : FetchesStay s (s.onHm fun h => { h with
      list := h.list.filter fun x => x.id != e.id
      line := h.line.filter fun x => x.id != e.id }) := .of_eq rfl
  have hclaim (u : State) : FetchesStay u (u.settleClaim e.id) := .of_eq rfl
  have hfree (u : State) : FetchesStay u (u.offer e.free) := u.offer_fetches _
  grind only [State.removeEntry, FetchesStay.trans]

/-- Nothing of an entry but its name, its range, its chain and what its FREE says counts for its removal. -/
theorem State.removeEntry_congr (s : State) {y z : HoldEntry} (h : y.Static z) : s.removeEntry y = s.removeEntry z := by
  simp only [State.removeEntry, h.id, h.claimed, h.free]

/-- An entry of list or line is removed: its FREE is offered if it was claimed, and the others stand (R151, R156). -/
theorem State.removeEntry_stands {s : State} {e : HoldEntry} (hn : NamesFresh s) (he : e ∈ s.entries) :
    (∀ y ∈ s.entries, y.id ≠ e.id → ∃ z ∈ (s.removeEntry e).entries, y.Static z ∧ z.refs = y.refs) ∧
      (∀ z ∈ (s.removeEntry e).entries, z.id ≠ e.id) ∧
      (e.claimed = true → s.hp.adapter ≠ .silenced → ∃ f ∈ (s.removeEntry e).lu.frames, f.body = e.free) := by
  have hr := State.removeEntry_removes hn.2.1.1 he
  have hjoined {z w : HoldEntry} (h : Joined (s.removeEntry e) z w) : z.Static w ∧ w.refs = z.refs := by
    rw [h.1]
    exact ⟨⟨rfl, rfl, rfl, rfl, rfl, rfl, rfl, rfl⟩, rfl⟩
  refine ⟨fun y hy hne => ?_, fun z hz => ?_, fun hc hs => ?_⟩
  · rcases List.mem_append.mp hy with hy | hy
    · exact ⟨y, List.mem_append_left _ (hr.kept y hy hne), .refl y, rfl⟩
    · rcases hr.stays y hy hne with h | ⟨w, hw, hj⟩
      · exact ⟨y, List.mem_append_right _ h, .refl y, rfl⟩
      · exact ⟨w, List.mem_append_left _ hw, hjoined hj⟩
  · rcases List.mem_append.mp hz with hz | hz
    · rcases hr.joined z hz with h | ⟨y, _, hne, hj⟩
      · exact h.2
      · exact (hjoined hj).1.id ▸ hne
    · exact (hr.line z hz).2
  · obtain ⟨new, hnew, _⟩ := hr.frames
    rw [hnew]
    refine ⟨⟨e.free, 0, 0, false⟩, List.mem_append_left _ (List.mem_append_right _ ?_), rfl⟩
    rw [if_pos ⟨hc, hs⟩]
    exact List.mem_singleton_self _

theorem State.removeEntry_settled {s : State} {e : HoldEntry} (he : ∃ y ∈ s.entries, y.Static e) :
    Settled s (s.removeEntry e) := by
  obtain ⟨y, hy, hye⟩ := he
  rw [← s.removeEntry_congr hye]
  exact { s.removeEntry_holdsFrom y with
    sheds := (s.removeEntry_carries y).sheds
    names := (s.removeEntry_keeps y).names
    forth := fun hn z hz => by
      obtain ⟨hstand, _, hfree⟩ := State.removeEntry_stands hn hy
      by_cases hid : z.id = y.id
      · obtain rfl := List.inj_on_of_nodup_map hn.2.1.1 hz hy hid
        exact .inr hfree
      · obtain ⟨w, hw, h, _⟩ := hstand z hz hid
        exact .inl ⟨w, hw, h⟩
    fetchKept := fun m => (s.removeEntry_fetches y m).mpr
    fetchNew := fun m hm => .inl ((s.removeEntry_fetches y m).mp hm)
    running := by simp [State.chain] }

/-! The acts made of these. -/

theorem HoldManager.mem_of_find {h : HoldManager} {id : Nat} {e : HoldEntry} (hf : h.find id = some e) :
    e ∈ h.list ++ h.line ∧ e.id = id :=
  ⟨List.mem_of_find?_eq_some hf, by simpa using List.find?_some hf⟩

theorem State.removeEntryId_settled (s : State) (id : Nat) : Settled s (s.removeEntryId id) := by
  simp only [State.removeEntryId]
  split
  · exact .refl s
  · rename_i e hf
    exact State.removeEntry_settled ⟨e, (HoldManager.mem_of_find hf).1, .refl e⟩

theorem State.endReference_settled (s : State) (id : Nat) : Settled s (s.endReference id) := by
  have hrefs : Settled s (s.onEntry id fun x => { x with refs := x.refs - 1 }) :=
    s.onEntry_settled id fun _ => ⟨⟨rfl, rfl, rfl, rfl, rfl, rfl, rfl, rfl⟩, fun h => h⟩
  simp only [State.endReference]
  split
  · exact .refl s
  · rename_i e hf
    obtain ⟨he, hid⟩ := HoldManager.mem_of_find hf
    repeat' split
    · refine hrefs.trans ((State.removeEntry_settled ⟨{ e with refs := e.refs - 1 }, ?_, ?_⟩).trans
        (State.completeUnhold_settled _ _))
      · rw [State.entries, State.onEntry, State.onHm_hm, HoldManager.modify, ← List.map_append]
        exact List.mem_map.mpr ⟨e, he, by simp [hid]⟩
      · exact ⟨rfl, rfl, rfl, rfl, rfl, rfl, rfl, rfl⟩
    · exact hrefs
    · exact hrefs

theorem State.onDescriptor_settled (s : State) (t : Table) (i : Nat) (f : Descriptor → Descriptor) :
    Settled s (s.onDescriptor t i f) :=
  .of_eq (by simp) (by simp) (by simp) (by simp) (by simp) (by simp) (by simp)

theorem State.completeRequest_settled (s : State) (r : Request) (st : Status) (f : Option ElementFault) (m : Bool) :
    Settled s (s.completeRequest r st f m) := by
  have hask (c : Completion) := s.completeAfterData_settled r.id c
  have href {u : State} (id : Nat) (hu : Settled s u) : Settled s (u.endReference id) := hu.trans (u.endReference_settled id)
  have hmark {u : State} (x : Table) (i : Nat) (g : Descriptor → Descriptor) (hu : Settled s u) :
      Settled s (u.onDescriptor x i g) := hu.trans (u.onDescriptor_settled x i g)
  simp only [State.completeRequest, State.leaveQueue]
  refine Settled.trans ?_ (State.dropRequest_settled _ _)
  repeat' split
  · exact hmark _ _ _ (hask _)
  · exact hmark _ _ _ (href _ (hask _))
  · exact hask _
  · exact href _ (hask _)

theorem State.completeQueued_settled (s : State) (p : Request → Bool) (st : Status) (f : Option ElementFault) :
    Settled s (s.completeQueued p st f) := .foldl (fun u r => u.completeRequest_settled r st f false) _ s

theorem State.detachHolds_settled (s : State) (l : List HoldEntry) : Settled s (s.detachHolds l) := by
  have hdetach (u : State) (e : HoldEntry) : Settled u (u.onEntry e.id fun x => { x with holdElem := none }) :=
    u.onEntry_settled e.id fun _ => ⟨⟨rfl, rfl, rfl, rfl, rfl, rfl, rfl, rfl⟩, fun _ => rfl⟩
  exact .foldl hdetach l s

theorem State.stopHold_settled (st : Status) (f : Option ElementFault) (s : State) (e : HoldEntry) :
    Settled s (State.stopHold st f s e) := (s.completeHold_settled e st f false).trans (State.removeEntryId_settled _ _)

theorem State.removeExplicit_settled (s : State) (n : Fin 4) : Settled s (s.removeExplicit n) :=
  .foldl State.removeEntryId_settled _ s

theorem State.raise_settled (s : State) (a : Attention) : Settled s (s.raise a) := .of_eq rfl rfl rfl rfl rfl rfl rfl

/-- A chain's record changes and does not come to RUNNING. -/
theorem State.onChain_settled (s : State) (n : Fin 4) {f : Chain → Chain}
    (hf : (f (s.chain n)).state = .running → (s.chain n).state = .running) : Settled s (s.onChain n f) :=
  .of_frame (.of_eq rfl rfl rfl) (fun h => h) rfl rfl rfl (fun _ => .rfl) fun m hm => by
    by_cases h : m = n
    · subst h
      exact hf (by simpa [State.chain_onChain_same] using hm)
    · simpa [State.chain_onChain_ne _ _ h] using hm

theorem State.dropHeld_settled (s : State) (n : Fin 4) (st : Status) (f : Option ElementFault) :
    Settled s (s.dropHeld n st f) := by
  simp only [State.dropHeld]
  split
  · exact .refl s
  · exact (s.onChain_settled n (f := fun c => { c with held := none }) fun h => h).trans (State.complete_settled _ _)

theorem State.callFetch_settled (s : State) (n : Fin 4) : Settled s (s.callFetch n) := by
  have hdue : Settled s (s.onChain n fun c => { c with fetchDue := true }) := s.onChain_settled n fun h => h
  simp only [State.callFetch]
  split
  · rename_i hrun
    repeat' split
    · exact hdue
    · exact .refl s
    · exact { Settled.refl s with
        sheds := ⟨fun c hc => (mem_asked.mp hc).elim (fun h => mem_asked.mpr (.inl (List.mem_append_left _ h)))
          fun h => mem_asked.mpr (.inr h), .refl _⟩
        names := fun h => h
        forth := fun _ y hy => .inl ⟨y, hy, .refl y⟩
        fetchKept := fun m hm => List.mem_append_left _ hm
        fetchNew := fun m hm => by
          rcases List.mem_append.mp hm with hm | hm
          · exact .inl hm
          · simp only [List.mem_singleton, Transfer.fetch.injEq] at hm
            exact .inr (hm ▸ hrun) }
  · exact .refl s

theorem State.clearReason_settled (s : State) (n : Fin 4) (f : FetchWait → FetchWait) : Settled s (s.clearReason n f) := by
  have hclear : Settled s (s.onChain n fun c => { c with wait := f c.wait }) := s.onChain_settled n fun h => h
  have hdue (u : State) : Settled u (u.onChain n fun c => { c with fetchDue := false }) := u.onChain_settled n fun h => h
  simp only [State.clearReason]
  split
  · exact hclear.trans ((hdue _).trans (State.callFetch_settled _ _))
  · exact hclear

theorem State.leaveMaintenance_settled (s : State) : Settled s s.leaveMaintenance := by
  have hstart : Settled s s.unmaintained := by
    rw [State.unmaintained_eq]
    refine { Settled.refl s with
      adapter := ?_, sheds := .of_eq rfl rfl rfl, names := fun h => h, forth := fun _ y hy => .inl ⟨y, hy, .refl y⟩ }
    by_cases h : s.hp.adapter = .maintenance <;> simp [h]
  rw [State.leaveMaintenance_eq]
  exact hstart.trans ((State.completeQueued_settled _ _ _ _).trans
    (.foldl (fun u n => u.clearReason_settled n _) _ _))

theorem State.endChain_settled (s : State) (n : Fin 4) : Settled s (s.endChain n) := by
  have hend : Settled s (s.onChain n fun c => { c with state := .ended, held := none, wait := noWait, fetchDue := false }) :=
    s.onChain_settled n fun h => by simp at h
  have hexplicit (u : State) : Settled u (u.removeExplicit n) := u.removeExplicit_settled n
  have hleave (u : State) : Settled u u.leaveMaintenance := u.leaveMaintenance_settled
  have hraise (u : State) : Settled u (u.raise (.chain n)) := u.raise_settled _
  grind only [State.endChain, Settled.trans]

end Sys2Proof.Machine
end

section
/-! What the stop of a chain leaves (R54, R57, R87). -/

namespace Sys2Proof.Machine

open Sys2Proof

/-! Records that stay while queued requests end. -/

/-- The record stands, READY where it was in HOLD-WAIT perhaps (R70). -/
def Woke (r q : Request) : Prop := q = r ∨ r.state = .holdWait ∧ q = { r with state := .ready }

theorem Woke.refl (r : Request) : Woke r r := .inl rfl

theorem Woke.trans {r q p : Request} (h : Woke r q) (k : Woke q p) : Woke r p := by
  rcases h with rfl | ⟨hr, rfl⟩
  · exact k
  · rcases k with rfl | ⟨hq, _⟩
    · exact .inr ⟨hr, rfl⟩
    · simp at hq

theorem Woke.elem {r q : Request} (h : Woke r q) : q.elem = r.elem := by
  rcases h with rfl | ⟨_, rfl⟩ <;> rfl

theorem Woke.isDirect {r q : Request} (h : Woke r q) : q.isDirect = r.isDirect := by
  rcases h with rfl | ⟨_, rfl⟩ <;> rfl

theorem Woke.id {r q : Request} (h : Woke r q) : q.id = r.id := by
  rcases h with rfl | ⟨_, rfl⟩ <;> rfl

theorem Woke.queued {r q : Request} (h : Woke r q) : q.queued = r.queued := by
  rcases h with rfl | ⟨hr, rfl⟩
  · rfl
  · simp [Request.queued, hr]

theorem Woke.asked {s : State} {r q : Request} (h : Woke r q) {st : Status} {f : Option ElementFault}
    (hc : CompletionAsked s q st f) : CompletionAsked s r st f := by
  rcases h with rfl | ⟨_, rfl⟩ <;> exact hc

theorem woke_woken (r : Request) (p : Request → Bool) : Woke r (r.woken p) := by
  simp only [Request.woken]
  split
  · rename_i h
    exact .inr ⟨by simp_all, rfl⟩
  · exact .refl r

/-- The records of `t` are records of `s`; of these all stand that are not queued and picked. -/
structure Ends (pick : Request → Bool) (s t : State) : Prop where
  sheds : Sheds s t
  back : ∀ q ∈ t.wq.records, ∃ r ∈ s.wq.records, Woke r q
  stays : (s.wq.records.map Request.id).Nodup → ∀ r ∈ s.wq.records, (r.queued && pick r) = false →
    ∃ q ∈ t.wq.records, Woke r q

theorem Ends.trans {pick : Request → Bool} (hp : ∀ r q, Woke r q → pick q = pick r) {s t u : State}
    (h : Ends pick s t) (k : Ends pick t u) : Ends pick s u where
  sheds := h.sheds.trans k.sheds
  back p hpu := by
    obtain ⟨q, hq, hqp⟩ := k.back p hpu
    obtain ⟨r, hr, hrq⟩ := h.back q hq
    exact ⟨r, hr, hrq.trans hqp⟩
  stays hn r hr hk := by
    obtain ⟨q, hq, hrq⟩ := h.stays hn r hr hk
    obtain ⟨p, hp', hqp⟩ := k.stays (hn.sublist h.sheds.2) q hq (by rw [hrq.queued, hp r q hrq]; exact hk)
    exact ⟨p, hp', hrq.trans hqp⟩

theorem Ends.of_woken {pick : Request → Bool} {s t : State} (ha : Asks s t) (h : Woken s t) : Ends pick s t where
  sheds := ⟨ha, by rw [h.ids]⟩
  back q hq := by
    obtain ⟨p, hp⟩ := h
    obtain ⟨r, hr, rfl⟩ := List.mem_map.mp (hp ▸ hq)
    exact ⟨r, hr, woke_woken r p⟩
  stays _ r hr _ := by
    obtain ⟨p, hp⟩ := h
    exact ⟨r.woken p, hp ▸ List.mem_map_of_mem hr, woke_woken r p⟩

theorem Ends.of_eq {pick : Request → Bool} {s t : State} (ha : Asks s t) (h : t.wq = s.wq) : Ends pick s t :=
  .of_woken ha (.of_eq h)

theorem Ends.refl {pick : Request → Bool} (s : State) : Ends pick s s := .of_eq (.refl s) rfl

theorem State.completeQueued_ends (s : State) (pick : Request → Bool) (st : Status) (f : Option ElementFault) :
    Ends pick s (s.completeQueued pick st f) := by
  obtain ⟨hsheds, _, p, hrecords⟩ :=
    completeRequests_leave (s.wq.records.filter fun r => r.queued && pick r) st f s
  refine ⟨hsheds, fun q hq => ?_, fun hn r hr hk => ⟨r.woken p, ?_, woke_woken r p⟩⟩
  · rw [State.completeQueued, hrecords] at hq
    obtain ⟨r, hr, rfl⟩ := List.mem_map.mp (List.mem_of_mem_filter hq)
    exact ⟨r, hr, woke_woken r p⟩
  · rw [State.completeQueued, hrecords]
    refine List.mem_filter.mpr ⟨List.mem_map_of_mem hr, List.all_eq_true.mpr fun q hq => ?_⟩
    obtain ⟨hqm, hqk⟩ := List.mem_filter.mp hq
    rw [Request.woken_id, bne_iff_ne]
    intro he
    obtain rfl := List.inj_on_of_nodup_map hn hr hqm he
    simp [hk] at hqk

theorem State.stopHolds_woken (st : Status) (f : Option ElementFault) (l : List HoldEntry) (s : State) :
    Woken s (l.foldl (State.stopHold st f) s) := by
  refine .foldl (fun u e => ?_) l s
  have hgone (v : State) : Woken v (v.removeEntryId e.id) := by
    simp only [State.removeEntryId]
    split
    · exact .refl v
    · exact v.removeEntry_woken _
  exact (u.completeHold_woken e st f false).trans (hgone _)

theorem State.removeExplicit_woken (s : State) (n : Fin 4) : Woken s (s.removeExplicit n) := by
  refine .foldl (fun u id => ?_) _ s
  simp only [State.removeEntryId]
  split
  · exact .refl u
  · exact u.removeEntry_woken _

/-! Entries released. -/

/-- An entry that has left list and line has been released. -/
theorem Settled.released {s t : State} (h : Settled s t) (hn : NamesFresh s) {y : HoldEntry} (hy : y ∈ s.entries)
    (hgone : ∀ z ∈ t.entries, z.id ≠ y.id) : Released s t y := by
  refine ⟨hgone, fun hc hs => ?_⟩
  rcases h.forth hn y hy with ⟨z, hz, hyz⟩ | hfree
  · exact absurd hyz.id (hgone z hz)
  · exact hfree hc hs

theorem Settled.gone {s t : State} (h : Settled s t) {id : Nat} (hg : ∀ z ∈ s.entries, z.id ≠ id) :
    ∀ z ∈ t.entries, z.id ≠ id := by
  intro z hz he
  obtain ⟨y, hy, hyz⟩ := h.back z hz
  exact hg y hy (hyz.1.id.symm.trans he)

theorem State.removeEntryId_gone {s : State} (hn : NamesFresh s) (id : Nat) :
    ∀ z ∈ (s.removeEntryId id).entries, z.id ≠ id := by
  simp only [State.removeEntryId]
  split
  · rename_i hf
    exact fun z hz he => by simpa [he] using List.find?_eq_none.mp hf z hz
  · rename_i e hf
    obtain ⟨he, hid⟩ := HoldManager.mem_of_find hf
    exact hid ▸ (State.removeEntry_stands hn he).2.1

theorem removeEntryIds_gone (l : List Nat) {s : State} (hn : NamesFresh s) :
    ∀ id ∈ l, ∀ z ∈ (l.foldl State.removeEntryId s).entries, z.id ≠ id := by
  induction l generalizing s with
  | nil => intro id h; simp at h
  | cons i l ih =>
    intro id hid
    rcases List.mem_cons.mp hid with rfl | hid
    · exact (Settled.foldl State.removeEntryId_settled l _).gone (State.removeEntryId_gone hn id)
    · exact ih ((s.removeEntryId_settled i).names hn) id hid

/-- Each explicit entry of the chain has left list and line. -/
theorem State.removeExplicit_gone {s : State} (hn : NamesFresh s) (n : Fin 4) {y : HoldEntry}
    (hy : y.chain = n ∧ y.origin = .explicit) (hid : ∃ z ∈ s.entries, y.Static z) :
    ∀ z ∈ (s.removeExplicit n).entries, z.id ≠ y.id := by
  obtain ⟨z, hz, hyz⟩ := hid
  refine removeEntryIds_gone _ hn y.id (List.mem_map.mpr ⟨z, List.mem_filter.mpr ⟨hz, ?_⟩, hyz.id⟩)
  simp [hyz.chain, hyz.origin, hy.1, hy.2]

/-! The work of a chain shed (R54). -/

/-- The queued requests of a chain. -/
def ofChain (n : Fin 4) (r : Request) : Bool := r.elem.chain == n

theorem ofChain_woke (n : Fin 4) (r q : Request) (h : Woke r q) : ofChain n q = ofChain n r := by
  simp [ofChain, h.elem]

section
variable (s : State) (n : Fin 4) (st : Status) (f : Option ElementFault)

/-- The chain's fetch withdrawn and its held element completed. -/
def State.dropped : State := (s.withdrawFetch n).dropHeld n st f

/-- The HOLD elements of the chain that wait. -/
def State.waitingHolds : List HoldEntry := s.hm.awaited.filter fun e => e.chain == n

/-- The chain's queued requests have left, its waiting HOLDs taken from their entries. -/
def State.requestsShed : State :=
  ((s.dropped n st f).detachHolds (s.waitingHolds n)).completeQueued (ofChain n) st f

theorem State.shedWork_eq : s.shedWork n st f = (s.waitingHolds n).foldl (State.stopHold st f) (s.requestsShed n st f) := by
  have hhm : (s.dropped n st f).hm = s.hm := by simp [State.dropped]
  have hholds : (s.dropped n st f).waitingHolds n = s.waitingHolds n := by rw [State.waitingHolds, State.waitingHolds, hhm]
  rw [State.requestsShed, ← hholds]
  rfl

theorem State.withdrawFetch_asks : Asks s (s.withdrawFetch n) := by
  intro c hc
  rcases mem_asked.mp hc with h | h
  · exact mem_asked.mpr (.inl (List.mem_filter.mpr ⟨h, by simp⟩))
  · exact mem_asked.mpr (.inr h)

theorem State.dropped_settled : Settled (s.withdrawFetch n) (s.dropped n st f) := State.dropHeld_settled _ _ _ _

theorem State.requestsShed_settled : Settled (s.dropped n st f) (s.requestsShed n st f) :=
  (State.detachHolds_settled _ _).trans (State.completeQueued_settled _ _ _ _)

theorem State.stopHolds_settled (l : List HoldEntry) : Settled s (l.foldl (State.stopHold st f) s) :=
  .foldl (State.stopHold_settled st f) l s

theorem State.shedWork_settled : Settled (s.withdrawFetch n) (s.shedWork n st f) := by
  rw [State.shedWork_eq]
  exact (s.dropped_settled n st f).trans ((s.requestsShed_settled n st f).trans (State.stopHolds_settled _ _ _ _))

theorem State.dropped_wq : (s.dropped n st f).wq = s.wq := by simp [State.dropped]

theorem State.dropped_ends : Ends (ofChain n) s (s.dropped n st f) :=
  .of_eq ((s.withdrawFetch_asks n).trans (s.dropped_settled n st f).sheds.1) (s.dropped_wq n st f)

theorem State.shedWork_ends : Ends (ofChain n) s (s.shedWork n st f) := by
  have hdetach (u : State) (l : List HoldEntry) : Ends (ofChain n) u (u.detachHolds l) :=
    .of_eq (u.detachHolds_settled l).sheds.1 (by simp)
  have hstop (u : State) (l : List HoldEntry) : Ends (ofChain n) u (l.foldl (State.stopHold st f) u) :=
    .of_woken (u.stopHolds_settled st f l).sheds.1 (State.stopHolds_woken st f l u)
  rw [State.shedWork_eq, State.requestsShed]
  exact (((s.dropped_ends n st f).trans (ofChain_woke n) (hdetach _ _)).trans (ofChain_woke n)
    (State.completeQueued_ends _ _ _ _)).trans (ofChain_woke n) (hstop _ _)

theorem State.dropped_chains (m : Fin 4) :
    (s.dropped n st f).chain m = if m = n then { s.chain n with held := none } else s.chain m := by
  have hsame : ∀ m, (s.withdrawFetch n).chain m = s.chain m := fun m => rfl
  simp only [State.dropped, State.dropHeld, hsame]
  cases hh : (s.chain n).held with
  | none =>
    by_cases h : m = n
    · subst h
      rw [if_pos rfl, hsame, ← hh]
    · rw [if_neg h, hsame]
  | some x =>
    simp only [State.chain, State.completePlain_frame]
    by_cases h : m = n
    · subst h
      rw [if_pos rfl]
      exact State.chain_onChain_same _ _ _
    · rw [if_neg h]
      exact State.chain_onChain_ne _ _ h

theorem State.shedWork_chains (m : Fin 4) :
    (s.shedWork n st f).chain m = if m = n then { s.chain n with held := none } else s.chain m := by
  have hstop (l : List HoldEntry) (u : State) : (l.foldl (State.stopHold st f) u).chains = u.chains :=
    foldl_keeps (fun u => u.chains) (fun u e => by simp) l u
  rw [← s.dropped_chains n st f m, State.shedWork_eq, State.chain, hstop]
  simp [State.requestsShed, State.chain]

theorem State.shedWork_noFetch (h : (s.chain n).state ≠ .running) : .fetch n ∉ (s.shedWork n st f).hp.waiting := by
  intro hm
  rcases (s.shedWork_settled n st f).fetchNew n hm with hw | hr
  · simp [State.withdrawFetch, State.withdrawTransfer, State.onHp] at hw
  · exact h hr

/-- Each queued request of the chain has left with its completion asked. -/
theorem State.shedWork_requests :
    (∀ r ∈ s.wq.records, r.queued = true → ofChain n r = true → CompletionAsked (s.shedWork n st f) r st f) ∧
      ∀ q ∈ (s.shedWork n st f).wq.records, ofChain n q = true → q.queued = false := by
  obtain ⟨_, hasked, _, p, hback⟩ :=
    ((s.dropped n st f).detachHolds (s.waitingHolds n)).completeQueued_leaves (ofChain n) st f
  have hwq : ((s.dropped n st f).detachHolds (s.waitingHolds n)).wq = s.wq := by simp [State.dropped_wq]
  rw [hwq] at hasked hback
  rw [State.shedWork_eq]
  refine ⟨fun r hr hq hn => (State.stopHolds_settled _ st f _).sheds.asked (hasked r hr hq hn), fun q hq hn => ?_⟩
  obtain ⟨u, hu, huq⟩ := (Ends.of_woken (pick := ofChain n) (State.stopHolds_settled _ st f _).sheds.1
    (State.stopHolds_woken st f (s.waitingHolds n) _)).back q hq
  obtain ⟨r, hr, rfl, hk⟩ := hback u hu
  have hrq := (woke_woken r p).trans huq
  rw [hrq.queued]
  rw [ofChain_woke n r q hrq] at hn
  simpa [hn] using hk

/-- The held element of the chain has completed, its record naming its selector's place. -/
theorem State.shedWork_held {h : HeldElement} {k : RequestKind} (hh : (s.chain n).held = some h) (hk : h.info.kind = .disk k) :
    ∃ c ∈ asked (s.shedWork n st f), c.info = h.info ∧ c.status = st ∧ c.fault = f ∧ c.done = 0 ∧
      c.place = if k = .directRead ∨ k = .directWrite then none
        else some ((selectorOf s n h.info.kind h.words).table, (selectorOf s n h.info.kind h.words).index) := by
  have hdropped : ∃ c ∈ asked (s.dropped n st f), c.info = h.info ∧ c.status = st ∧ c.fault = f ∧ c.done = 0 ∧
      c.place = selectorPlace (s.chain n) h.info.kind h.words := by
    rw [State.dropped, State.dropHeld, show ((s.withdrawFetch n).chain n).held = some h from hh]
    exact ⟨_, mem_asked_complete _ _, rfl, rfl, rfl, rfl, rfl⟩
  obtain ⟨c, hc, h1, h2, h3, h4, h5⟩ := hdropped
  rw [State.shedWork_eq]
  have hrest := (s.requestsShed_settled n st f).trans (State.stopHolds_settled _ st f (s.waitingHolds n))
  refine ⟨c, hrest.sheds.1 c hc, h1, h2, h3, h4, h5.trans ?_⟩
  rw [hk, selectorPlace]
  cases k <;> simp [ElementKind.hasSelector, resolveSelector, selectorOf]

theorem State.shedWork_holds (hn : NamesFresh s) (hst : st ≠ .done) : HoldsStopped s (s.shedWork n st f) n st f := by
  intro y hy hchain h hh
  have hin : y ∈ s.waitingHolds n := by
    simp only [State.waitingHolds, HoldManager.awaited, List.mem_filter, hh, hchain]
    exact ⟨⟨hy, rfl⟩, by simp⟩
  have hset : Settled (s.withdrawFetch n) (s.requestsShed n st f) :=
    (s.dropped_settled n st f).trans (s.requestsShed_settled n st f)
  have hstops : ∀ (l : List HoldEntry) (u : State), NamesFresh u → y ∈ l →
      (∃ c ∈ asked (l.foldl (State.stopHold st f) u), c.info = h.1 ∧ c.status = st ∧ c.fault = f ∧ c.done = 0 ∧
        c.place = some (h.2.1, h.2.2)) ∧ ∀ z ∈ (l.foldl (State.stopHold st f) u).entries, z.id ≠ y.id := by
    intro l
    induction l with
    | nil => intro u _ hl; simp at hl
    | cons e l ih =>
      intro u hu hl
      rcases List.mem_cons.mp hl with rfl | hl
      · have hrest := State.stopHolds_settled (State.stopHold st f u y) st f l
        obtain ⟨c, hc, h1, h2, h3, h4, h5, _⟩ := State.completeHold_asked (s := u) hh st f false
        have hgone := State.removeEntryId_settled (u.completeHold y st f false) y.id
        refine ⟨⟨c, hrest.sheds.1 c (hgone.sheds.1 c hc), h1, h2, h3, ?_, h5⟩, hrest.gone ?_⟩
        · rw [h4, holdDone, if_neg hst]
        · exact State.removeEntryId_gone ((u.completeHold_settled y st f false).names hu) y.id
      · exact ih _ ((State.stopHold_settled st f u e).names hu) hl
  rw [State.shedWork_eq]
  obtain ⟨hc, hgone⟩ := hstops (s.waitingHolds n) (s.requestsShed n st f) (hset.names hn) hin
  exact ⟨hc, (hset.trans (State.stopHolds_settled _ st f _)).released (s := s.withdrawFetch n) hn hy hgone⟩

end

end Sys2Proof.Machine
end

section
/-! What the end of a chain leaves (R55, R56, R65). -/

namespace Sys2Proof.Machine

open Sys2Proof

/-- What is left of the entries removed one after another: their FREEs in that order, behind those that stood. -/
theorem removeEntryIds_frees (l : List HoldEntry) {s : State} (hn : NamesFresh s) (hs : s.hp.adapter ≠ .silenced)
    (hl : ∀ y ∈ l, ∃ z ∈ s.entries, y.Static z) (hd : (l.map HoldEntry.id).Nodup) (P : List FrameBody)
    (hP : P.Sublist (s.freesOf.map Frame.body)) :
    (P ++ (l.filter HoldEntry.claimed).map HoldEntry.free).Sublist
      (((l.map HoldEntry.id).foldl State.removeEntryId s).freesOf.map Frame.body) := by
  induction l generalizing s P with
  | nil => simpa using hP
  | cons y l ih =>
    obtain ⟨z, hz, hyz⟩ := hl y (List.mem_cons_self ..)
    obtain ⟨hnot, hd⟩ := List.nodup_cons.mp hd
    have hid : s.removeEntryId y.id = s.removeEntry z := by
      simp only [State.removeEntryId]
      split
      · rename_i hf
        have := List.find?_eq_none.mp hf z hz
        simp [hyz.id] at this
      · rename_i e hf
        obtain ⟨he, hei⟩ := HoldManager.mem_of_find hf
        rw [List.inj_on_of_nodup_map hn.2.1.1 he hz (hei.trans hyz.id.symm)]
    obtain ⟨hstand, _, _⟩ := State.removeEntry_stands hn hz
    obtain ⟨new, hnew, hclaims⟩ := (State.removeEntry_removes hn.2.1.1 hz).frames
    have hfrees : (s.removeEntry z).freesOf.map Frame.body =
        s.freesOf.map Frame.body ++ if y.claimed = true then [y.free] else [] := by
      have hold : (s.lu.frames.filter fun f => !(f.body.isClaimOf z.id)).filter (fun f => f.body.isFree) = s.freesOf := by
        rw [List.filter_filter]
        refine List.filter_congr fun f _ => ?_
        cases hf : f.body.isFree
        · rfl
        · simp [FrameBody.isClaimOf_of_isFree z.id _ hf]
      have hnone : new.filter (fun f => f.body.isFree) = [] := by
        refine List.filter_eq_nil_iff.mpr fun f hf => ?_
        obtain ⟨w, _, _, hb⟩ := hclaims f hf
        simp [hb, HoldEntry.claim, FrameBody.isFree]
      rw [State.freesOf, hnew]
      simp only [State.withoutEntry, List.filter_append, hold, hnone, List.append_nil, List.map_append]
      congr 1
      by_cases hc : y.claimed = true
      · rw [if_pos ⟨hyz.claimed.trans hc, hs⟩, if_pos hc, ← hyz.free]
        rfl
      · rw [if_neg (by simp [hyz.claimed, hc]), if_neg hc]
        rfl
    rw [List.map_cons, List.foldl_cons, hid]
    have hset := State.removeEntry_settled (s := s) ⟨z, hz, .refl z⟩
    have hrest := ih (hset.names hn) (fun h => hs (hset.adapter.mp h)) (fun w hw => ?_) hd
      (P ++ if y.claimed = true then [y.free] else []) (by rw [hfrees]; exact hP.append (.refl _))
    · refine List.Sublist.trans ?_ hrest
      by_cases hc : y.claimed = true <;> simp [hc]
    · obtain ⟨v, hv, hwv⟩ := hl w (List.mem_cons_of_mem _ hw)
      obtain ⟨v', hv', hvv', _⟩ := hstand v hv fun he =>
        hnot (List.mem_map.mpr ⟨w, hw, by rw [← hwv.id, he, hyz.id]⟩)
      exact ⟨v', hv', hwv.trans hvv'⟩

/-- The entries not removed stand. -/
theorem removeEntryIds_stand (l : List Nat) {s : State} (hn : NamesFresh s) {y : HoldEntry} (hy : y ∈ s.entries)
    (hnot : y.id ∉ l) : ∃ z ∈ (l.foldl State.removeEntryId s).entries, y.Static z ∧ z.refs = y.refs := by
  induction l generalizing s y with
  | nil => exact ⟨y, hy, .refl y, rfl⟩
  | cons i l ih =>
    have hi : y.id ≠ i := fun h => hnot (h ▸ List.mem_cons_self ..)
    have hl : y.id ∉ l := fun h => hnot (List.mem_cons_of_mem _ h)
    obtain ⟨z, hz, hyz, hr⟩ : ∃ z ∈ (s.removeEntryId i).entries, y.Static z ∧ z.refs = y.refs := by
      simp only [State.removeEntryId]
      split
      · exact ⟨y, hy, .refl y, rfl⟩
      · rename_i e hf
        obtain ⟨he, hei⟩ := HoldManager.mem_of_find hf
        exact (State.removeEntry_stands hn he).1 y hy (by rwa [hei])
    obtain ⟨w, hw, hzw, hr'⟩ := ih ((s.removeEntryId_settled i).names hn) hz (by rwa [hyz.id])
    exact ⟨w, hw, hyz.trans hzw, hr'.trans hr⟩

/-- What stands of the adapter where a chain's end begins. -/
structure EndBegins (s x : State) (n : Fin 4) : Prop where
  settled : Settled s x
  names : NamesFresh s
  chains : ∀ m, m ≠ n → x.chain m = s.chain m
  adapter : x.hp.adapter = s.hp.adapter
  maintaining : x.hp.maintaining = s.hp.maintaining
  current : x.hp.current = s.hp.current
  requests : ∀ r ∈ s.wq.records, r.queued = true → (CompletionAsked x r .aborted none ∧ Left x r.id) ∨
    ∃ q ∈ x.wq.records, Woke r q
  /-- With no request of the chain and no HOLD of it that waits the entries are untouched. -/
  holds : (∀ r ∈ s.wq.records, r.elem.chain ≠ n) → (∀ y ∈ s.entries, y.chain = n → y.holdElem = none) →
    x.hm = s.hm ∧ x.freesOf = s.freesOf

/-- The chain's record at its end. -/
def State.chainClosed (s : State) (n : Fin 4) : State :=
  s.onChain n fun c => { c with state := .ended, held := none, wait := noWait, fetchDue := false }

theorem State.endChain_eq (s : State) (n : Fin 4) : s.endChain n =
    (if s.hp.maintaining = some n then ((s.chainClosed n).removeExplicit n).leaveMaintenance
      else (s.chainClosed n).removeExplicit n).raise (.chain n) := by
  have hm : ((s.chainClosed n).removeExplicit n).hp.maintaining = s.hp.maintaining := by simp [State.chainClosed]
  simp only [State.endChain]
  rw [← hm]
  rfl

theorem State.chainClosed_chain (s : State) (n m : Fin 4) : (s.chainClosed n).chain m =
    if m = n then { s.chain n with state := .ended, held := none, wait := noWait, fetchDue := false } else s.chain m := by
  by_cases h : m = n
  · subst h
    rw [if_pos rfl]
    exact State.chain_onChain_same _ _ _
  · rw [if_neg h]
    exact State.chain_onChain_ne _ _ h

theorem State.removeExplicit_chain (s : State) (n m : Fin 4) : (s.removeExplicit n).chain m = s.chain m := by
  simp [State.chain]

/-- The chain's record after its end. -/
theorem State.endChain_chain (s : State) (n m : Fin 4) : (s.endChain n).chain m =
    if s.hp.maintaining = some n then ((s.chainClosed n).chain m).unmaintained else (s.chainClosed n).chain m := by
  rw [State.endChain_eq]
  split
  · exact (State.leaveMaintenance_left _).2.2 m |>.trans (by rw [State.removeExplicit_chain])
  · exact State.removeExplicit_chain _ n m

theorem State.endChain_own (s : State) (n : Fin 4) : (s.endChain n).chain n =
    { s.chain n with state := .ended, held := none, wait := ⟨false, false, false, false⟩, fetchDue := false } := by
  rw [State.endChain_chain, State.chainClosed_chain, if_pos rfl]
  split <;> rfl

theorem State.raise_raises (s : State) (a : Attention) : (s.raise a).hp.events.getLsbD a.bit = true := by
  have : a.bit < 12 := Attention.bit_lt a
  simp [State.raise, State.onHp, this]

/-- A chain's end, from a state that stands as said (R56, R65). -/
theorem EndBegins.ends {s x : State} {n : Fin 4} (h : EndBegins s x n) : ChainEnded s (x.endChain n) n := by
  have hclosed : Settled x (x.chainClosed n) := x.onChain_settled n fun hr => by simp at hr
  have hexplicit := (x.chainClosed n).removeExplicit_settled n
  have hxn : NamesFresh (x.chainClosed n) := hclosed.names (h.settled.names h.names)
  have hend := h.settled.trans (x.endChain_settled n)
  have hown := x.endChain_own n
  generalize hy : (x.chainClosed n).removeExplicit n = y at hexplicit
  have hto : Settled y (x.endChain n) := by
    rw [State.endChain_eq, hy]
    split
    · exact y.leaveMaintenance_settled.trans (State.raise_settled _ _)
    · exact State.raise_settled _ _
  have hyhp : y.hp.maintaining = s.hp.maintaining ∧ y.hp.adapter = s.hp.adapter ∧ y.hp.current = s.hp.current := by
    rw [← hy]
    simp [State.chainClosed, h.maintaining, h.adapter, h.current]
  have hywq : Woken x y := by
    rw [← hy]
    exact Woken.trans (.of_eq rfl) (State.removeExplicit_woken _ n)
  refine ⟨by rw [hown], ?_, by rw [hown], by rw [hown], by rw [hown], fun z hz hends => ?_, fun hs => hend.quiet hs,
    fun hm => ?_, fun hm => ?_, fun hnone hnoHold => ⟨fun hs => ?_, fun hm z hz hnot => ?_⟩⟩
  · rw [State.endChain_eq]
    exact State.raise_raises _ (.chain n)
  · refine hend.released h.names hz (hto.gone ?_)
    by_cases hstand : ∃ w ∈ (x.chainClosed n).entries, z.Static w
    · rw [← hy]
      exact State.removeExplicit_gone hxn n hends hstand
    · refine hexplicit.gone fun w hw he => hstand ?_
      obtain ⟨v, hv, hvw⟩ := (h.settled.trans hclosed).back w hw
      obtain rfl := List.inj_on_of_nodup_map h.names.2.1.1 hv hz (hvw.1.id.symm.trans he)
      exact ⟨w, hw, hvw.1⟩
  -- MAINTENANCE is left
  · obtain ⟨hsheds, ⟨h1, h2, h3, h4⟩, _⟩ := y.leaveMaintenance_left
    have ht : x.endChain n = y.leaveMaintenance.raise (.chain n) := by
      rw [State.endChain_eq, hy, if_pos (h.maintaining.trans hm)]
    rw [ht]
    refine ⟨h1, h2.trans (by rw [hyhp.2.1]), fun r hr hd hq => ?_, fun m => ⟨(h4 m).1, fun hrun hdue hwait hcur htrun => ?_⟩⟩
    · rcases h.requests r hr hq with ⟨hc, hl⟩ | ⟨q, hqx, hrq⟩
      · have hset := (x.endChain_settled n).sheds
        rw [ht] at hset
        exact ⟨hset.asked hc, hset.left hl⟩
      · obtain ⟨p, hp⟩ := hywq
        have hqp := hrq.trans (woke_woken q p)
        obtain ⟨hc, hl⟩ := h3 (q.woken p) (hp ▸ List.mem_map_of_mem hqx) (hqp.isDirect.trans hd) (hqp.queued.trans hq)
        exact ⟨hqp.asked hc, hqp.id ▸ hl⟩
    · have hne : m ≠ n := by
        rintro rfl
        rw [ht] at hown
        rw [hown] at htrun
        simp at htrun
      have hym : y.chain m = s.chain m := by
        rw [← hy, State.removeExplicit_chain, State.chainClosed_chain, if_neg hne, h.chains m hne]
      exact (h4 m).2 (by rw [hym]; exact hrun) (by rw [hym]; exact hdue) (by rw [hym]; exact hwait)
        (by rw [hyhp.2.2]; exact hcur) htrun
  · rw [State.endChain_eq, hy, if_neg (by rw [h.maintaining]; exact hm)]
    exact ⟨hyhp.1, hyhp.2.1⟩
  -- the FREEs in their order
  · obtain ⟨hhm, hfrees⟩ := h.holds hnone hnoHold
    have hentries : (x.chainClosed n).entries = s.entries := by rw [State.entries, State.entries, ← hhm]; rfl
    have hl := removeEntryIds_frees ((x.chainClosed n).entries.filter fun e => e.chain == n && e.origin == .explicit) hxn
      (by rw [show (x.chainClosed n).hp.adapter = s.hp.adapter from h.adapter]; exact hs)
      (fun w hw => ⟨w, List.mem_of_mem_filter hw, .refl w⟩) (hxn.2.1.1.sublist (List.filter_sublist.map _)) []
      (List.nil_sublist _)
    have hsame : ((s.hm.list ++ s.hm.line).filter fun y => decide (y.chain = n ∧ y.origin = .explicit) && y.claimed).map
          (fun y => FrameBody.free y.start y.count y.written) =
        (((x.chainClosed n).entries.filter fun e => e.chain == n && e.origin == .explicit).filter
          HoldEntry.claimed).map HoldEntry.free := by
      rw [hentries, List.filter_filter]
      congr 1
      refine List.filter_congr fun e _ => ?_
      rw [Bool.and_comm]
      congr 1
      by_cases h1 : e.chain = n <;> by_cases h2 : e.origin = .explicit <;> simp [h1, h2]
    have hyfrees := hto.frees.map Frame.body
    rw [← hy] at hyfrees
    have hpending : ((x.endChain n).freesOf.map Frame.body).Sublist ((x.endChain n).lu.frames.map Frame.body) :=
      List.filter_sublist.map Frame.body
    rw [hsame]
    exact (hl.trans hyfrees).trans hpending
  -- the other entries
  · obtain ⟨hhm, _⟩ := h.holds hnone hnoHold
    have hentries : (x.chainClosed n).entries = s.entries := by rw [State.entries, State.entries, ← hhm]; rfl
    obtain ⟨w, hw, hst, hrefs⟩ := removeEntryIds_stand
      (((x.chainClosed n).entries.filter fun e => e.chain == n && e.origin == .explicit).map HoldEntry.id) hxn
      (by rw [hentries]; exact hz) fun hin => by
        obtain ⟨e, he, hid⟩ := List.mem_map.mp hin
        obtain ⟨he, hk⟩ := List.mem_filter.mp he
        obtain rfl := List.inj_on_of_nodup_map h.names.2.1.1 (by rw [hentries] at he; exact he) hz hid
        exact hnot (by simpa using hk)
    refine ⟨w, ?_, hst.id, hst.start, hst.count, hst.mode, hst.chain, hst.origin, hst.claimed, hst.written, hrefs⟩
    rw [State.endChain_eq, hy, if_neg (by rw [h.maintaining]; exact hm), ← hy]
    exact hw

end Sys2Proof.Machine
end

section
/-! A chain stops, and ends where nothing of it is in flight (R54, R55). -/

namespace Sys2Proof.Machine

open Sys2Proof

/-- The end of a chain is told of the state by holds, requests, adapter and the other chains alone. -/
theorem ChainEnded.congr {s u t : State} {n : Fin 4} (h : ChainEnded u t n) (hhm : u.hm = s.hm)
    (hf : u.lu.frames = s.lu.frames) (hwq : u.wq = s.wq) (ha : u.hp.adapter = s.hp.adapter)
    (hm : u.hp.maintaining = s.hp.maintaining) (hc : ∀ m, m ≠ n → u.chain m = s.chain m)
    (hcur : ∀ m, s.hp.current ≠ some (.fetch m) → u.hp.current ≠ some (.fetch m)) : ChainEnded s t n := by
  obtain ⟨h1, h2, h3, h4, h5, h6, h7, h8, h9, h10⟩ := h
  rw [hhm] at h6 h10
  rw [ha] at h7 h9 h10
  rw [hf] at h7
  rw [hm] at h8 h9 h10
  rw [hwq] at h10
  refine ⟨h1, h2, h3, h4, h5, fun y hy he => ?_, h7, fun hs => ?_, h9, h10⟩
  · obtain ⟨hgone, hfree⟩ := h6 y hy he
    exact ⟨hgone, fun hc hs => hfree hc (by rwa [ha])⟩
  · obtain ⟨k1, k2, k3, k4⟩ := h8 hs
    rw [ha] at k2
    rw [hwq] at k3
    refine ⟨k1, k2, k3, fun m => ⟨(k4 m).1, fun hr hd hw hcurrent ht => ?_⟩⟩
    have hne : m ≠ n := by
      rintro rfl
      simp [h1] at ht
    exact (k4 m).2 (by rw [hc m hne]; exact hr) (by rw [hc m hne]; exact hd) (by rw [hc m hne]; exact hw)
      (hcur m hcurrent) ht

section
variable (u : State) (n : Fin 4) (st : Status) (f : Option ElementFault)

/-- The chain STOPPING, its work shed. -/
def State.stopped : State := (u.markStopping n).shedWork n st f

theorem State.stopped_settled : Settled (u.withdrawFetch n) (u.stopped n st f) :=
  ((u.withdrawFetch n).onChain_settled n (f := fun c => { c with state := .stopping, wait := noWait, fetchDue := false })
    fun h => by simp at h).trans ((u.markStopping n).shedWork_settled n st f)

theorem State.stopped_chain (m : Fin 4) : (u.stopped n st f).chain m = if m = n then
    { u.chain n with state := .stopping, wait := noWait, fetchDue := false, held := none } else u.chain m := by
  rw [State.stopped, State.shedWork_chains]
  split
  · rw [State.markStopping, State.chain_onChain_same]
  · rename_i h
    exact State.chain_onChain_ne _ _ h

theorem State.stopped_frame : (u.stopped n st f).hp.adapter = u.hp.adapter ∧
    (u.stopped n st f).hp.maintaining = u.hp.maintaining ∧ (u.stopped n st f).hp.current = u.hp.current ∧
    (u.stopped n st f).hp.events = u.hp.events ∧ (u.stopped n st f).te = u.te ∧ (u.stopped n st f).tm = u.tm ∧
    (u.stopped n st f).rdm = u.rdm ∧ (u.stopped n st f).out = u.out := by
  simp [State.stopped, State.markStopping]

theorem State.stopped_ends : Ends (ofChain n) u (u.stopped n st f) :=
  (Ends.of_eq (.of_eq rfl rfl) rfl : Ends (ofChain n) u (u.markStopping n)).trans (ofChain_woke n)
    ((u.markStopping n).shedWork_ends n st f)

/-- No queued request of the chain is left. -/
theorem State.stopped_unqueued : ∀ q ∈ (u.stopped n st f).wq.records, q.elem.chain = n → q.queued = false :=
  fun q hq hn => ((u.markStopping n).shedWork_requests n st f).2 q hq (by simpa [ofChain] using hn)

/-- The work shed stays shed. -/
theorem workShed_after {t : State} (hset : Sheds (u.stopped n st f) t)
    (hfetch : .fetch n ∈ t.hp.waiting → .fetch n ∈ (u.stopped n st f).hp.waiting ∨ ((u.stopped n st f).chain n).state = .running)
    (hrec : ∀ q ∈ t.wq.records, q.elem.chain = n → q.queued = false)
    (hheld : (t.chain n).held = none) (hwait : (t.chain n).wait = ⟨false, false, false, false⟩)
    (hdue : (t.chain n).fetchDue = false) (hsel : (t.chain n).selector = (u.chain n).selector) :
    WorkShed u t n st f := by
  obtain ⟨hasked, _⟩ := (u.markStopping n).shedWork_requests n st f
  have hown := u.stopped_chain n st f n
  rw [if_pos rfl] at hown
  have hmark : (u.markStopping n).chain n = { u.chain n with state := .stopping, wait := noWait, fetchDue := false } :=
    State.chain_onChain_same _ _ _
  refine ⟨hheld, hwait, hdue, fun hm => ?_, hrec, fun r hr hn hq => ?_, fun h k hh hk => ?_⟩
  · rcases hfetch hm with hw | hr
    · exact (u.markStopping n).shedWork_noFetch n st f (by simp [hmark]) hw
    · simp [hown] at hr
  · exact hset.asked (hasked r hr hq (by simpa [ofChain] using hn))
  · obtain ⟨c, hc, h1, h2, h3, h4, h5⟩ := (u.markStopping n).shedWork_held n st f (h := h) (k := k) (by rw [hmark]; exact hh) hk
    refine ⟨c, hset.1 c hc, h1, h2, h3, h4, h5.trans ?_⟩
    simp only [selectorOf, hmark, hsel]

/-- The HOLDs stopped stay so. -/
theorem holdsStopped_after {t : State} (hn : NamesFresh u) (hst : st ≠ .done) (hset : Settled (u.stopped n st f) t) :
    HoldsStopped u t n st f := by
  intro y hy hchain h hh
  obtain ⟨⟨c, hc, hrest⟩, hgone, hfree⟩ := (u.markStopping n).shedWork_holds n st f hn hst y hy hchain h hh
  refine ⟨⟨c, hset.sheds.1 c hc, hrest⟩, hset.gone hgone, fun hc hs => ?_⟩
  obtain ⟨g, hg, hb⟩ := hfree hc hs
  exact ⟨g, hset.free_mem hg (by rw [hb]; rfl), hb⟩

end

/-- With no request of the chain and no HOLD of it that waits, its stop leaves the entries and the FREEs. -/
theorem State.stopped_holds {u : State} {n : Fin 4} (st : Status) (f : Option ElementFault)
    (hr : ∀ r ∈ u.wq.records, r.elem.chain ≠ n) (hh : ∀ y ∈ u.entries, y.chain = n → y.holdElem = none) :
    (u.stopped n st f).hm = u.hm ∧ (u.stopped n st f).lu.frames = u.lu.frames := by
  have hnone : (u.markStopping n).waitingHolds n = [] := by
    refine List.filter_eq_nil_iff.mpr fun e he hn => ?_
    obtain ⟨hem, hsome⟩ := List.mem_filter.mp he
    rw [hh e hem (by simpa using hn)] at hsome
    simp at hsome
  have hqueue : ((u.markStopping n).dropped n st f).completeQueued (ofChain n) st f = (u.markStopping n).dropped n st f := by
    have : (((u.markStopping n).dropped n st f).wq.records.filter fun r => r.queued && ofChain n r) = [] := by
      rw [State.dropped_wq]
      refine List.filter_eq_nil_iff.mpr fun r hrm hk => hr r hrm ?_
      simpa [ofChain] using (Bool.and_eq_true_iff.mp hk).2
    rw [State.completeQueued, this]
    rfl
  have hs : u.stopped n st f = (u.markStopping n).dropped n st f := by
    rw [State.stopped, State.shedWork_eq, hnone, State.requestsShed, hnone]
    exact hqueue
  rw [hs]
  simp [State.dropped, State.markStopping]

/-- A chain that stops may end on what its stop has left. -/
theorem State.stopped_endBegins {u : State} (n : Fin 4) (hn : NamesFresh u) :
    EndBegins (u.withdrawFetch n) (u.stopped n .aborted none) n := by
  obtain ⟨ha, hm, hc, _⟩ := u.stopped_frame n .aborted none
  have hends := u.stopped_ends n .aborted none
  refine ⟨u.stopped_settled n .aborted none, hn, fun m hne => ?_, ha, hm, hc, fun r hr hq => ?_, fun h1 h2 => ?_⟩
  · rw [State.stopped_chain, if_neg hne]
    rfl
  · obtain ⟨hasked, hleft⟩ := (u.markStopping n).shedWork_requests n .aborted none
    by_cases hk : ofChain n r = true
    · refine .inl ⟨hasked r hr hq hk, fun q hqm hid => ?_⟩
      obtain ⟨p, hp, hpq⟩ := hends.back q hqm
      obtain rfl := List.inj_on_of_nodup_map hn.1.1 hp hr (hpq.id.symm.trans hid)
      have := hleft q hqm ((ofChain_woke n p q hpq).trans hk)
      simp [hpq.queued, hq] at this
    · exact .inr (hends.stays hn.1.1 r hr (by simp [hk]))
  · obtain ⟨hhm, hf⟩ := State.stopped_holds (u := u) (n := n) .aborted none h1 h2
    refine ⟨hhm, ?_⟩
    rw [State.freesOf, State.freesOf, hf]
    rfl

/-- A chain STOPPING ends with nothing of it in flight and no fetch of it under way (R55). -/
theorem State.endIfOver_stopped (u : State) (n : Fin 4) (st : Status) (f : Option ElementFault) :
    (u.stopped n st f).endIfOver n = if (u.chain n).inFlight = 0 ∧ u.hp.current ≠ some (.fetch n) then
      (u.stopped n st f).endChain n else u.stopped n st f := by
  obtain ⟨_, _, hc, _⟩ := u.stopped_frame n st f
  have hover : (u.stopped n st f).chainOver n = true ↔ (u.chain n).inFlight = 0 ∧ u.hp.current ≠ some (.fetch n) := by
    simp [State.chainOver, State.fetching, hc, State.stopped_chain]
  simp only [State.endIfOver, hover]

theorem State.stopChain_eq {u : State} {n : Fin 4} (hrun : (u.chain n).state = .running) :
    u.stopChain n = (u.stopped n .aborted none).endIfOver n := if_pos hrun

end Sys2Proof.Machine
end

section
/-! What the end of a chain leaves of records, engine and attention (R55, R56, R65). -/

namespace Sys2Proof.Machine

open Sys2Proof

theorem Woken.activeRequest_any {s t : State} (h : Woken s t) (ht : t.te.request = s.te.request) :
    t.activeRequest.any Request.isDirect = s.activeRequest.any Request.isDirect := by
  obtain ⟨p, hp⟩ := h
  have hid (r : Request) : (r.woken p).isDirect = r.isDirect := (woke_woken r p).isDirect
  simp only [State.activeRequest, ht]
  cases s.te.request with
  | none => rfl
  | some id =>
    simp only [WorkQueue.find, hp, List.find?_map, Option.any_map, Function.comp_def,
      Request.woken_id, hid]

/-- The engine's request, not queued, stands while queued requests end. -/
theorem Ends.activeRequest_any {pick : Request → Bool} {s t : State} (h : Ends pick s t) (ht : t.te.request = s.te.request)
    (hn : (s.wq.records.map Request.id).Nodup) (hq : ∀ r, s.activeRequest = some r → r.queued = false) :
    t.activeRequest.any Request.isDirect = s.activeRequest.any Request.isDirect := by
  have hids := hn.sublist h.sheds.2
  cases hreq : s.te.request with
  | none => simp [State.activeRequest, ht, hreq]
  | some id =>
    have hs : s.activeRequest = s.wq.find id := by simp only [State.activeRequest, hreq]
    have htf : t.activeRequest = t.wq.find id := by simp only [State.activeRequest, ht, hreq]
    rw [hs, htf]
    cases hr : s.wq.find id with
    | none =>
      have hnone : t.wq.find id = none := by
        refine List.find?_eq_none.mpr fun q hqm hqi => ?_
        obtain ⟨r, hrm, hrq⟩ := h.back q hqm
        exact List.find?_eq_none.mp hr r hrm (by rw [← hrq.id]; exact hqi)
      rw [hnone]
    | some r =>
      obtain ⟨hrm, hri⟩ := WorkQueue.find_mem hr
      obtain ⟨q, hqm, hrq⟩ := h.stays hn r hrm (by rw [hq r (hs.trans hr)]; rfl)
      have hfound := WorkQueue.find_of_mem hids hqm
      rw [hrq.id, hri] at hfound
      rw [hfound]
      exact hrq.isDirect

theorem Ends.mono {pick big : Request → Bool} {s t : State} (h : Ends pick s t) (hb : ∀ r, pick r = true → big r = true) :
    Ends big s t where
  sheds := h.sheds
  back := h.back
  stays hn r hr hk := h.stays hn r hr (by
    cases hp : pick r
    · simp
    · rwa [hb r hp] at hk)

theorem State.leaveMaintenance_ends (s : State) : Ends Request.isDirect s s.leaveMaintenance := by
  have hclear (l : List (Fin 4)) (u : State) : Ends Request.isDirect u
      (l.foldl (fun u m => u.clearReason m fun w => { w with maintenance := false }) u) := by
    refine .of_eq ?_ (foldl_keeps (fun u => u.wq) (fun u m => by simp) l u)
    exact (Settled.foldl (fun u m => u.clearReason_settled m _) l u).sheds.1
  have hwq : s.unmaintained.wq = s.wq := by rw [State.unmaintained_eq]
  have hstart : Ends Request.isDirect s s.unmaintained := by
    refine .of_eq ?_ hwq
    rw [State.unmaintained_eq]
    exact .refl s
  rw [State.leaveMaintenance_eq]
  exact (hstart.trans (fun _ _ => Woke.isDirect) (State.completeQueued_ends _ _ _ _)).trans (fun _ _ => Woke.isDirect)
    (hclear _ _)

theorem State.leaveMaintenance_te (s : State) : s.leaveMaintenance.te = { s.te with
    maintenanceOver := s.te.maintenanceOver || s.activeRequest.any Request.isDirect } := by
  rw [State.leaveMaintenance_eq, foldl_keeps (fun u => u.te) (fun u m => by simp)]
  simp [State.unmaintained_eq]

section
variable (s : State) (n : Fin 4)

/-- The entries of the chain that ends are removed, its record closed. -/
def State.chainLeft : State := (s.chainClosed n).removeExplicit n

theorem State.chainLeft_woken : Woken s (s.chainLeft n) := Woken.trans (.of_eq rfl) (State.removeExplicit_woken _ n)

theorem State.chainLeft_settled : Settled s (s.chainLeft n) :=
  (s.onChain_settled n fun hr => by simp at hr).trans (State.removeExplicit_settled _ n)

theorem State.endChain_ends : Ends Request.isDirect s (s.endChain n) := by
  have hleft : Ends Request.isDirect s (s.chainLeft n) :=
    .of_woken (s.chainLeft_settled n).sheds.1 (s.chainLeft_woken n)
  have hraise (u : State) : Ends Request.isDirect u (u.raise (.chain n)) := .of_eq (u.raise_settled _).sheds.1 rfl
  rw [State.endChain_eq]
  split
  · exact (hleft.trans (fun _ _ => Woke.isDirect) (State.leaveMaintenance_ends _)).trans (fun _ _ => Woke.isDirect) (hraise _)
  · exact hleft.trans (fun _ _ => Woke.isDirect) (hraise _)

theorem State.endChain_events : (s.endChain n).hp.events = s.hp.events ||| BitVec.twoPow 12 n.val := by
  rw [State.endChain_eq]
  split <;> simp [State.raise, State.onHp, State.chainClosed, Attention.bit]

/-- A chain that does not maintain ends: its engine, the adapter and the records stand. -/
theorem State.endChain_other (h : s.hp.maintaining ≠ some n) : Woken s (s.endChain n) ∧ (s.endChain n).te = s.te ∧
    (s.endChain n).hp.adapter = s.hp.adapter := by
  rw [State.endChain_eq, if_neg h]
  exact ⟨s.chainLeft_woken n, by simp [State.chainClosed], by simp [State.chainClosed]⟩

/-- The maintaining chain ends: the engine takes note of the end of MAINTENANCE. -/
theorem State.endChain_maintaining (h : s.hp.maintaining = some n) : (s.endChain n).te = { s.te with
    maintenanceOver := s.te.maintenanceOver || s.activeRequest.any Request.isDirect } := by
  have hte : (s.chainLeft n).te = s.te := by simp [State.chainLeft, State.chainClosed]
  have hany := (s.chainLeft_woken n).activeRequest_any (by rw [hte])
  have heq : (s.endChain n).te = (s.chainLeft n).leaveMaintenance.te := by
    rw [State.endChain_eq, if_pos h]
    rfl
  rw [heq, State.leaveMaintenance_te, hte, hany]

end

end Sys2Proof.Machine
end

section
/-! COMPLETION_WRITTEN (R51 to R55). -/

namespace Sys2Proof.Machine

open Sys2Proof

/-- A FAULT that stops its chain (R53). -/
abbrev Completion.Stops (c : Completion) : Prop := c.status = .fault ∧ c.info.carryPast = false

/-- The record has been written, and its chain's flags and counts take it. -/
def State.recordTaken (s : State) (c : Completion) : State :=
  { s with
    out := [.hostWrite (wordsAt (c.info.addr + 12) c.words)]
    hp := { s.hp with current := none }
    chains := s.chains.set c.info.chain ((s.chain c.info.chain).take c) }

/-- The next fetch called for, and the reasons that end with the record (R49). -/
def State.fetchFollows (s : State) (c : Completion) : State :=
  (if c.asksNext then s.callFetch c.info.chain else s).clearReason c.info.chain c.endsReasons

theorem exec_completionWritten {c : Completion} {s : State} (h : s.hp.current = some (.completion c)) :
    exec .completionWritten s =
      .next ((((s.recordTaken c).faultStop c).fetchFollows c).endIfOver c.info.chain) := by
  have : s.begin.hp.current = some (.completion c) := h
  simp only [exec, execCompletionWritten, this]
  rfl

section
variable (s : State) (c : Completion)

theorem State.recordTaken_chain (m : Fin 4) : (s.recordTaken c).chain m =
    if m = c.info.chain then (s.chain c.info.chain).take c else s.chain m := by
  split
  · rename_i h
    rw [h]
    exact Four.get_set_same _ _ _
  · rename_i h
    exact Four.get_set_ne _ _ h

theorem State.fetchFollows_settled : Settled s (s.fetchFollows c) := by
  rw [State.fetchFollows]
  split
  · exact (s.callFetch_settled _).trans (State.clearReason_settled _ _ _)
  · exact s.clearReason_settled _ _

theorem State.fetchFollows_frame : (s.fetchFollows c).hm = s.hm ∧ (s.fetchFollows c).wq = s.wq ∧
    (s.fetchFollows c).lu = s.lu ∧ (s.fetchFollows c).te = s.te ∧ (s.fetchFollows c).tm = s.tm ∧
    (s.fetchFollows c).rdm = s.rdm ∧ (s.fetchFollows c).out = s.out ∧ (s.fetchFollows c).hp.adapter = s.hp.adapter ∧
    (s.fetchFollows c).hp.maintaining = s.hp.maintaining ∧ (s.fetchFollows c).hp.current = s.hp.current ∧
    (s.fetchFollows c).hp.events = s.hp.events := by
  rw [State.fetchFollows]
  split <;> simp

/-- A next fetch is called for: it is due while a reason stands. -/
theorem State.callFetch_chain (n m : Fin 4) : (s.callFetch n).chain m =
    if m = n ∧ (s.chain n).state = .running ∧ (s.chain n).wait.any = true then { s.chain n with fetchDue := true }
    else s.chain m := by
  by_cases hr : (s.chain n).state = .running
  · cases hw : (s.chain n).wait.any
    · have hno : ¬ (m = n ∧ (s.chain n).state = .running ∧ false = true) := by simp
      rw [State.callFetch_of_no_wait hr hw, if_neg hno]
      split <;> rfl
    · rw [State.callFetch_of_wait hr hw]
      by_cases hm : m = n
      · subst hm
        rw [if_pos ⟨rfl, hr, rfl⟩, State.chain_onChain_same]
      · rw [if_neg (by simp [hm]), State.chain_onChain_ne _ _ hm]
  · rw [if_neg (by simp [hr]), State.callFetch, if_neg hr]

/-- The chain's record takes the reasons left and the fetch due. -/
theorem State.fetchFollows_own : (s.fetchFollows c).chain c.info.chain = { s.chain c.info.chain with
    wait := c.endsReasons (s.chain c.info.chain).wait
    fetchDue := ((s.chain c.info.chain).fetchDue || (c.asksNext && ((s.chain c.info.chain).state == .running) &&
      (s.chain c.info.chain).wait.any)) && (c.endsReasons (s.chain c.info.chain).wait).any } := by
  rw [State.fetchFollows, State.clearReason_chain_same]
  cases hn : c.asksNext
  · simp
  · rw [if_pos rfl, State.callFetch_chain]
    by_cases h : (s.chain c.info.chain).state = .running ∧ (s.chain c.info.chain).wait.any = true
    · rw [if_pos ⟨rfl, h⟩]
      simp [h.1, h.2]
    · rw [if_neg (by simpa using h)]
      have : ((s.chain c.info.chain).state == Sys2Proof.Machine.ChainState.running &&
          (s.chain c.info.chain).wait.any) = false := by
        rw [Bool.eq_false_iff]
        simpa using h
      simp [this]

theorem State.fetchFollows_other {m : Fin 4} (h : m ≠ c.info.chain) : (s.fetchFollows c).chain m = s.chain m := by
  rw [State.fetchFollows, State.clearReason_chain_ne _ _ h]
  split
  · rw [State.callFetch_chain, if_neg (by simp [h])]
  · rfl

end

/-- Reasons that do not change, with no fetch due, leave all as it is. -/
theorem State.clearReason_idle {s : State} {n : Fin 4} {f : FetchWait → FetchWait} (hw : f (s.chain n).wait = (s.chain n).wait)
    (hd : (s.chain n).fetchDue = false) : s.clearReason n f = s := by
  have hsame : { s.chain n with
      wait := f (s.chain n).wait
      fetchDue := (s.chain n).fetchDue && (f (s.chain n).wait).any } = s.chain n := by
    rw [hw, hd, Bool.false_and, ← hd]
  have hasks : s.reasonAsks n f = false := by
    rw [Bool.eq_false_iff, ne_eq, State.reasonAsks_iff]
    simp [hd]
  rw [State.clearReason_eq, hasks, State.onChain_eq, hsame]
  simp [State.chain, State.onHp]

theorem Completion.endsReasons_noWait (c : Completion) : c.endsReasons noWait = noWait := by
  simp [Completion.endsReasons, noWait]

/-- A chain with no reason and no fetch due that is not RUNNING has nothing to ask. -/
theorem State.fetchFollows_idle {s : State} {c : Completion} (hr : (s.chain c.info.chain).state ≠ .running)
    (hw : (s.chain c.info.chain).wait = noWait) (hd : (s.chain c.info.chain).fetchDue = false) : s.fetchFollows c = s := by
  have hcall : (if c.asksNext then s.callFetch c.info.chain else s) = s := by
    split
    · rw [State.callFetch, if_neg hr]
    · rfl
  rw [State.fetchFollows, hcall, State.clearReason_idle (by rw [hw, c.endsReasons_noWait]) hd]

/-- A next fetch called for with no reason standing is asked. -/
theorem State.fetchFollows_asks {s : State} {c : Completion} (hr : (s.chain c.info.chain).state = .running)
    (hw : (s.chain c.info.chain).wait = noWait) (hd : (s.chain c.info.chain).fetchDue = false) (ha : c.asksNext = true) :
    s.fetchFollows c = if .fetch c.info.chain ∈ s.hp.waiting ∨ s.hp.current = some (.fetch c.info.chain) then s
      else s.askTransfer (.fetch c.info.chain) := by
  have hcall := State.callFetch_of_no_wait hr (by rw [hw]; rfl)
  have hchain := s.callFetch_chain c.info.chain c.info.chain
  rw [if_neg (by rw [hw]; simp [noWait, FetchWait.any])] at hchain
  rw [State.fetchFollows, if_pos ha, State.clearReason_idle (by rw [hchain, hw, c.endsReasons_noWait]) (by rw [hchain, hd]), hcall]

/-- While a reason is left no fetch is asked. -/
theorem State.fetchFollows_waits {s : State} {c : Completion} (hr : (s.chain c.info.chain).state = .running)
    (hl : (c.endsReasons (s.chain c.info.chain).wait).any = true) : (s.fetchFollows c).hp.waiting = s.hp.waiting := by
  have hany : (s.chain c.info.chain).wait.any = true := by
    simp only [Completion.endsReasons, FetchWait.any, Bool.or_eq_true, Bool.and_eq_true] at hl ⊢
    tauto
  have hcall : (if c.asksNext then s.callFetch c.info.chain else s).hp.waiting = s.hp.waiting ∧
      ((if c.asksNext then s.callFetch c.info.chain else s).chain c.info.chain).wait = (s.chain c.info.chain).wait := by
    split
    · rw [State.callFetch_of_wait hr hany, State.chain_onChain_same]
      exact ⟨rfl, rfl⟩
    · exact ⟨rfl, rfl⟩
  obtain ⟨hwaiting, hwait⟩ := hcall
  have hasks : (if c.asksNext then s.callFetch c.info.chain else s).reasonAsks c.info.chain c.endsReasons = false := by
    rw [Bool.eq_false_iff, ne_eq, State.reasonAsks_iff, hwait, hl]
    simp
  rw [State.fetchFollows, State.clearReason_eq, hasks]
  simpa [State.onHp, State.onChain_eq] using hwaiting

/-- The last reason gone, the fetch due or called for is asked. -/
theorem State.fetchFollows_fetches {s : State} {c : Completion} (hr : (s.chain c.info.chain).state = .running)
    (hw : (s.chain c.info.chain).wait.any = true) (hl : (c.endsReasons (s.chain c.info.chain).wait).any = false)
    (ha : c.asksNext = true ∨ (s.chain c.info.chain).fetchDue = true) (hc : s.hp.current = none) :
    .fetch c.info.chain ∈ (s.fetchFollows c).hp.waiting := by
  generalize hu : (if c.asksNext then s.callFetch c.info.chain else s) = u
  have hown : u.chain c.info.chain = { s.chain c.info.chain with fetchDue := true } ∧ u.hp.current = none := by
    rw [← hu]
    split
    · rw [State.callFetch_of_wait hr hw, State.chain_onChain_same]
      exact ⟨rfl, hc⟩
    · rename_i hn
      rw [← ha.resolve_left hn]
      exact ⟨rfl, hc⟩
  obtain ⟨hown, hcur⟩ := hown
  rw [State.fetchFollows, hu, State.clearReason_eq]
  by_cases hin : .fetch c.info.chain ∈ u.hp.waiting
  · exact List.mem_append_left _ hin
  · have hasks : u.reasonAsks c.info.chain c.endsReasons = true :=
      (u.reasonAsks_iff _ _).mpr ⟨by rw [hown], by rw [hown]; exact hl, by rw [hown]; exact hr, by simp [hin, hcur]⟩
    rw [hasks]
    exact List.mem_append_right _ (List.mem_singleton_self _)

end Sys2Proof.Machine
end

section
/-! What stands of the adapter when a chain has taken a completion, but for its end (R51 to R54). -/

namespace Sys2Proof.Machine

open Sys2Proof

/-- The chain stops: it was RUNNING, and the completion is a FAULT without CARRY PAST FAULT. -/
abbrev Completion.StopsIn (c : Completion) (s : State) : Prop := (s.chain c.info.chain).state = .running ∧ c.Stops

/-- The chain ends with the completion (R55). -/
abbrev Completion.EndsIn (c : Completion) (s : State) : Prop :=
  (s.chain c.info.chain).inFlight ≤ 1 ∧ ((s.chain c.info.chain).state = .stopping ∨
    (s.chain c.info.chain).state = .running ∧
      (c.Stops ∨ (s.chain c.info.chain).endNoted = true ∨ c.info.last = true))

/-- The completion taken, the chain not ended yet. -/
structure Took (c : Completion) (s x : State) : Prop where
  own : ((x.chain c.info.chain).flags = flagsAfter (s.chain c.info.chain).flags c ∧
    (x.chain c.info.chain).inFlight = (s.chain c.info.chain).inFlight - 1 ∧
    (x.chain c.info.chain).selector = c.newDefault.getD (s.chain c.info.chain).selector ∧
    (x.chain c.info.chain).level = (s.chain c.info.chain).level ∧
    (x.chain c.info.chain).next = (s.chain c.info.chain).next)
  state : (x.chain c.info.chain).state = if c.StopsIn s then .stopping else (s.chain c.info.chain).state
  others : ∀ m, m ≠ c.info.chain → x.chain m = s.chain m
  frame : x.te = s.te ∧ x.tm = s.tm ∧ x.rdm = s.rdm ∧ x.out = [.hostWrite (wordsAt (c.info.addr + 12) c.words)]
  port : x.hp.adapter = s.hp.adapter ∧ x.hp.maintaining = s.hp.maintaining
  events : x.hp.events = s.hp.events ||| if c.Stops then BitVec.twoPow 12 4 else 0
  ends : Ends (ofChain c.info.chain) s x
  left : ¬ c.StopsIn s → x.wq = s.wq ∧ x.hm = s.hm ∧ x.lu = s.lu
  ended : NamesFresh s → ChainEnded s (x.endChain c.info.chain) c.info.chain

/-- A chain's end, from a state that has the holds, requests and adapter of the one before. -/
theorem EndBegins.ends_of {s v x : State} {n : Fin 4} (h : EndBegins v x n) (hhm : v.hm = s.hm) (hf : v.lu.frames = s.lu.frames)
    (hwq : v.wq = s.wq) (ha : v.hp.adapter = s.hp.adapter) (hm : v.hp.maintaining = s.hp.maintaining)
    (hc : ∀ m, m ≠ n → v.chain m = s.chain m) (hcur : v.hp.current = none) : ChainEnded s (x.endChain n) n :=
  h.ends.congr hhm hf hwq ha hm hc fun m _ h => by simp [hcur] at h

/-- A FAULT that raises FAULT raises it whatever the chain. -/
def State.faultRaised (s : State) (c : Completion) : State :=
  if c.Stops then s.raise .fault else s

section
variable (s : State) (c : Completion)

theorem State.faultRaised_frame : (s.faultRaised c).te = s.te ∧ (s.faultRaised c).tm = s.tm ∧ (s.faultRaised c).rdm = s.rdm ∧
    (s.faultRaised c).out = s.out ∧ (s.faultRaised c).wq = s.wq ∧ (s.faultRaised c).hm = s.hm ∧ (s.faultRaised c).lu = s.lu ∧
    (s.faultRaised c).chains = s.chains ∧ (s.faultRaised c).hp.adapter = s.hp.adapter ∧
    (s.faultRaised c).hp.maintaining = s.hp.maintaining ∧ (s.faultRaised c).hp.current = s.hp.current ∧
    (s.faultRaised c).hp.waiting = s.hp.waiting ∧ (s.faultRaised c).hp.heldBack = s.hp.heldBack := by
  rw [State.faultRaised]
  split <;> exact ⟨rfl, rfl, rfl, rfl, rfl, rfl, rfl, rfl, rfl, rfl, rfl, rfl, rfl⟩

theorem State.faultRaised_events :
    (s.faultRaised c).hp.events = s.hp.events ||| if c.Stops then BitVec.twoPow 12 4 else 0 := by
  rw [State.faultRaised]
  by_cases h : c.Stops
  · rw [if_pos h, if_pos h]
    rfl
  · rw [if_neg h, if_neg h]
    simp

theorem State.recordTaken_own : (s.recordTaken c).chain c.info.chain = (s.chain c.info.chain).take c := by
  rw [State.recordTaken_chain, if_pos rfl]

theorem State.recordTaken_others {m : Fin 4} (h : m ≠ c.info.chain) : (s.recordTaken c).chain m = s.chain m := by
  rw [State.recordTaken_chain, if_neg h]

/-- The record taken and FAULT raised where it must. -/
def State.completionTaken : State := (s.recordTaken c).faultRaised c

theorem State.completionTaken_own : (s.completionTaken c).chain c.info.chain = (s.chain c.info.chain).take c := by
  rw [State.completionTaken, State.chain, (State.faultRaised_frame _ c).2.2.2.2.2.2.2.1]
  exact s.recordTaken_own c

theorem State.completionTaken_others {m : Fin 4} (h : m ≠ c.info.chain) : (s.completionTaken c).chain m = s.chain m := by
  rw [State.completionTaken, State.chain, (State.faultRaised_frame _ c).2.2.2.2.2.2.2.1]
  exact s.recordTaken_others c h

theorem State.completionTaken_frame : (s.completionTaken c).te = s.te ∧ (s.completionTaken c).tm = s.tm ∧
    (s.completionTaken c).rdm = s.rdm ∧
    (s.completionTaken c).out = [.hostWrite (wordsAt (c.info.addr + 12) c.words)] ∧ (s.completionTaken c).wq = s.wq ∧
    (s.completionTaken c).hm = s.hm ∧ (s.completionTaken c).lu = s.lu ∧
    (s.completionTaken c).hp.adapter = s.hp.adapter ∧ (s.completionTaken c).hp.maintaining = s.hp.maintaining ∧
    (s.completionTaken c).hp.current = none ∧ (s.completionTaken c).hp.waiting = s.hp.waiting ∧
    (s.completionTaken c).hp.heldBack = s.hp.heldBack := by
  obtain ⟨h1, h2, h3, h4, h5, h6, h7, _, h8, h9, h10, h11, h12⟩ := (s.recordTaken c).faultRaised_frame c
  exact ⟨h1, h2, h3, h4, h5, h6, h7, h8, h9, h10, h11, h12⟩

theorem State.completionTaken_names (h : NamesFresh s) : NamesFresh (s.completionTaken c) := by
  obtain ⟨_, _, _, _, hwq, hhm, _⟩ := s.completionTaken_frame c
  simpa only [NamesFresh, hwq, hhm] using h

theorem State.completionTaken_asks : Asks s (s.completionTaken c) := by
  obtain ⟨_, _, _, _, _, _, _, _, _, _, hw, hb⟩ := s.completionTaken_frame c
  exact .of_eq hw hb

/-- The chain goes on: the completion taken, the next fetch and the reasons settled. -/
theorem State.fetchFollows_took (h : ¬ c.StopsIn s) : Took c s ((s.completionTaken c).fetchFollows c) := by
  obtain ⟨hte, htm, hrdm, hout, hwq, hhm, hlu, ha, hm, hcur, _⟩ := s.completionTaken_frame c
  obtain ⟨hhm', hwq', hlu', hte', htm', hrdm', hout', ha', hm', hcur', hev'⟩ := (s.completionTaken c).fetchFollows_frame c
  have hown := (s.completionTaken c).fetchFollows_own c
  rw [s.completionTaken_own c] at hown
  have hset := (s.completionTaken c).fetchFollows_settled c
  refine ⟨by rw [hown]; exact ⟨rfl, rfl, rfl, rfl, rfl⟩, by rw [hown, if_neg h]; rfl, fun m hne => ?_, ?_, ?_, ?_, ?_, ?_, fun hn => ?_⟩
  · rw [State.fetchFollows_other _ c hne, s.completionTaken_others c hne]
  · exact ⟨hte'.trans hte, htm'.trans htm, hrdm'.trans hrdm, hout'.trans hout⟩
  · exact ⟨ha'.trans ha, hm'.trans hm⟩
  · rw [hev']
    exact State.faultRaised_events _ c
  · exact .of_eq ((s.completionTaken_asks c).trans hset.sheds.1) (hwq'.trans hwq)
  · exact fun _ => ⟨hwq'.trans hwq, hhm'.trans hhm, hlu'.trans hlu⟩
  · have hbegin : EndBegins (s.completionTaken c) ((s.completionTaken c).fetchFollows c) c.info.chain :=
      ⟨hset, s.completionTaken_names c hn, fun m hne => State.fetchFollows_other _ c hne, ha', hm', hcur',
        fun r hr _ => .inr ⟨r, by rw [hwq']; exact hr, .refl r⟩, fun _ _ => ⟨hhm', by rw [State.freesOf, State.freesOf, hlu']⟩⟩
    exact hbegin.ends_of hhm (by rw [hlu]) hwq ha hm (fun m hne => s.completionTaken_others c hne) hcur

/-- The chain stops. -/
theorem State.stopped_took (h : c.StopsIn s) : Took c s ((s.completionTaken c).stopped c.info.chain .aborted none) := by
  obtain ⟨hte, htm, hrdm, hout, hwq, hhm, hlu, ha, hm, hcur, hw, hb⟩ := s.completionTaken_frame c
  obtain ⟨ha', hm', hcur', hev', hte', htm', hrdm', hout'⟩ := (s.completionTaken c).stopped_frame c.info.chain .aborted none
  have hchain := (s.completionTaken c).stopped_chain c.info.chain .aborted none
  have hown := hchain c.info.chain
  rw [if_pos rfl, s.completionTaken_own c] at hown
  refine ⟨by rw [hown]; exact ⟨rfl, rfl, rfl, rfl, rfl⟩, by rw [hown, if_pos h], fun m hne => ?_, ?_, ?_, ?_, ?_, ?_, fun hn => ?_⟩
  · rw [hchain, if_neg hne, s.completionTaken_others c hne]
  · exact ⟨hte'.trans hte, htm'.trans htm, hrdm'.trans hrdm, hout'.trans hout⟩
  · exact ⟨ha'.trans ha, hm'.trans hm⟩
  · rw [hev']
    exact State.faultRaised_events _ c
  · exact (Ends.of_eq (s.completionTaken_asks c) hwq).trans (ofChain_woke _) (State.stopped_ends _ _ _ _)
  · exact fun hno => absurd h hno
  · exact (State.stopped_endBegins c.info.chain (s.completionTaken_names c hn)).ends_of
      (v := (s.completionTaken c).withdrawFetch c.info.chain) hhm (congrArg LineUnit.frames hlu) hwq ha hm
      (fun m hne => s.completionTaken_others c hne) hcur

end

/-- COMPLETION_WRITTEN: the completion taken, and the end of the chain where it is over (R51, R55). -/
theorem exec_completionWritten_took {c : Completion} {s : State} (h : s.hp.current = some (.completion c)) :
    ∃ x, Took c s x ∧ exec .completionWritten s = .next (if c.EndsIn s then x.endChain c.info.chain else x) ∧
      (c.StopsIn s → x = (s.completionTaken c).stopped c.info.chain .aborted none) ∧
      (¬ c.StopsIn s → x = (s.completionTaken c).fetchFollows c) := by
  obtain ⟨_, _, _, _, _, _, _, _, _, hcur, _⟩ := s.completionTaken_frame c
  have hown := s.completionTaken_own c
  by_cases hs : c.StopsIn s
  · refine ⟨_, s.stopped_took c hs, ?_, fun _ => rfl, fun hno => absurd hs hno⟩
    obtain ⟨hrun, hstop⟩ := hs
    have hrun' : ((s.completionTaken c).chain c.info.chain).state = .running := by rw [hown]; exact hrun
    have hfault : (s.recordTaken c).faultStop c = (s.completionTaken c).stopChain c.info.chain := by
      rw [State.faultStop, if_pos hstop, State.completionTaken, State.faultRaised, if_pos hstop]
    have hover : c.EndsIn s ↔ ((s.completionTaken c).chain c.info.chain).inFlight = 0 ∧
        (s.completionTaken c).hp.current ≠ some (.fetch c.info.chain) := by
      have : ((s.chain c.info.chain).take c).inFlight = (s.chain c.info.chain).inFlight - 1 := rfl
      rw [hown, hcur, this]
      have hor : (s.chain c.info.chain).state = .stopping ∨ (s.chain c.info.chain).state = .running ∧
          (c.Stops ∨ (s.chain c.info.chain).endNoted = true ∨ c.info.last = true) := .inr ⟨hrun, .inl hstop⟩
      rw [Completion.EndsIn, and_iff_left hor, Nat.sub_eq_zero_iff_le]
      exact (and_iff_left (by simp)).symm
    rw [exec_completionWritten h, hfault, State.stopChain_eq hrun', State.endIfOver_stopped]
    simp only [← hover]
    have hstopped := (s.completionTaken c).stopped_chain c.info.chain .aborted none c.info.chain
    rw [if_pos rfl] at hstopped
    by_cases he : c.EndsIn s
    · simp only [if_pos he]
      have hend := ((s.completionTaken c).stopped c.info.chain .aborted none).endChain_own c.info.chain
      generalize ((s.completionTaken c).stopped c.info.chain .aborted none).endChain c.info.chain = t at *
      rw [State.fetchFollows_idle (by rw [hend]; simp) (by rw [hend]; rfl) (by rw [hend])]
      rw [State.endIfOver, if_neg]
      simp [State.chainOver, hend]
    · simp only [if_neg he]
      have hidle := State.fetchFollows_idle (s := (s.completionTaken c).stopped c.info.chain .aborted none) (c := c)
        (by rw [hstopped]; simp) (by rw [hstopped]) (by rw [hstopped])
      rw [hidle, State.endIfOver_stopped]
      simp only [← hover, if_neg he]
  · refine ⟨_, s.fetchFollows_took c hs, ?_, fun hno => absurd hno hs, fun _ => rfl⟩
    have hfault : (s.recordTaken c).faultStop c = s.completionTaken c := by
      rw [State.faultStop, State.completionTaken, State.faultRaised]
      by_cases hf : c.status = .fault ∧ c.info.carryPast = false
      · rw [if_pos hf, if_pos hf, State.stopChain, if_neg]
        intro hrun
        refine hs ⟨?_, hf⟩
        have := (s.recordTaken_own c).symm.trans (show (s.recordTaken c).chain c.info.chain = _ from rfl)
        change ((s.recordTaken c).chain c.info.chain).state = .running at hrun
        rw [s.recordTaken_own c] at hrun
        exact hrun
      · rw [if_neg hf, if_neg hf]
    have hcur' : ((s.completionTaken c).fetchFollows c).hp.current = none := by
      rw [((s.completionTaken c).fetchFollows_frame c).2.2.2.2.2.2.2.2.2.1, hcur]
    have hown' := (s.completionTaken c).fetchFollows_own c
    rw [hown] at hown'
    have hover : ((s.completionTaken c).fetchFollows c).chainOver c.info.chain = true ↔ c.EndsIn s := by
      simp only [State.chainOver, State.fetching, hcur', hown', Chain.take, Completion.EndsIn]
      have hno : (s.chain c.info.chain).state = .running → ¬ c.Stops := fun hr hst => hs ⟨hr, hst⟩
      simp
      grind
    rw [exec_completionWritten h, hfault, State.endIfOver]
    simp only [hover]

end Sys2Proof.Machine
end

section
/-! COMPLETION_WRITTEN, stated whole (R49, R51 to R56). -/

namespace Sys2Proof.Machine

open Sys2Proof

/-- A record not queued is not changed by the waking of requests. -/
theorem Woke.eq_of_not_queued {r q : Request} (h : Woke r q) (hq : r.queued = false) : q = r := by
  rcases h with rfl | ⟨hr, _⟩
  · rfl
  · simp [Request.queued, hr] at hq

theorem Ends.mem_of_not_queued {pick : Request → Bool} {s t : State} (h : Ends pick s t)
    (hn : (s.wq.records.map Request.id).Nodup) {r : Request} (hr : r ∈ s.wq.records) (hq : r.queued = false) :
    r ∈ t.wq.records := by
  obtain ⟨q, hqt, hrq⟩ := h.stays hn r hr (by rw [hq]; rfl)
  rwa [hrq.eq_of_not_queued hq] at hqt

/-- The state left by COMPLETION_WRITTEN. -/
def State.tookOver (s x : State) (c : Completion) : State := if c.EndsIn s then x.endChain c.info.chain else x

section
variable {c : Completion} {s x : State} (h : Took c s x)
include h

theorem Took.own_eq : ((s.tookOver x c).chain c.info.chain).flags = flagsAfter (s.chain c.info.chain).flags c ∧
    ((s.tookOver x c).chain c.info.chain).inFlight = (s.chain c.info.chain).inFlight - 1 ∧
    ((s.tookOver x c).chain c.info.chain).selector = c.newDefault.getD (s.chain c.info.chain).selector ∧
    ((s.tookOver x c).chain c.info.chain).level = (s.chain c.info.chain).level ∧
    ((s.tookOver x c).chain c.info.chain).next = (s.chain c.info.chain).next := by
  rw [State.tookOver]
  split
  · rw [x.endChain_own c.info.chain]
    exact h.own
  · exact h.own

theorem Took.others_eq {m : Fin 4} (hne : m ≠ c.info.chain) : ((s.tookOver x c).chain m).flags = (s.chain m).flags ∧
    ((s.tookOver x c).chain m).inFlight = (s.chain m).inFlight ∧ ((s.tookOver x c).chain m).state = (s.chain m).state := by
  rw [State.tookOver]
  split
  · rw [x.endChain_chain, State.chainClosed_chain, if_neg hne, h.others m hne]
    split <;> exact ⟨rfl, rfl, rfl⟩
  · rw [h.others m hne]
    exact ⟨rfl, rfl, rfl⟩

theorem Took.faultRaised (hs : c.Stops) : (s.tookOver x c).hp.events.getLsbD 4 = true := by
  have hx : x.hp.events.getLsbD 4 = true := by
    rw [h.events, if_pos hs]
    simp
  rw [State.tookOver]
  split
  · rw [State.endChain_events]
    simp [hx]
  · exact hx

theorem Took.state_eq : ((s.tookOver x c).chain c.info.chain).state =
    if c.EndsIn s then .ended else if c.StopsIn s then .stopping else (s.chain c.info.chain).state := by
  rw [State.tookOver]
  split
  · rw [x.endChain_own]
  · exact h.state

theorem Took.frame_eq : (s.tookOver x c).tm = s.tm ∧ (s.tookOver x c).rdm = s.rdm ∧
    (s.tookOver x c).out = [.hostWrite (wordsAt (c.info.addr + 12) c.words)] := by
  obtain ⟨_, htm, hrdm, hout⟩ := h.frame
  rw [State.tookOver]
  split
  · simp [htm, hrdm, hout]
  · exact ⟨htm, hrdm, hout⟩

theorem Took.ends_all : Ends (fun r => ofChain c.info.chain r || r.isDirect) s (s.tookOver x c) := by
  have hpick : ∀ r q : Request, Woke r q →
      (ofChain c.info.chain q || q.isDirect) = (ofChain c.info.chain r || r.isDirect) := fun r q hrq => by
    rw [ofChain_woke _ r q hrq, hrq.isDirect]
  have hx := h.ends.mono (big := fun r => ofChain c.info.chain r || r.isDirect) fun r hr => by simp [hr]
  rw [State.tookOver]
  split
  · exact hx.trans hpick ((x.endChain_ends _).mono fun r hr => by simp [hr])
  · exact hx

/-- MAINTENANCE is not left: the engine and the adapter stand, and the records of other chains. -/
theorem Took.stands (hn : NamesFresh s) (hno : ¬ (c.EndsIn s ∧ s.hp.maintaining = some c.info.chain)) :
    (s.tookOver x c).te = s.te ∧ (s.tookOver x c).hp.adapter = s.hp.adapter ∧
      ∀ r ∈ s.wq.records, r.elem.chain ≠ c.info.chain → ∃ q ∈ (s.tookOver x c).wq.records, Woke r q := by
  have hrec (r : Request) (hr : r ∈ s.wq.records) (hc : r.elem.chain ≠ c.info.chain) :=
    h.ends.stays hn.1.1 r hr (by simp [ofChain, hc])
  rw [State.tookOver]
  split
  · rename_i he
    obtain ⟨⟨p, hp⟩, hte, ha⟩ := x.endChain_other c.info.chain (by rw [h.port.2]; exact fun hm => hno ⟨he, hm⟩)
    refine ⟨hte.trans h.frame.1, ha.trans h.port.1, fun r hr hc => ?_⟩
    obtain ⟨q, hq, hrq⟩ := hrec r hr hc
    exact ⟨q.woken p, hp ▸ List.mem_map_of_mem hq, hrq.trans (woke_woken q p)⟩
  · exact ⟨h.frame.1, h.port.1, hrec⟩

theorem Took.maintenance (hn : NamesFresh s) (he : c.EndsIn s ∧ s.hp.maintaining = some c.info.chain)
    (hq : ∀ r, s.activeRequest = some r → r.queued = false) : (s.tookOver x c).te = { s.te with
      maintenanceOver := s.te.maintenanceOver || s.activeRequest.any Request.isDirect } := by
  rw [State.tookOver, if_pos he.1, x.endChain_maintaining _ (h.port.2.trans he.2), h.frame.1,
    h.ends.activeRequest_any (by rw [h.frame.1]) hn.1.1 hq]

end

/-- The work of a chain that stops with a completion is shed (R54). -/
theorem State.tookOver_sheds {s : State} {c : Completion} (hn : NamesFresh s) (hs : c.StopsIn s) :
    WorkShed s (s.tookOver ((s.completionTaken c).stopped c.info.chain .aborted none) c) c.info.chain .aborted none ∧
      HoldsStopped s (s.tookOver ((s.completionTaken c).stopped c.info.chain .aborted none) c) c.info.chain .aborted none := by
  obtain ⟨_, _, _, _, hwq, hhm, hlu, ha, _⟩ := s.completionTaken_frame c
  have hown := s.completionTaken_own c
  have hstopped := (s.completionTaken c).stopped_chain c.info.chain .aborted none c.info.chain
  rw [if_pos rfl] at hstopped
  have htook := s.stopped_took c hs
  generalize hx : (s.completionTaken c).stopped c.info.chain .aborted none = x at *
  have hset : Settled x (s.tookOver x c) := by
    rw [State.tookOver]
    split
    · exact x.endChain_settled _
    · exact .refl x
  have hrec : ∀ q ∈ (s.tookOver x c).wq.records, q.elem.chain = c.info.chain → q.queued = false := by
    intro q hq hqn
    have hends : Ends Request.isDirect x (s.tookOver x c) := by
      rw [State.tookOver]
      split
      · exact x.endChain_ends _
      · exact .refl x
    obtain ⟨r, hr, hrq⟩ := hends.back q hq
    rw [hrq.queued]
    exact (s.completionTaken c).stopped_unqueued _ _ _ r (hx ▸ hr) (by rw [← hrq.elem]; exact hqn)
  have hends : ((s.tookOver x c).chain c.info.chain).held = none ∧
      ((s.tookOver x c).chain c.info.chain).wait = ⟨false, false, false, false⟩ ∧
      ((s.tookOver x c).chain c.info.chain).fetchDue = false ∧
      ((s.tookOver x c).chain c.info.chain).selector = ((s.completionTaken c).chain c.info.chain).selector := by
    rw [State.tookOver]
    split
    · rw [x.endChain_own, hstopped]
      exact ⟨rfl, rfl, rfl, rfl⟩
    · rw [hstopped]
      exact ⟨rfl, rfl, rfl, rfl⟩
  obtain ⟨hheld, hwait, hdue, hsel⟩ := hends
  have hsheds : WorkShed (s.completionTaken c) (s.tookOver x c) c.info.chain .aborted none :=
    workShed_after (s.completionTaken c) c.info.chain .aborted none (by rw [hx]; exact hset.sheds)
      (by rw [hx]; exact hset.fetchNew _) hrec hheld hwait hdue hsel
  have hstops : HoldsStopped (s.completionTaken c) (s.tookOver x c) c.info.chain .aborted none :=
    holdsStopped_after (s.completionTaken c) c.info.chain .aborted none (s.completionTaken_names c hn)
      (by simp) (by rw [hx]; exact hset)
  obtain ⟨h1, h2, h3, h4, h5, h6, h7⟩ := hsheds
  rw [hwq] at h6
  refine ⟨⟨h1, h2, h3, h4, h5, h6, fun a k hh hk => h7 a k ?_ hk⟩, fun y hy hc a hh => ?_⟩
  · rw [hown]
    exact hh
  · obtain ⟨hc', hgone, hfree⟩ := hstops y (by rw [hhm]; exact hy) hc a hh
    exact ⟨hc', hgone, fun hcl hsil => hfree hcl (by rw [ha]; exact hsil)⟩

end Sys2Proof.Machine
end

section
/-! The completion taken by its chain: the obligation. -/

namespace Sys2Proof.Machine

open Sys2Proof

theorem FetchWait.any_eq_false {w : FetchWait} : w.any = false ↔ w = noWait := by
  rcases w with ⟨_ | _, _ | _, _ | _, _ | _⟩ <;> decide

theorem FetchWait.any_eq_true {w : FetchWait} : w.any = true ↔ w ≠ noWait := by
  rw [ne_eq, ← FetchWait.any_eq_false, Bool.not_eq_false]

/-- What becomes of the reasons and of the next fetch while the chain stays RUNNING (R49, R61). -/
theorem State.fetchFollows_reasons {s : State} {c : Completion} (hr : (s.chain c.info.chain).state = .running) :
    let x := (s.completionTaken c).fetchFollows c
    let left := c.endsReasons (s.chain c.info.chain).wait
    let asks := c.asksNext = true ∨ (s.chain c.info.chain).fetchDue = true
    (x.chain c.info.chain).wait = left ∧
      (left ≠ noWait → x.hp.waiting = s.hp.waiting ∧ ((x.chain c.info.chain).fetchDue = true ↔ asks)) ∧
      (left = noWait → asks → (s.chain c.info.chain).wait ≠ noWait ∨ (s.chain c.info.chain).fetchDue = false →
        .fetch c.info.chain ∈ x.hp.waiting ∧ (x.chain c.info.chain).fetchDue = false) := by
  intro x left asks
  obtain ⟨_, _, _, _, _, _, _, _, _, hcur, hwaiting, _⟩ := s.completionTaken_frame c
  have htaken := s.completionTaken_own c
  have hown := (s.completionTaken c).fetchFollows_own c
  rw [htaken] at hown
  have hrun : ((s.completionTaken c).chain c.info.chain).state = .running := by rw [htaken]; exact hr
  refine ⟨by rw [hown]; rfl, fun hleft => ⟨?_, ?_⟩, fun hleft hasks hone => ⟨?_, ?_⟩⟩
  · exact (State.fetchFollows_waits hrun (by rw [htaken]; exact FetchWait.any_eq_true.mpr hleft)).trans hwaiting
  · have hany : left.any = true := FetchWait.any_eq_true.mpr hleft
    have hwas : (s.chain c.info.chain).wait.any = true := by
      simp only [left, Completion.endsReasons, FetchWait.any, Bool.or_eq_true, Bool.and_eq_true] at hany ⊢
      tauto
    have hdue : (x.chain c.info.chain).fetchDue = (((s.chain c.info.chain).fetchDue || (c.asksNext &&
        ((s.chain c.info.chain).state == .running) && (s.chain c.info.chain).wait.any)) && left.any) := by
      rw [hown]
      rfl
    rw [hdue, hany, hwas, hr]
    simp [asks, or_comm]
  · by_cases hwas : (s.chain c.info.chain).wait = noWait
    · have hdue := hone.resolve_left (not_not_intro hwas)
      have hnext := hasks.resolve_right (by rw [hdue]; simp)
      have heq := State.fetchFollows_asks hrun (by rw [htaken]; exact hwas) (by rw [htaken]; exact hdue) hnext
      simp only [x]
      rw [heq]
      split
      · rename_i hin
        exact hin.resolve_right (by simp [hcur])
      · exact List.mem_append_right _ (List.mem_singleton_self _)
    · exact State.fetchFollows_fetches hrun (by rw [htaken]; exact FetchWait.any_eq_true.mpr hwas)
        (by rw [htaken]; exact FetchWait.any_eq_false.mpr hleft) (by rw [htaken]; exact hasks) hcur
  · rw [hown]
    exact Bool.and_eq_false_iff.mpr (.inr (FetchWait.any_eq_false.mpr hleft))

/-- The plain case: the next fetch is asked, and that is all. -/
theorem State.fetchFollows_plain {s : State} {c : Completion} (hr : (s.chain c.info.chain).state = .running)
    (hl : c.info.last = false) (ha : c.asksNext = true) (hf : ¬ c.Stops)
    (hw : (s.chain c.info.chain).wait = noWait) (hd : (s.chain c.info.chain).fetchDue = false)
    (hn : .fetch c.info.chain ∉ s.hp.waiting) : (s.completionTaken c).fetchFollows c = { s with
      out := [.hostWrite (wordsAt (c.info.addr + 12) c.words)]
      chains := s.chains.set c.info.chain { s.chain c.info.chain with
        flags := flagsAfter (s.chain c.info.chain).flags c
        inFlight := (s.chain c.info.chain).inFlight - 1
        selector := c.newDefault.getD (s.chain c.info.chain).selector }
      hp := { s.hp with current := none, waiting := s.hp.waiting ++ [.fetch c.info.chain] } } := by
  have htaken := s.completionTaken_own c
  have heq := State.fetchFollows_asks (s := s.completionTaken c) (c := c) (by rw [htaken]; exact hr)
    (by rw [htaken]; exact hw) (by rw [htaken]; exact hd) ha
  have hsame : s.completionTaken c = s.recordTaken c := by rw [State.completionTaken, State.faultRaised, if_neg hf]
  have hend : (s.chain c.info.chain).take c = { s.chain c.info.chain with
      flags := flagsAfter (s.chain c.info.chain).flags c
      inFlight := (s.chain c.info.chain).inFlight - 1
      selector := c.newDefault.getD (s.chain c.info.chain).selector } := by
    rw [Chain.take, hl, Bool.or_false]
  rw [heq, hsame, if_neg (by simpa [State.recordTaken] using hn), State.recordTaken, hend]
  rfl

/-- Settles O15: the record taken, the chain stopped or gone on, and its end. -/
theorem completionIsTakenByTheChain : Obligations.CompletionIsTakenByTheChain := by
  intro c s hcur n u f ends
  obtain ⟨x, hx, hexec, hstop, hgo⟩ := exec_completionWritten_took hcur
  have hstate := hx.state_eq
  have hnone : u.state = .running → u.endNoted = false → c.info.last = false → ¬ f →
      s.tookOver x c = (s.completionTaken c).fetchFollows c := by
    intro hr he hl hf
    have hno : ¬ c.EndsIn s := by
      rintro ⟨_, h | ⟨_, h | h | h⟩⟩
      · exact absurd (hr.symm.trans h) (by simp)
      · exact hf h
      · exact absurd (he.symm.trans h) (by simp)
      · exact absurd (hl.symm.trans h) (by simp)
    rw [State.tookOver, if_neg hno, hgo fun h => hf h.2]
  obtain ⟨hflags, hflight, hselector, hlevel, hnext⟩ := hx.own_eq
  obtain ⟨htm, hrdm, hout⟩ := hx.frame_eq
  refine ⟨s.tookOver x c, hexec, hout, hflags, hflight, hselector, hlevel, hnext, fun m hm => hx.others_eq hm,
    fun hf => ⟨hx.faultRaised hf, ?_⟩, fun he => ⟨?_, ?_⟩, fun he => ⟨fun hr hf => ?_, fun hno => ?_⟩,
    fun hn => ⟨fun hf hr => ?_, fun he => ?_, fun hno => ?_, fun he hq => hx.maintenance hn he hq,
      fun r hr hq => hx.ends_all.mem_of_not_queued hn.1.1 hr hq⟩,
    fun hf he => ?_, htm, hrdm, fun hr he hl hf => ?_, fun hr he hl ha hf hw hd hwaiting => ?_⟩
  · rw [hstate]
    split
    · simp
    · split
      · simp
      · rename_i hno
        exact fun hr => hno ⟨hr, hf⟩
  · rw [hstate, if_pos he]
  · rw [State.tookOver, if_pos he, State.endChain_events]
    have := n.isLt
    simp only [BitVec.getLsbD_or, BitVec.getLsbD_twoPow]
    simp [n]
    omega
  · rw [hstate, if_neg he, if_pos ⟨hr, hf⟩]
  · rw [hstate, if_neg he, if_neg hno]
  · have hsheds := State.tookOver_sheds hn ⟨hr, hf⟩
    rwa [← hstop ⟨hr, hf⟩] at hsheds
  · rw [State.tookOver, if_pos he]
    exact hx.ended hn
  · obtain ⟨hte, ha, hrec⟩ := hx.stands hn hno
    refine ⟨hte, ha, fun r hr hc => ?_⟩
    obtain ⟨q, hq, rfl | ⟨hw, rfl⟩⟩ := hrec r hr hc
    · exact .inl hq
    · exact .inr ⟨hw, hq⟩
  · rw [State.tookOver, if_neg he]
    exact hx.left fun h => hf h.2
  · obtain ⟨hwait, hstays, hasks⟩ := State.fetchFollows_reasons (c := c) hr
    rw [hnone hr he hl hf]
    refine ⟨?_, hwait, hstays, hasks⟩
    rw [State.fetchFollows_own, State.completionTaken_own]
    exact hr
  · rw [hnone hr he hl hf]
    exact State.fetchFollows_plain hr hl ha hf hw hd hwaiting

end Sys2Proof.Machine
end

section
/-! What the end of the engine's request, and what follows it, leave of holds, FREEs, fetches and the records of a chain
that stops (R82, R97, R110, R136, R137). -/

namespace Sys2Proof.Machine

open Sys2Proof

/-! Holds, FREEs and fetches. -/

theorem Settled.of_asks {s t : State} (ha : Asks s t) (hwq : t.wq = s.wq) (had : t.hp.adapter = s.hp.adapter)
    (hhm : t.hm = s.hm) (hf : t.lu.frames = s.lu.frames) (hw : ∀ m, .fetch m ∈ t.hp.waiting ↔ .fetch m ∈ s.hp.waiting)
    (hc : t.chains = s.chains) : Settled s t :=
  .of_frame ⟨ha, by rw [hwq]⟩ (fun h => by simpa only [NamesFresh, hwq, hhm] using h) had hhm hf hw
    (fun m h => by simpa only [State.chain, hc] using h)

theorem State.discardBuf_settled (s : State) (n : BufferName) : Settled s (s.discardBuf n) := by
  refine .of_asks (s.discardBuf_asks n) (by simp) (by simp) (by simp) (by simp) (fun m => ?_) (by simp)
  simp only [State.discardBuf]
  repeat' split
  all_goals first
    | exact .rfl
    | simp [Transfer.loads]

theorem State.idleEngine_settled (s : State) : Settled s s.idleEngine := by
  have horder : Settled s (s.withdraw FrameBody.isOrder) := s.withdraw_settled fun b h => by
    cases b <;> simp_all [FrameBody.isFree, FrameBody.isOrder]
  have hidle (u : State) (f : Engine → Engine) : Settled u (u.onTe f) := .of_eq rfl rfl rfl rfl rfl rfl rfl
  rw [State.idleEngine, State.discardData]
  exact horder.trans ((State.discardBuf_settled _ _).trans ((State.discardBuf_settled _ _).trans (hidle _ _)))

theorem State.finish_settled (s : State) (st : Status) (f : Option ElementFault) (m : Bool) :
    Settled s (s.finish st f m) := by
  simp only [State.finish]
  split
  · exact s.idleEngine_settled
  · exact (s.completeRequest_settled _ st f m).trans (State.idleEngine_settled _)

/-- Records changed at their places. -/
theorem State.onWq_settled (s : State) {f : Request → Request} (hf : ∀ r, (f r).id = r.id ∧ (f r).hold = r.hold) :
    Settled s (s.onWq fun q => { q with records := q.records.map f }) :=
  .of_frame ⟨.of_eq rfl rfl, by simp [Function.comp_def, hf]⟩
    (fun h => by simpa [NamesFresh, Function.comp_def, hf] using h) rfl rfl rfl (fun _ => .rfl) fun _ h => h

theorem State.onRequest_settled (s : State) (id : Nat) {f : Request → Request} (hf : ∀ r, (f r).id = r.id ∧ (f r).hold = r.hold) :
    Settled s (s.onRequest id f) :=
  s.onWq_settled (f := fun r => if r.id == id then f r else r) fun r => by split <;> simp [hf]

theorem State.handBack_settled (s : State) (q : Request → RequestState) : Settled s (s.handBack q) := by
  rcases s.handBack_cases q with ⟨h, _⟩ | ⟨r, _, ⟨_, h⟩ | ⟨_, h⟩⟩ <;> rw [h]
  · exact s.idleEngine_settled
  · exact s.finish_settled _ _ _
  · exact (s.onRequest_settled r.id (f := fun x => { x with state := q x }) fun _ => ⟨rfl, rfl⟩).trans (State.idleEngine_settled _)

theorem State.onTe_settled (s : State) (f : Engine → Engine) : Settled s (s.onTe f) := .of_eq rfl rfl rfl rfl rfl rfl rfl

theorem State.onTm_settled (s : State) (f : TenureManager → TenureManager) : Settled s (s.onTm f) :=
  .of_eq rfl rfl rfl rfl rfl rfl rfl

theorem State.retarget_settled {s : State} (hs : s.hp.adapter ≠ .silenced) (c : Nat) :
    Settled s (s.onLu fun l => l.retarget c) :=
  { Settled.refl s with
    sheds := .of_eq rfl rfl rfl
    names := fun h => h
    quiet := fun h => absurd h hs
    frees := by
      have hsame (l : List Frame) : ((l.map fun f => if f.body.isTenure then { f with body := .tenure c } else f).filter
          fun f => f.body.isFree) = l.filter fun f => f.body.isFree := by
        induction l with
        | nil => rfl
        | cons f l ih =>
          rw [List.map_cons, List.filter_cons, List.filter_cons, ih]
          by_cases h : f.body.isTenure = true
          · have hno : f.body.isFree = false := by
              cases hb : f.body <;> simp_all [FrameBody.isTenure, FrameBody.isFree]
            have hnew : (FrameBody.tenure c).isFree = false := rfl
            rw [if_pos h, hno, hnew]
            rfl
          · rw [if_neg h]
      simp only [State.freesOf, State.onLu_lu, LineUnit.retarget, hsame]
      exact .refl _
    forth := fun _ y hy => .inl ⟨y, hy, .refl y⟩ }

section
variable {s : State} (hs : s.hp.adapter ≠ .silenced)
include hs

theorem State.askTenure_settled (c : Nat) : Settled s (s.askTenure c) := by
  have htm := s.onTm_settled fun t => { t with own := .asking c }
  have hoffer (u : State) : Settled u (u.offer (.tenure c)) := u.offer_settled _
  have hretarget := State.retarget_settled hs c
  simp only [State.askTenure, State.reannounce]
  repeat' split
  · exact .refl s
  · exact htm
  · exact htm.trans (hoffer _)
  · exact .refl s
  · exact hretarget
  · exact .refl s
  · exact hoffer s
  · exact .refl s

theorem State.positionAt_settled : Settled s s.positionAt := by
  have hphase (p : Phase) : Settled s (s.setPhase p) := s.onTe_settled _
  have hwait : Settled s s.waitTenure :=
    (hphase .tenureWait).trans (State.askTenure_settled (s := s.setPhase .tenureWait) hs _)
  have horder (u : State) : Settled u u.tryOrder := by
    simp only [State.tryOrder]
    repeat' split
    · exact .refl u
    · exact u.offer_settled _
    · exact .refl u
  have hlead : Settled s s.enterLead := (s.onTe_settled _).trans (horder _)
  have hsettle : Settled s s.enterSettle := s.onTe_settled _
  have hsuspend : Settled s s.suspend := s.handBack_settled _
  have hphase := hphase .tenureWait
  grind only [State.positionAt]

theorem State.position_settled : Settled s s.position := by
  simp only [State.position]
  split
  · exact .refl s
  · exact (s.onTe_settled _).trans (State.positionAt_settled (s := s.onTe _) hs)

end

theorem State.loadAhead_settled (s : State) : Settled s s.loadAhead := by
  refine .of_asks s.loadAhead_carries.sheds.1 (by simp) (by simp) (by simp) (by simp) (fun m => ?_) (by simp)
  have hone (u : State) (r : Request) : .fetch m ∈ (u.loadOne r).hp.waiting ↔ .fetch m ∈ u.hp.waiting := by
    simp only [State.loadOne]
    split
    · rename_i n i _ _
      cases n <;> simp [State.setBuf, State.askTransfer, State.onHp, State.onTe]
    · rfl
  simp only [State.loadAhead]
  repeat' split
  · rfl
  · exact (hone _ _).trans (hone _ _)
  · rfl

theorem State.takeRequest_settled {s : State} (hs : s.hp.adapter ≠ .silenced) (r : Request) : Settled s (s.takeRequest r) := by
  have htake := s.onRequest_settled r.id (f := fun x => { x with state := .active }) fun _ => ⟨rfl, rfl⟩
  simp only [State.takeRequest]
  exact htake.trans ((State.onTe_settled _ _).trans ((State.loadAhead_settled _).trans
    (State.position_settled (by simpa using hs))))

theorem State.select_settled (s : State) : Settled s s.select := by
  have hform : Settled s s.formEligible := s.onWq_settled fun r => by split <;> exact ⟨rfl, rfl⟩
  by_cases hs : s.hp.adapter = .silenced
  · rw [State.select_of_none fun q _ => by simp [State.eligible, State.adapterSelects, hs]]
    exact .refl s
  · rcases s.select_cases with ⟨h, _⟩ | ⟨_, ⟨h, _⟩ | ⟨q, _, h⟩⟩ <;> rw [h]
    · exact .refl s
    · exact hform
    · exact hform.trans (State.takeRequest_settled (s := s.formEligible) hs q)

theorem State.offerRelease_settled (s : State) : Settled s s.offerRelease := by
  simp only [State.offerRelease, State.offerReleaseOnce]
  repeat' split
  · exact .refl s
  · exact s.offer_settled _
  · exact .refl s

theorem State.endTenure_settled (s : State) : Settled s s.endTenure := by
  have hsuspend (u : State) : Settled u u.suspendAfterExchange := by
    simp only [State.suspendAfterExchange]
    repeat' split
    · exact .refl u
    · exact .refl u
    · exact u.onTe_settled _
    · exact u.handBack_settled _
  have hwithdraw (u : State) : Settled u (u.withdraw FrameBody.isTenure) := u.withdraw_settled fun b h => by
    cases b <;> simp_all [FrameBody.isFree, FrameBody.isTenure]
  simp only [State.endTenure]
  split
  · exact (s.onTm_settled _).trans ((hwithdraw _).trans ((hsuspend _).trans (State.offerRelease_settled _)))
  · exact .refl s

theorem State.engineIdled_settled (s : State) : Settled s s.engineIdled := by
  have htest (u : State) : Settled u u.idleTenureTest := by
    simp only [State.idleTenureTest]
    split
    · exact u.endTenure_settled
    · exact .refl u
  exact s.select_settled.trans ((htest _).trans (State.offerRelease_settled _))

theorem State.endRequest_settled (s : State) (st : Status) (f : Option ElementFault) (m : Bool) :
    Settled s (s.endRequest st f m) := (s.finish_settled st f m).trans (State.engineIdled_settled _)

end Sys2Proof.Machine
end

section
/-! The ACTIVE request of an aborted chain (R43, R88), and what its end leaves of the chain that stops. -/

namespace Sys2Proof.Machine

open Sys2Proof

set_option Elab.async false

/-- No request of the chain is queued, and the engine works on none of it. -/
structure Cleared (n : Fin 4) (s : State) : Prop where
  names : (s.wq.records.map Request.id).Nodup
  queued : ∀ q ∈ s.wq.records, q.elem.chain = n → q.queued = false
  engine : ∀ q ∈ s.wq.records, s.te.request = some q.id → q.elem.chain ≠ n

section
variable {n : Fin 4} {s t : State}

/-- Records changed at their places; those of the chain stay as they are. -/
theorem Cleared.mapRecords (h : Cleared n s) {f : Request → Request} (hwq : t.wq.records = s.wq.records.map f)
    (hf : ∀ r, (f r).id = r.id ∧ (f r).elem = r.elem)
    (hq : ∀ r ∈ s.wq.records, r.elem.chain = n → r.queued = false → (f r).queued = false)
    (hte : ∀ r ∈ s.wq.records, t.te.request = some r.id → r.elem.chain ≠ n) : Cleared n t where
  names := by simpa [hwq, Function.comp_def, hf] using h.names
  queued q hqm hqn := by
    obtain ⟨r, hr, rfl⟩ := List.mem_map.mp (hwq ▸ hqm)
    have hn : r.elem.chain = n := by rw [← (hf r).2]; exact hqn
    exact hq r hr hn (h.queued r hr hn)
  engine q hqm hqe := by
    obtain ⟨r, hr, rfl⟩ := List.mem_map.mp (hwq ▸ hqm)
    rw [(hf r).2]
    exact hte r hr (by rw [← (hf r).1]; exact hqe)

theorem Cleared.of_frame (h : Cleared n s) (hwq : t.wq = s.wq) (hte : t.te.request = s.te.request ∨ t.te.request = none) :
    Cleared n t :=
  h.mapRecords (f := id) (by simp [hwq]) (fun _ => ⟨rfl, rfl⟩) (fun _ _ _ hq => hq) fun r hr he => by
    rcases hte with hte | hte <;> rw [hte] at he
    · exact h.engine r hr he
    · simp at he

theorem Cleared.sublist (h : Cleared n s) (hwq : t.wq.records.Sublist s.wq.records) (hte : t.te.request = s.te.request) :
    Cleared n t where
  names := h.names.sublist (hwq.map _)
  queued q hq := h.queued q (hwq.subset hq)
  engine q hq he := h.engine q (hwq.subset hq) (by rw [← hte]; exact he)

theorem Cleared.woken (h : Cleared n s) (k : Woken s t) (hte : t.te.request = s.te.request) : Cleared n t := by
  obtain ⟨p, hp⟩ := k
  exact h.mapRecords hp (fun r => ⟨(woke_woken r p).id, (woke_woken r p).elem⟩)
    (fun r _ _ hq => (woke_woken r p).queued.trans hq) fun r hr he => h.engine r hr (by rw [← hte]; exact he)

theorem State.completeRequest_cleared (h : Cleared n s) (r : Request) (st : Status) (f : Option ElementFault) (m : Bool) :
    Cleared n (s.completeRequest r st f m) := by
  obtain ⟨_, _, u, hu, hl⟩ := s.leaveQueue_leaves r st f m (s.hm.peerSilent r.hold)
  have hte : (s.completeRequest r st f m).te.request = s.te.request := by simp
  have hrec : (s.completeRequest r st f m).wq.records.Sublist u.wq.records := by
    rw [State.completeRequest, hl]
    exact List.filter_sublist
  obtain ⟨p, hp⟩ := hu
  have hw : Cleared n { u with te := s.te } := h.woken ⟨p, hp⟩ rfl
  exact hw.sublist hrec hte

theorem State.idleEngine_cleared (h : Cleared n s) : Cleared n s.idleEngine :=
  h.of_frame (by simp) (.inr rfl)

theorem State.finish_cleared (h : Cleared n s) (st : Status) (f : Option ElementFault) (m : Bool) :
    Cleared n (s.finish st f m) := by
  simp only [State.finish]
  split
  · exact State.idleEngine_cleared h
  · exact State.idleEngine_cleared (State.completeRequest_cleared h _ st f m)

/-- The engine's record changes its state. -/
theorem State.onRequest_cleared (h : Cleared n s) {r : Request} (hr : s.activeRequest = some r) (st : Request → RequestState) :
    Cleared n (s.onRequest r.id fun x => { x with state := st x }) := by
  obtain ⟨_, hreq⟩ := State.activeRequest_mem hr
  refine h.mapRecords (f := fun q => if q.id == r.id then { q with state := st q } else q) rfl
    (fun q => by split <;> exact ⟨rfl, rfl⟩) (fun q hq hn hqq => ?_) fun q hq he => h.engine q hq he
  split
  · rename_i hid
    exact absurd hn (h.engine q hq (by rw [hreq, (by simpa using hid : q.id = r.id)]))
  · exact hqq

theorem State.handBack_cleared (h : Cleared n s) (st : Request → RequestState) : Cleared n (s.handBack st) := by
  rcases s.handBack_cases st with ⟨hb, _⟩ | ⟨r, ha, ⟨_, hb⟩ | ⟨_, hb⟩⟩ <;> rw [hb]
  · exact State.idleEngine_cleared h
  · exact State.finish_cleared h _ _ _
  · exact State.idleEngine_cleared (State.onRequest_cleared h ha st)

theorem State.position_cleared (h : Cleared n s) : Cleared n s.position := by
  simp only [State.position]
  split
  · exact h
  · rename_i r _
    have hp : Cleared n (s.onTe fun t => { t with sector := r.done, target := s.nextTarget r }) := h.of_frame rfl (.inl rfl)
    rcases State.positionAt_cases (s.onTe fun t => { t with sector := r.done, target := s.nextTarget r }) with hs | ⟨h1, h2, _⟩
    · rw [hs]
      exact State.handBack_cleared hp _
    · exact hp.of_frame h1 (.inl h2)

theorem State.select_cleared (h : Cleared n s) : Cleared n s.select := by
  have hform : Cleared n s.formEligible := by
    refine h.mapRecords (f := fun r => if s.eligible r then s.withCost r else r) rfl (fun r => by split <;> exact ⟨rfl, rfl⟩)
      (fun r _ _ hq => ?_) h.engine
    split
    · exact hq
    · exact hq
  rcases s.select_cases with ⟨hs, _⟩ | ⟨_, ⟨hs, _⟩ | ⟨r, hc, hs⟩⟩ <;> rw [hs]
  · exact h
  · exact hform
  · obtain ⟨hrm, hre⟩ := State.choice_mem hc
    have hother : ∀ q ∈ s.formEligible.wq.records, q.id = r.id → q.elem.chain ≠ n := by
      intro q hq hid hn
      obtain rfl := List.inj_on_of_nodup_map hform.names hq hrm hid
      have := hform.queued q hq hn
      simp [Request.queued, State.eligible_ready hre] at this
    simp only [State.takeRequest]
    refine State.position_cleared (Cleared.of_frame (s := ((s.formEligible.onRequest r.id fun x => { x with state := .active }).onTe
      fun t => { t with
        request := some r.id
        sector := r.done
        target := (s.formEligible.onRequest r.id fun x => { x with state := .active }).nextTarget r
        lastSlip := .none
        maintenanceOver := false })) ?_ (by simp) (.inl (by simp [State.loadAhead_te])))
    refine hform.mapRecords (f := fun q => if q.id == r.id then { q with state := .active } else q) rfl
      (fun q => by split <;> exact ⟨rfl, rfl⟩) (fun q _ _ hq => ?_) fun q hq he => hother q hq (Option.some.inj he).symm
    split
    · rfl
    · exact hq

theorem State.endTenure_cleared (h : Cleared n s) : Cleared n s.endTenure := by
  have hsuspend {u : State} (hu : Cleared n u) : Cleared n u.suspendAfterExchange := by
    simp only [State.suspendAfterExchange]
    repeat' split
    · exact hu
    · exact hu
    · exact hu.of_frame rfl (.inl rfl)
    · exact State.handBack_cleared hu _
  simp only [State.endTenure]
  split
  · rename_i c k _
    have hended : Cleared n ((s.setOwn (.ending c k)).withdraw FrameBody.isTenure) := h.of_frame rfl (.inl rfl)
    exact (hsuspend hended).of_frame (by simp) (.inl (by simp))
  · exact h

theorem State.engineIdled_cleared (h : Cleared n s) : Cleared n s.engineIdled := by
  have htest {u : State} (hu : Cleared n u) : Cleared n u.idleTenureTest := by
    simp only [State.idleTenureTest]
    split
    · exact State.endTenure_cleared hu
    · exact hu
  exact (htest (State.select_cleared h)).of_frame (by simp [State.engineIdled]) (.inl (by simp [State.engineIdled]))

end

end Sys2Proof.Machine
end

section
/-! ABORT_CHAIN (R43, R54, R88, R173). -/

namespace Sys2Proof.Machine

open Sys2Proof

/-- What the end of the ACTIVE request leaves: chains, adapter, attention and monitor besides. -/
structure AbortKept (s t : State) : Prop where
  settled : Settled s t
  chains : t.chains = s.chains
  port : t.hp.adapter = s.hp.adapter ∧ t.hp.maintaining = s.hp.maintaining ∧ t.hp.events = s.hp.events
  rdm : t.rdm = s.rdm

theorem AbortKept.refl (s : State) : AbortKept s s := ⟨.refl s, rfl, ⟨rfl, rfl, rfl⟩, rfl⟩

/-- The engine's request is turned ENDING. -/
def State.turnedEnding (s : State) (id : Nat) : State := s.onRequest id fun x => { x with state := .ending }

theorem State.abortActive_cases (s : State) (n : Fin 4) :
    s.abortActive n = s ∧ (∀ r, s.activeRequest = some r → r.elem.chain = n → r.state ≠ .active) ∨
      ∃ r, s.activeRequest = some r ∧ r.elem.chain = n ∧ r.state = .active ∧
        s.abortActive n = if s.exchangeInProgress then s.turnedEnding r.id
          else (s.turnedEnding r.id).endRequest .aborted none false := by
  simp only [State.abortActive]
  split
  · rename_i h
    exact .inl ⟨rfl, fun r hr => by simp [h] at hr⟩
  · rename_i r hr
    by_cases hc : r.elem.chain = n ∧ r.state = .active
    · rw [if_pos hc]
      exact .inr ⟨r, hr, hc.1, hc.2, rfl⟩
    · rw [if_neg hc]
      refine .inl ⟨rfl, fun q hq h1 h2 => hc ?_⟩
      obtain rfl : r = q := by simpa [hr] using hq
      exact ⟨h1, h2⟩

theorem State.turnedEnding_settled (s : State) (id : Nat) : Settled s (s.turnedEnding id) :=
  s.onRequest_settled id (f := fun x => { x with state := .ending }) fun _ => ⟨rfl, rfl⟩

theorem State.abortActive_kept (s : State) (n : Fin 4) : AbortKept s (s.abortActive n) := by
  rcases s.abortActive_cases n with ⟨h, _⟩ | ⟨r, _, _, _, h⟩
  · rw [h]
    exact .refl s
  · have hturn : AbortKept s (s.turnedEnding r.id) := ⟨s.turnedEnding_settled r.id, rfl, ⟨rfl, rfl, rfl⟩, rfl⟩
    rw [h]
    split
    · exact hturn
    · obtain ⟨hset, hc, ⟨ha, hm, he⟩, hr⟩ := hturn
      have hend := (s.turnedEnding r.id).endRequest_engineKept .aborted none false
      exact ⟨hset.trans (State.endRequest_settled _ _ _ _), hend.chains.trans hc,
        ⟨hend.adapter.trans ha, hend.1.2.2.1.trans hm, hend.events.trans he⟩, hend.rdm.trans hr⟩

/-- The records left are records that stood. -/
theorem State.finish_records (s : State) (st : Status) (f : Option ElementFault) (m : Bool) :
    ∀ q ∈ (s.finish st f m).wq.records, ∃ r ∈ s.wq.records, Woke r q := by
  intro q hq
  simp only [State.finish] at hq
  split at hq
  · exact ⟨q, by simpa using hq, .refl q⟩
  · rename_i r _
    obtain ⟨_, _, u, ⟨p, hp⟩, hl⟩ := s.leaveQueue_leaves r st f m (s.hm.peerSilent r.hold)
    simp only [State.idleEngine_frame, State.completeRequest, hl] at hq
    obtain ⟨v, hv, rfl⟩ := List.mem_map.mp (hp ▸ List.mem_of_mem_filter hq)
    exact ⟨v, hv, woke_woken v p⟩

/-- No queued request of the chain comes of it. -/
theorem State.abortActive_unqueued {s : State} {n : Fin 4} (hn : (s.wq.records.map Request.id).Nodup)
    (hq : ∀ q ∈ s.wq.records, q.elem.chain = n → q.queued = false) :
    ∀ q ∈ (s.abortActive n).wq.records, q.elem.chain = n → q.queued = false := by
  have hturn (id : Nat) : ∀ q ∈ (s.turnedEnding id).wq.records, q.elem.chain = n → q.queued = false := by
    intro q hqm
    obtain ⟨p, hp, rfl⟩ := List.mem_map.mp hqm
    split
    · exact fun _ => rfl
    · exact hq p hp
  rcases s.abortActive_cases n with ⟨h, _⟩ | ⟨r, ha, hrn, _, h⟩
  · rwa [h]
  · rw [h]
    split
    · exact hturn r.id
    · have hids : (s.turnedEnding r.id).wq.records.map Request.id = s.wq.records.map Request.id :=
        WorkQueue.modify_ids _ _ fun _ => rfl
      have hfree : ((s.turnedEnding r.id).finish .aborted none false).te.request = none := by
        simp only [State.finish]
        split <;> rfl
      have hback : ∀ q ∈ ((s.turnedEnding r.id).finish .aborted none false).wq.records, q.elem.chain = n → q.queued = false := by
        intro q hqm hqn
        obtain ⟨p, hp, hpq⟩ := State.finish_records _ _ _ _ q hqm
        rw [hpq.queued]
        exact hturn r.id p hp (by rw [← hpq.elem]; exact hqn)
      refine (State.engineIdled_cleared (n := n) ⟨?_, hback, fun q _ he => by simp [hfree] at he⟩).queued
      exact hn.sublist (hids ▸ ((s.turnedEnding r.id).finish_settled .aborted none false).sheds.2)

/-- What becomes of the ACTIVE request of the chain. -/
theorem State.abortActive_ends {s : State} {n : Fin 4} {r : Request} (ha : s.activeRequest = some r)
    (hn : r.elem.chain = n) (hs : r.state = .active) :
    if s.exchangeInProgress then ∃ u ∈ (s.abortActive n).wq.records, u = { r with state := .ending }
    else CompletionAsked (s.abortActive n) r .aborted none ∧ Left (s.abortActive n) r.id := by
  rcases s.abortActive_cases n with ⟨_, h⟩ | ⟨q, hq, _, _, h⟩
  · exact absurd hs (h r ha hn)
  · obtain rfl : r = q := by simpa [ha] using hq
    rw [h]
    by_cases he : s.exchangeInProgress = true
    · rw [if_pos he, if_pos he]
      exact ⟨_, WorkQueue.mem_modify (fun x : Request => { x with state := .ending }) (State.activeRequest_mem ha).1, rfl⟩
    · rw [if_neg he, if_neg he]
      have hact := State.onRequest_activeRequest ha (f := fun x => { x with state := .ending }) fun _ => rfl
      exact State.endRequest_ends hact .aborted none false

/-- The end of a chain stands where the engine's request ends after it, the chain having had a request. -/
theorem ChainEnded.after {s v t : State} {n : Fin 4} (h : ChainEnded s v n) (k : AbortKept v t)
    (hr : ∃ r ∈ s.wq.records, r.elem.chain = n) : ChainEnded s t n := by
  obtain ⟨hset, hc, ⟨ha, hm, he⟩, _⟩ := k
  have hchain (m : Fin 4) : t.chain m = v.chain m := by rw [State.chain, State.chain, hc]
  obtain ⟨h1, h2, h3, h4, h5, h6, h7, h8, h9, _⟩ := h
  rw [ChainEnded, hchain n, he, hm, ha]
  refine ⟨h1, h2, h3, h4, h5, fun y hy hends => ?_, fun hs f hf => ?_, fun hmt => ?_, h9, fun hno => ?_⟩
  · obtain ⟨hgone, hfree⟩ := h6 y hy hends
    refine ⟨hset.gone hgone, fun hcl hs => ?_⟩
    obtain ⟨f, hf, hb⟩ := hfree hcl hs
    exact ⟨f, hset.free_mem hf (by rw [hb]; rfl), hb⟩
  · refine h7 hs f (hset.quiet ?_ f hf)
    by_cases hmt : s.hp.maintaining = some n
    · rw [(h8 hmt).2.1, if_neg (by simp [hs]), hs]
    · rw [(h9 hmt).2, hs]
  · obtain ⟨k1, k2, k3, k4⟩ := h8 hmt
    refine ⟨hm.trans k1, ha.trans k2, fun r hr hd hq => ?_, fun m => ?_⟩
    · obtain ⟨hasked, hleft⟩ := k3 r hr hd hq
      exact ⟨hset.sheds.asked hasked, hset.sheds.left hleft⟩
    · rw [hchain m]
      exact ⟨(k4 m).1, fun g1 g2 g3 g4 g5 => hset.fetchKept m ((k4 m).2 g1 g2 g3 g4 g5)⟩
  · obtain ⟨r, hrm, hrn⟩ := hr
    exact absurd hrn (hno r hrm)

end Sys2Proof.Machine
end

section
/-! ABORT_CHAIN: the obligation. -/

namespace Sys2Proof.Machine

open Sys2Proof

/-- The engine's request, not queued, stands while queued requests end. -/
theorem Ends.activeRequest {pick : Request → Bool} {s t : State} (h : Ends pick s t) (ht : t.te.request = s.te.request)
    (hn : (s.wq.records.map Request.id).Nodup) {r : Request} (ha : s.activeRequest = some r) (hq : r.queued = false) :
    t.activeRequest = some r := by
  obtain ⟨hr, hreq⟩ := State.activeRequest_mem ha
  have hmem := h.mem_of_not_queued hn hr hq
  have hfound := WorkQueue.find_of_mem (hn.sublist h.sheds.2) hmem
  simpa only [State.activeRequest, ht, hreq] using hfound

/-- A chain STOPPING or ENDED at once: the state before the engine's request is looked at. -/
structure ChainStops (s v : State) (n : Fin 4) : Prop where
  settled : Settled (s.stopped n .aborted none) v
  ends : Ends (fun r => ofChain n r || r.isDirect) s v
  own : v.chain n = { s.chain n with
    state := if (s.chain n).inFlight = 0 ∧ s.hp.current ≠ some (.fetch n) then .ended else .stopping
    held := none
    wait := noWait
    fetchDue := false }
  ended : (s.chain n).inFlight = 0 → s.hp.current ≠ some (.fetch n) → ChainEnded s v n
  engine : v.te.request = s.te.request ∧ v.lu.exchange = s.lu.exchange ∧ v.rdm = s.rdm
  others : s.hp.maintaining ≠ some n → v.hp.adapter = s.hp.adapter ∧ ∀ m, m ≠ n → v.chain m = s.chain m

theorem State.stopChain_stops {s : State} {n : Fin 4} (hn : NamesFresh s) (hrun : (s.chain n).state = .running) :
    ChainStops s (s.stopChain n) n := by
  obtain ⟨ha, hm, hc, hev, hte, htm, hrdm, hout⟩ := s.stopped_frame n .aborted none
  have hchain := s.stopped_chain n .aborted none
  have hown := hchain n
  rw [if_pos rfl] at hown
  have hends := (s.stopped_ends n .aborted none).mono (big := fun r => ofChain n r || r.isDirect) fun r hr => by simp [hr]
  have hlu : (s.stopped n .aborted none).lu.exchange = s.lu.exchange := by simp [State.stopped, State.markStopping]
  have hbegin := State.stopped_endBegins n hn
  have hpick : ∀ r q : Request, Woke r q → (ofChain n q || q.isDirect) = (ofChain n r || r.isDirect) := fun r q hrq => by
    rw [ofChain_woke n r q hrq, hrq.isDirect]
  rw [State.stopChain_eq hrun, State.endIfOver_stopped]
  by_cases hover : (s.chain n).inFlight = 0 ∧ s.hp.current ≠ some (.fetch n)
  · rw [if_pos hover]
    have hover' := hbegin.ends
    refine ⟨State.endChain_settled _ n, hends.trans hpick ((State.endChain_ends _ n).mono fun r hr => by simp [hr]), ?_,
      fun _ _ => hover', ⟨by simp [hte], by simp [hlu], by simp [hrdm]⟩, fun hmt => ?_⟩
    · rw [State.endChain_own, hown, if_pos hover]
      rfl
    · rw [← hm] at hmt
      refine ⟨((State.endChain_other _ n hmt).2.2).trans ha, fun m hne => ?_⟩
      rw [State.endChain_chain, if_neg hmt, State.chainClosed_chain, if_neg hne, hchain, if_neg hne]
  · rw [if_neg hover]
    refine ⟨.refl _, hends, by rw [hown, if_neg hover], fun h1 h2 => absurd ⟨h1, h2⟩ hover, ⟨by rw [hte], hlu, hrdm⟩,
      fun hmt => ⟨ha, fun m hne => by rw [hchain, if_neg hne]⟩⟩

theorem exec_abortChain {a : Word} {n : Fin 4} {s : State} (hslot : n.val = a.toNat / 16 % 4) (hp : s.hp.progress = none)
    (hr : (s.chain n).state = .running ∨ (s.chain n).state = .stopping) :
    exec (.abortChain a) s = .next ((s.begin.stopChain n).abortActive n) := by
  have hp' : s.begin.hp.progress = none := hp
  have hr' : (s.begin.chain n).runs = true := by
    have : s.begin.chain n = s.chain n := rfl
    rw [this]
    rcases hr with h | h <;> simp [Chain.runs, h]
  simp only [exec, execAbortChain, actionSlot_eq hslot, hp', hr']
  rfl

/-- The ABORT of a RUNNING chain. -/
theorem abortRunning {n : Fin 4} {s v : State} (hn : NamesFresh s) (hrun : (s.chain n).state = .running)
    (hv : s.stopChain n = v) :
    (if (s.chain n).inFlight = 0 ∧ s.hp.current ≠ some (.fetch n) then
      ChainEnded s (v.abortActive n) n else ((v.abortActive n).chain n).state = .stopping) ∧
      WorkShed s (v.abortActive n) n .aborted none ∧ HoldsStopped s (v.abortActive n) n .aborted none ∧
      (∀ r, s.activeRequest = some r → r.elem.chain = n → r.state = .active →
        if s.exchangeInProgress then ∃ u ∈ (v.abortActive n).wq.records, u = { r with state := .ending }
        else CompletionAsked (v.abortActive n) r .aborted none ∧ Left (v.abortActive n) r.id) := by
  obtain ⟨hset, hends, hown, hended, ⟨hreq, hex, _⟩, hothers⟩ := hv ▸ State.stopChain_stops hn hrun
  have hkept := v.abortActive_kept n
  have hvn : (v.wq.records.map Request.id).Nodup := hn.1.1.sublist hends.sheds.2
  have htown : (v.abortActive n).chain n = v.chain n := by rw [State.chain, State.chain, hkept.chains]
  have htset := hset.trans hkept.settled
  refine ⟨?_, ?_, holdsStopped_after s n .aborted none hn (by simp) htset, fun r ha hrn hs => ?_⟩
  · split
    · rename_i hover
      have hve := hended hover.1 hover.2
      rcases v.abortActive_cases n with ⟨h, _⟩ | ⟨r, ha, hrn, _, _⟩
      · rwa [h]
      · refine hve.after hkept ?_
        obtain ⟨p, hp, hpr⟩ := hends.back r (State.activeRequest_mem ha).1
        exact ⟨p, hp, by rw [← hpr.elem]; exact hrn⟩
    · rename_i hover
      rw [htown, hown, if_neg hover]
  · refine workShed_after s n .aborted none htset.sheds (htset.fetchNew n) (State.abortActive_unqueued hvn fun q hq hqn => ?_) (by rw [htown, hown])
      (by rw [htown, hown]; rfl) (by rw [htown, hown]) (by rw [htown, hown])
    have hback : ∃ p ∈ (s.stopped n .aborted none).wq.records, Woke p q := by
      have hsame : v = (s.stopped n .aborted none).endIfOver n := by rw [← hv, State.stopChain_eq hrun]
      rw [hsame, State.endIfOver] at hq
      split at hq
      · exact (State.endChain_ends _ n).back q hq
      · exact ⟨q, hq, .refl q⟩
    obtain ⟨p, hp, hpq⟩ := hback
    rw [hpq.queued]
    exact s.stopped_unqueued n _ _ p hp (by rw [← hpq.elem]; exact hqn)
  · have hva := hends.activeRequest hreq hn.1.1 ha (by simp [Request.queued, hs])
    have hx : v.exchangeInProgress = s.exchangeInProgress := by simp only [State.exchangeInProgress, hreq, hex]
    rw [← hx]
    exact State.abortActive_ends hva hrn hs

/-- Settles O10: the refusals, then the stop of the chain and the end of its ACTIVE request. -/
theorem abortChainStopsTheChain : Obligations.AbortChainStopsTheChain := by
  intro a n s hslot hn
  refine ⟨fun hp => ?_, fun hp hr hs => ?_, fun hp hr => ⟨_, exec_abortChain hslot hp hr, ?_⟩⟩
  · have hp' : s.begin.hp.progress.isSome = true := Option.isSome_iff_ne_none.mpr hp
    simp only [exec, execAbortChain, hp', if_true]
    rfl
  · have hp' : s.begin.hp.progress = none := hp
    have hr' : (s.begin.chain n).runs = false := by
      have : s.begin.chain n = s.chain n := rfl
      simp [this, Chain.runs, hr, hs]
    simp only [exec, execAbortChain, actionSlot_eq hslot, hp', hr']
    rfl
  · have hbn : NamesFresh s.begin := hn
    have hkept := (s.begin.stopChain n).abortActive_kept n
    have hchain (m : Fin 4) : ((s.begin.stopChain n).abortActive n).chain m = (s.begin.stopChain n).chain m := by
      rw [State.chain, State.chain, hkept.chains]
    simp only [hchain, hkept.rdm, hkept.port.1]
    rcases hr with hrun | hstop
    · obtain ⟨hset, hends, hown, hended, ⟨hreq, hex, hrdm⟩, hothers⟩ := State.stopChain_stops hbn hrun
      obtain ⟨h1, h2, h3, h4⟩ := abortRunning hbn hrun rfl
      have hcond : ((s.chain n).state = .running ∧ (s.chain n).inFlight = 0 ∧ s.hp.current ≠ some (.fetch n)) ↔
          ((s.chain n).inFlight = 0 ∧ s.hp.current ≠ some (.fetch n)) := and_iff_right hrun
      simp only [hcond]
      refine ⟨?_, by rw [hown]; rfl, by rw [hown]; rfl, by rw [hown]; rfl, by rw [hown]; rfl, by rw [hown]; rfl,
        fun _ => ⟨h2, h3⟩, h4, hrdm, hothers⟩
      rw [hchain] at h1
      exact h1
    · have hstay : s.begin.stopChain n = s.begin := by
        rw [State.stopChain, if_neg]
        intro h
        exact absurd (hstop.symm.trans h) (by simp)
      have hno : ¬ ((s.chain n).state = .running ∧ (s.chain n).inFlight = 0 ∧ s.hp.current ≠ some (.fetch n)) := by
        simp [hstop]
      simp only [hstay, if_neg hno]
      exact ⟨hstop, rfl, rfl, rfl, rfl, rfl, fun h => by simp [hstop] at h,
        fun r ha hrn hs => State.abortActive_ends (s := s.begin) ha hrn hs, rfl, fun _ => ⟨rfl, fun _ _ => rfl⟩⟩

end Sys2Proof.Machine
end

section
/-! The entry to SILENCED, act by act (R57, R89, R112, R128, R144, R161): what each leaves of requests, entries, fetches
and chains. -/

namespace Sys2Proof.Machine

open Sys2Proof

/-- What every act of the entry to SILENCED leaves: completions asked stay asked, and no frame, entry, record or fetch
comes but of what stood. -/
structure Silences (s t : State) : Prop extends HoldsFrom s t where
  sheds : Sheds s t
  records : ∀ q ∈ t.wq.records, ∃ r ∈ s.wq.records, q.elem = r.elem ∧ q.queued = r.queued
  fetchNew : ∀ m, .fetch m ∈ t.hp.waiting → .fetch m ∈ s.hp.waiting ∨ (s.chain m).state = .running
  running : ∀ m, (t.chain m).state = .running → (s.chain m).state = .running

theorem Silences.trans {s t u : State} (h : Silences s t) (k : Silences t u) : Silences s u where
  toHoldsFrom := h.toHoldsFrom.trans k.toHoldsFrom
  sheds := h.sheds.trans k.sheds
  records q hq := by
    obtain ⟨r, hr, h1, h2⟩ := k.records q hq
    obtain ⟨p, hp, h3, h4⟩ := h.records r hr
    exact ⟨p, hp, h1.trans h3, h2.trans h4⟩
  fetchNew m hm := (k.fetchNew m hm).elim (h.fetchNew m) fun hr => .inr (h.running m hr)
  running m hm := h.running m (k.running m hm)

theorem Settled.silences {s t : State} (h : Settled s t) (hr : ∀ q ∈ t.wq.records, ∃ r ∈ s.wq.records, Woke r q) :
    Silences s t :=
  { h.toHoldsFrom with
    sheds := h.sheds
    records := fun q hq => by
      obtain ⟨r, hrm, hrq⟩ := hr q hq
      exact ⟨r, hrm, hrq.elem, hrq.queued⟩
    fetchNew := h.fetchNew
    running := h.running }

theorem Settled.silences_of_wq {s t : State} (h : Settled s t) (hwq : t.wq = s.wq) : Silences s t :=
  h.silences fun q hq => ⟨q, hwq ▸ hq, .refl q⟩

theorem Silences.refl (s : State) : Silences s s := (Settled.refl s).silences_of_wq rfl

theorem Silences.foldl {β : Type} {f : State → β → State} (h : ∀ s b, Silences s (f s b)) (l : List β) (s : State) :
    Silences s (l.foldl f s) := by
  induction l generalizing s with
  | nil => exact .refl s
  | cons b l ih => exact (h s b).trans (ih _)

theorem Silences.unqueued {s t : State} (h : Silences s t) {n : Fin 4}
    (hn : ∀ q ∈ s.wq.records, q.elem.chain = n → q.queued = false) :
    ∀ q ∈ t.wq.records, q.elem.chain = n → q.queued = false := by
  intro q hq hqn
  obtain ⟨r, hr, he, hqr⟩ := h.records q hq
  exact hqr.trans (hn r hr (he ▸ hqn))

theorem HoldsFrom.gone {s t : State} (h : HoldsFrom s t) {id : Nat} (hg : ∀ z ∈ s.entries, z.id ≠ id) :
    ∀ z ∈ t.entries, z.id ≠ id := by
  intro z hz he
  obtain ⟨y, hy, hyz⟩ := h.back z hz
  exact hg y hy (hyz.1.id.symm.trans he)

/-! Entries removed by name, whatever the names. -/

theorem State.removeEntry_leaves (s : State) (e : HoldEntry) : ∀ z ∈ (s.removeEntry e).entries, z.id ≠ e.id := by
  have hout : ∀ z ∈ (s.onHm fun h => { h with
      list := h.list.filter fun x => x.id != e.id
      line := h.line.filter fun x => x.id != e.id }).entries, z.id ≠ e.id := by
    intro z hz
    rcases List.mem_append.mp hz with hz | hz <;> simpa using (List.mem_filter.mp hz).2
  have hclaim (u : State) : HoldsFrom u (u.settleClaim e.id) :=
    (u.withdraw_settled (FrameBody.isClaimOf_of_isFree e.id)).toHoldsFrom
  have hfree (u : State) : HoldsFrom u (u.offer e.free) := (u.offer_settled _).toHoldsFrom
  simp only [State.removeEntry]
  refine HoldsFrom.gone ?_ hout
  repeat' split
  · exact (hclaim _).trans ((hfree _).trans (State.recheckLine_holdsFrom _))
  · exact (hclaim _).trans (State.recheckLine_holdsFrom _)
  · exact (hclaim _).trans (hfree _)
  · exact hclaim _

theorem State.removeEntryId_leaves (s : State) (id : Nat) : ∀ z ∈ (s.removeEntryId id).entries, z.id ≠ id := by
  simp only [State.removeEntryId]
  split
  · rename_i hf
    exact fun z hz he => by simpa [he] using List.find?_eq_none.mp hf z hz
  · rename_i e hf
    rw [← (HoldManager.mem_of_find hf).2]
    exact s.removeEntry_leaves e

theorem removeEntryIds_leave (l : List Nat) (s : State) :
    ∀ id ∈ l, ∀ z ∈ (l.foldl State.removeEntryId s).entries, z.id ≠ id := by
  induction l generalizing s with
  | nil => intro id h; simp at h
  | cons i l ih =>
    intro id hid
    rcases List.mem_cons.mp hid with rfl | hid
    · exact (Settled.foldl State.removeEntryId_settled l _).gone (s.removeEntryId_leaves id)
    · exact ih _ id hid

/-- No explicit entry of the chain is left. -/
theorem State.removeExplicit_leaves (s : State) (n : Fin 4) :
    ∀ z ∈ (s.removeExplicit n).entries, z.chain = n → z.origin = .implicit := by
  intro z hz hn
  by_contra ho
  obtain ⟨y, hy, hyz⟩ := (s.removeExplicit_settled n).back z hz
  have hexp : y.origin = .explicit := by
    rw [← hyz.1.origin]
    cases hzo : z.origin <;> simp_all
  refine removeEntryIds_leave _ s y.id (List.mem_map.mpr ⟨y, List.mem_filter.mpr ⟨hy, ?_⟩, rfl⟩) z hz hyz.1.id
  simp [← hyz.1.chain, hn, hexp]

/-! The acts. -/

theorem State.removeEntryId_woken (s : State) (id : Nat) : Woken s (s.removeEntryId id) := by
  simp only [State.removeEntryId]
  split
  · exact .refl s
  · exact s.removeEntry_woken _

theorem Woken.back {s t : State} (h : Woken s t) : ∀ q ∈ t.wq.records, ∃ r ∈ s.wq.records, Woke r q := by
  obtain ⟨p, hp⟩ := h
  intro q hq
  obtain ⟨r, hr, rfl⟩ := List.mem_map.mp (hp ▸ hq)
  exact ⟨r, hr, woke_woken r p⟩

theorem State.removeEntryId_silences (s : State) (id : Nat) : Silences s (s.removeEntryId id) :=
  (s.removeEntryId_settled id).silences (s.removeEntryId_woken id).back

theorem State.withdrawFetch_silences (s : State) (n : Fin 4) : Silences s (s.withdrawFetch n) :=
  { HoldsFrom.of_eq rfl rfl rfl with
    sheds := ⟨s.withdrawFetch_asks n, .refl _⟩
    records := fun q hq => ⟨q, hq, rfl, rfl⟩
    fetchNew := fun _ hm => .inl (List.mem_of_mem_filter hm)
    running := fun _ h => h }

theorem State.silenceChain_silences (s : State) (n : Fin 4) : Silences s (s.silenceChain n) := by
  simp only [State.silenceChain]
  split
  · exact (s.withdrawFetch_silences n).trans ((s.stopped_settled n _ _).silences (s.stopped_ends n _ _).back)
  · exact .refl s

theorem State.silenceChain_ends (s : State) (n : Fin 4) : Ends (ofChain n) s (s.silenceChain n) := by
  simp only [State.silenceChain]
  split
  · exact s.stopped_ends n _ _
  · exact .refl s

theorem State.silenceChain_chain (s : State) (n m : Fin 4) : (s.silenceChain n).chain m =
    if m = n ∧ (s.chain n).runs = true then
      { s.chain n with state := .stopping, wait := noWait, fetchDue := false, held := none } else s.chain m := by
  simp only [State.silenceChain]
  by_cases h : (s.chain n).runs = true
  · rw [if_pos h]
    have := s.stopped_chain n .fault (some .silenced) m
    by_cases hm : m = n
    · rw [if_pos ⟨hm, h⟩]
      rwa [if_pos hm] at this
    · rw [if_neg (by simp [hm])]
      rwa [if_neg hm] at this
  · rw [if_neg h, if_neg (by simp [h])]

theorem State.silenceEngine_silences (s : State) : Silences s s.silenceEngine := by
  simp only [State.silenceEngine]
  split
  · exact .refl s
  · have hrel : Silences s s.releaseReceiving := (s.onTe_settled _).silences_of_wq rfl
    exact hrel.trans ((State.finish_settled _ _ _ _).silences (State.finish_records _ _ _ _))

theorem State.silenceHolds_settled (s : State) : Settled s s.silenceHolds :=
  Settled.foldl (fun u e => (u.completeHold_settled e _ _ _).trans (State.onEntry_settled _ _
    (f := fun x => { x with holdElem := none }) fun _ =>
      ⟨⟨rfl, rfl, rfl, rfl, rfl, rfl, rfl, rfl⟩, fun _ => rfl⟩)) _ _

theorem State.reviewed_elem (s : State) (r : Request) : (s.reviewed r).elem = r.elem := by
  simp only [State.reviewed]
  (repeat' split) <;> rfl

theorem State.reviewed_queued (s : State) (r : Request) : (s.reviewed r).queued = r.queued := by
  simp only [State.reviewed]
  split
  · split <;> simp_all [Request.queued]
  · split <;> simp_all [Request.queued]
  · rfl

theorem State.review_silences (s : State) : Silences s s.review :=
  { (s.onWq_settled (f := s.reviewed) fun r => ⟨s.reviewed_id r, s.reviewed_hold r⟩).toHoldsFrom with
    sheds := (s.onWq_settled (f := s.reviewed) fun r => ⟨s.reviewed_id r, s.reviewed_hold r⟩).sheds
    records := fun q hq => by
      obtain ⟨r, hr, rfl⟩ := List.mem_map.mp hq
      exact ⟨r, hr, s.reviewed_elem r, s.reviewed_queued r⟩
    fetchNew := fun _ hm => .inl hm
    running := fun _ h => h }

theorem State.endIfOver_silences (s : State) (n : Fin 4) : Silences s (s.endIfOver n) := by
  simp only [State.endIfOver]
  split
  · exact (s.endChain_settled n).silences (s.endChain_ends n).back
  · exact .refl s

end Sys2Proof.Machine
end

section
/-! The entry to SILENCED, one act after the other. -/

namespace Sys2Proof.Machine

open Sys2Proof

/-! The HOLDs that wait. -/

/-- The act on one HOLD that waits: it completes FAULT SILENCED, its entry standing. -/
def State.silenceHold (s : State) (e : HoldEntry) : State :=
  (s.completeHold e .fault (some .silenced) false).onEntry e.id fun x => { x with holdElem := none }

theorem State.silenceHold_settled (s : State) (e : HoldEntry) : Settled s (s.silenceHold e) :=
  (s.completeHold_settled e _ _ _).trans (State.onEntry_settled _ _ (f := fun x => { x with holdElem := none }) fun _ =>
    ⟨⟨rfl, rfl, rfl, rfl, rfl, rfl, rfl, rfl⟩, fun _ => rfl⟩)

theorem silenceHolds_clear (l : List HoldEntry) (s : State) : ∀ z ∈ (l.foldl State.silenceHold s).entries,
    (∃ e ∈ l, e.id = z.id) → z.holdElem = none := by
  induction l generalizing s with
  | nil => rintro z _ ⟨e, he, _⟩; simp at he
  | cons e l ih =>
    rintro z hz ⟨x, hx, hxz⟩
    rw [List.foldl_cons] at hz
    by_cases hl : ∃ e ∈ l, e.id = z.id
    · exact ih _ z hz hl
    · have hid : e.id = z.id := by
        rcases List.mem_cons.mp hx with rfl | hx
        · exact hxz
        · exact absurd ⟨x, hx, hxz⟩ hl
      obtain ⟨y, hy, hyz⟩ := (Settled.foldl State.silenceHold_settled l (s.silenceHold e)).back z hz
      refine hyz.2 ?_
      rw [State.silenceHold, State.entries, State.onEntry, State.onHm_hm] at hy
      simp only [HoldManager.modify, ← List.map_append] at hy
      obtain ⟨w, _, rfl⟩ := List.mem_map.mp hy
      split
      · rfl
      · rename_i hno
        rw [if_neg hno] at hyz
        exact absurd (hyz.1.id.symm.trans hid.symm) (by simpa using hno)

/-- No HOLD waits for an entry any more. -/
theorem State.silenceHolds_clear (s : State) : ∀ z ∈ s.silenceHolds.entries, z.holdElem = none := by
  intro z hz
  obtain ⟨y, hy, hyz⟩ := s.silenceHolds_settled.back z hz
  cases hh : y.holdElem with
  | none => exact hyz.2 hh
  | some h =>
    refine Sys2Proof.Machine.silenceHolds_clear s.hm.awaited s z hz ⟨y, List.mem_filter.mpr ⟨hy, by simp [hh]⟩, hyz.1.id.symm⟩

/-- Each HOLD that waits has completed. -/
theorem State.silenceHolds_asked (s : State) : ∀ y ∈ s.entries, ∀ h, y.holdElem = some h →
    ∃ c ∈ asked s.silenceHolds, c.info = h.1 ∧ c.status = .fault ∧ c.fault = some .silenced ∧ c.place = some (h.2.1, h.2.2) := by
  intro y hy h hh
  have hall : ∀ (l : List HoldEntry) (u : State), y ∈ l → ∃ c ∈ asked (l.foldl State.silenceHold u),
      c.info = h.1 ∧ c.status = .fault ∧ c.fault = some .silenced ∧ c.place = some (h.2.1, h.2.2) := by
    intro l
    induction l with
    | nil => intro u hl; simp at hl
    | cons e l ih =>
      intro u hl
      rcases List.mem_cons.mp hl with rfl | hl
      · obtain ⟨c, hc, h1, h2, h3, _, h5, _⟩ := State.completeHold_asked (s := u) hh .fault (some .silenced) false
        refine ⟨c, (Settled.foldl State.silenceHold_settled l (u.silenceHold y)).sheds.1 c ?_, h1, h2, h3, h5⟩
        exact (State.onEntry_settled _ y.id (f := fun x => { x with holdElem := none }) fun _ =>
          ⟨⟨rfl, rfl, rfl, rfl, rfl, rfl, rfl, rfl⟩, fun _ => rfl⟩).sheds.1 c hc
      · exact ih _ hl
  exact hall s.hm.awaited s (List.mem_filter.mpr ⟨hy, by simp [hh]⟩)

/-! The engine's request. -/

/-- Every record but the engine's stands while the engine's request ends. -/
theorem State.finish_stays {s : State} {r : Request} (ha : s.activeRequest = some r) (st : Status) (f : Option ElementFault)
    (m : Bool) : ∀ q ∈ s.wq.records, q.id ≠ r.id → ∃ p ∈ (s.finish st f m).wq.records, Woke q p := by
  intro q hq hne
  obtain ⟨_, _, u, ⟨p, hp⟩, hl⟩ := s.leaveQueue_leaves r st f m (s.hm.peerSilent r.hold)
  refine ⟨q.woken p, ?_, woke_woken q p⟩
  simp only [State.finish, ha, State.idleEngine_frame, State.completeRequest, hl]
  exact List.mem_filter.mpr ⟨hp ▸ List.mem_map_of_mem hq, by simpa using hne⟩

/-- The engine's request has ended FAULT SILENCED (R112). -/
theorem State.silenceEngine_ends {s : State} {r : Request} (ha : s.activeRequest = some r) :
    CompletionAsked s.silenceEngine r .fault (some .silenced) ∧ Left s.silenceEngine r.id ∧ s.silenceEngine.te.phase = .idle := by
  have heq : s.silenceEngine = s.releaseReceiving.finish .fault (some .silenced) false := by
    simp only [State.silenceEngine, ha]
  obtain ⟨_, hasked, hleft, hfree⟩ :=
    State.finish_leaves (s := s.releaseReceiving) (r := r) ha .fault (some .silenced) false
  rw [heq]
  exact ⟨hasked, hleft, hfree.2.1⟩

/-- Each record stands, or its request has ended FAULT SILENCED. -/
theorem State.silenceEngine_leaves (s : State) (hn : (s.wq.records.map Request.id).Nodup) : ∀ q ∈ s.wq.records,
    CompletionAsked s.silenceEngine q .fault (some .silenced) ∨ ∃ p ∈ s.silenceEngine.wq.records, Woke q p := by
  intro q hq
  cases ha : s.activeRequest with
  | none =>
    refine .inr ⟨q, ?_, .refl q⟩
    simpa only [State.silenceEngine, ha] using hq
  | some r =>
    by_cases hid : q.id = r.id
    · obtain rfl := List.inj_on_of_nodup_map hn hq (State.activeRequest_mem ha).1 hid
      exact .inl (State.silenceEngine_ends ha).1
    · have heq : s.silenceEngine = s.releaseReceiving.finish .fault (some .silenced) false := by
        simp only [State.silenceEngine, ha]
      rw [heq]
      exact .inr (State.finish_stays (s := s.releaseReceiving) (r := r) ha _ _ _ q hq hid)

/-! The chains, one after the other. -/

theorem chains_split (n : Fin 4) : ∃ l k : List (Fin 4), [0, 1, 2, 3] = l ++ n :: k ∧ n ∉ l ∧ n ∉ k := by
  match n with
  | 0 => exact ⟨[], [1, 2, 3], by decide⟩
  | 1 => exact ⟨[0], [2, 3], by decide⟩
  | 2 => exact ⟨[0, 1], [3], by decide⟩
  | 3 => exact ⟨[0, 1, 2], [], by decide⟩

theorem silenceChains_other (l : List (Fin 4)) {n : Fin 4} (hn : n ∉ l) (s : State) :
    (l.foldl State.silenceChain s).chain n = s.chain n ∧
      ((s.wq.records.map Request.id).Nodup → ∀ r ∈ s.wq.records, r.elem.chain = n →
        ∃ q ∈ (l.foldl State.silenceChain s).wq.records, Woke r q) := by
  induction l generalizing s with
  | nil => exact ⟨rfl, fun _ r hr _ => ⟨r, hr, .refl r⟩⟩
  | cons m l ih =>
    obtain ⟨hm, hl⟩ := not_or.mp fun h => hn (List.mem_cons.mpr h)
    obtain ⟨hc, hr⟩ := ih hl (s.silenceChain m)
    refine ⟨hc.trans (by rw [State.silenceChain_chain, if_neg (by simp [hm])]), fun hnd r hrm hrn => ?_⟩
    have hends := s.silenceChain_ends m
    obtain ⟨q, hq, hrq⟩ := hends.stays hnd r hrm (by simp [ofChain, hrn, hm])
    obtain ⟨p, hp, hqp⟩ := hr (hnd.sublist hends.sheds.2) q hq (by rw [hrq.elem, hrn])
    exact ⟨p, hp, hrq.trans hqp⟩

theorem State.endIfOver_maintaining {s : State} (h : s.hp.maintaining = none) (m : Fin 4) :
    (s.endIfOver m).hp.maintaining = none := by
  simp only [State.endIfOver]
  split
  · rw [State.endChain_eq, if_neg (by simp [h])]
    simp [State.chainClosed, h]
  · exact h

theorem endsOver_maintaining (l : List (Fin 4)) (s : State) (h : s.hp.maintaining = none) :
    (l.foldl State.endIfOver s).hp.maintaining = none := by
  induction l generalizing s with
  | nil => exact h
  | cons m l ih => exact ih _ (State.endIfOver_maintaining h m)

theorem endsOver_events (l : List (Fin 4)) (s : State) {i : Nat} (h : s.hp.events.getLsbD i = true) :
    (l.foldl State.endIfOver s).hp.events.getLsbD i = true := by
  induction l generalizing s with
  | nil => exact h
  | cons m l ih =>
    refine ih _ ?_
    simp only [State.endIfOver]
    split
    · rw [State.endChain_events, BitVec.getLsbD_or, h, Bool.true_or]
    · exact h

theorem endsOver_other (l : List (Fin 4)) {n : Fin 4} (hn : n ∉ l) (s : State) (hm : s.hp.maintaining = none) :
    (l.foldl State.endIfOver s).chain n = s.chain n := by
  induction l generalizing s with
  | nil => rfl
  | cons m l ih =>
    obtain ⟨hne, hl⟩ := not_or.mp fun h => hn (List.mem_cons.mpr h)
    refine (ih hl (s.endIfOver m) (State.endIfOver_maintaining hm m)).trans ?_
    simp only [State.endIfOver]
    split
    · rw [State.endChain_chain, if_neg (by simp [hm]), State.chainClosed_chain, if_neg hne]
    · rfl

end Sys2Proof.Machine
end

section
/-! What a station clash leaves of each chain, its requests and its entries (R57, R89, R112, R128, R161). -/

namespace Sys2Proof.Machine

open Sys2Proof

theorem State.raise_silences (s : State) (a : Attention) : Silences s (s.raise a) :=
  (s.raise_settled a).silences_of_wq rfl

theorem endsOver_frame (l : List (Fin 4)) (u : State) : (l.foldl State.endIfOver u).te.phase = u.te.phase ∧
    (l.foldl State.endIfOver u).tm = u.tm ∧ (l.foldl State.endIfOver u).lu.exchange = u.lu.exchange ∧
    (l.foldl State.endIfOver u).hp.current = u.hp.current :=
  ⟨foldl_keeps (fun u => u.te.phase) (fun u n => by simp) l u, foldl_keeps (fun u => u.tm) (fun u n => by simp) l u,
    foldl_keeps (fun u => u.lu.exchange) (fun u n => by simp) l u,
    foldl_keeps (fun u => u.hp.current) (fun u n => by simp) l u⟩

section
variable (s : State)

/-- The line silent, the adapter SILENCED. -/
def State.hushed : State :=
  (s.onLu LineUnit.silence).onHp fun h => { h with adapter := .silenced, maintaining := none }

/-- The HOLDs that wait and the engine's request ended. -/
def State.workSilenced : State := s.hushed.silenceHolds.silenceEngine

/-- The chains stopped, and the entries of the HOLDs that waited removed. -/
def State.entriesSilenced : State :=
  (s.hm.awaited.map HoldEntry.id).foldl State.removeEntryId ([0, 1, 2, 3].foldl State.silenceChain s.workSilenced)

/-- The tenures given up. -/
def State.tenuresSilenced : State := (s.entriesSilenced.onTm TenureManager.silence).review

theorem State.becomeSilenced_eq :
    s.becomeSilenced = ([0, 1, 2, 3].foldl State.endIfOver s.tenuresSilenced).raise .line := rfl

theorem State.hushed_silences : Silences s.hushed s.workSilenced :=
  (s.hushed.silenceHolds_settled.silences_of_wq (by simp)).trans (State.silenceEngine_silences _)

theorem State.workSilenced_silences : Silences ([0, 1, 2, 3].foldl State.silenceChain s.workSilenced) s.entriesSilenced :=
  .foldl State.removeEntryId_silences _ _

theorem State.entriesSilenced_silences : Silences s.entriesSilenced s.tenuresSilenced :=
  ((State.onTm_settled _ _).silences_of_wq rfl).trans (State.review_silences _)

theorem State.tenuresSilenced_silences : Silences s.tenuresSilenced s.becomeSilenced := by
  rw [State.becomeSilenced_eq]
  exact (Silences.foldl State.endIfOver_silences _ _).trans (State.raise_silences _ _)

/-- From the chains on. -/
theorem State.chainsSilenced_silences :
    Silences ([0, 1, 2, 3].foldl State.silenceChain s.workSilenced) s.becomeSilenced :=
  s.workSilenced_silences.trans (s.entriesSilenced_silences.trans s.tenuresSilenced_silences)

theorem State.becomeSilenced_silences : Silences s.hushed s.becomeSilenced :=
  s.hushed_silences.trans ((Silences.foldl State.silenceChain_silences _ _).trans s.chainsSilenced_silences)

theorem silenceChains_frame (l : List (Fin 4)) (u : State) :
    (l.foldl State.silenceChain u).te = u.te ∧ (l.foldl State.silenceChain u).tm = u.tm ∧
      (l.foldl State.silenceChain u).hp.maintaining = u.hp.maintaining ∧
      (l.foldl State.silenceChain u).hp.current = u.hp.current ∧
      (l.foldl State.silenceChain u).lu.exchange = u.lu.exchange :=
  ⟨foldl_keeps (fun u => u.te) (fun u n => by simp) l u, foldl_keeps (fun u => u.tm) (fun u n => by simp) l u,
    foldl_keeps (fun u => u.hp.maintaining) (fun u n => by simp) l u,
    foldl_keeps (fun u => u.hp.current) (fun u n => by simp) l u,
    foldl_keeps (fun u => u.lu.exchange) (fun u n => by simp) l u⟩

theorem removeEntryIds_frame (l : List Nat) (u : State) :
    (l.foldl State.removeEntryId u).te = u.te ∧ (l.foldl State.removeEntryId u).tm = u.tm ∧
      (l.foldl State.removeEntryId u).hp.maintaining = u.hp.maintaining ∧
      (l.foldl State.removeEntryId u).hp.current = u.hp.current ∧
      (l.foldl State.removeEntryId u).lu.exchange = u.lu.exchange ∧
      (l.foldl State.removeEntryId u).chains = u.chains :=
  ⟨foldl_keeps (fun u => u.te) (fun u n => by simp) l u, foldl_keeps (fun u => u.tm) (fun u n => by simp) l u,
    foldl_keeps (fun u => u.hp.maintaining) (fun u n => by simp) l u,
    foldl_keeps (fun u => u.hp.current) (fun u n => by simp) l u,
    foldl_keeps (fun u => u.lu.exchange) (fun u n => by simp) l u,
    foldl_keeps (fun u => u.chains) (fun u n => by simp) l u⟩

theorem State.tenuresSilenced_frame : s.tenuresSilenced.te = s.workSilenced.te ∧ s.tenuresSilenced.tm = s.tm.silence ∧
    s.tenuresSilenced.hp.maintaining = none ∧ s.tenuresSilenced.hp.current = s.hp.current ∧
    s.tenuresSilenced.lu.exchange = s.lu.exchange.map (fun x => { x with discarded := true }) ∧
    ∀ n, s.tenuresSilenced.chain n = ([0, 1, 2, 3].foldl State.silenceChain s.workSilenced).chain n := by
  obtain ⟨h1, h2, h3, h4, h5, h6⟩ := removeEntryIds_frame (s.hm.awaited.map HoldEntry.id)
    ([0, 1, 2, 3].foldl State.silenceChain s.workSilenced)
  obtain ⟨k1, k2, k3, k4, k5⟩ := silenceChains_frame [0, 1, 2, 3] s.workSilenced
  have hw : s.workSilenced.tm = s.tm ∧ s.workSilenced.hp.maintaining = none ∧ s.workSilenced.hp.current = s.hp.current ∧
      s.workSilenced.lu.exchange = s.lu.exchange.map fun x => { x with discarded := true } := by
    refine ⟨?_, ?_, ?_, ?_⟩ <;> simp [State.workSilenced, State.hushed, LineUnit.silence]
  obtain ⟨w1, w2, w3, w4⟩ := hw
  refine ⟨h1.trans k1, ?_, (h3.trans k3).trans w2, (h4.trans k4).trans w3, (h5.trans k5).trans w4, fun n => ?_⟩
  · exact congrArg TenureManager.silence ((h2.trans k2).trans w1)
  · exact congrArg (fun c : Four Chain => c.get n) h6

/-- The Line Unit, the tenures, the engine and the adapter after a clash. -/
theorem State.becomeSilenced_hushed : s.becomeSilenced.hp.adapter = .silenced ∧ s.becomeSilenced.hp.maintaining = none ∧
    s.becomeSilenced.hp.events.getLsbD 8 = true ∧ s.becomeSilenced.lu.frames = [] ∧
    (∀ x ∈ s.becomeSilenced.lu.exchange, x.discarded = true) ∧ s.becomeSilenced.tm = s.tm.silence ∧
    s.becomeSilenced.te.phase = s.workSilenced.te.phase := by
  obtain ⟨h1, h2, h3, _, h5, _⟩ := s.tenuresSilenced_frame
  have hsil := s.becomeSilenced_silences
  have hadapter : s.hushed.hp.adapter = .silenced := rfl
  have hframes : s.hushed.lu.frames = [] := rfl
  have hstill := hsil.adapter.mpr hadapter
  have hquiet := hsil.quiet hadapter
  rw [hframes] at hquiet
  obtain ⟨k1, k2, k3, _⟩ := endsOver_frame [0, 1, 2, 3] s.tenuresSilenced
  have hm := endsOver_maintaining [0, 1, 2, 3] _ h3
  rw [h1] at k1
  rw [h2] at k2
  rw [h5] at k3
  rw [State.becomeSilenced_eq] at hstill hquiet ⊢
  generalize [0, 1, 2, 3].foldl State.endIfOver s.tenuresSilenced = u at *
  refine ⟨hstill, hm, State.raise_raises u .line, ?_, fun x hx => ?_, k2, k1⟩
  · exact List.eq_nil_iff_forall_not_mem.mpr fun f hf => by simpa using hquiet f hf
  · have hx' : x ∈ u.lu.exchange := hx
    rw [k3] at hx'
    obtain ⟨y, _, rfl⟩ := Option.mem_map.mp hx'
    rfl

/-! One chain. -/

/-- A chain that neither runs nor stops is left. -/
theorem State.becomeSilenced_other {n : Fin 4} (h : (s.chain n).runs = false) : s.becomeSilenced.chain n = s.chain n := by
  obtain ⟨l, k, hsplit, hl, hk⟩ := chains_split n
  obtain ⟨_, _, hm, _, _, hchains⟩ := s.tenuresSilenced_frame
  have hwork : s.workSilenced.chain n = s.chain n := by simp [State.chain, State.workSilenced, State.hushed]
  have hstopped : s.tenuresSilenced.chain n = s.chain n := by
    rw [hchains, hsplit, List.foldl_append, List.foldl_cons, (silenceChains_other k hk _).1, State.silenceChain_chain,
      (silenceChains_other l hl _).1, hwork, if_neg (by simp [h])]
  have hover : ([0, 1, 2, 3].foldl State.endIfOver s.tenuresSilenced).chain n = s.chain n := by
    clear hchains
    rw [hsplit, List.foldl_append, List.foldl_cons]
    have hmid := endsOver_other l hl s.tenuresSilenced hm
    rw [hstopped] at hmid
    have hmm := endsOver_maintaining l s.tenuresSilenced hm
    generalize l.foldl State.endIfOver s.tenuresSilenced = u at hmid hmm
    have hno : u.chainOver n = false := by
      simp only [Chain.runs, Bool.or_eq_false_iff] at h
      simp [State.chainOver, hmid, h.1, h.2]
    rw [State.endIfOver, if_neg (by simp [hno]), endsOver_other k hk u hmm, hmid]
  rw [State.becomeSilenced_eq]
  generalize [0, 1, 2, 3].foldl State.endIfOver s.tenuresSilenced = u at *
  exact hover

/-- What a chain that ran or was stopping is left as. -/
theorem State.becomeSilenced_own {n : Fin 4} (h : (s.chain n).runs = true) :
    s.becomeSilenced.chain n = { s.chain n with
      state := if (s.chain n).inFlight = 0 ∧ s.hp.current ≠ some (.fetch n) then .ended else .stopping
      wait := noWait
      fetchDue := false
      held := none } ∧
    ((s.chain n).inFlight = 0 → s.hp.current ≠ some (.fetch n) → s.becomeSilenced.hp.events.getLsbD n.val = true ∧
      ∀ z ∈ s.becomeSilenced.entries, z.chain = n → z.origin = .implicit) := by
  obtain ⟨l, k, hsplit, hl, hk⟩ := chains_split n
  obtain ⟨_, _, hm, hcur, _, hchains⟩ := s.tenuresSilenced_frame
  have hwork : s.workSilenced.chain n = s.chain n := by simp [State.chain, State.workSilenced, State.hushed]
  have hstopped : s.tenuresSilenced.chain n =
      { s.chain n with state := .stopping, wait := noWait, fetchDue := false, held := none } := by
    rw [hchains, hsplit, List.foldl_append, List.foldl_cons, (silenceChains_other k hk _).1, State.silenceChain_chain,
      (silenceChains_other l hl _).1, hwork, if_pos ⟨rfl, h⟩]
  have hmid := endsOver_other l hl s.tenuresSilenced hm
  have hmm := endsOver_maintaining l s.tenuresSilenced hm
  have hmc : (l.foldl State.endIfOver s.tenuresSilenced).hp.current = s.hp.current :=
    (endsOver_frame l _).2.2.2.trans hcur
  have heq : s.becomeSilenced = (k.foldl State.endIfOver ((l.foldl State.endIfOver s.tenuresSilenced).endIfOver n)).raise .line := by
    rw [State.becomeSilenced_eq, hsplit, List.foldl_append, List.foldl_cons]
  generalize l.foldl State.endIfOver s.tenuresSilenced = u at hmid hmm hmc heq
  have hown : s.becomeSilenced.chain n = (u.endIfOver n).chain n := by
    rw [heq]
    exact endsOver_other k hk _ (State.endIfOver_maintaining hmm n)
  have hlast : Silences (u.endIfOver n) s.becomeSilenced := by
    rw [heq]
    exact (Silences.foldl State.endIfOver_silences _ _).trans (State.raise_silences _ _)
  have hover : u.chainOver n = true ↔ (s.chain n).inFlight = 0 ∧ s.hp.current ≠ some (.fetch n) := by
    simp [State.chainOver, State.fetching, hmid, hstopped, hmc]
  have hover' := State.endIfOver.eq_1 u n
  simp only [hover] at hover'
  refine ⟨?_, fun h1 h2 => ?_⟩
  · rw [hown, hover']
    split
    · rw [State.endChain_own, hmid, hstopped]
      rfl
    · rw [hmid, hstopped]
  · rw [if_pos ⟨h1, h2⟩] at hover'
    rw [hover'] at hlast
    refine ⟨?_, fun z hz hzn => ?_⟩
    · rw [heq, hover']
      have hn := n.isLt
      have hraised : (u.endChain n).hp.events.getLsbD n.val = true := by
        rw [State.endChain_events]
        simp only [BitVec.getLsbD_or, BitVec.getLsbD_twoPow]
        simp
        omega
      have hkept := endsOver_events k (u.endChain n) hraised
      rw [State.raise, State.onHp, BitVec.getLsbD_or, hkept, Bool.true_or]
    · obtain ⟨y, hy, hyz⟩ := hlast.back z hz
      rw [hyz.1.origin]
      refine (u.chainClosed n).removeExplicit_leaves n y ?_ (by rw [← hyz.1.chain, hzn])
      rw [State.endChain_eq, if_neg (by simp [hmm])] at hy
      exact hy

end

end Sys2Proof.Machine
end

section
/-! STATION_CLASH (R57, R89, R112, R128, R161). -/

namespace Sys2Proof.Machine

open Sys2Proof

/-- The work of a chain that ran or was stopping is shed. -/
theorem State.becomeSilenced_sheds {s : State} {n : Fin 4} (hn : (s.wq.records.map Request.id).Nodup)
    (hr : (s.chain n).runs = true) : WorkShed s s.becomeSilenced n .fault (some .silenced) := by
  obtain ⟨l, k, hsplit, hl, hk⟩ := chains_split n
  obtain ⟨hown, _⟩ := s.becomeSilenced_own hr
  have hafter := s.chainsSilenced_silences
  have hwork : s.workSilenced.chain n = s.chain n := by simp [State.chain, State.workSilenced, State.hushed]
  have hengine := s.hushed.silenceHolds.silenceEngine_leaves (by simpa [State.hushed] using hn)
  have hwq : s.hushed.silenceHolds.wq = s.wq := by simp [State.hushed]
  rw [hwq] at hengine
  have hids := hn.sublist s.hushed_silences.sheds.2
  obtain ⟨hbefore, hstay⟩ := silenceChains_other l hl s.workSilenced
  have hasks := (Silences.foldl State.silenceChain_silences l s.workSilenced).sheds
  rw [hsplit, List.foldl_append, List.foldl_cons] at hafter
  replace hstay := hstay hids
  rw [hwork] at hbefore
  change ∀ q ∈ s.wq.records, CompletionAsked s.workSilenced q .fault (some .silenced) ∨
    ∃ p ∈ s.workSilenced.wq.records, Woke q p at hengine
  generalize s.workSilenced = c at *
  generalize l.foldl State.silenceChain c = u at *
  have hchain : u.silenceChain n = u.stopped n .fault (some .silenced) := by
    rw [State.silenceChain, if_pos (by rw [hbefore]; exact hr)]
    rfl
  have hlast : Silences (u.stopped n .fault (some .silenced)) s.becomeSilenced := by
    rw [← hchain]
    exact (Silences.foldl State.silenceChain_silences k _).trans hafter
  generalize s.becomeSilenced = t at *
  obtain ⟨h1, h2, h3, h4, h5, h6, h7⟩ := workShed_after u n .fault (some .silenced) hlast.sheds (hlast.fetchNew n)
    (hlast.unqueued (u.stopped_unqueued n _ _)) (by rw [hown]) (by rw [hown]; rfl) (by rw [hown]) (by rw [hown, hbefore])
  refine ⟨h1, h2, h3, h4, h5, fun r hrm hrn hrq => ?_, fun h e hh he => h7 h e (by rw [hbefore]; exact hh) he⟩
  rcases hengine r hrm with hdone | ⟨p, hp, hrp⟩
  · exact (hasks.trans ((u.stopped_ends n _ _).sheds.trans hlast.sheds)).asked hdone
  · obtain ⟨q, hq, hpq⟩ := hstay p hp (by rw [hrp.elem, hrn])
    have hrq' := hrp.trans hpq
    exact hrq'.asked (h6 q hq (by rw [hrq'.elem, hrn]) (by rw [hrq'.queued, hrq]))

/-- The engine's request has ended. -/
theorem State.becomeSilenced_active {s : State} {r : Request} (ha : s.activeRequest = some r) :
    CompletionAsked s.becomeSilenced r .fault (some .silenced) ∧ Left s.becomeSilenced r.id ∧
      s.becomeSilenced.te.phase = .idle := by
  have hbefore : s.hushed.silenceHolds.activeRequest = some r := by
    have hwq : s.hushed.silenceHolds.wq = s.wq := by simp [State.hushed]
    have hte : s.hushed.silenceHolds.te = s.te := by simp [State.hushed]
    simpa only [State.activeRequest, hwq, hte] using ha
  obtain ⟨hasked, hleft, hphase⟩ := State.silenceEngine_ends hbefore
  have hrest := ((Silences.foldl State.silenceChain_silences [0, 1, 2, 3] s.workSilenced).trans s.chainsSilenced_silences).sheds
  exact ⟨hrest.asked hasked, hrest.left hleft, s.becomeSilenced_hushed.2.2.2.2.2.2.trans hphase⟩

/-- The HOLDs that waited have completed, and no HOLD waits. -/
theorem State.becomeSilenced_holds (s : State) :
    (∀ y ∈ s.becomeSilenced.entries, y.holdElem = none) ∧
      (∀ y ∈ s.entries, ∀ h, y.holdElem = some h → ∃ c ∈ asked s.becomeSilenced, c.info = h.1 ∧ c.status = .fault ∧
        c.fault = some .silenced ∧ c.place = some (h.2.1, h.2.2)) ∧
      ∀ y ∈ s.entries, y.holdElem ≠ none → ∀ z ∈ s.becomeSilenced.entries, z.id ≠ y.id := by
  have hengine : Silences s.hushed.silenceHolds s.workSilenced := State.silenceEngine_silences _
  have hrest := hengine.trans ((Silences.foldl State.silenceChain_silences [0, 1, 2, 3] s.workSilenced).trans
    s.chainsSilenced_silences)
  refine ⟨fun y hy => ?_, fun y hy h hh => ?_, fun y hy hh => ?_⟩
  · obtain ⟨x, hx, hxy⟩ := hrest.back y hy
    exact hxy.2 (s.hushed.silenceHolds_clear x hx)
  · obtain ⟨c, hc, hcs⟩ := s.hushed.silenceHolds_asked y hy h hh
    exact ⟨c, hrest.sheds.1 c hc, hcs⟩
  · refine (s.entriesSilenced_silences.trans s.tenuresSilenced_silences).gone (removeEntryIds_leave _ _ y.id ?_)
    exact List.mem_map.mpr ⟨y, List.mem_filter.mpr ⟨hy, Option.isSome_iff_ne_none.mpr hh⟩, rfl⟩

end Sys2Proof.Machine
end

section
/-! FRAME_CHECK_FAILED and STATION_CLASH: the obligation (R114, R115, R119, R128, R188). -/

namespace Sys2Proof.Machine

open Sys2Proof

theorem mismatched_iff (l : List Word) : mismatched l = true ↔ frameValid l = true ∧
    (if frameSource l = 2 then adapterKind (frameKind l) = true else 6 ≤ frameKind l ∧ frameKind l ≤ 15) := by
  simp only [mismatched, Bool.and_eq_true]
  split <;> simp [driveKind]

/-- A valid frame of the peer that answers nothing ends the own notice's exchange as a silence (R119, R127). -/
theorem State.peerAnswer_spoils {s : State} {x : Exchange} (h : Noticing s x) (act : FrameBody → State → State) :
    s.begin.peerAnswer (fun _ => false) act = (Machine.answered s).noticeSilence x.frame := by
  obtain ⟨hx, ha, hd, hl⟩ := h
  have hb : s.begin.peerHeard = present s.begin := (if_pos hl).trans (State.peerPresent_eq hl)
  have hl' : (present s.begin).listens = true := (present_listens _).trans hl
  simp only [State.peerAnswer, hb, present_exchange]
  rw [show s.begin.lu.exchange = some x from hx]
  simp only [ha, if_true, hd, hl', Bool.not_true, Bool.or_self, Bool.false_eq_true, if_false, State.noticeSilent]
  rfl

/-- A first silence of a notice, the peer PRESENT: it is pending again, and an ask for another cylinder settled (R134). -/
theorem State.noticeSilence_again {s : State} {f : Frame} (h0 : f.silences = 0) (hp : s.tm.presence ≠ .absent) :
    s.noticeSilence f =
      (s.onLu fun l => { l with frames := { f with silences := 1, collisions := 0 } :: l.frames }).settleAsk f.body := by
  rw [State.noticeSilence, if_pos ⟨h0, hp⟩]

theorem exec_frameCheckFailed_stray {frame : List Word} {s : State} (h : mismatched frame = true) :
    exec (.frameCheckFailed frame) s = .next (s.begin.strayFrame frame) := by
  simp only [exec, execFrameCheckFailed, h, if_true]

/-- A stray frame of the drive (R119). -/
theorem State.strayFrame_drive {frame : List Word} {s : State} (h2 : frameSource frame = 2) :
    (∀ x, s.lu.exchange = some x → x.frame.body.isOrder = true → s.strayFrame frame = s.orderSilent x) ∧
      (∀ x, s.lu.exchange = some x → x.frame.body.isOrder = false → s.strayFrame frame = s) ∧
      (s.lu.exchange = none → ∀ p o, s.lu.peerExchange = some p → p.order = some o →
        s.strayFrame frame = s.onLu fun l => { l with peerExchange := none }) := by
  simp only [State.strayFrame, if_pos h2, State.driveAnswer]
  refine ⟨fun x hx ho => ?_, fun x hx ho => ?_, fun hx p o hp ho => ?_⟩
  · simp [hx, ho]
  · simp [hx, ho]
  · rcases p with ⟨_, _, _⟩
    simp only at ho
    subst ho
    simp [hx, hp]

/-- A stray frame of the peer (R127). -/
theorem State.strayFrame_peer {frame : List Word} {s : State} (h2 : frameSource frame ≠ 2)
    (hown : frameSource frame ≠ if s.lu.station then 1 else 0) :
    s.strayFrame frame = s.peerAnswer (fun _ => false) fun _ s => s := by
  rw [State.strayFrame, if_neg h2, if_neg hown]

theorem State.becomeSilenced_out (s : State) : s.begin.becomeSilenced.out = [] := by
  rw [s.begin.becomeSilenced_frame.2.2.2.2.2.2.2.2.2.1]
  rfl

/-- STATION_CLASH: the adapter becomes SILENCED (R128). -/
theorem stationClash_silences {s : State} (hn : (s.wq.records.map Request.id).Nodup) :
    let t := s.begin.becomeSilenced
    t.hp.adapter = .silenced ∧ t.hp.maintaining = none ∧ t.hp.events.getLsbD 8 = true ∧ t.lu.frames = [] ∧
      (∀ x ∈ t.lu.exchange, x.discarded = true) ∧ t.tm.own = .none ∧ t.tm.peer = none ∧ t.tm.courtesy = false ∧
      t.tm.presence = s.tm.presence ∧ t.rdm = s.rdm ∧ t.out = [] ∧
      ∀ n, ((s.chain n).state = .running ∨ (s.chain n).state = .stopping →
          WorkShed s t n .fault (some .silenced) ∧
          (if (s.chain n).inFlight = 0 ∧ s.hp.current ≠ some (.fetch n) then
            (t.chain n).state = .ended ∧ t.hp.events.getLsbD n.val = true ∧
              ∀ z ∈ t.hm.list ++ t.hm.line, z.chain = n → z.origin = .implicit
          else (t.chain n).state = .stopping) ∧
          (∀ y ∈ t.hm.list ++ t.hm.line, y.chain = n → y.holdElem = none)) ∧
        (NamesFresh s → ∀ y ∈ s.hm.list ++ s.hm.line, y.holdElem ≠ none → ∀ z ∈ t.hm.list ++ t.hm.line, z.id ≠ y.id) ∧
        (∀ y ∈ s.hm.list ++ s.hm.line, ∀ h, y.holdElem = some h →
          ∃ c ∈ asked t, c.info = h.1 ∧ c.status = .fault ∧ c.fault = some .silenced ∧ c.place = some (h.2.1, h.2.2)) ∧
        ((s.chain n).state = .idle ∨ (s.chain n).state = .ended → t.chain n = s.chain n) ∧
        ∀ r, s.activeRequest = some r → CompletionAsked t r .fault (some .silenced) ∧ Left t r.id ∧ t.te.phase = .idle := by
  intro t
  obtain ⟨h1, h2, h3, h4, h5, htm, _⟩ := s.begin.becomeSilenced_hushed
  obtain ⟨hclear, hasked, hgone⟩ := s.begin.becomeSilenced_holds
  refine ⟨h1, h2, h3, h4, h5, by rw [htm]; rfl, by rw [htm]; rfl, by rw [htm]; rfl, by rw [htm]; rfl, by simp [t], State.becomeSilenced_out s,
    fun n => ⟨fun hr => ?_, fun _ => hgone, hasked, fun hr => ?_, fun r hr => State.becomeSilenced_active (s := s.begin) hr⟩⟩
  · have hruns : (s.begin.chain n).runs = true := by
      have : s.begin.chain n = s.chain n := rfl
      rw [this]
      rcases hr with h | h <;> simp [Chain.runs, h]
    obtain ⟨hown, hended⟩ := s.begin.becomeSilenced_own hruns
    refine ⟨State.becomeSilenced_sheds (s := s.begin) hn hruns, ?_, fun y hy _ => hclear y hy⟩
    split
    · rename_i hover
      obtain ⟨hev, himp⟩ := hended hover.1 hover.2
      refine ⟨?_, hev, himp⟩
      rw [hown]
      exact if_pos hover
    · rename_i hover
      rw [hown]
      exact if_neg hover
  · refine s.begin.becomeSilenced_other ?_
    have : s.begin.chain n = s.chain n := rfl
    rw [this]
    rcases hr with h | h <;> simp [Chain.runs, h]

/-- Settles O40: frames that fail or answer nothing, then the station clash. -/
theorem badFramesAndTheStationClash : Obligations.BadFramesAndTheStationClash := by
  intro frame s source own stray clash
  have hstray : mismatched frame = true ↔ stray := mismatched_iff frame
  have hclash : s.begin.clashes frame = true ↔ clash := s.begin.clashes_iff frame
  refine ⟨fun hno => ?_, fun hs ho => ?_, fun hs h2 => ⟨fun x hx ho hd hl hsil => ?_, fun x hx ho => ?_, fun hx p o hp ho => ?_⟩,
    fun hs h2 ho hl => ⟨fun hx => ?_, fun x hx h0 => ⟨fun he => ?_, ?_⟩⟩, fun h => ?_, fun hc ha hn => ?_⟩
  · have hm : mismatched frame = false := by
      rw [Bool.eq_false_iff]
      exact fun h => hno (hstray.mp h)
    simp only [exec, execFrameCheckFailed, hm, Bool.false_eq_true, if_false]
    by_cases hv : frameValid frame = true
    · rw [if_pos hv, if_pos hv]
      rfl
    · rw [if_neg hv, if_neg hv]
      rfl
  · have hne : frameSource frame ≠ 2 := by
      rw [show frameSource frame = own from ho]
      simp only [own]
      split <;> omega
    have hown : s.begin.strayFrame frame = s.begin := by
      rw [State.strayFrame, if_neg hne]
      exact if_pos ho
    rw [exec_frameCheckFailed_stray (hstray.mpr hs), hown]
    rfl
  · refine ⟨_, exec_frameCheckFailed_stray (hstray.mpr hs), ?_⟩
    rw [(State.strayFrame_drive (s := s.begin) h2).1 x hx ho]
    exact State.orderSilent_counts hd hl hsil
  · rw [exec_frameCheckFailed_stray (hstray.mpr hs), (State.strayFrame_drive (s := s.begin) h2).2.1 x hx ho]
    rfl
  · rw [exec_frameCheckFailed_stray (hstray.mpr hs), (State.strayFrame_drive (s := s.begin) h2).2.2 hx p o hp ho]
    rfl
  · rw [exec_frameCheckFailed_stray (hstray.mpr hs), State.strayFrame_peer (s := s.begin) h2 ho]
    have hb : s.begin.peerHeard = present s.begin := (if_pos hl).trans (State.peerPresent_eq hl)
    simp only [State.peerAnswer, hb, present_exchange]
    cases hex : s.lu.exchange with
    | none =>
      rw [show s.begin.lu.exchange = none from hex]
      rfl
    | some x =>
      rw [show s.begin.lu.exchange = some x from hex]
      simp only [hx x hex, Bool.false_eq_true, if_false]
      rfl
  · have hpresent : (answered s).tm.presence ≠ .absent := by simp [answered, present]
    rw [exec_frameCheckFailed_stray (hstray.mpr hs), State.strayFrame_peer (s := s.begin) h2 ho, State.peerAnswer_spoils hx,
      State.noticeSilence_again h0 hpresent, State.settleAsk_eq,
      if_neg (by simpa [askedElsewhere, answered, present, State.onLu] using he)]
    rfl
  · have hwin : x.window ≤ 5 := by
      obtain ⟨_, ha, _⟩ := hx
      cases hb : x.frame.body <;> simp [hb, FrameBody.isAnswered] at ha <;> simp [Exchange.window, hb, Config.shortWindow]
    have hpresent : (present s).lu.exchange = some x := by
      rw [present_exchange]
      exact hx.1
    rw [exec_frameCheckFailed_stray (hstray.mpr hs), State.strayFrame_peer (s := s.begin) h2 ho, State.peerAnswer_spoils hx,
      exec_answerWindowClose_notice hpresent hwin hx.2.1 hx.2.2.1]
    rfl
  · have hno : (s.begin.clashes frame && s.begin.hp.adapter != .silenced) = false := by
      rw [Bool.and_eq_false_iff]
      rcases h with h | h
      · exact .inl (Bool.eq_false_iff.mpr fun hh => h (hclash.mp hh))
      · have : s.begin.hp.adapter = .silenced := h
        exact .inr (by rw [this]; rfl)
    simp only [exec, execStationClash, hno, Bool.false_eq_true, if_false]
    rfl
  · have hyes : (s.begin.clashes frame && s.begin.hp.adapter != .silenced) = true := by
      have : s.begin.hp.adapter ≠ .silenced := ha
      rw [Bool.and_eq_true]
      exact ⟨hclash.mpr hc, by simpa using this⟩
    refine ⟨s.begin.becomeSilenced, ?_, stationClash_silences hn⟩
    simp only [exec, execStationClash, hyes, if_true]

end Sys2Proof.Machine
end

section
/-! The station backoff and the peer's presence are read by the arbiter and by the silence rule alone (R122, R125, R127):
every other act commutes with a change of them. -/

namespace Sys2Proof.Machine

open Sys2Proof

/-- The backoff and the presence changed, nothing else. -/
def State.patch (s : State) (g : Nat → Nat) (h : Presence → Presence) : State :=
  { s with
    lu := { s.lu with backoff := g s.lu.backoff }
    tm := { s.tm with presence := h s.tm.presence } }

section
variable (s : State) (g : Nat → Nat) (h : Presence → Presence)

/-! What no act but the arbiter and the silence rule reads. -/

@[simp] theorem State.patch_frame :
    (s.patch g h).hp = s.hp ∧ (s.patch g h).chains = s.chains ∧ (s.patch g h).ec = s.ec ∧ (s.patch g h).wq = s.wq ∧
    (s.patch g h).te = s.te ∧ (s.patch g h).hm = s.hm ∧ (s.patch g h).rdm = s.rdm ∧ (s.patch g h).out = s.out ∧
    (s.patch g h).tm.own = s.tm.own ∧ (s.patch g h).tm.peer = s.tm.peer ∧
    (s.patch g h).tm.cylinder = s.tm.cylinder ∧ (s.patch g h).tm.moving = s.tm.moving ∧
    (s.patch g h).tm.courtesy = s.tm.courtesy ∧ (s.patch g h).tm.preemptMark = s.tm.preemptMark ∧
    (s.patch g h).lu.station = s.lu.station ∧ (s.patch g h).lu.frames = s.lu.frames ∧
    (s.patch g h).lu.exchange = s.lu.exchange ∧ (s.patch g h).lu.peerSeekFell = s.lu.peerSeekFell ∧
    (s.patch g h).lu.tenureStands = s.lu.tenureStands ∧ (s.patch g h).activeRequest = s.activeRequest ∧
    (s.patch g h).cfg = s.cfg ∧ (s.patch g h).choice = s.choice ∧
    (s.patch g h).exchangeInProgress = s.exchangeInProgress ∧ (s.patch g h).inLeadSlot = s.inLeadSlot ∧
    (s.patch g h).listens = s.listens := by
  exact ⟨rfl, rfl, rfl, rfl, rfl, rfl, rfl, rfl, rfl, rfl, rfl, rfl, rfl, rfl, rfl, rfl, rfl, rfl, rfl, rfl, rfl, rfl, rfl,
    rfl, rfl⟩

@[simp] theorem State.patch_reads :
    (∀ n, (s.patch g h).chain n = s.chain n) ∧ (∀ r, (s.patch g h).nextTarget r = s.nextTarget r) ∧
    (∀ t, (s.patch g h).needsSeek t = s.needsSeek t) ∧ (∀ r, (s.patch g h).eligible r = s.eligible r) ∧
    (∀ r, (s.patch g h).withCost r = s.withCost r) ∧ (∀ r, (s.patch g h).reviewed r = s.reviewed r) ∧
    (∀ r, (s.patch g h).mayNotReturn r = s.mayNotReturn r) ∧ (∀ c, (s.patch g h).leastSlackAt c = s.leastSlackAt c) ∧
    (∀ p, (s.patch g h).lu.isPending p = s.lu.isPending p) ∧ ∀ p, (s.patch g h).lu.inExchange p = s.lu.inExchange p :=
  ⟨fun _ => rfl, fun _ => rfl, fun _ => rfl, fun _ => rfl, fun _ => rfl, fun _ => rfl, fun _ => rfl, fun _ => rfl, fun _ => rfl,
    fun _ => rfl⟩

/-! The acts on one record. -/

@[simp] theorem State.patch_records :
    (∀ f, (s.patch g h).onHp f = (s.onHp f).patch g h) ∧ (∀ f, (s.patch g h).onWq f = (s.onWq f).patch g h) ∧
    (∀ f, (s.patch g h).onTe f = (s.onTe f).patch g h) ∧ (∀ f, (s.patch g h).onHm f = (s.onHm f).patch g h) ∧
    (∀ f, (s.patch g h).onEc f = (s.onEc f).patch g h) ∧ (∀ f, (s.patch g h).onRdm f = (s.onRdm f).patch g h) ∧
    (∀ o, (s.patch g h).emit o = (s.emit o).patch g h) ∧ (∀ o, (s.patch g h).setOwn o = (s.setOwn o).patch g h) ∧
    (∀ q, (s.patch g h).withdraw q = (s.withdraw q).patch g h) ∧ (∀ a, (s.patch g h).raise a = (s.raise a).patch g h) ∧
    (∀ i f, (s.patch g h).onRequest i f = (s.onRequest i f).patch g h) ∧
    (s.patch g h).begin = s.begin.patch g h ∧ (s.patch g h).endExchange = s.endExchange.patch g h :=
  ⟨fun _ => rfl, fun _ => rfl, fun _ => rfl, fun _ => rfl, fun _ => rfl, fun _ => rfl, fun _ => rfl, fun _ => rfl, fun _ => rfl,
    fun _ => rfl, fun _ _ => rfl, rfl, rfl⟩

theorem State.ite_patch (c : Prop) [Decidable c] (a b : State) :
    (if c then a else b).patch g h = if c then a.patch g h else b.patch g h := apply_ite (fun s => s.patch g h) c a b

/-- Acts one after another. -/
theorem State.foldl_patch {β : Type} {f : State → β → State} (hf : ∀ s b, f (s.patch g h) b = (f s b).patch g h)
    (l : List β) (s : State) : l.foldl f (s.patch g h) = (l.foldl f s).patch g h := by
  induction l generalizing s with
  | nil => rfl
  | cons b l ih => rw [List.foldl_cons, List.foldl_cons, hf, ih]

@[simp] theorem State.offer_patch (b : FrameBody) : (s.patch g h).offer b = (s.offer b).patch g h := by
  simp only [State.offer, State.patch_frame, State.ite_patch]
  rfl

@[simp] theorem State.complete_patch (c : Completion) : (s.patch g h).complete c = (s.complete c).patch g h := rfl

@[simp] theorem State.completeAfterData_patch (id : Nat) (c : Completion) :
    (s.patch g h).completeAfterData id c = (s.completeAfterData id c).patch g h := by
  simp only [State.completeAfterData, State.patch_frame, State.patch_records, State.complete_patch, State.ite_patch]

@[simp] theorem State.entries_patch :
    (∀ id f, (s.patch g h).onEntry id f = (s.onEntry id f).patch g h) ∧
    (∀ id, (s.patch g h).wakeRequests id = (s.wakeRequests id).patch g h) ∧
    (∀ id, (s.patch g h).dropRequest id = (s.dropRequest id).patch g h) ∧
    ∀ id, (s.patch g h).settleClaim id = (s.settleClaim id).patch g h :=
  ⟨fun _ _ => rfl, fun _ => rfl, fun _ => rfl, fun _ => rfl⟩

@[simp] theorem State.outcome_patch (i : ElemInfo) (st : Status) (f : Option ElementFault) (b : ChainFlags) (d : Nat)
    (p : Option (Table × Nat)) : (s.patch g h).outcome i st f b d p = s.outcome i st f b d p := rfl

@[simp] theorem State.completeHold_patch (e : HoldEntry) (st : Status) (f : Option ElementFault) (p : Bool) :
    (s.patch g h).completeHold e st f p = (s.completeHold e st f p).patch g h := by
  simp only [State.completeHold, State.outcome_patch, State.complete_patch]
  split <;> rfl

@[simp] theorem State.becomeHeld_patch (id : Nat) (b : Bool) :
    (s.patch g h).becomeHeld id b = (s.becomeHeld id b).patch g h := by
  simp only [State.becomeHeld, State.patch_frame, State.entries_patch, State.completeHold_patch]
  split <;> rfl

@[simp] theorem State.joinList_patch (e : HoldEntry) : (s.patch g h).joinList e = (s.joinList e).patch g h := by
  simp only [State.joinList, State.patch_frame, State.patch_records, State.becomeHeld_patch, State.offer_patch, State.ite_patch]

@[simp] theorem State.recheckLine_patch : (s.patch g h).recheckLine = s.recheckLine.patch g h := by
  have hone (u : State) (e : HoldEntry) : (u.patch g h).recheckEntry e = (u.recheckEntry e).patch g h := by
    simp only [State.recheckEntry, State.patch_frame, State.patch_records, State.joinList_patch, State.ite_patch]
  simp only [State.recheckLine, State.patch_frame]
  exact State.foldl_patch g h hone _ s

@[simp] theorem State.removeEntry_patch (e : HoldEntry) : (s.patch g h).removeEntry e = (s.removeEntry e).patch g h := by
  simp only [State.removeEntry, State.patch_frame, State.patch_records, State.entries_patch, State.offer_patch]
  repeat' split
  all_goals first | rfl | exact State.recheckLine_patch _ g h

@[simp] theorem State.endReference_patch (id : Nat) : (s.patch g h).endReference id = (s.endReference id).patch g h := by
  have hunhold (u : State) (e : HoldEntry) : (u.patch g h).completeUnhold e = (u.completeUnhold e).patch g h := by
    simp only [State.completeUnhold, State.outcome_patch, State.complete_patch]
    split <;> rfl
  simp only [State.endReference, State.patch_frame, State.entries_patch, State.removeEntry_patch, hunhold]
  split
  · rfl
  · simp only [State.ite_patch]

@[simp] theorem State.completeRequest_patch (r : Request) (st : Status) (f : Option ElementFault) (m : Bool) :
    (s.patch g h).completeRequest r st f m = (s.completeRequest r st f m).patch g h := by
  have hmark (u : State) (t : Table) (n : Nat) (k : Descriptor → Descriptor) :
      (u.patch g h).onDescriptor t n k = (u.onDescriptor t n k).patch g h := rfl
  simp only [State.completeRequest, State.leaveQueue, State.patch_frame, State.outcome_patch, State.completeAfterData_patch,
    State.endReference_patch]
  repeat' split
  all_goals simp only [hmark, State.entries_patch]

end

end Sys2Proof.Machine
end

section
/-! The acts of the engine and of the tenures commute with a change of backoff and presence. -/

namespace Sys2Proof.Machine

open Sys2Proof

section
variable (s : State) (g : Nat → Nat) (h : Presence → Presence)

/-! The engine's request ends or goes back. -/

@[simp] theorem State.idleEngine_patch : (s.patch g h).idleEngine = s.idleEngine.patch g h := by
  have hbuf (u : State) (n : BufferName) (b : SectorBuffer) : (u.patch g h).setBuf n b = (u.setBuf n b).patch g h := by
    cases n <;> rfl
  have hdiscard (u : State) (n : BufferName) : (u.patch g h).discardBuf n = (u.discardBuf n).patch g h := by
    simp only [State.discardBuf, State.patch_frame, State.patch_records, hbuf]
    split <;> simp only [State.ite_patch]
  simp only [State.idleEngine, State.discardData, State.patch_records, hdiscard]

@[simp] theorem State.finish_patch (st : Status) (f : Option ElementFault) (m : Bool) :
    (s.patch g h).finish st f m = (s.finish st f m).patch g h := by
  simp only [State.finish, State.patch_frame, State.completeRequest_patch, State.idleEngine_patch]
  split <;> rfl

@[simp] theorem State.handBack_patch (q : Request → RequestState) : (s.patch g h).handBack q = (s.handBack q).patch g h := by
  simp only [State.handBack, State.patch_frame, State.patch_reads, State.patch_records, State.finish_patch,
    State.idleEngine_patch]
  split
  · rfl
  · simp only [State.ite_patch]

@[simp] theorem State.suspend_patch : (s.patch g h).suspend = s.suspend.patch g h := s.handBack_patch g h _

@[simp] theorem State.giveBack_patch : (s.patch g h).giveBack = s.giveBack.patch g h := s.handBack_patch g h _

/-! Positioning and selection. -/

@[simp] theorem State.askTenure_patch (c : Nat) : (s.patch g h).askTenure c = (s.askTenure c).patch g h := by
  have hask (u : State) : (u.patch g h).onTm (fun t => { t with own := .asking c }) =
      (u.onTm fun t => { t with own := .asking c }).patch g h := rfl
  have hretarget (u : State) : (u.patch g h).onLu (fun l => l.retarget c) = (u.onLu fun l => l.retarget c).patch g h := rfl
  simp only [State.askTenure, State.reannounce, State.patch_frame, State.patch_reads, hask, hretarget, State.offer_patch]
  split <;> simp only [State.ite_patch]

@[simp] theorem State.positionAt_patch : (s.patch g h).positionAt = s.positionAt.patch g h := by
  have hphase (u : State) (p : Phase) : (u.patch g h).setPhase p = (u.setPhase p).patch g h := rfl
  have hwait : (s.patch g h).waitTenure = s.waitTenure.patch g h := by
    simp only [State.waitTenure, State.patch_frame, hphase, State.askTenure_patch]
  have horder (u : State) : (u.patch g h).tryOrder = u.tryOrder.patch g h := by
    simp only [State.tryOrder, State.patch_frame, State.patch_reads, State.offer_patch]
    split
    · rfl
    · simp only [State.ite_patch]
  have hlead : (s.patch g h).enterLead = s.enterLead.patch g h := by
    simp only [State.enterLead, State.patch_frame, State.patch_records, horder]
  have hsettle : (s.patch g h).enterSettle = s.enterSettle.patch g h := rfl
  simp only [State.positionAt, State.patch_frame, State.patch_reads, hphase, hwait, hlead, hsettle, State.suspend_patch]
  repeat' split
  all_goals rfl

@[simp] theorem State.position_patch : (s.patch g h).position = s.position.patch g h := by
  simp only [State.position, State.patch_frame, State.patch_reads, State.patch_records, State.positionAt_patch]
  split <;> rfl

@[simp] theorem State.select_patch : (s.patch g h).select = s.select.patch g h := by
  have hbuf (u : State) (n : BufferName) (b : SectorBuffer) : (u.patch g h).setBuf n b = (u.setBuf n b).patch g h := by
    cases n <;> rfl
  have hask (u : State) (t : Transfer) : (u.patch g h).askTransfer t = (u.askTransfer t).patch g h := rfl
  have hone (u : State) (r : Request) : (u.patch g h).loadOne r = (u.loadOne r).patch g h := by
    simp only [State.loadOne, State.patch_frame, hbuf, hask]
    split <;> rfl
  have hload (u : State) : (u.patch g h).loadAhead = u.loadAhead.patch g h := by
    simp only [State.loadAhead, State.patch_frame, hone]
    split
    · rfl
    · simp only [State.ite_patch]
  have htake (u : State) (r : Request) : (u.patch g h).takeRequest r = (u.takeRequest r).patch g h := by
    simp only [State.takeRequest, State.patch_reads, State.patch_records, hload, State.position_patch]
  have hform : (s.patch g h).formEligible = s.formEligible.patch g h := rfl
  simp only [State.select, State.patch_frame, hform, htake]
  repeat' split
  all_goals rfl

/-! The own tenure ends; what follows an idle engine. -/

@[simp] theorem State.offerReleaseOnce_patch : (s.patch g h).offerReleaseOnce = s.offerReleaseOnce.patch g h := by
  simp only [State.offerReleaseOnce, State.patch_reads, State.offer_patch, State.ite_patch]

@[simp] theorem State.offerRelease_patch : (s.patch g h).offerRelease = s.offerRelease.patch g h := by
  simp only [State.offerRelease, State.patch_frame, State.offerReleaseOnce_patch, State.ite_patch]

@[simp] theorem State.suspendAfterExchange_patch : (s.patch g h).suspendAfterExchange = s.suspendAfterExchange.patch g h := by
  simp only [State.suspendAfterExchange, State.patch_frame, State.patch_records, State.suspend_patch]
  split
  · rfl
  · simp only [State.ite_patch]

@[simp] theorem State.endTenure_patch : (s.patch g h).endTenure = s.endTenure.patch g h := by
  simp only [State.endTenure, State.patch_frame, State.patch_records, State.suspendAfterExchange_patch, State.offerRelease_patch]
  split <;> rfl

@[simp] theorem State.engineIdled_patch : (s.patch g h).engineIdled = s.engineIdled.patch g h := by
  have htest (u : State) : (u.patch g h).idleTenureTest = u.idleTenureTest.patch g h := by
    simp only [State.idleTenureTest, State.patch_frame, State.endTenure_patch, State.ite_patch]
  simp only [State.engineIdled, State.select_patch, htest, State.offerRelease_patch]

theorem State.following_patch {act : State → State}
    (ha : act (s.patch g h) = (act s).patch g h) : (s.patch g h).following act = (s.following act).patch g h := by
  simp only [State.following, ha, State.patch_frame, State.engineIdled_patch, State.ite_patch]

@[simp] theorem State.reposition_patch : (s.patch g h).reposition = s.reposition.patch g h :=
  s.following_patch g h (s.position_patch g h)

@[simp] theorem State.tenureRefused_patch : (s.patch g h).tenureRefused = s.tenureRefused.patch g h := by
  simp only [State.tenureRefused, State.patch_frame, State.giveBack_patch, State.engineIdled_patch, State.ite_patch]

@[simp] theorem State.review_patch : (s.patch g h).review = s.review.patch g h := rfl

@[simp] theorem State.setPositioner_patch (c : Option Nat) (m : Bool) :
    (s.patch g h).setPositioner c m = (s.setPositioner c m).patch g h := rfl

@[simp] theorem State.setMoving_patch (m : Bool) : (s.patch g h).setMoving m = (s.setMoving m).patch g h := rfl

@[simp] theorem State.peerHolds_patch (c : Option Nat) (n : Nat) : (s.patch g h).peerHolds c n = (s.peerHolds c n).patch g h :=
  rfl

@[simp] theorem State.peerGone_patch : (s.patch g h).peerGone = s.peerGone.patch g h := by
  have hnone : (s.patch g h).onTm (fun t => { t with peer := none, preemptMark := false }) =
      (s.onTm fun t => { t with peer := none, preemptMark := false }).patch g h := rfl
  simp only [State.peerGone, State.patch_frame, hnone, State.patch_records, State.review_patch, State.ite_patch]

end

end Sys2Proof.Machine
end

section
/-! What the peer's notices and orders do commutes with a change of backoff and presence (R97, R132, R139 to R142, R154,
R159), and so does the silence of an own notice with one of the backoff (R125). -/

namespace Sys2Proof.Machine

open Sys2Proof

section
variable (s : State) (g : Nat → Nat) (h : Presence → Presence)

theorem State.suspendFollowing_patch : (s.patch g h).following State.suspendAfterExchange =
    (s.following State.suspendAfterExchange).patch g h := s.following_patch g h (s.suspendAfterExchange_patch g h)

/-! An own TENURE settled, a notice unanswered. -/

theorem State.tenureGranted_patch (c : Nat) : (s.patch g h).tenureGranted c = (s.tenureGranted c).patch g h := by
  have hseek : (s.patch g h).offerSeek = s.offerSeek.patch g h := by
    have hphase (u : State) (p : Phase) : (u.patch g h).setPhase p = (u.setPhase p).patch g h := rfl
    simp only [State.offerSeek, State.patch_frame, hphase, State.offer_patch]
  simp only [State.tenureGranted, State.patch_frame, hseek, State.reposition_patch, State.ite_patch]

theorem State.tenureSettled_patch (c : Nat) : (s.patch g h).tenureSettled c = (s.tenureSettled c).patch g h := by
  have hhold (u : State) (a n : Nat) : (u.patch g h).holdTenure a n = (u.holdTenure a n).patch g h := by
    simp only [State.holdTenure, State.patch_records, State.patch_frame, State.tenureGranted_patch, State.endTenure_patch,
      State.ite_patch]
  simp only [State.tenureSettled, State.patch_frame, State.patch_records, hhold, State.tenureGranted_patch,
    State.offerRelease_patch]
  split <;> rfl

theorem State.settleAsk_patch (b : FrameBody) : (s.patch g h).settleAsk b = (s.settleAsk b).patch g h := by
  simp only [State.settleAsk, State.patch_frame, State.reposition_patch]
  split
  · simp only [State.ite_patch]
  · rfl

/-- The backoff apart from the presence. -/
theorem State.peerAbsent_patch : (s.patch g id).peerAbsent = s.peerAbsent.patch g id := by
  have hcourtesy (u : State) : (u.patch g id).endCourtesy = u.endCourtesy.patch g id := by
    have hoff (v : State) : (v.patch g id).onTm (fun t => { t with courtesy := false }) =
        (v.onTm fun t => { t with courtesy := false }).patch g id := rfl
    simp only [State.endCourtesy, State.patch_frame, hoff, State.offer_patch]
    split
    · split
      · simp only [State.ite_patch]
      · rfl
    · rfl
  have hpresence (u : State) : (u.patch g id).onTm (fun t => { t with presence := .absent }) =
      (u.onTm fun t => { t with presence := .absent }).patch g id := rfl
  have hread : (s.patch g id).tm.presence = s.tm.presence := rfl
  simp only [State.peerAbsent, hread, State.patch_records]
  split <;> rw [hpresence, hcourtesy]

theorem State.noticeSilence_patch (f : Frame) : (s.patch g id).noticeSilence f = (s.noticeSilence f).patch g id := by
  have hread : (s.patch g id).tm.presence = s.tm.presence := rfl
  have hpend : (s.patch g id).onLu (fun l => { l with frames := { f with silences := 1, collisions := 0 } :: l.frames }) =
      (s.onLu fun l => { l with frames := { f with silences := 1, collisions := 0 } :: l.frames }).patch g id := rfl
  have hentry (u : State) (i : Nat) : (u.patch g id).silentEntry i = (u.silentEntry i).patch g id := by
    simp only [State.silentEntry, State.entries_patch, State.becomeHeld_patch]
  have hun : (s.patch g id).noticeUnanswered f.body = (s.noticeUnanswered f.body).patch g id := by
    simp only [State.noticeUnanswered, State.peerAbsent_patch, State.tenureSettled_patch, hentry]
    split <;> rfl
  simp only [State.noticeSilence, hread, hpend, State.settleAsk_patch, hun, State.ite_patch]

/-! What the peer's orders and notices do. -/

theorem State.answer_patch (a : AdapterAnswer) : (s.patch g h).answer a = (s.answer a).patch g h := rfl

theorem State.peerStands_patch (o : Option PeerOrder) : (s.patch g h).peerStands o = (s.peerStands o).patch g h := rfl

theorem State.loseDrive_patch : (s.patch g h).loseDrive false = (s.loseDrive false).patch g h := by
  have hengine (u : State) : (u.patch g h).engineDown = u.engineDown.patch g h := by
    simp only [State.engineDown, State.patch_frame, State.patch_records, State.finish_patch]
    split
    · rfl
    · simp only [State.ite_patch]
  have hlost (u : State) : (u.patch g h).onLu LineUnit.markLost = (u.onLu LineUnit.markLost).patch g h := rfl
  have htenure (u : State) : (u.patch g h).tenureDown = u.tenureDown.patch g h := by
    simp only [State.tenureDown, State.setPositioner_patch, State.endTenure_patch, State.offerRelease_patch]
  refine State.following_patch s g h ?_
  simp only [Bool.false_eq_true, if_false, State.driveDown, State.patch_frame, State.patch_records, hlost, hengine, htenure,
    State.ite_patch]

theorem State.peerSeekEnds_patch (c : Nat) (a : SeekAnswer) :
    (s.patch g h).peerSeekEnds c a = (s.peerSeekEnds c a).patch g h := by
  have hheard (u : State) : (u.patch g h).driveHeard = u.driveHeard.patch g h := rfl
  have hcount (u : State) : (u.patch g h).countPeerSeek = u.countPeerSeek.patch g h := rfl
  simp only [State.peerSeekEnds, State.peerSeekAccepted, State.patch_frame, State.setPositioner_patch, State.setMoving_patch,
    hheard, hcount, State.suspendFollowing_patch, State.loseDrive_patch]
  split <;> simp only [State.ite_patch]

theorem State.hearTenure_patch (c n : Nat) : (s.patch g h).hearTenure c n = (s.hearTenure c n).patch g h := by
  have hpeer (u : State) : (u.patch g h).peerTenure c n = (u.peerTenure c n).patch g h := by
    simp only [State.peerTenure, State.peerHolds_patch, State.patch_frame, State.suspendFollowing_patch, State.ite_patch]
  simp only [State.hearTenure, State.patch_frame, State.answer_patch, State.patch_records, State.peerHolds_patch,
    State.tenureRefused_patch, hpeer]
  split <;> rfl

theorem State.hearPreempt_patch (k : Int) : (s.patch g h).hearPreempt k = (s.hearPreempt k).patch g h := by
  have hkeeps (c : Nat) : (s.patch g h).keeps c k = s.keeps c k := rfl
  simp only [State.hearPreempt, State.patch_frame, State.answer_patch, hkeeps, State.withdrawAsk, State.patch_records,
    State.endTenure_patch, State.tenureRefused_patch, State.offerReleaseOnce_patch]
  split
  · simp only [State.ite_patch]
  all_goals rfl

theorem State.hearFree_patch (b n : Nat) (w : Bool) : (s.patch g h).hearFree b n w = (s.hearFree b n w).patch g h := by
  have hone (u : State) (e : HoldEntry) : (u.patch g h).reclaimEntry e = (u.reclaimEntry e).patch g h := by
    simp only [State.reclaimEntry, State.entries_patch, State.offer_patch]
  have hrange : (s.patch g h).reclaimRange b n = (s.reclaimRange b n).patch g h := by
    simp only [State.reclaimRange, State.patch_frame]
    exact State.foldl_patch g h hone _ s
  simp only [State.hearFree, hrange, State.patch_records, State.ite_patch]

theorem State.hearHello_patch : (s.patch g h).hearHello = s.hearHello.patch g h := by
  simp only [State.hearHello, State.peerGone_patch, State.patch_frame, State.offer_patch]
  split
  · simp only [State.ite_patch]
  · rfl

end

/-- The command is a frame of the peer that begins an exchange: the backoff spent, the presence and the own notice settled,
then `k`, which reads neither backoff nor presence. -/
structure PeerBegins (c : Instr) (k : State → State) : Prop where
  runs : ∀ s : State, exec c s = .next (k s.begin.peerBegins.peerHeard.spoilNotice)
  blind : ∀ (s : State) (g : Nat → Nat) (h : Presence → Presence), k (s.patch g h) = (k s).patch g h

/-- The act of a notice of the peer, where the Line Unit hands notices on (R118, R129). -/
def heardNotice (takesAnswer : Bool) (act : State → State) (s : State) : State :=
  if s.listens then act s else if takesAnswer then s.peerStands none else s

theorem heardNotice_patch (b : Bool) {act : State → State} {g : Nat → Nat} {h : Presence → Presence}
    (ha : ∀ s : State, act (s.patch g h) = (act s).patch g h) (s : State) :
    heardNotice b act (s.patch g h) = (heardNotice b act s).patch g h := by
  simp only [heardNotice, State.patch_frame, ha, State.peerStands_patch, State.ite_patch]

end Sys2Proof.Machine
end

section
/-! The frames of the peer that begin an exchange, each in the shape of `PeerBegins`, and how they meet an own notice in
exchange (R119, R127, R129). -/

namespace Sys2Proof.Machine

open Sys2Proof

/-! The commands. -/

theorem PeerBegins.of_notice {c : Instr} {b : Bool} {act : State → State}
    (hrun : ∀ s : State, exec c s = .next (s.begin.peerNotice b act))
    (hact : ∀ (s : State) (g : Nat → Nat) (h : Presence → Presence), act (s.patch g h) = (act s).patch g h) :
    PeerBegins c (heardNotice b act) :=
  ⟨hrun, fun s g h => heardNotice_patch b (fun u => hact u g h) s⟩

theorem peerBegins_tenure {c n : Word} (hc : c.toNat ≤ 399) (h1 : 1 ≤ n.toNat) (h15 : n.toNat ≤ 15) :
    PeerBegins (.peerTenureHeard c n) (heardNotice true (State.hearTenure c.toNat n.toNat)) := by
  have hok : (cylinderOk c && decide (1 ≤ n.toNat) && decide (n.toNat ≤ 15)) = true := by simp [cylinderOk, hc, h1, h15]
  refine .of_notice (fun s => ?_) fun s g h => s.hearTenure_patch g h _ _
  simp only [exec, execPeerTenureHeard, if_pos (show contentOk 16 [c, n] = true from hok)]

theorem peerBegins_preempt {k : Word} (h1 : -1264 ≤ k.toInt) (h2 : k.toInt ≤ -1) :
    PeerBegins (.peerPreemptHeard k) (heardNotice true (State.hearPreempt k.toInt)) := by
  have hok : slackOk k = true := by simp [slackOk, h1, h2]
  refine .of_notice (fun s => ?_) fun s g h => s.hearPreempt_patch g h _
  simp only [exec, execPeerPreemptHeard, if_pos (show contentOk 19 [k] = true from hok)]

theorem peerBegins_claim {b w : Word} (hok : rangeOk b w = true) :
    PeerBegins (.peerClaimHeard b w) (heardNotice true (State.hearClaim b.toNat (rangeCount w) (rangeMode w))) := by
  refine .of_notice (fun s => ?_) fun s g h => ?_
  · simp only [exec, execPeerClaimHeard, if_pos (show contentOk 22 [b, w] = true from hok)]
  · simp only [State.hearClaim, State.patch_frame, State.answer_patch]

theorem peerBegins_free {b w : Word} (hok : rangeOk b w = true) :
    PeerBegins (.peerFreeHeard b w) (heardNotice false (State.hearFree b.toNat (rangeCount w) (flag w 15))) := by
  refine .of_notice (fun s => ?_) fun s g h => s.hearFree_patch g h _ _ _
  simp only [exec, execPeerFreeHeard, if_pos (show contentOk 26 [b, w] = true from hok)]

theorem peerBegins_release : PeerBegins .peerReleaseHeard (heardNotice false State.peerGone) :=
  .of_notice (fun _ => rfl) fun s g h => s.peerGone_patch g h

theorem peerBegins_hello : PeerBegins .peerHelloHeard (heardNotice false State.hearHello) :=
  .of_notice (fun _ => rfl) fun s g h => s.hearHello_patch g h

theorem peerBegins_order (o : PeerOrder) : PeerBegins (.peerOrderHeard o) fun s => s.peerStands (some o) :=
  ⟨fun _ => rfl, fun s g h => s.peerStands_patch g h _⟩

theorem State.seekAfterLoss_patch (s : State) (g : Nat → Nat) (h : Presence → Presence) (l : Bool) :
    (s.patch g h).seekAfterLoss l = (s.seekAfterLoss l).patch g h := by
  simp only [State.seekAfterLoss, State.setPositioner_patch, State.ite_patch]

theorem peerBegins_seek {v : Word} (hv : v.toNat ≤ 399) (a : SeekAnswer) (l : Bool) :
    PeerBegins (.peerSeek v a l) fun s =>
      ((s.peerSeekEnds v.toNat a).seekAfterLoss l).onLu fun l => { l with peerSeekFell := false } := by
  have hok : cylinderOk v = true := by simp [cylinderOk, hv]
  refine ⟨fun s => ?_, fun s g h => ?_⟩
  · simp only [exec, execPeerSeek, if_pos hok]
  · rw [State.peerSeekEnds_patch, State.seekAfterLoss_patch]
    rfl

/-! Where the Line Unit hands nothing on (R129). -/

/-- A notice of the peer while UNCONFIGURED or SILENCED: the backoff is spent, and one that takes an answer stands. -/
theorem PeerBegins.unheard {c : Instr} {b : Bool} {act : State → State} (hk : PeerBegins c (heardNotice b act)) {s : State}
    (hl : s.listens = false) (hx : s.lu.exchange = none) :
    exec c s = .next (if b then s.begin.peerBegins.peerStands none else s.begin.peerBegins) := by
  have hl' : s.begin.peerBegins.listens = false := hl
  have hheard : s.begin.peerBegins.peerHeard = s.begin.peerBegins := by
    simp only [State.peerHeard, hl', Bool.false_eq_true, if_false]
  have hspoil : s.begin.peerBegins.spoilNotice = s.begin.peerBegins :=
    State.spoilNotice_of_none (by simp [State.begin, State.peerBegins, State.onLu, hx])
  rw [hk.runs, hheard, hspoil, heardNotice, if_neg (by simp [hl'])]

/-! With an own notice in exchange (R119). -/

theorem present_patch (s : State) (g : Nat → Nat) : present (s.patch g id) = (present s).patch g id := by
  have hask : (s.patch g id).askOffered = { s.askOffered with backoff := g s.askOffered.backoff } := by
    simp only [State.askOffered, State.patch_frame]
    split
    · split <;> rfl
    · rfl
  have hpresent (u : State) : present u = { present u with lu := u.askOffered } := rfl
  rw [hpresent, hpresent s, hask]
  rfl

theorem State.peerHeard_spent {s : State} (hl : s.listens = true) :
    s.begin.peerBegins.peerHeard = (present s.begin).patch (fun _ => 0) id :=
  ((if_pos hl).trans (State.peerPresent_eq (s := s.begin.peerBegins) hl)).trans (present_patch s.begin fun _ => 0)

/-- Presence first, then the silence of the own notice, then the frame (R119, R127). -/
theorem PeerBegins.spoils {c : Instr} {k : State → State} (hk : PeerBegins c k) {s : State} {x : Exchange}
    (hn : Noticing s x) :
    exec c s = .next (k (((Machine.answered s).noticeSilence x.frame).patch (fun _ => 0) id)) := by
  obtain ⟨hx, ha, hd, hl⟩ := hn
  have hspoil : ((present s.begin).patch (fun _ => 0) id).spoilNotice =
      ((present s.begin).patch (fun _ => 0) id).endExchange.noticeSilence x.frame := by
    have hex : ((present s.begin).patch (fun _ => 0) id).lu.exchange = some x := (present_exchange s.begin).trans hx
    have hli : ((present s.begin).patch (fun _ => 0) id).listens = true := (present_listens s.begin).trans hl
    simp only [State.spoilNotice, hex, ha, hli, if_true, State.noticeSilent, hd, Bool.false_eq_true, if_false]
  have hend : ((present s.begin).patch (fun _ => 0) id).endExchange =
      (present s.begin).endExchange.patch (fun _ => 0) id := rfl
  rw [hk.runs, State.peerHeard_spent hl, hspoil, hend, State.noticeSilence_patch]
  rfl

/-- The frame with no own notice in exchange and no courtesy wait, PEER raised already if the peer was ABSENT. -/
theorem PeerBegins.settled {c : Instr} {k : State → State} (hk : PeerBegins c k) {u : State} (hl : u.listens = true)
    (hx : u.lu.exchange = none) (ho : u.out = []) (hc : u.tm.courtesy = false)
    (hp : u.tm.presence = .absent → u.hp.events.getLsbD 7 = true) :
    exec c u = .next (k (u.patch (fun _ => 0) fun _ => .present)) := by
  have hbegin : u.begin = u := by
    rw [State.begin, ← ho]
  have hevents : (if u.tm.presence = .absent then { u.hp with events := u.hp.events ||| BitVec.twoPow 12 7 } else u.hp) =
      u.hp := by
    split
    · rename_i hq
      have hbit : u.hp.events ||| BitVec.twoPow 12 7 = u.hp.events := by
        refine BitVec.eq_of_getLsbD_eq fun i hi => ?_
        rw [BitVec.getLsbD_or, BitVec.getLsbD_twoPow]
        by_cases h7 : i = 7
        · simp [h7, hp hq]
        · simp [Ne.symm h7]
      rw [hbit]
    · rfl
  have hpresent : present u = u.patch id fun _ => .present := by
    have hlu : (present u).lu = u.lu := by
      simp only [present, hc, Bool.false_eq_true, false_and, if_false]
      split <;> rfl
    have htm : (present u).tm = (u.patch id fun _ => .present).tm := by
      simp only [present, ← hc]
      rfl
    have hhp : (present u).hp = u.hp := hevents
    rw [show present u = { u with hp := (present u).hp, tm := (present u).tm, lu := (present u).lu } from rfl, hhp, htm, hlu]
    rfl
  rw [hk.runs, State.peerHeard_spent hl, hbegin, hpresent, State.spoilNotice_of_none (by simp [hx])]
  rfl

/-! What the silence of a notice leaves of presence and exchange. -/

theorem State.settleAsk_engineKept (s : State) (b : FrameBody) : EngineKept s (s.settleAsk b) := by
  rw [State.settleAsk_eq]
  split
  · exact s.reposition_engineKept
  · exact .refl s

theorem State.noticeUnanswered_engineKept (s : State) (b : FrameBody) :
    EngineKept s.peerAbsent (s.noticeUnanswered b) := by
  cases b with
  | tenure c => exact (State.tenureSettled_settles _ c).1
  | claim id start count m => simp [State.noticeUnanswered, EngineKept]
  | _ => exact .refl _

/-- A first silence, the peer not ABSENT: the exchange, the presence and the courtesy wait stand. -/
theorem State.noticeSilence_first {s : State} {f : Frame} (h0 : f.silences = 0) (hp : s.tm.presence ≠ .absent) :
    (s.noticeSilence f).lu.exchange = s.lu.exchange ∧ (s.noticeSilence f).tm.presence = s.tm.presence ∧
      (s.noticeSilence f).tm.courtesy = s.tm.courtesy := by
  rw [State.noticeSilence_again h0 hp]
  have hk := State.settleAsk_engineKept (s.onLu fun l => { l with
    frames := { f with silences := 1, collisions := 0 } :: l.frames }) f.body
  obtain ⟨_, ⟨_, _, _, hpres, hcourt, _, _⟩, ⟨_, hex, _⟩, _⟩ := hk
  exact ⟨hex, hpres, hcourt⟩

/-- A notice decided by its silence: the peer ABSENT, no courtesy wait, PEER raised on the change (R127, R138). -/
theorem State.noticeSilence_decided {s : State} {f : Frame} (h0 : f.silences ≠ 0) :
    (s.noticeSilence f).lu.exchange = s.lu.exchange ∧ (s.noticeSilence f).tm.presence = .absent ∧
      (s.noticeSilence f).tm.courtesy = false ∧
      (s.tm.presence ≠ .absent → (s.noticeSilence f).hp.events.getLsbD 7 = true) := by
  rw [State.noticeSilence, if_neg fun h => h0 h.1]
  obtain ⟨htm, hev⟩ := s.peerAbsent_tm
  obtain ⟨⟨_, _, _, _, hevents, _⟩, ⟨_, _, _, hpres, hcourt, _, _⟩, ⟨_, hex, _⟩, _⟩ := s.noticeUnanswered_engineKept f.body
  refine ⟨hex.trans (by simp), hpres.trans (by rw [htm]), hcourt.trans (by rw [htm]), fun hp => ?_⟩
  rw [hevents]
  exact hev hp

end Sys2Proof.Machine
end

section
/-! The notices that change no record: the obligation (R119, R129, R137, R138, R141). -/

namespace Sys2Proof.Machine

open Sys2Proof

/-- A frame of the peer whose command has its content in range begins an exchange (R114, R115). -/
theorem exists_peerBegins {c : Instr} {a : SeekAnswer} {l : Bool} {o : PeerOrder} {v w : Word}
    (h : c = .peerSeek v a l ∧ v.toNat ≤ 399 ∨ c = .peerOrderHeard o ∨
      c = .peerTenureHeard v w ∧ v.toNat ≤ 399 ∧ 1 ≤ w.toNat ∧ w.toNat ≤ 15 ∨
      c = .peerPreemptHeard v ∧ -1264 ≤ v.toInt ∧ v.toInt ≤ -1 ∨
      (c = .peerClaimHeard v w ∨ c = .peerFreeHeard v w) ∧ w.toNat / 128 % 256 = 0 ∧ 1 ≤ w.toNat % 128 ∧
        w.toNat % 128 ≤ 64 ∧ v.toNat + w.toNat % 128 ≤ 32000 ∨ c = .peerReleaseHeard ∨ c = .peerHelloHeard) :
    ∃ k, PeerBegins c k := by
  rcases h with ⟨rfl, hv⟩ | rfl | ⟨rfl, hv, h1, h15⟩ | ⟨rfl, h1, h2⟩ | ⟨rfl | rfl, hw, h1, h64, hb⟩ | rfl | rfl
  · exact ⟨_, peerBegins_seek hv a l⟩
  · exact ⟨_, peerBegins_order o⟩
  · exact ⟨_, peerBegins_tenure hv h1 h15⟩
  · exact ⟨_, peerBegins_preempt h1 h2⟩
  · exact ⟨_, peerBegins_claim (rangeOk_of hw h1 h64 hb)⟩
  · exact ⟨_, peerBegins_free (rangeOk_of hw h1 h64 hb)⟩
  · exact ⟨_, peerBegins_release⟩
  · exact ⟨_, peerBegins_hello⟩

/-- The last word of the own RELEASE (R137, R138). -/
theorem exec_releaseSent {x : Exchange} {s : State} (hx : s.lu.exchange = some x) (hb : x.frame.body = .release) :
    exec .releaseSent s = .next (s.begin.endExchange.releaseGone (x.frame.reset || x.discarded)) := by
  have hx' : s.begin.lu.exchange = some x := hx
  simp only [exec, execReleaseSent, hx', hb, FrameBody.isRelease, if_true]

/-- The notice pending again before its peer is heard, or after: the same state (R119, R138). -/
theorem present_silentAgain {s : State} {x : Exchange} (hx : s.lu.exchange = some x) (hd : x.discarded = false) :
    present { s with out := [], lu := { s.lu with
        exchange := none
        frames := { x.frame with silences := 1, collisions := 0 } :: s.lu.frames } } =
      (answered s).onLu fun l => { l with frames := { x.frame with silences := 1, collisions := 0 } :: l.frames } := by
  have hstands : LineUnit.tenureStands { s.lu with
        exchange := none
        frames := { x.frame with silences := 1, collisions := 0 } :: s.lu.frames } = s.lu.tenureStands := by
    simp only [LineUnit.tenureStands, LineUnit.isPending, LineUnit.inExchange, hx, List.any_cons]
    cases x.frame.body.isTenure <;> simp [hd]
  simp only [present, answered, hstands, State.onLu]
  congr 1
  split
  · split <;> rfl
  · rfl

/-- The window of the notice closes on the peer heard: the silence the frame makes (R119, R127). -/
theorem exec_windowClose_noticing {x : Exchange} {s : State} (hn : Noticing s x) :
    exec (.answerWindowClose 5) (present s) = .next ((answered s).noticeSilence x.frame) := by
  obtain ⟨hx, ha, hd, hl⟩ := hn
  have hwin : x.window ≤ 5 := by
    cases hb : x.frame.body <;> simp [hb, FrameBody.isAnswered] at ha <;> simp [Exchange.window, hb, Config.shortWindow]
  rw [exec_answerWindowClose_notice ((present_exchange s).trans hx) hwin ha hd]
  rfl

/-- The state between the silence and the frame: the adapter still listens, no exchange, nothing put out. -/
theorem noticeSilence_answered_frame (s : State) (f : Frame) :
    ((answered s).noticeSilence f).listens = s.listens ∧ ((answered s).noticeSilence f).out = [] := by
  have had : ((answered s).noticeSilence f).hp.adapter = s.hp.adapter := by
    rw [(State.noticeSilence_frame _ f).2.1]
    exact (answered_frame s).2.2.2.2.2.2.2.2.2.1
  refine ⟨by rw [State.listens, State.listens, had], ?_⟩
  simp [answered_frame]

section
variable {c : Instr} {k : State → State} (hk : PeerBegins c k) {x : Exchange} {s : State} (hn : Noticing s x)
include hk hn

/-- At the first silence, nothing asked elsewhere, the frame is taken as with the notice pending again (R119). -/
theorem PeerBegins.first_unasked (h0 : x.frame.silences = 0) (he : askedElsewhere s x.frame.body = false) :
    exec c s = exec c { s with lu := { s.lu with
      exchange := none
      frames := { x.frame with silences := 1, collisions := 0 } :: s.lu.frames } } := by
  obtain ⟨hx, ha, hd, hl⟩ := hn
  have hagain : (answered s).noticeSilence x.frame = (answered s).onLu fun l => { l with
      frames := { x.frame with silences := 1, collisions := 0 } :: l.frames } := by
    rw [State.noticeSilence_again h0 (by simp [answered, present]), State.settleAsk_eq,
      if_neg (by simpa [askedElsewhere, answered, present, State.onLu] using he)]
  rw [hk.spoils ⟨hx, ha, hd, hl⟩, hagain, ← present_silentAgain hx hd, hk.runs, State.peerHeard_spent (by exact hl),
    State.spoilNotice_of_none (by simp [State.begin, present_exchange])]
  rfl

/-- After the first silence the frame is taken as with no own notice in exchange (R119). -/
theorem PeerBegins.first (h0 : x.frame.silences = 0) :
    ((answered s).noticeSilence x.frame).lu.exchange = none ∧
      exec c s = exec c ((answered s).noticeSilence x.frame) := by
  obtain ⟨hx, ha, hd, hl⟩ := hn
  obtain ⟨hex, hpres, hcourt⟩ := State.noticeSilence_first (s := answered s) h0 (by simp [answered, present])
  obtain ⟨hli, hout⟩ := noticeSilence_answered_frame s x.frame
  have hnow : ((answered s).noticeSilence x.frame).tm.presence = .present := hpres
  refine ⟨hex, ?_⟩
  rw [hk.spoils ⟨hx, ha, hd, hl⟩, hk.settled (hli.trans hl) hex hout hcourt (by simp [hnow])]
  generalize (answered s).noticeSilence x.frame = u at hnow
  rw [State.patch, State.patch, id, hnow]

/-- After the second silence the frame is taken by the notice's decision, the peer staying ABSENT (R119). -/
theorem PeerBegins.second (h0 : x.frame.silences ≠ 0) :
    let u := (answered s).noticeSilence x.frame
    u.lu.exchange = none ∧ u.tm.presence = .absent ∧ u.hp.events.getLsbD 7 = true ∧
      ∃ t, exec c u = .next t ∧ exec c s = .next { t with tm := { t.tm with presence := .absent } } := by
  intro u
  obtain ⟨hx, ha, hd, hl⟩ := hn
  obtain ⟨hex, hpres, hcourt, hev⟩ := State.noticeSilence_decided (s := answered s) h0
  obtain ⟨hli, hout⟩ := noticeSilence_answered_frame s x.frame
  have hpeer : u.hp.events.getLsbD 7 = true := hev (by simp [answered, present])
  refine ⟨hex, hpres, hpeer, _, hk.settled (hli.trans hl) hex hout hcourt fun _ => hpeer, ?_⟩
  have hstays : u.patch (fun _ => 0) id = (u.patch (fun _ => 0) fun _ => .present).patch id fun _ => .absent := by
    have hnow : u.tm.presence = .absent := hpres
    generalize u = v at hnow
    simp only [State.patch, id, hnow]
  rw [hk.spoils ⟨hx, ha, hd, hl⟩, show ((answered s).noticeSilence x.frame).patch (fun _ => 0) id = _ from hstays, hk.blind]
  rfl

end

/-- Settles O38: the RELEASE's last word, YIELD and KEEP, and the peer's frames where none is handed on or an own notice
waits. -/
theorem noticesThatChangeNoRecordEnd : Obligations.NoticesThatChangeNoRecordEnd := by
  unfold Obligations.NoticesThatChangeNoRecordEnd
  refine ⟨fun x s hx hb => ?_, fun x k s hn hb => ?_, ?_, fun c x a l o v w s hn hc => ?_⟩
  · rw [exec_releaseSent hx hb, State.releaseGone_eq]
    rfl
  · have hf : FrameBody.isPreempt x.frame.body = true := by rw [hb]; rfl
    exact ⟨congrArg Host.Outcome.next (State.peerAnswer_eq hn hf fun _ s => s),
      congrArg Host.Outcome.next (State.peerAnswer_eq hn hf fun _ s => s)⟩
  · intro s hs hx spent stands
    have hl : s.listens = false := by rcases hs with h | h <;> simp [State.listens, h]
    have hstands : s.begin.peerBegins.peerStands none = stands := by
      have hno : s.begin.peerBegins.lu.exchange.isNone = true := by
        rw [show s.begin.peerBegins.lu.exchange = none from hx]
        rfl
      simp only [State.peerStands, State.onLu, hno, if_true]
      rfl
    rw [← hstands]
    refine ⟨fun c n hc h1 h15 => (peerBegins_tenure hc h1 h15).unheard hl hx,
      fun k h1 h2 => (peerBegins_preempt h1 h2).unheard hl hx, fun b w hw h1 h64 hb => ?_,
      peerBegins_release.unheard hl hx, peerBegins_hello.unheard hl hx⟩
    have hok := rangeOk_of hw h1 h64 hb
    exact ⟨(peerBegins_claim hok).unheard hl hx, (peerBegins_free hok).unheard hl hx⟩
  · obtain ⟨k, hk⟩ := exists_peerBegins hc
    refine ⟨fun h0 he => hk.first_unasked hn h0 he, fun h0 => ?_, fun h0 => ?_⟩
    · obtain ⟨hex, hsame⟩ := hk.first hn h0
      exact ⟨_, exec_windowClose_noticing hn, hex, hsame⟩
    · obtain ⟨hex, hpres, hev, ht⟩ := hk.second hn h0
      exact ⟨_, exec_windowClose_noticing hn, hex, hpres, hev, ht⟩

end Sys2Proof.Machine
end
